-- ==== Sys2Proof/Word.lean ====
section
/-! DEFINITION. Sys2Proof/Word.lean: the widths of the TM40's bytes and words, and the table of numbered
units (basins, cores, stacks, ports, rings ...) the state is made of. -/

namespace Sys2Proof

/-- One byte (00 R6: every multi-byte field is little-endian, byte 0 lowest). -/
abbrev Byte := BitVec 8
/-- A register half, an FP32 pattern, a handle, a tag. -/
abbrev Word32 := BitVec 32
/-- A register (20 R423: every register occupies 8 bytes). -/
abbrev Word64 := BitVec 64

/-- Units by number: pairs sorted by number, each number at most once. A unit that is not listed is as
reset left it, so the reset state lists none. -/
abbrev Tab (α : Type) := List (Nat × α)

end Sys2Proof
end

