-- ==== Sys2Proof/Syntax.lean ====
section
/-! DEFINITION. Sys2Proof/Syntax.lean: the commands of the TM40 block, one constructor per row of the opcode table,
and the operands they carry. Operands that say what the outside world did (a reading, a light level, the outcome of
a test, a meter) are operands because the spec gives the TM40's reaction to them and not their values. -/

namespace Sys2Proof

/-- How a register access covers its 8 bytes (20 R423): all of them, bits [31:0] or bits [63:32]. -/
inductive RegAcc where
  | full | lo | hi
  deriving DecidableEq, Repr

/-- What the engine, path and energy meters measured for one piece of work (15 R340, R341): nanoseconds in the
eight engine classes, bytes on the five paths, energy in µJ. -/
structure Charge where
  engine : List Nat
  bytes : List Nat
  energy : Nat
  deriving DecidableEq, Repr

/-- One reading of an atom as it reaches the checker (08 R190): the device atom that came in its place, if another did, and the
symbols changed on the way with the bits flipped in them. -/
structure Reading where
  other : Option Nat
  errors : List (Nat × BitVec 16)
  deriving DecidableEq, Repr

/-- The readings of a device atom, the first and then the rereads; those not listed come as stored (08 R191). -/
structure AtomRead where
  atom : Nat
  tries : List Reading
  deriving DecidableEq, Repr

/-- What the tier reads of one piece of work met that was not clean and in time (08 R191, R195): an atom's readings, or a tile
whose lowest undelivered atom is named when its deadline passes. -/
inductive TierEvent where
  | atom (r : AtomRead)
  | late (atom : Nat)
  deriving DecidableEq, Repr

/-- The events of some tier reads by the MTC time of their detection, at one time the atoms first (08 R197). -/
abbrev Tier := List TierEvent

/-- A read of a stored codeword that found bit errors (16 R359): its data unit in the object, the errors of the first read and of the
rereads at the entries of the voltage-shift table, and whether soft decision decodes it. -/
structure CodewordRead where
  unit : Nat
  errors : Nat
  rereads : List Nat
  soft : Bool
  deriving DecidableEq, Repr

/-- A block of the NAND that failed a program or an erase (16 R361). -/
structure BadBlock where
  channel : Nat
  ce : Nat
  lun : Nat
  block : Nat
  deriving DecidableEq, Repr

/-- Wear met by a command or a refresh (16 R361): blocks retired, page data bytes of the good blocks left, and whether
the spare pool has fallen below 0.25 %. -/
structure FlashWear where
  bad : List BadBlock
  goodBytes : Nat
  low : Bool
  deriving DecidableEq, Repr

/-- The result of one unit's self-test (19 R404, R408). -/
structure TestResult where
  pass : Bool
  timeUs : Nat
  signature : BitVec 64
  firstFail : Nat
  deriving DecidableEq, Repr

/-- What the outside gave one command while it ran: whether host reads were answered (14 R303), the verdict on its
tier reads (08 R195), the flash codewords with bit errors among those it read (16 R359), the flash's wear, whether a unit it used found a logic
fault (13 R298), what the meters charged (15 R340), and the self-test results. -/
structure Env where
  hostOk : Bool
  tier : Tier
  flash : List CodewordRead
  wear : FlashWear
  fault : Bool
  charge : Charge
  tests : List TestResult
  deriving DecidableEq, Repr

/-- A quiet environment: every read answered, nothing charged. -/
def Env.calm : Env :=
  { hostOk := true, tier := [], flash := [],
    wear := ⟨[], 0, false⟩, fault := false, charge := ⟨[], [], 0⟩, tests := [] }

/-- A hello flit (12 R267). -/
structure Hello where
  devnum : Nat
  port : Nat
  session : Word64
  bist : Bool
  deriving DecidableEq, Repr

/-- A data flit as it arrives (12 R264): header fields, the machine job, operation, execution and chunk its payload
names (R277), and its payload. -/
structure Flit where
  seq : Nat
  ack : Nat
  epoch : Nat
  dst : Nat
  src : Nat
  cls : Nat
  dateline : Bool
  mjob : Nat
  op : Nat
  exec : Nat
  chunk : Nat
  part : Nat
  payload : List Byte
  deriving DecidableEq, Repr

/-- How a flit came over the link (12 R261, R264): its type, its CRC, the codewords that the receiver corrected, and whether one was
uncorrectable. -/
structure Arrival where
  type : Nat
  crc : Nat
  corrected : Nat
  uncorrectable : Bool
  deriving DecidableEq, Repr

/-- What the boot ROM finds of the flash store and its journal (16 R347, 18 R390). -/
structure BootMedia where
  offlineCause : Nat
  medium : Nat
  trainedCh : Nat
  rate : Nat
  rawBytes : Nat
  goodBytes : Nat
  spare : Nat
  badFactory : Nat
  badGrown : Nat
  eraseMax : Nat
  eraseMin : Nat
  eraseMean : Nat
  ratedPe : Nat
  imageReadable : Bool
  deriving DecidableEq, Repr

/-- The path a management mailbox command takes (20 R427): the mailbox registers, or MCTP with its own operands. -/
inductive MbPath where
  | regs
  | mctp (arg0 arg1 : Word64)
  deriving DecidableEq, Repr

/-- Why a stack is lost (08 R200, R204). -/
inductive StackCause where
  | training | retraining | timeout | lanes | port
  deriving DecidableEq, Repr

/-- The unit in which a logic fault is found (13 R286, R287). -/
inductive FaultUnit where
  | core (p : Nat)
  | basin (b : Nat)
  | codec (c : Nat)
  | stop (source : Nat)
  deriving DecidableEq, Repr

/-- What lies at a Mere address whose word is uncorrectable (08 R180, R184): nothing live, a plan tensor, a page of a serving
plan's cache, a stream-cache copy (with the events of its reread from HBM and the page it is of), the running job's counters, claim tables,
scoreboards or part areas, the n-th node of the basin's directory slice, a request, or a command's transfer. -/
inductive MereUse where
  | free
  | tensor
  | page (n : Nat)
  | stream (tile : Nat) (reread : Tier) (page : Option Nat)
  | control
  | node (n : Nat)
  | request (part plan slot : Nat)
  | mover (cmd : Nat)
  deriving DecidableEq, Repr

/-- What the Mere scrub, or a read of a word, finds (08 R184). -/
inductive MereFound where
  | corrected
  | uncorrectable (use : MereUse)
  | passDone
  deriving DecidableEq, Repr

/-- A read of a traffic generator's run that did not return what the stack holds (08 R201): which read of the run, the data bits
flipped; its code no longer matches. -/
structure TgFault where
  read : Nat
  flips : List Nat
  deriving DecidableEq, Repr

/-- With whom the second checker of Sounding agrees (03 R57). -/
inductive Arbiter where
  | array | first | neither
  deriving DecidableEq, Repr

/-- The commands: one constructor per row of the opcode table, in its order. -/
inductive Instr where
  -- 14 R313: the command processor takes the descriptor at HEAD of submission ring q of function f
  | nop (f q : Nat) (env : Env)
  | planLoad (f q : Nat) (env : Env)
  | planUnload (f q : Nat) (env : Env)
  | jobStart (f q : Nat) (env : Env)
  | jobBegin (p : Nat) (env : Env)
  | jobPreempt (f q : Nat) (env : Env)
  | jobResume (f q : Nat) (env : Env)
  | jobCancel (f q : Nat) (env : Env)
  | ctxSave (f q : Nat) (env : Env)
  | ctxRestore (f q : Nat) (env : Env)
  | seqSubmit (f q : Nat) (env : Env)
  | seqAppend (f q : Nat) (env : Env)
  | seqRelease (f q : Nat) (env : Env)
  | copy (f q : Nat) (env : Env)
  | tableLoad (f q : Nat) (env : Env)
  | codecEncode (f q : Nat) (env : Env)
  | codecDecode (f q : Nat) (env : Env)
  | resample (f q : Nat) (env : Env)
  | storeRead (f q : Nat) (env : Env)
  | storeWrite (f q : Nat) (env : Env)
  | storeDelete (f q : Nat) (env : Env)
  | storeList (f q : Nat) (env : Env)
  | bistRun (f q : Nat) (env : Env)
  | snapshot (f q : Nat) (env : Env)
  | acctRead (f q : Nat) (env : Env)
  | partitionSet (f q : Nat) (env : Env)
  | deferredCommandStart (id : Nat) (env : Env)
  | descriptorReadFail (f q : Nat)
  -- doorbells, rings, interrupts, events, registers
  | sqTailDoorbell (f q v : Nat)
  | cqHeadDoorbell (f q v : Nat)
  | sqCfgWrite (f q : Nat) (acc : RegAcc) (v : Word64)
  | cqCfgWrite (f q : Nat) (acc : RegAcc) (v : Word64)
  | irqHoldoffEnd (f q : Nat) (ev : Bool)
  | evtCfgWrite (f : Nat) (acc : RegAcc) (v : Word64)
  | evtHeadWrite (f v : Nat)
  | eventWrite
  | registerWrite (f off : Nat) (acc : RegAcc) (v : Word64)
  | halfReadLatch (f off : Nat)
  | acctDataRead (f : Nat)
  | bistMemRead (f : Nat) (ue : Bool)
  | foreignRequest (requester : Nat) (posted : Bool)
  -- resets, pins and the staged start
  | pcieFlr (f : Nat)
  | pcieHotReset
  | pcieLinkLoss
  | perstNAssert
  | pwrGoodFall (ns : Nat)
  | resetRelease
  | stage0Complete (straps speed width : Nat) (flit : Bool)
  | stage1Complete (media : BootMedia) (raw : List (List Bool))
  | stage2Complete (stacksOk : List Bool) (logic : List TestResult) (memory : List TestResult)
  | stage3Complete (trained : List Bool)
  | telWarmReset
  | throttleAssert
  | throttleRelease
  | sysrefLoss (ns : Nat)
  | powerSample (mw : Nat) (rails : List Nat)
  | powerRaise
  | thermalSample (dies : List Nat) (rates : List Nat)
  | thermAlertAssert
  -- management, JTAG, self-test
  | mbRead (path : MbPath)
  | mbWrite (path : MbPath) (ok : Bool)
  | mbTrainStack (path : MbPath) (ok : Bool)
  | mbVersions (path : MbPath)
  | jtagPinInstruction (code : Nat)
  | jtagPinRelease (trst : Bool)
  | jtagReadback (off : Nat)
  | lcRequest (v : Nat) (fuseOk : Bool)
  | bistGo (v : Word64) (tests : List TestResult)
  | coreQuiesce (p : Nat) (on : Bool)
  | hbmTrain (stack : Nat) (ok : Bool)
  | hbmTgStart (ch : Nat) (v : Word64)
  | hbmTgStop (ch : Nat)
  | hbmTgRunEnd (ch : Nat) (faults : List TgFault) (lat : List Nat)
  | rngRetest (raw : List Bool)
  | laneTest (v : Word64)
  | mtcResync
  | optEnable (q : Nat) (on : Bool)
  | optRetrain (q : Nat)
  | optFence (q : Nat)
  | numClear (b : Nat)
  | rsmClear (b : Nat)
  | sfuClear (b : Nat)
  | wrkClear (b : Nat)
  | attClear (b : Nat)
  | mereClear (b : Nat)
  | updClear (b : Nat)
  | cdcClear (c : Nat)
  | hifClear
  | schedClear
  | acctClearAll
  | flsClear
  | telClear
  | secClear
  | rngClear
  -- trust and life cycle
  | recoveryGo (mode : Bool) (storeOk : Bool)
  | attestationGo (kind : Bool) (hostOk : Bool)
  | mctpAttestReport (nonce : List Byte)
  | mctpPublicKey
  | lcsTransition (target : Nat) (hostOk fuseOk : Bool)
  | lcsSlotFuse (slot : Nat) (fuseOk : Bool)
  | lcsSlotRevoke (slot : Nat) (hostOk fuseOk : Bool)
  -- jobs, strips and checks
  | operationOpen (p op : Nat)
  | stripFetch (core op epoch : Nat)
  | stripComputeDone (core : Nat)
  | commitRequest (core p op strip epoch : Nat)
  | stripCommitDone (core p op strip epoch : Nat)
  | soundingCheck (p op strip tile : Nat) (agree : Bool)
  | soundingArbitration (p op strip tile : Nat) (second : Arbiter)
  | operationComplete (p op : Nat) (env : Env)
  | coreHeartbeat (core : Nat)
  | heartbeatTimeout (core : Nat)
  | stripReissue (core : Nat)
  | deadCoreMessage (core : Nat)
  | logicFault (unit : FaultUnit)
  | fabricError (source : Nat) (p : Nat)
  | jobRestart (p : Nat) (tested : List Nat) (env : Env)
  | servingStepForm (p : Nat)
  | servingStepEnd (p : Nat) (env : Env)
  | preemptDrained (p : Nat) (env : Env)
  | ctxSaveWrite (p : Nat) (env : Env)
  | tableBankSwitch (p : Nat)
  | codecWorkStart (c : Nat) (env : Env)
  | codecFrameStart (c frame : Nat)
  -- memory, links, machine, random bits, flash, accounts
  | tierRead (p tile issued joined : Nat) (reads : List AtomRead) (page : Option Nat)
  | tierReadLate (p tile atom issued : Nat) (page : Option Nat)
  | mereScrub (b addr : Nat) (byRead : Bool) (found : MereFound)
  | hbmPatrol (stack : Nat) (reads : List AtomRead) (onDie retries : Nat) (passDone : Bool)
  | hbmChannelTimeout (stack ch : Nat)
  | stackLost (stack : Nat) (cause : StackCause) (ch : Nat)
  | laserLightLow (q w : Nat) (power : Nat)
  | optHello (q : Nat) (hello : Hello)
  | linkDown (q : Nat)
  | retrainTimeout (q : Nat)
  | dataFlitReceive (q : Nat) (flit : Flit) (arrival : Arrival)
  | nakReceive (q ack : Nat)
  | censusReport (dev : Nat) (peers : List (Nat × Nat))
  | censusClose (byTime : Bool)
  | censusReceive (states : List (Nat × Nat)) (mx my mz : Nat) (blocks : List (Nat × Nat)) (byTime : Bool)
  | timeWaveSend
  | timeWaveReceive (q : Nat) (t1 t2 t3 t4 : Int)
  | readyMark (mjob op chunk rank time : Nat)
  | startTimeReceive (mjob op chunk start : Nat)
  | collectiveChunkStart (p op chunk : Nat)
  | collectiveTimeout (p op chunk : Nat)
  | peerAbort (mjob : Nat)
  | springBlock (raw : List Bool)
  | springRetry (raw : List Bool)
  | journalProgram
  | flashPatrol (reads : List (Nat × CodewordRead)) (refreshed : Nat) (wear : FlashWear) (passDone : Bool)
  | accountUpdate (shares : List (Nat × Charge)) (unattributed total : Nat)
  | pcieConfigWrite (requester f : Nat) (vfEnable : Option Bool)
  | laserLightRestored (q w : Nat) (power : Nat)
  | ackFlitReceive (q ack : Nat)
  | creditFlitReceive (q cls dateline n : Nat)
  | sysrefRestored
  deriving DecidableEq, Repr

end Sys2Proof
end

