-- ==== Sys2Proof/Decode.lean ====
section
/-! DEFINITION. Sys2Proof/Decode.lean: the command a table word spells. No row of the opcode table gives bits: the
TM40's commands are register accesses, ring descriptors in host memory, flits, pins and happenings, so no word
spells one (log 5). -/

namespace Sys2Proof

/-- The command that an opcode-table word of nbits bits spells: none, since no row has bits. -/
def decodeTableWord (_nbits _w : Nat) : Option Instr := none

end Sys2Proof
end

