-- ==== Sys2Proof/Machine/Bits.lean ====
section
/-! DEFINITION. Sys2Proof/Machine/Bits.lean: bytes to numbers and back (little-endian, 00 R6), fields of words,
saturating counters (00 R11), accesses to halves of registers (20 R423). -/

namespace Sys2Proof.Machine

/-- The number that bytes hold, byte 0 lowest (00 R6). -/
def leNat : List Byte → Nat
  | [] => 0
  | b :: bs => b.toNat + 256 * leNat bs

/-- The n low bytes of a number, byte 0 lowest. -/
def toLe : Nat → Nat → List Byte
  | 0, _ => []
  | n + 1, v => BitVec.ofNat 8 v :: toLe n (v / 256)

/-- n bytes from offset o of a list, zero beyond its end. -/
def slice (bs : List Byte) (o n : Nat) : List Byte :=
  let t := (bs.drop o).take n
  t ++ List.replicate (n - t.length) 0

/-- The n-byte little-endian number at offset o. -/
def leAt (bs : List Byte) (o n : Nat) : Nat := leNat (slice bs o n)

/-- Bits [lo + w − 1 : lo] of a number. -/
def bitsOf (v lo w : Nat) : Nat := v / 2 ^ lo % 2 ^ w

/-- Bit i of a number. -/
def bitOf (v i : Nat) : Bool := v / 2 ^ i % 2 == 1

/-- The bit of a Boolean. -/
def b2n (b : Bool) : Nat := if b then 1 else 0

/-- A sum that stays at all ones once it would pass them (00 R11: counters saturate). -/
def satAdd {w : Nat} (c : BitVec w) (n : Nat) : BitVec w :=
  if c.toNat + n < 2 ^ w then BitVec.ofNat w (c.toNat + n) else BitVec.allOnes w

/-- a rounded up to a multiple of b. -/
def ceilDiv (a b : Nat) : Nat := (a + b - 1) / b

/-- All bytes are zero. -/
def allZero (bs : List Byte) : Bool := bs.all fun b => b == 0

/-- Place fields (position, value) into one number; positions do not overlap. -/
def packFields (fs : List (Nat × Nat)) : Nat := (fs.map fun f => f.2 * 2 ^ f.1).sum

/-- Exclusive or of two byte strings. -/
def xorBytes (a b : List Byte) : List Byte := List.zipWith (· ^^^ ·) a b

/-- The value a field acts with where 0 selects d (00 R11). The register still reads as it was written (00 R7, RW). -/
def zeroSelects {w : Nat} (v : BitVec w) (d : Nat) : Nat := if v = 0 then d else v.toNat

end Sys2Proof.Machine
end

