-- ==== Sys2Proof/Machine/Flags.lean ====
section
/-! DEFINITION. Sys2Proof/Machine/Flags.lean: the numbers by which the TM40 reports: status codes (14 R326), event
codes and sources (19 R416, R419), and the words its status registers are packed into. -/

namespace Sys2Proof.Machine

/-! Status codes (14 R326). -/

def stOk : Nat := 0x0000
def stRefusedFit : Nat := 0x0101
def stBadDesc : Nat := 0x0102
def stBadFormat : Nat := 0x0103
def stNoPlan : Nat := 0x0104
def stDenied : Nat := 0x0105
def stEndedData : Nat := 0x0201
def stTierLate : Nat := 0x0202
def stJobFault : Nat := 0x0301
def stSoundingFault : Nat := 0x0302
def stSpillFault : Nat := 0x0303
def stPreempted : Nat := 0x0401
def stCancelled : Nat := 0x0402
def stParked : Nat := 0x0403
def stPeerLost : Nat := 0x0501
def stDeviceFailed : Nat := 0x0601
def stStreamDamaged : Nat := 0x0701
def stStreamUnsupported : Nat := 0x0702
def stStoreUnreadable : Nat := 0x0801
def stStoreFull : Nat := 0x0802
def stStoreNoObject : Nat := 0x0803

/-! Event codes (19 R419). -/

def evBadCode : Nat := 0x0101
def evNonfiniteQuant : Nat := 0x0102
def evNormOverflow : Nat := 0x0103
def evSoundingMismatch : Nat := 0x0104
def evSoundingOver : Nat := 0x0105
def evEscalated : Nat := 0x0106
def evSpillOverflow : Nat := 0x0107
def evUpdSkipped : Nat := 0x0108
def evBadBox : Nat := 0x0109
def evSampleNonfinite : Nat := 0x010A
def evStripReissued : Nat := 0x0201
def evDupCommit : Nat := 0x0202
def evFencedTalk : Nat := 0x0203
def evCoreDead : Nat := 0x0204
def evBasinWithdrawn : Nat := 0x0205
def evJobFault : Nat := 0x0206
def evServingHalted : Nat := 0x0207
def evMereUe : Nat := 0x0301
def evHbmUe : Nat := 0x0302
def evTierLate : Nat := 0x0303
def evStackLost : Nat := 0x0304
def evPrefixCollision : Nat := 0x0305
def evRcSkip : Nat := 0x0401
def evStreamDamaged : Nat := 0x0402
def evLaserLow : Nat := 0x0501
def evLinkDown : Nat := 0x0502
def evCensusMismatch : Nat := 0x0503
def evMtcUnsync : Nat := 0x0504
def evSpringFail : Nat := 0x0601
def evStoreUe : Nat := 0x0602
def evBadBlock : Nat := 0x0603
def evStoreReadonly : Nat := 0x0604
def evHostRead : Nat := 0x0701
def evRingError : Nat := 0x0702
def evDeviceFailed : Nat := 0x0703
def evBistFail : Nat := 0x0704
def evEvtOverflow : Nat := 0x0705

/-! Event sources (19 R416). -/

def srcBasin (b : Nat) : Nat := 0x0600 + b
def srcStack (s : Nat) : Nat := 0x0700 + s
def srcPort (q : Nat) : Nat := 0x0800 + q
def srcCodec (c : Nat) : Nat := 0x0900 + c
def srcFlash : Nat := 0x0A00
def srcPcie : Nat := 0x0B00
def srcMgt : Nat := 0x0C00
def srcSec : Nat := 0x0D00
def srcSched : Nat := 0x0E00

/-- Events that are also appended to the event log object (19 R418). -/
def loggedToStore (code : Nat) : Bool :=
  [evCoreDead, evBasinWithdrawn, evStackLost, evDeviceFailed, evBistFail, evStoreUe, evBadBlock].contains code

end Sys2Proof.Machine
end

