-- ==== Sys2Proof/Machine/Operands.lean ====
section
/-! DEFINITION. Sys2Proof/Machine/Operands.lean: the operand forms of the TM40's commands: the common header of a
descriptor (14 R318), the fields each opcode defines (14 R320 and the rules it names), and register accesses
(20 R423). -/

namespace Sys2Proof.Machine

/-! The common header (14 R318). -/

/-- Opcode, bytes 0–1. -/
def dOpcode (d : List Byte) : Nat := leAt d 0 2
/-- fence_before (R314). -/
def dFence (d : List Byte) : Bool := bitOf (leAt d 2 2) 0
/-- irq_on_done (R316). -/
def dIrq (d : List Byte) : Bool := bitOf (leAt d 2 2) 1
/-- restart_allowed (13 R292). -/
def dRestart (d : List Byte) : Bool := bitOf (leAt d 2 2) 2
/-- chain (R314). -/
def dChain (d : List Byte) : Bool := bitOf (leAt d 2 2) 3
/-- tag. -/
def dTag (d : List Byte) : Nat := leAt d 4 4
/-- client_id. -/
def dClient (d : List Byte) : Nat := leAt d 8 2
/-- partition; 0xFFFF for none. -/
def dPart (d : List Byte) : Nat := leAt d 10 2
/-- job_handle. -/
def dHandle (d : List Byte) : Nat := leAt d 12 4
/-- mtc_not_before. -/
def dNotBefore (d : List Byte) : Nat := leAt d 16 8

/-- What an opcode asks of the header's partition or plan field (14 R320). -/
inductive Need where
  | required
  | forbidden
  | byMemKind (bit : Nat)
  deriving DecidableEq, Repr

/-- A row of the opcode table of 14 R320: needs, who may send it, and the fields of bytes 32–127 as (first bit of
the descriptor, width); every other bit is reserved. -/
structure OpRow where
  part : Need
  plan : Need
  pfOnly : Bool
  fields : List (Nat × Nat)
  deriving DecidableEq, Repr

/-- The fields that bytes a..b fill whole. -/
def bytesField (a b : Nat) : Nat × Nat := (8 * a, 8 * (b + 1 - a))

/-- The opcode table (14 R320) with the layouts it names. -/
def opRow : Nat → Option OpRow
  | 0x0001 => some ⟨.forbidden, .forbidden, false, []⟩
  | 0x0010 => some ⟨.required, .required, false, [(256, 1), bytesField 40 63]⟩
  | 0x0011 => some ⟨.required, .required, false, []⟩
  | 0x0020 => some ⟨.required, .required, false, [bytesField 32 51, bytesField 56 63]⟩
  | 0x0021 => some ⟨.required, .required, false, []⟩
  | 0x0022 => some ⟨.required, .required, false, []⟩
  | 0x0023 => some ⟨.required, .required, false, []⟩
  | 0x0024 => some ⟨.required, .required, false, [(256, 3), bytesField 40 63]⟩
  | 0x0025 => some ⟨.required, .required, false, [(256, 1), bytesField 40 55]⟩
  | 0x0030 => some ⟨.required, .required, false, [bytesField 32 59, (480, 5), bytesField 62 103]⟩
  | 0x0031 => some ⟨.required, .required, false, [bytesField 32 59, bytesField 64 71]⟩
  | 0x0032 => some ⟨.required, .required, false, [bytesField 32 35]⟩
  | 0x0040 => some ⟨.required, .forbidden, false, [(256, 2), bytesField 40 63]⟩
  | 0x0050 => some ⟨.required, .forbidden, false, [(256, 3), bytesField 34 35, bytesField 40 79]⟩
  | 0x0060 => some ⟨.required, .forbidden, false,
      [(256, 12), bytesField 34 101, (816, 1), bytesField 104 105, bytesField 112 119]⟩
  | 0x0061 => some ⟨.required, .forbidden, false, [(256, 3), (264, 2), bytesField 34 95]⟩
  | 0x0070 => some ⟨.required, .forbidden, false, [(256, 4), bytesField 33 34, bytesField 36 87]⟩
  | 0x0080 => some ⟨.byMemKind 256, .forbidden, false, [(256, 1), bytesField 40 71]⟩
  | 0x0081 => some ⟨.byMemKind 258, .forbidden, false, [(256, 3), bytesField 40 71]⟩
  | 0x0082 => some ⟨.forbidden, .forbidden, false, [bytesField 40 47]⟩
  | 0x0083 => some ⟨.forbidden, .forbidden, false, [bytesField 40 51, bytesField 56 63]⟩
  | 0x0090 => some ⟨.forbidden, .forbidden, true, [(256, 3), bytesField 34 37, bytesField 40 47]⟩
  | 0x0091 => some ⟨.forbidden, .forbidden, true, [(256, 6), bytesField 40 63]⟩
  | 0x00A0 => some ⟨.forbidden, .forbidden, false, [(256, 12), (272, 13), (288, 1), bytesField 40 47]⟩
  | 0x00B0 => some ⟨.required, .forbidden, true, [(256, 2), (264, 18), bytesField 36 48, bytesField 52 63]⟩
  | _ => none

/-- The header's own fields (14 R318). -/
def headerFields : List (Nat × Nat) := [(0, 20), bytesField 4 23]

/-- A number with ones in the given fields and zeros elsewhere. -/
def fieldMask (fs : List (Nat × Nat)) : Nat := (fs.map fun f => (2 ^ f.2 - 1) * 2 ^ f.1).foldl (· ||| ·) 0

/-- Every bit of the descriptor outside the header's and the opcode's fields is zero (00 R10). -/
def reservedZero (d : List Byte) (r : OpRow) : Bool :=
  let v := leNat d
  v &&& fieldMask (headerFields ++ r.fields) == v

/-- The opcode is one of 14 R320. -/
def knownOpcode (o : Nat) : Bool := (opRow o).isSome

/-! Register accesses (20 R423). -/

/-- The bits of a register that an access covers. -/
def accMask : RegAcc → Word64
  | .full => BitVec.allOnes 64
  | .lo => 0xFFFFFFFF
  | .hi => 0xFFFFFFFF00000000

/-- The register's 64 bits after a write of v to the half the access covers. -/
def accMerge (acc : RegAcc) (old v : Word64) : Word64 := (old &&& ~~~ accMask acc) ||| (v &&& accMask acc)

/-- The access covers the bits from lo on (fields that lie in one half). -/
def accCovers (acc : RegAcc) (lo : Nat) : Bool :=
  match acc with
  | .full => true
  | .lo => lo < 32
  | .hi => 32 ≤ lo

/-- The field of w bits at lo after a write: the bits the access covers come from v. -/
def accField (acc : RegAcc) (w lo : Nat) (old : BitVec w) (v : Word64) : BitVec w :=
  let whole := BitVec.ofNat 64 (old.toNat * 2 ^ lo)
  BitVec.ofNat w (bitsOf (accMerge acc whole v).toNat lo w)

end Sys2Proof.Machine
end

