-- ==== Sys2Proof/Config.lean ====
section
/-! DEFINITION. Sys2Proof/Config.lean: the constants the spec fixes for the TM40, and the values it leaves open.
An opaque constant has no body: no proof and no evaluation can find a value of it, so whatever is proved
holds for every value. -/

namespace Sys2Proof.Config

/-- Basins (01 R12). -/
def basins : Nat := 10
/-- Physical tap cores (01 R13). -/
def cores : Nat := 1500
/-- Logical tap cores (01 R14). -/
def logicalCores : Nat := 1440
/-- HBM4 stacks (01 R16). -/
def hbmStacks : Nat := 20
/-- Device channels (01 R16). -/
def channels : Nat := 640
/-- Optical ports (01 R16). -/
def ports : Nat := 16
/-- Codec engines (01 R16). -/
def codecs : Nat := 4
/-- PCIe functions: one physical, 63 virtual (14 R304). -/
def functions : Nat := 64
/-- Bytes of a tile (08 R186). -/
def tileBytes : Nat := 4096
/-- Bytes of an atom (08 R186). -/
def atomBytes : Nat := 64
/-- Device HBM bytes (08 R186). -/
def hbmBytes : Nat := 1920000000000
/-- Bytes of a granule (08 R187). -/
def granuleBytes : Nat := 40960000
/-- Granules of the device (08 R187). -/
def granules : Nat := 46875
/-- Atoms of one channel (08 R185). -/
def channelAtoms : Nat := 46875000
/-- Mere bytes of one basin (08 R179). -/
def mereBytes : Nat := 0x40000000
/-- Plan-region bytes of one basin (08 R180). -/
def planRegionBytes : Nat := 1006632960
/-- Request-table entries (07 R162). -/
def requestEntries : Nat := 262144
/-- Nodes of one directory slice (07 R158). -/
def sliceNodes : Nat := 419431
/-- Nodes of the whole directory (07 R158). -/
def directoryNodes : Nat := 4194304

/-- Coefficient i (of 8,192) of the default special-function tables. The tables ship with the firmware
(05 R104) and the spec does not list them: a free value (log 6). -/
opaque defaultCoeff : Nat → BitVec 32
/-- The partition HBM address at which the TM40 places a tensor of a plan's own (06 R124, R141; no rule says where): plan, tensor (log
58). -/
opaque tensorPlace : Nat → Nat → Nat
/-- The partition HBM address of a page of a plan's pool (07 R154: the TM40 places the pool, no rule says where): plan, page
(log 58). -/
opaque pagePlace : Nat → Nat → Nat
/-- The basin of a plan's footprint, counted from its first, whose Mere holds the cached copy of a page (07 R161 and 08 R181 do not
say; log 176): plan, page. -/
opaque cacheBasin : Nat → Nat → Nat
/-- Bytes of a plan's footprint in a basin that 08 R181 places (counters, tables, tensors, part areas, the page cache), whose sizes
no rule gives: image, basin (log 176). -/
opaque placedBytes : List (BitVec 8) → Nat → Nat
/-- The request-table entry of a slot (07 R162: a plan holds entries, no rule says which): partition, plan, slot (log 177). -/
opaque requestEntry : Nat → Nat → Nat → Nat
/-- What a byte of an internal tensor reads as before an operation has written it (06 R124: unspecified):
a free value of the plan, the tensor and the byte (log 7). -/
opaque unwrittenByte : Nat → Nat → Nat → BitVec 8
/-- An element code of a serving step's input, which the spec does not say how a token becomes (log 8): image, tensor, token,
position, column. -/
opaque tokenCode : List (BitVec 8) → Nat → Nat → Nat → Nat → Nat
/-- A block scale of a serving step's input (log 8): image, tensor, token, position, block. -/
opaque tokenScale : List (BitVec 8) → Nat → Nat → Nat → Nat → Nat
/-- The operations whose results are the keys and the values of a layer of the pages (07 R155, R156 name none; log 8): image,
layer. -/
opaque pageOps : List (BitVec 8) → Nat → Nat × Nat
/-- The operation whose results are the logits of the vocabulary (07 R167 names none; log 8): image. -/
opaque logitOp : List (BitVec 8) → Nat
/-- ML-DSA-87 verification (18 R386, FIPS 204): public key, message digest, signature (log 9). -/
opaque mldsaVerify : List (BitVec 8) → List (BitVec 8) → List (BitVec 8) → Bool
/-- The ML-DSA-87 public key of an identity seed (18 R394), 2,592 bytes (log 9). -/
opaque mldsaPublicKey : List (BitVec 8) → List (BitVec 8)
/-- The ML-DSA-87 signature of a digest under an identity seed (18 R396), 4,627 bytes (log 9). -/
opaque mldsaSign : List (BitVec 8) → List (BitVec 8) → List (BitVec 8)
/-- The boot ROM version that mailbox opcode 0x04 returns (20 R427): not given (log 10). -/
opaque bootRomVersion : BitVec 16
/-- Bytes an operation's output range holds where the spec calls them unspecified (13 R298, 14 R322, 16
R359): a free value of the draw number and the byte's place (log 11). -/
opaque unspecifiedByte : Nat → Nat → BitVec 8
/-- The source number of EV_EVT_OVERFLOW, which 19 R416 and R418 do not name: a free value of the draw number
(log 16). -/
opaque overflowSource : Nat → BitVec 16
/-- The source number of EV_MTC_UNSYNC, which 12 R274 does not name (log 122): a free value of the draw number. -/
opaque unsyncSource : Nat → BitVec 16
/-- An energy of a whole number of mJ and a half rounds up (14 R325 says to the nearest mJ; log 13): the energy in µJ. -/
opaque halfUp : Nat → Bool
/-- The byte at an offset of a core's internal state that 19 R412 lets a readback show without giving its layout
(log 17): draw number, core, space, offset. -/
opaque coreInternal : Nat → Nat → Nat → Nat → BitVec 8
/-- The byte at a Mere address of a basin that 19 R413 lets a readback show where 08 R180 and R181 do not say which
byte of a live structure lies there (log 18): draw number, basin, address. -/
opaque mereByte : Nat → Nat → Nat → BitVec 8
/-- A byte of the sections of SNAPSHOT whose entries 19 R414 names without a byte layout (log 19): draw number,
section, offset. -/
opaque snapshotByte : Nat → Nat → Nat → BitVec 8
/-- The length of SNAPSHOT's section 4, which 19 R414 leaves to the section's header (log 19): draw number. -/
opaque snapshotLength : Nat → Nat
/-- How work is divided among the units of a partition where the spec does not say (04 R91, 10 R225): draw number, box or
output row (log 50). -/
opaque workShare : Nat → Nat → Nat
/-- The value of a crop sample whose coordinate is not a number, of which 04 R95 says nothing (log 51): descriptor from byte 32,
box, row, column, channel. -/
opaque cropOpen : List (BitVec 8) → List (BitVec 8) → Nat → Nat → Nat → BitVec 32
/-- The Decwell LDPC parity of 4,096 bytes (16 R348, which names the code and does not give it; log 184). -/
opaque ldpcParity : List (BitVec 8) → List (BitVec 8)
/-- The spare bytes of a page after the object serial and the data-unit index: the CRC of both (16 R348, which names no polynomial; log
184). -/
opaque spareCrc : Nat → Nat → List (BitVec 8)
/-- FLS.BLK_DATA of a block of the board's NAND, by FLS.BLK_SEL (16 R365): the medium's own (log 21). -/
opaque blockRecord : Nat → BitVec 64
/-- The 240 payload bytes of a data flit (12 R264, R277): machine job, operation, execution, chunk, part, data. Where the fields lie in
them no rule says (log 181). -/
opaque flitPayload : Nat → Nat → Nat → Nat → Nat → List (BitVec 8) → List (BitVec 8)
/-- A reading of received light (12 R284 RX_POWER), which no command reports (log 22): draw number, port,
wavelength. -/
opaque rxPower : Nat → Nat → Nat → BitVec 16
/-- A byte of Spring output that no SPRING_BLOCK command has supplied (09 R205: the noise source's own): a free
value of the draw number and the byte's place (log 25). -/
opaque springByte : Nat → Nat → BitVec 8
/-- The identity a stack gives at its IEEE 1500 port (08 R204 STACK_INFO): the board's own (log 27). -/
opaque stackInfo : Nat → BitVec 32
/-- TEL.RESET.LAST_CAUSE after the warm reset that follows a release of the pins by JTAG (19 R410): 17 R385 lists no
code for it (log 28). -/
opaque jtagResetCause : BitVec 3
/-- An atom of a channel lies in an odd row of its stack (08 R185, R201: the controllers map atoms to rows in their own way):
channel, atom index (log 174). -/
opaque oddRow : Nat → Nat → Bool
/-- The expected signature of logic BIST (19 R405): depth, codec engine. -/
opaque misr : Nat → Bool → BitVec 64
/-- The duration in microseconds of a test whose result is not told (log 187): kind, depth, source. -/
opaque bistTime : Nat → Nat → Nat → BitVec 32
/-- What a generator measured in a stack test beside the result (19 R404, log 187): draw number, channel, which figure. -/
opaque tgMeasured : Nat → Nat → Nat → BitVec 64
/-- The bytes a traffic-generator run that was stopped, or repeats until stopped, has written (08 R204 TG_WR_BYTES),
which its end does not report (log 34): draw number. -/
opaque tgWritten : Nat → BitVec 64
/-- MTC.TRIM after a wave (12 R274): the spec says that successive offsets adjust it, not how (log 39): old trim,
offset. -/
opaque trimAfter : BitVec 32 → Int → BitVec 32
/-- How a normalisation operation is set: kind (0 layer, 1 RMS, else group), groups, eps, gain and bias tensors. 05 R113
says that the plan gives them, 06 R125 and its blocks give no place for them: a free value of the image and the
operation (log 47). -/
opaque normChoice : List (BitVec 8) → Nat → Nat × Nat × BitVec 32 × Nat × Nat
/-- A BF16 master weight of an escalated operation (03 R54, R60): image, operation, row, column. The spec gives the master
no place in the plan image (log 48). -/
opaque masterWeight : List (BitVec 8) → Nat → Nat → Nat → BitVec 16
/-- A special function's value where 05 R105 states no composition for it (log 12): function code, argument. -/
opaque sfuOpen : Nat → BitVec 32 → BitVec 32

/-- What an encode is a function of (11 R240): its settings, the samples of its frames in display order as they are read, and its
hint tensor. -/
structure Clip where
  settings : List (BitVec 8)
  frames : List (List Nat)
  hints : List (BitVec 8)
  deriving DecidableEq, Repr, Inhabited

/-- A picture that a decoder reconstructs from a stream: cropped size, bit depth, samples (Y, Cb, Cr in raster order), the damage
code of each 64×64 block (11 R255). -/
structure Picture where
  width : Nat
  height : Nat
  depth : Nat
  samples : List Nat
  damage : List Nat
  deriving DecidableEq, Repr, Inhabited

/-! What 11 gives by reference to ITU-T H.265 and AV1, or leaves to the encoder (log 178). A choice of an encode is made from the clip,
the choices of its block rows so far (of each picture in coding order) and the picture's number in coding order. -/

/-- Reference list 0 of a picture: settings, coding number; it names pictures by coding number. -/
opaque references : List (BitVec 8) → Nat → List Nat
/-- The payload of a header: settings, what it signals of the buffer (size, rate, constant rate, initial delay in 90 kHz units), its
type, the picture. -/
opaque header : List (BitVec 8) → Option (Nat × Nat × Bool × Nat) → Nat → Nat → List (BitVec 8)
/-- The bytes of a block row at a quantiser, given the vectors found for each block (reference and vector). -/
opaque rowCode : Clip → List (List Nat) → List (List (Nat × Int × Int)) → Nat → List (BitVec 8)
/-- The bytes of a block row coded by fallback (11 R247). -/
opaque fallbackCode : Clip → List (List Nat) → List (BitVec 8)
/-- The quantiser that CBR and VBR give a picture after the first. -/
opaque rateQ : Clip → List (List Nat) → Nat
/-- The luma samples of a picture as reconstructed, coded before. -/
opaque recon : Clip → List (List Nat) → Nat → List Nat
/-- A luma sample between whole positions: AV1, samples, width, height, x and y in eighths of a sample. -/
opaque between : Bool → List Nat → Nat → Nat → Int → Int → Nat
/-- λ of the search (11 R242): settings, quantiser. -/
opaque lambda : List (BitVec 8) → Nat → Rat
/-- The bits of a vector against its block's candidates. -/
opaque vectorBits : Bool → List (Int × Int) → Int × Int → Nat
/-- A SATD in 8×8 Hadamard units (11 R244), from the sum of the transform's magnitudes. -/
opaque satdUnits : Nat → Nat
/-- SATD of the best intra estimate of a 16×16 block, the mode of the block as coded (0 intra, 1 inter, 2 skip) and the bits
attributed to it (11 R244). -/
opaque blockCoded : Clip → List (List Nat) → Nat → Nat × Nat × Nat
/-- A picture of random access that is not intra is coded as a P picture (11 R245 `type`). -/
opaque codedAsP : List (BitVec 8) → Nat → Bool
/-- A mean of q that is no whole number of sixteenths is rounded up (11 R245 `q_mean`): sum, blocks. -/
opaque meanUp : Nat → Nat → Bool
/-- The pictures that a stream holds, in output order: AV1, the stream. -/
opaque decoded : Bool → List (BitVec 8) → List Picture
/-- Pictures before the first header of a stream that signals a profile, tool, bit depth or chroma format outside 11 R236, and the
bytes consumed there; none where every header is supported. -/
opaque refusedAt : Bool → List (BitVec 8) → Option (Nat × Nat)
/-- The stream bytes consumed when the header of a picture signals a size that is refused: AV1, the stream, the picture. -/
opaque sizeAt : Bool → List (BitVec 8) → Nat → Nat
/-- A byte of the reference store after a decode. -/
opaque dpbByte : Bool → List (BitVec 8) → Nat → BitVec 8
/-- A byte of the statistics of a decoded picture where the field is known from the stream (11 R244): AV1, the stream, the picture, the
byte. -/
opaque decodedStat : Bool → List (BitVec 8) → Nat → Nat → BitVec 8

end Sys2Proof.Config
end

