-- ==== Sys2Proof/Machine/State.lean ====
section
/-! DEFINITION. Sys2Proof/Machine/State.lean: the state of the TM40 block as plain data. Each structure names the
rule of spec/ that gives it; the value after := of a field is its reset value. A table (Tab) lists only the units
that differ from their reset record. -/

namespace Sys2Proof.Machine

/-! Host interface and rings (14). -/

/-- Per-function HIF registers (14 R328). The reset values are those of a virtual function; fnReset has f = 0's. -/
structure FnRegs where
  clientBase : BitVec 12 := 0
  clientCount : BitVec 13 := 0
  owned : BitVec 10 := 0
  winBase : List (BitVec 52) := List.replicate 4 (BitVec.allOnes 52)
  winLimit : List (BitVec 52) := List.replicate 4 0
  cmds : Word64 := 0
  badDesc : Word32 := 0
  flrBusy : Bool := false
  lastSq : Nat := 63
  deriving DecidableEq, Repr

/-- HIF registers of function f at reset (14 R328): function 0 has all client IDs and one whole window. -/
def FnRegs.reset (f : Nat) : FnRegs :=
  if f = 0 then
    { clientCount := 4096#13, winBase := 0 :: List.replicate 3 (BitVec.allOnes 52),
      winLimit := BitVec.allOnes 52 :: List.replicate 3 0 }
  else {}

/-- Where the chain of a submission ring stands (14 R314): the last taken descriptor had no chain or completed with
ST_OK; it is command id and has not completed; it completed with another status. -/
inductive Chain where
  | free
  | after (id : Nat)
  | broken
  deriving DecidableEq, Repr

/-- A submission ring (14 R309 to R314, R329) and its doorbell (R330). -/
structure SubRing where
  log2 : BitVec 5 := 0
  cq : BitVec 6 := 0
  base : BitVec 52 := 0
  head : BitVec 16 := 0
  tail : BitVec 16 := 0
  error : Bool := false
  cause : BitVec 2 := 0
  bell : BitVec 16 := 0
  chain : Chain := .free
  deriving DecidableEq, Repr

/-- A completion ring (14 R309 to R316, R329) and its doorbell; lastVector is the time of its latest vector, held
whether entries wait for the holdoff's end (R316). -/
structure CompRing where
  log2 : BitVec 5 := 0
  base : BitVec 52 := 0
  tail : BitVec 16 := 0
  head : BitVec 16 := 0
  phase : Bool := true
  irqEn : Bool := false
  vector : BitVec 11 := 0
  holdoff : BitVec 8 := 0
  error : Bool := false
  cause : BitVec 2 := 0
  bell : BitVec 16 := 0
  lastVector : Option Nat := none
  held : Bool := false
  deriving DecidableEq, Repr

/-- Where a taken command stands: waiting to start (14 R314), waiting behind another (a job start behind a running
job, a command behind its engine), running, or accepted as far as a fence is concerned (R314, SEQ commands). -/
inductive CmdState where
  | waiting
  | queued
  | running
  | accepted
  deriving DecidableEq, Repr

/-- A command that has been taken and has not completed (14 R313 to R315), and the charges it has met (15 R342). -/
structure Cmd where
  id : Nat
  fn : Nat
  sq : Nat
  cq : Nat
  desc : List Byte
  state : CmdState := .waiting
  pred : Option Nat := none
  takenAt : Nat := 0
  engineNs : Nat := 0
  bytes : Nat := 0
  energyUj : Nat := 0
  deriving DecidableEq, Repr

/-- HIF global registers (14 R328), the recorded requester ID (R302), VF Enable (R304), the MSI-X tables
and pending bits (R305), and the vectors sent (R316), newest first. -/
structure Hif where
  speed : BitVec 3 := 0
  flit : Bool := false
  width : BitVec 4 := 0
  rdBytes : Word64 := 0
  wrBytes : Word64 := 0
  hostRdErr : Word32 := 0
  p2pReject : Word32 := 0
  requester : Option Nat := none
  vfEnable : Bool := false
  aerLogged : Nat := 0
  lastFn : Nat := 63
  fns : Tab FnRegs := []
  msix : Tab Word64 := []
  pba : List (Nat × Nat) := []
  vectors : List (Nat × Nat) := []
  deriving DecidableEq, Repr

/-- What the next read of a function finds latched (20 R424, 15 R345, 19 R413). -/
structure Latches where
  half : Option (Nat × Word32) := none
  acct : Option (List Byte) := none
  mem : Option (List Byte) := none
  deriving DecidableEq, Repr

/-! Start, reset, pins, power (17). -/

/-- How far the start has come (17 R373): held in cold reset (21 R434), between step 1 and stage 0, stage 0 reached,
stage 1 complete; off is the thermal shutdown of R384. -/
inductive Phase where
  | held
  | boot
  | stage0
  | stage1
  | off
  deriving DecidableEq, Repr

/-- The run state behind GLB.STATUS (20 R426), the pins (21 R434, R435) and the link. -/
structure RunState where
  phase : Phase := .held
  stage2 : Bool := false
  stage3 : Bool := false
  failed : Bool := false
  awaitImage : Bool := false
  lastCause : BitVec 3 := 0
  pwrGood : Bool := false
  perst : Bool := true
  throttleIn : Bool := false
  thermAlert : Bool := false
  pcieUp : Bool := false
  holdover : Bool := false
  straps : BitVec 12 := 0
  warmStart : Bool := false
  codecDisabled : BitVec 4 := 0
  deriving DecidableEq, Repr

/-- TEL registers (17 R385) and the targets of the power and thermal loops (R380, R383). -/
structure Tel where
  limitW : BitVec 12 := 3200
  targetMv : BitVec 10 := 750
  throttleMv : BitVec 10 := 600
  targetC : BitVec 8 := 100
  hbmTargetC : BitVec 8 := 95
  hottestC : BitVec 8 := 0
  hottestDie : BitVec 8 := 0
  railSel : BitVec 4 := 0
  pwrNow : Word32 := 0
  capNs : Word64 := 0
  thermNs : Word64 := 0
  throttleNs : Word64 := 0
  powerMv : Nat := 800
  thermalMv : Nat := 800
  lowering : Bool := false
  unreachable : Bool := false
  lastThermalStep : Option Nat := none
  hotSince : Option Nat := none
  samples : List Nat := []
  rails : List Nat := []
  dies : Tab (BitVec 8) := []
  rates : Tab (BitVec 16) := []
  deriving DecidableEq, Repr

/-! Machine time and census (12). -/

/-- MTC registers (12 R283). -/
structure Mtc where
  now : Word64 := 0
  sync : Bool := false
  root : Bool := false
  standalone : Bool := false
  isolated : Bool := false
  census : BitVec 2 := 0
  unsync : Bool := false
  hops : BitVec 8 := 0
  parentPort : BitVec 4 := 0xF
  offset : Word32 := 0
  trim : Word32 := 0
  syncPeriod : BitVec 16 := 1000
  mx : BitVec 3 := 1
  my : BitVec 3 := 1
  mz : BitVec 3 := 1
  devices : BitVec 13 := 1
  retrainMs : BitVec 16 := 200
  collMs : BitVec 16 := 100
  censusSel : BitVec 12 := 0
  waves : Word32 := 0
  lateStarts : Word32 := 0
  resync : Bool := false
  deriving DecidableEq, Repr

/-- The census (12 R271): state of each device number (1 present, 2 isolated; unlisted: absent), block positions
(bx, by, bz packed in two bits each), and the neighbour reports received: device, then (port, peer device) pairs. -/
structure Census where
  states : Tab (BitVec 2) := []
  blocks : Tab (BitVec 6) := []
  reports : Tab (List (Nat × Nat)) := []
  changed : Bool := false
  waveDue : Nat := 0
  deriving DecidableEq, Repr

/-- A port (12 R284) and its link (R264 to R267). -/
structure Port where
  enable : Bool := true
  loopback : BitVec 2 := 0
  lightOk : BitVec 8 := 0
  linkUp : Bool := false
  peerLost : Bool := false
  isolated : Bool := false
  epoch : BitVec 8 := 1
  peerDev : BitVec 12 := 0
  peerPort : BitVec 4 := 0
  peerValid : Bool := false
  peerSession : Word64 := 0
  holder : Word32 := 0
  holderPart : BitVec 4 := 0xF
  fecCorr : Word64 := 0
  fecUncorr : Word64 := 0
  crcErr : Word32 := 0
  retries : Word32 := 0
  retrains : Word32 := 0
  tx : Word64 := 0
  rx : Word64 := 0
  transit : Word64 := 0
  fencedTalk : Word32 := 0
  stale : Word32 := 0
  laserPower : List (BitVec 16) := List.replicate 8 0
  delay : Word32 := 0
  session : Word64 := 0
  nextSeq : BitVec 12 := 0
  retained : List Flit := []
  lastIn : Option (BitVec 12) := none
  replays : Nat := 0
  waiting : List Flit := []
  turn : Nat := 2
  credits : Tab Nat := []
  downAt : Option Nat := none
  fencedAt : Option Nat := none
  fencedSince : Nat := 0
  deriving DecidableEq, Repr

/-! Cores and the windows of a basin (03, 04, 05, 06, 07, 08, 10). -/

/-- A weight block in a core's resident-operand buffer (04 R80): its operation, its strip, its place in the order of R75,
its bytes with its block scales. -/
structure WeightBlock where
  op : Nat
  strip : Nat
  place : Nat
  bytes : Nat
  deriving DecidableEq, Repr

/-- A strip a core holds (06 R136, R137): partition, operation, strip, epoch, whether it is the combine task of
R140, the weight blocks fetched for it so far (04 R80), and, once computed, its FP32 results in row order. -/
structure Strip where
  part : Nat
  op : Nat
  strip : Nat
  epoch : Word32
  combine : Bool := false
  taken : Nat := 0
  computed : Bool := false
  values : List Word32 := []
  deriving DecidableEq, Repr

/-- A physical core (04 R101, 19 R412): its map entry, its registers, the strip it runs and the one it has
fetched ahead (06 R136), its resident-operand buffer (R80), its heartbeat (R138) and the messages dropped since it was fenced (13 R289). -/
structure Core where
  role : BitVec 3 := 0
  logical : BitVec 11 := 0
  quiesce : Bool := false
  quiesced : Bool := false
  beats : Word64 := 0
  strips : Word64 := 0
  curOp : Word32 := 0xFFFFFFFF
  curStrip : Word32 := 0xFFFFFFFF
  running : Option Strip := none
  ahead : Option Strip := none
  buffer : List WeightBlock := []
  lastBeat : Nat := 0
  fenced : Bool := false
  dropped : Nat := 0
  talkAt : Option Nat := none
  underTest : Bool := false
  rbSpace : BitVec 3 := 0
  rbPage : BitVec 9 := 0
  deriving DecidableEq, Repr

/-- Core p as shipped (01 R14): the first 48 cores of a die serve, 48 and 49 are its unused spares. -/
def Core.reset (p : Nat) : Core :=
  if p % 50 < 48 then { role := 0, logical := BitVec.ofNat 11 (p / 50 * 48 + p % 50) }
  else { role := 1, logical := 0x7FF }

/-- NUM window (03 R73). -/
structure Num where
  countEn : Bool := true
  freeze : Bool := false
  checked : Word64 := 0
  mismatch : Word32 := 0
  overs : Word32 := 0
  escalated : Word32 := 0
  spillDynamic : Word64 := 0
  spillOverflow : Word32 := 0
  nonfinite : Word32 := 0
  errMax : Word32 := 0
  spillLast : Word64 := 0
  status : BitVec 3 := 0
  deriving DecidableEq, Repr

/-- One bank of special-function tables (05 R103, R104, R117): wiped, holding the firmware's default tables, or
holding a loaded image of 8,192 words. -/
inductive TableBank where
  | blank
  | defaults
  | loaded (words : List Word32)
  deriving DecidableEq, Repr

/-- SFU window (05 R122) and the two table banks of the basin's cores. -/
structure Sfu where
  active : Bool := false
  loadBusy : Bool := false
  switchPending : Bool := false
  gen0 : Word32 := 0
  gen1 : Word32 := 0
  results : Word64 := 0
  flushed : Word64 := 0
  nonfinite : Word64 := 0
  loads : Word32 := 0
  bank0 : TableBank := .blank
  bank1 : TableBank := .blank
  deriving DecidableEq, Repr

/-- RSM window (04 R102). -/
structure Rsm where
  busy : Bool := false
  boxes : Word64 := 0
  badBoxes : Word32 := 0
  values : Word64 := 0
  commands : Word32 := 0
  deriving DecidableEq, Repr

/-- WRK window's own fields (06 R144); the others are read from the partition's job. -/
structure Wrk where
  timeoutUs : BitVec 16 := 100
  fetches : Word64 := 0
  commits : Word64 := 0
  dupCommits : Word32 := 0
  reissued : Word32 := 0
  ctxLen : Word64 := 0
  deriving DecidableEq, Repr

/-- ATT window's own fields (07 R178); node, pool and request counts are read from the tables. -/
structure Att where
  lookups : Word64 := 0
  hits : Word64 := 0
  inserts : Word64 := 0
  evicts : Word64 := 0
  collisions : Word32 := 0
  insertFull : Word32 := 0
  parks : Word32 := 0
  reqHandle : Word32 := 0
  reqSlot : BitVec 18 := 0
  deriving DecidableEq, Repr

/-- MERE window (08 R203) and the stream cache of the basin (R182), least recently used tile first. -/
structure Mere where
  scrubEn : Bool := true
  readBytes : Word64 := 0
  writeBytes : Word64 := 0
  hits : Word64 := 0
  misses : Word64 := 0
  merges : Word64 := 0
  ce : Word32 := 0
  ue : Word32 := 0
  ueLast : BitVec 30 := 0
  passes : Word32 := 0
  stream : List Nat := []
  deriving DecidableEq, Repr

/-- UPD window (10 R230). -/
structure Upd where
  busy : Bool := false
  step : Word64 := 0
  lr : Word32 := 0
  kappa : Word32 := 0x3F800000
  elements : Word64 := 0
  ops : Word64 := 0
  clipped : Word32 := 0
  skipped : Word32 := 0
  deriving DecidableEq, Repr

/-- A basin: its windows and whether it is withdrawn (01 R15). -/
structure Basin where
  withdrawn : Bool := false
  num : Num := {}
  sfu : Sfu := {}
  rsm : Rsm := {}
  wrk : Wrk := {}
  att : Att := {}
  mere : Mere := {}
  upd : Upd := {}
  deriving DecidableEq, Repr

/-! The stacked memory (08). -/

/-- HBM window of a stack (08 R204). -/
structure Stack where
  info : Word32 := 0
  trained : Bool := false
  inService : Bool := false
  failed : Bool := false
  failCause : BitVec 3 := 0
  failChannel : BitVec 5 := 0
  patrolEn : Bool := true
  temp : BitVec 8 := 0
  ce : Word64 := 0
  retried : Word64 := 0
  ue : Word32 := 0
  addrErr : Word32 := 0
  late : Word32 := 0
  readBytes : Word64 := 0
  writeBytes : Word64 := 0
  ueAtom : BitVec 26 := 0
  ueChannel : BitVec 10 := 0
  patrol : Word32 := 0
  deriving DecidableEq, Repr

/-- Traffic generator of a channel (08 R201, R202, R204). -/
structure Tg where
  pattern : BitVec 3 := 0
  op : BitVec 2 := 0
  continuous : Bool := false
  share : BitVec 8 := 16
  stop : Bool := false
  busy : Bool := false
  done : Bool := false
  miscompare : Bool := false
  refused : Bool := false
  seed : BitVec 31 := 0x7FFFFFFF
  first : BitVec 26 := 0
  last : BitVec 26 := 46874999
  loops : Word32 := 1
  errBits : Word64 := 0
  errAtoms : Word64 := 0
  firstErr : BitVec 26 := 0
  rdBytes : Word64 := 0
  wrBytes : Word64 := 0
  timeNs : Word64 := 0
  lat : List Word64 := List.replicate 16 0
  startedAt : Nat := 0
  deriving DecidableEq, Repr

/-! Partitions, plans and jobs (06, 13, 15). -/

/-- A partition as PARTITION_SET made it (15 R331, 08 R187): extents are (first granule, count) in order. -/
structure Partition where
  owner : Nat
  mask : BitVec 10
  deadlineUs : Nat
  quota : Nat
  weight : Nat
  budget : Nat
  extents : List (Nat × Nat)
  deriving DecidableEq, Repr

/-- A page of a serving plan's pool that is in use (07 R155, R156): its header fields, the bytes of its key and value regions
by offset in the page, and since when the Mere page cache holds a copy. -/
structure Page where
  tokens : List Nat
  nodeKey : List Byte
  parentKey : List Byte
  keyFormat : BitVec 8
  valueFormat : BitVec 8
  valid : Nat
  data : Tab Byte := []
  cachedAt : Option Nat
  deriving DecidableEq, Repr

/-- A loaded plan (06 R123 to R131): its image, SHA3-512 and load time (18 R396), the Mere it holds in each basin
(08 R181), whether it is damaged (08 R196) or its partition lost a basin since (13 R291), the bytes of its own
tensors as they stand (key: tensor number × 2^96 + byte), and its page pool. -/
structure Plan where
  part : Nat
  handle : Nat
  image : List Byte
  measure : List Byte
  loadedAt : Nat
  held : List (Nat × Nat)
  damaged : Bool := false
  stale : Bool := false
  mem : Tab Byte := []
  pages : Tab Page := []
  deriving DecidableEq, Repr

/-- A strip's state on the commit scoreboard (06 R139); OPEN strips are unlisted. -/
inductive Board where
  | granted (core : Nat)
  | done
  deriving DecidableEq, Repr

/-- A claim (06 R137): the strip a logical core fetched and has not completed, with the physical core that serves it. -/
structure Claim where
  strip : Nat
  core : Nat
  phys : Nat
  combine : Bool
  deriving DecidableEq, Repr

/-- A Sounding check of an execution (03 R55 to R59): the strip-tile, and how far its verdict has come. -/
inductive Verdict where
  | pending
  | mismatch
  | settled
  deriving DecidableEq, Repr

/-- A portion Sounding drew (03 R55, R56): the strip (of part 0) that covers it, the row tile (in a serving plan the row of
the step), the verdict. -/
structure Portion where
  strip : Nat
  tile : Nat
  verdict : Verdict
  deriving DecidableEq, Repr

/-- A chunk of a collective (12 R281): whether this rank's input is in place, the ready marks (rank, time) rank 0 has, the
agreed start, whether this rank sends, the parts it has by rank, and the ranks in the order their first data was here
(R280). -/
structure Chunk where
  ready : Bool := false
  marks : List (Nat × Nat) := []
  start : Option Nat := none
  started : Bool := false
  parts : Tab (List Byte) := []
  order : List Nat := []
  deriving DecidableEq, Repr

/-- An open execution of an operation (06 R126, R135 to R140): strip total; next index of each counter (key 0, or
the basin where the resident operand has home 1, R136); reissue lists (counter, strip, combine); claims; scoreboard;
part values (R140); results before the epilogue, written when the execution completes (log 45); Sounding portions; chunks;
frames a codec operation has fed; the core that committed each strip (physical + 65,536 × logical number). -/
structure Exec where
  op : Nat
  pass : Nat
  index : Nat
  total : Nat
  counters : Tab Nat := []
  reissue : List (Nat × Nat × Bool) := []
  claims : List Claim := []
  board : Tab Board := []
  combined : List Nat := []
  parts : Tab (List Word32) := []
  values : Tab (List Word32) := []
  portions : List Portion := []
  chunks : Tab Chunk := []
  frames : List Nat := []
  policy : Option Nat := none
  escalated : Bool := false
  ranBy : Tab Nat := []
  deriving DecidableEq, Repr

/-- How a job began (06 R133, R143): by JOB_START, from a reference image, or from a full image at this source. -/
inductive Origin where
  | start
  | reference
  | full (object : Bool) (src len : Nat)
  deriving DecidableEq, Repr

/-- Why a partition's fetches return NONE (06 R142, 13 R294, 15 R338), with the command that asked and, for a
restart, the cause's progress. -/
inductive Halt where
  | none
  | preempt (cmd : Nat)
  | save (cmd : Nat)
  | restart (preempt : Option Nat)
  deriving DecidableEq, Repr

/-- The rank table of a multi-device job (12 R277). -/
structure Ranks where
  slot : Nat
  mjob : Nat
  devices : List Nat
  deriving DecidableEq, Repr

/-- A ready mark (12 R281) of an execution that rank 0 has not opened yet. -/
structure Mark where
  op : Nat
  chunk : Nat
  rank : Nat
  time : Nat
  deriving DecidableEq, Repr

/-- A verdict that ends a job (03 R72): its place in logical progress, and its status. -/
structure Ending where
  pass : Nat
  layer : Nat
  op : Nat
  strip : Nat
  status : Nat
  deriving DecidableEq, Repr

/-- A job (06 R133, R134): its plan, the command that will carry its outcome, its seed, bindings and rank tables,
its restarts (13 R292), the totals of commands it ended before (14 R323: engine ns, bytes, µJ), its pass, the executions each operation has completed, its open executions, the earlier
writes of stochastically rounded tensors (02 R38), its escalation set and Sounding counts (03 R61, R62), the verdicts that will end it (R72), ready marks that came early (12 R281). -/
structure Job where
  handle : Nat
  cmd : Nat
  serving : Bool
  seed : Word64
  bindings : List (Nat × Nat)
  ranks : List Ranks
  restartAllowed : Bool
  restarts : Nat := 0
  origin : Origin := .start
  pass : Nat := 0
  done : Tab Nat := []
  execs : List Exec := []
  writes : Tab Nat := []
  escalation : List Nat := []
  overs : Tab Nat := []
  checks : Tab Nat := []
  verdicts : List Ending := []
  startedAt : Nat := 0
  carried : Nat × Nat × Nat := (0, 0, 0)
  marks : List Mark := []
  deriving DecidableEq, Repr

/-- One request's share of a serving step (15 R335): the slot, its client, first position and count; decode rows
have count 1. -/
structure StepPart where
  slot : Nat
  client : Nat
  first : Nat
  count : Nat
  decode : Bool
  deriving DecidableEq, Repr

/-- A serving step (15 R335, 13 R297): its parts in row order, its start, the faults of its runs, and the slots that ended in
it with their status, or 65,536 + operation for an escalation (03 R69). -/
structure ServeStep where
  parts : List StepPart
  startedAt : Nat
  faults : Nat := 0
  ended : List (Nat × Nat) := []
  deriving DecidableEq, Repr

/-- What an engine with a queue works on, a codec engine (11 R232) or the resample units of a partition (04 R91): a command, or an operation of a
partition's job. -/
inductive EngineWork where
  | cmd (id : Nat)
  | op (part op : Nat)
  deriving DecidableEq, Repr

/-- What runs on partition p, and its SCHED counters (15 R344). The epoch is kept per partition (06 R134); resampling is the
queue of its resample units in arrival order (04 R91). -/
structure PartRun where
  epoch : Word32 := 0
  job : Option Job := none
  preempted : Option Job := none
  halt : Halt := .none
  step : Option ServeStep := none
  halted : Bool := false
  haltPlan : Nat := 0
  switchAt : Option Nat := none
  admitNext : Nat := 0
  served : Tab Nat := []
  steps : Word64 := 0
  decodeTokens : Word64 := 0
  prefillTokens : Word64 := 0
  lastStepNs : Word32 := 0
  switches : Word32 := 0
  lastSwitchNs : Word32 := 0
  tableLoad : Option Nat := none
  resampling : List EngineWork := []
  deriving DecidableEq, Repr

/-! Requests and the prefix directory (07). -/

/-- The states of a request (07 R162, R163); a FREE slot is unlisted. -/
inductive ReqState where
  | queued | prefill | decode | parked | done
  deriving DecidableEq, Repr

/-- A request: its 64-byte entry (07 R162) and its side record (R154): client and open command (15 R336), sampling
settings, token log, page list, escalation set; the appends held with their tokens (R169) and releases waiting (R170). client
and fn are those of the command in force. -/
structure Request where
  state : ReqState
  priority : Nat
  retain : Bool
  endOnPark : Bool
  part : Nat
  plan : Nat
  slot : Nat
  log : List Nat
  computed : Nat := 0
  generated : Nat := 0
  maxNew : Nat
  shared : Nat := 0
  pages : List Nat := []
  seed : Word64
  outAddr : Nat
  progressAddr : Nat
  admitOrder : Nat
  parkCount : Nat := 0
  client : Nat
  fn : Nat
  cmd : Option Nat
  topK : Nat
  temperature : Word32
  topP : Word32
  stop : List Nat
  escalation : List Nat := []
  lastStep : Nat := 0
  held : List (Nat × List Nat) := []
  releases : List Nat := []
  deriving DecidableEq, Repr

/-- A node of the prefix directory (07 R158). -/
structure Node where
  part : Nat
  plan : Nat
  key : List Byte
  parent : List Byte
  page : Nat
  refs : Nat
  children : Nat
  last : Nat
  deriving DecidableEq, Repr

/-! Random bits, accounts, flash, trust, self-test, events (09, 15, 16, 18, 19, 20). -/

/-- Spring, the seeding generator and the RNG registers (09 R205 to R208, R217). -/
structure Rng where
  springOk : Bool := false
  springFail : Bool := false
  failTest : BitVec 2 := 0
  attempts : BitVec 2 := 0
  failedAt : Option Nat := none
  pool : List Byte := []
  instantiated : Bool := false
  v : List Byte := []
  c : List Byte := []
  reseedCount : Nat := 0
  requests : Nat := 0
  lastBit : Bool := false
  runLen : Nat := 0
  rawBits : Word64 := 0
  rctFails : Word32 := 0
  aptFails : Word32 := 0
  seeds : Word64 := 0
  reseeds : Word32 := 0
  ltKey0 : Word64 := 0
  ltKey1 : Word64 := 0
  ltIndex : Word64 := 0
  ltDraw : Word32 := 0
  ltStream : Word32 := 0
  ltCore : BitVec 11 := 0
  ltLane : BitVec 8 := 0
  ltDone : Bool := false
  ltOut0 : Word64 := 0
  ltOut1 : Word64 := 0
  deriving DecidableEq, Repr

/-- An account (15 R340). -/
structure Account where
  engine : List Word64 := List.replicate 8 0
  bytes : List Word64 := List.replicate 5 0
  energy : Word64 := 0
  deriving DecidableEq, Repr

/-- The accounts of the clients, the ACCT registers (15 R345) and the clients' weights (R344). -/
structure Acct where
  accounts : Tab Account := []
  sel : BitVec 12 := 0
  unattrUj : Word64 := 0
  totalUj : Word64 := 0
  updateMtc : Word64 := 0
  weights : Tab (BitVec 8) := []
  deriving DecidableEq, Repr

/-- An object of the flash store (16 R349 to R352); while it is not visible, writer is the command that writes it (R358). -/
structure Obj where
  bytes : List Byte
  owner : Nat
  serial : Nat
  isSealed : Bool
  recovered : Bool := false
  damaged : Bool := false
  visible : Bool := true
  writer : Nat := 0
  deriving DecidableEq, Repr

/-- A write, seal or delete whose journal record is not programmed yet (16 R352). -/
structure StoreOp where
  object : Nat
  create : Bool
  bytes : List Byte
  seals : Bool
  deletes : Bool
  owner : Nat
  cmd : Nat
  deriving DecidableEq, Repr

/-- The flash store and the FLS registers (16 R365). -/
structure Fls where
  patrolEn : Bool := true
  online : Bool := false
  readOnly : Bool := false
  medium : BitVec 2 := 0
  trainedCh : BitVec 8 := 0
  offlineCause : BitVec 3 := 0
  rate : BitVec 16 := 0
  rawBytes : Word64 := 0
  capacity : Word64 := 0
  spare : Word32 := 0
  badFactory : Word32 := 0
  badGrown : Word32 := 0
  readBytes : Word64 := 0
  writeBytes : Word64 := 0
  cwCorrected : Word64 := 0
  retryReads : Word32 := 0
  softDecodes : Word32 := 0
  ue : Word32 := 0
  ueLastObj : Word64 := 0
  ueLastOff : Word64 := 0
  refreshed : Word32 := 0
  patrol : Word32 := 0
  eraseMax : Word32 := 0
  eraseMin : Word32 := 0
  eraseMean : Word32 := 0
  ratedPe : Word32 := 0
  blkSel : BitVec 29 := 0
  quotas : Tab Word64 := []
  pending : List StoreOp := []
  deriving DecidableEq, Repr

/-- What the flash medium keeps over every reset (16 R352, 17 R376): objects, the next serial, and the store-key
epoch under which it was formatted (18 R390); none: never formatted. -/
structure Medium where
  formatted : Option (BitVec 8) := none
  keyErased : Bool := false
  objects : Tab Obj := []
  nextSerial : Nat := 1
  refreshDue : List (Nat × Nat) := []
  grownBad : List Nat := []
  storeKey : List Byte := []
  deriving DecidableEq, Repr

/-- The state of a fused key slot (18 R387): 0 empty, 1 valid, 2 revoked, with the digest of its key. -/
structure KeySlot where
  state : BitVec 2 := 0
  digest : List Byte := []
  deriving DecidableEq, Repr

/-- The fuses (18 R387 to R400, 21 R442): they outlive every reset. -/
structure Fuses where
  slots : List KeySlot
  rollback : Nat
  serial : List Byte
  lcs : BitVec 3
  storeEpoch : BitVec 8
  identity : Option (List Byte)
  deriving DecidableEq, Repr

/-- SEC and LCS registers (18 R402, R403), the running firmware (R390) and the recovery window (R391). -/
structure Sec where
  imageOk : Bool := false
  source : Bool := false
  slot : BitVec 2 := 0
  failCause : BitVec 4 := 0
  svn : BitVec 8 := 0
  recovLen : BitVec 26 := 0
  recovMode : Bool := false
  recovDone : Bool := false
  recovResult : BitVec 4 := 0
  fwDigest : List Byte := []
  nonce : List Word64 := List.replicate 8 0
  attDst : Word64 := 0
  attKind : Bool := false
  attDone : Bool := false
  attResult : BitVec 2 := 0
  attLen : Word32 := 0
  recovFails : Word32 := 0
  reports : Word32 := 0
  lcTarget : BitVec 3 := 0
  lcDone : Bool := false
  lcResult : BitVec 4 := 0
  lcDetail : BitVec 4 := 0
  recordAddr : Word64 := 0
  slotSel : BitVec 2 := 0
  slotDone : Bool := false
  slotResult : BitVec 4 := 0
  slotHash : List Word64 := List.replicate 4 0
  window : Tab Byte := []
  deriving DecidableEq, Repr

/-- BIST registers (19 R420) and each unit's latest result entry (R408). -/
structure Bist where
  kind : BitVec 2 := 0
  depth : Bool := false
  done : Bool := false
  failed : BitVec 16 := 0
  first : BitVec 16 := 0
  count : BitVec 16 := 0
  resSel : BitVec 16 := 0
  results : Tab (List Byte) := []
  runs : Word32 := 0
  fails : Word32 := 0
  memBasin : BitVec 4 := 0
  memAddr : BitVec 24 := 0
  memUe : Bool := false
  memData : List Byte := []
  deriving DecidableEq, Repr

/-- An event (19 R416). -/
structure Event where
  mtc : Nat
  source : Nat
  code : Nat
  part : Nat
  detail : List Byte
  fn : Option Nat := none
  deriving DecidableEq, Repr

/-- A function's event ring (19 R417, R418, R421); lost is the overflow still to be reported: events dropped and
the time of the first. -/
structure EvtRing where
  log2 : BitVec 5 := 0
  base : BitVec 52 := 0
  tail : BitVec 16 := 0
  head : BitVec 16 := 0
  phase : Bool := true
  irqEn : Bool := false
  vector : BitVec 11 := 0
  holdoff : BitVec 8 := 0
  written : Word64 := 0
  dropped : Word32 := 0
  lost : Option (Nat × Nat) := none
  lastVector : Option Nat := none
  held : Bool := false
  deriving DecidableEq, Repr

/-- Events raised and not yet written, in the order raised, the log of the latest 1,024, newest first, and the rings
of the functions (19 R416 to R421). -/
structure Evt where
  raised : List Event := []
  log : List Event := []
  logSel : BitVec 10 := 0
  rings : Tab EvtRing := []
  deriving DecidableEq, Repr

/-- The management mailbox (20 R427). -/
structure Mgt where
  opcode : BitVec 8 := 0
  done : Bool := false
  result : BitVec 3 := 0
  arg0 : Word64 := 0
  arg1 : Word64 := 0
  resp0 : Word64 := 0
  mctpResult : BitVec 3 := 0
  mctpResp : List Byte := []
  deriving DecidableEq, Repr

/-- The JTAG port (19 R410): the loaded instruction, whether it takes the pins, and the data last captured. -/
structure Jtag where
  instr : BitVec 8 := 0xFF
  pins : Bool := false
  data : Word64 := 0
  deriving DecidableEq, Repr

/-- A picture in the stages of a codec engine (11 R239): its number in coding order, the pictures it references, and for each stage in
order and each row of 64×64 blocks how many blocks have left the stage. -/
structure FramePipe where
  frame : Nat
  refs : List Nat
  left : List (List Nat)
  deriving DecidableEq, Repr

/-- A codec engine's window (11 R259), its queue of work (R232), and the pictures of its work in their stages: of the operation in
progress, or of the work done last. -/
structure Codec where
  busy : Bool := false
  holder : Word32 := 0
  holderPart : BitVec 4 := 0xF
  curTag : Word32 := 0xFFFFFFFF
  curFrame : Word32 := 0xFFFFFFFF
  framesEnc : Word64 := 0
  framesDec : Word64 := 0
  bytesOut : Word64 := 0
  bytesIn : Word64 := 0
  rowsRecoded : Word32 := 0
  rowsSkipped : Word32 := 0
  picsDamaged : Word32 := 0
  blocksConcealed : Word64 := 0
  clamped : Word64 := 0
  hintsIgnored : Word32 := 0
  unsupported : Word32 := 0
  bounds : Word32 := 0
  current : Option EngineWork := none
  queue : List EngineWork := []
  pipe : List FramePipe := []
  deriving DecidableEq, Repr

/-! The whole. -/

/-- Why a step stops. No command of this model stops: what the spec calls a failure is a status, an event or a state
of the machine (13 R285), and every address a command names is checked before it is used (14 R319, R322). -/
inductive Fault where
  /-- An access to an address the device does not have. Raised by no meaning: the checks of 14 R322 and 08 R187
  answer such a command with a status. Safe: nothing is claimed of it. -/
  | noSuchAddress
  deriving DecidableEq, Repr

/-- Why a command has no meaning. -/
inductive Refusal where
  /-- The command of this mnemonic is not modelled. Raised by an arm of exec that has no meaning; safe. -/
  | notModelled (mnemonic : String)
  deriving DecidableEq, Repr

/-- The TM40 block. pending is the queue of commands that wait, first in first out; free numbers the free values
drawn so far (the model's own field, log 1); host is the host's memory, hbm the stacked memory by device address. -/
structure State where
  pending : List Instr := []
  free : Nat := 0
  nextId : Nat := 0
  run : RunState := {}
  hif : Hif := {}
  sqs : Tab SubRing := []
  cqs : Tab CompRing := []
  cmds : List Cmd := []
  latches : Tab Latches := []
  host : Tab Byte := []
  hbm : Tab Byte := []
  tel : Tel := {}
  mtc : Mtc := {}
  census : Census := {}
  ports : Tab Port := []
  cores : Tab Core := []
  basins : Tab Basin := []
  hbmStacks : Tab Stack := []
  tgs : Tab Tg := []
  parts : Tab Partition := []
  runs : Tab PartRun := []
  plans : Tab Plan := []
  requests : Tab Request := []
  nodes : List Node := []
  codecs : Tab Codec := []
  rng : Rng := {}
  acct : Acct := {}
  fls : Fls := {}
  medium : Medium := {}
  sec : Sec := {}
  fuses : Fuses
  bist : Bist := {}
  evt : Evt := {}
  mgt : Mgt := {}
  jtag : Jtag := {}
  deriving DecidableEq, Repr

/-- The fuses as shipped (21 R442): PROVISIONED, identity generated, slots 0 and 1 valid, 2 and 3 empty. Digests,
serial, rollback counter and identity seed are each chip's own; the values named here are the model's (log 3). -/
def Fuses.shipped : Fuses :=
  { slots := [{ state := 1, digest := List.replicate 32 0 }, { state := 1, digest := List.replicate 32 0 }, {}, {}],
    rollback := 0, serial := List.replicate 16 0, lcs := 2, storeEpoch := 0,
    identity := some (List.replicate 32 0) }

/-- The machine in cold reset, as power-on leaves it (17 R376, 21 R434): nothing starts before RESET_RELEASE. -/
def State.reset : State := { fuses := Fuses.shipped }

end Sys2Proof.Machine
end

