-- ==== Sys2Proof/Machine/Tab.lean ====
section
/-! DEFINITION. Sys2Proof/Machine/Tab.lean: reading and writing tables of numbered units and byte memories.
Both are lists sorted by number; a number that is not listed has the default. -/

namespace Sys2Proof.Machine

/-- The entry listed under number k. -/
def Tab.find {α : Type} : Tab α → Nat → Option α
  | [], _ => none
  | (j, v) :: t, k => if j = k then some v else Tab.find t k

/-- The entry of number k, or the default d. -/
def Tab.get {α : Type} (t : Tab α) (k : Nat) (d : α) : α := (Tab.find t k).getD d

/-- List v under number k, in its place. -/
def Tab.put {α : Type} : Tab α → Nat → α → Tab α
  | [], k, v => [(k, v)]
  | (j, w) :: t, k, v =>
    if k < j then (k, v) :: (j, w) :: t
    else if j = k then (k, v) :: t
    else (j, w) :: Tab.put t k v

/-- Unlist number k. -/
def Tab.del {α : Type} (t : Tab α) (k : Nat) : Tab α := t.filter fun e => e.1 != k

/-- Change the entry of number k, starting from the default d where it is not listed. -/
def Tab.mod {α : Type} (t : Tab α) (k : Nat) (d : α) (f : α → α) : Tab α := Tab.put t k (f (Tab.get t k d))

/-- The numbers listed. -/
def Tab.keys {α : Type} (t : Tab α) : List Nat := t.map Prod.fst

/-- The entries listed. -/
def Tab.vals {α : Type} (t : Tab α) : List α := t.map Prod.snd

/-- Every listed entry changed by f. -/
def Tab.map {α : Type} (t : Tab α) (f : α → α) : Tab α := t.map fun e => (e.1, f e.2)

/-- The numbers of a table rise strictly. -/
def Tab.sorted {α : Type} : Tab α → Bool
  | [] => true
  | [_] => true
  | a :: b :: t => decide (a.1 < b.1) && Tab.sorted (b :: t)

/-! Byte memories. The canonical form: addresses strictly rising, and no entry equal to zero, which is what an
unlisted address reads as (08 R193, 17 R379: wiped memory reads zero; the host's memory by log 2). -/

/-- The byte at address a. -/
def Mem.read (m : Tab Byte) (a : Nat) : Byte := Tab.get m a 0

/-- The memory with byte v at address a, still canonical. -/
def Mem.write (m : Tab Byte) (a : Nat) (v : Byte) : Tab Byte :=
  if v = 0 then Tab.del m a else Tab.put m a v

/-- n bytes from address a. -/
def Mem.readN (m : Tab Byte) (a n : Nat) : List Byte := (List.range n).map fun i => Mem.read m (a + i)

/-- The bytes bs written from address a. -/
def Mem.writeN (m : Tab Byte) (a : Nat) : List Byte → Tab Byte
  | [] => m
  | b :: bs => Mem.writeN (Mem.write m a b) (a + 1) bs

/-- n bytes from address a set to zero: only listed entries are visited. -/
def Mem.wipe (m : Tab Byte) (a n : Nat) : Tab Byte :=
  m.filter fun c => !(decide (a ≤ c.1) && decide (c.1 < a + n))

/-- No entry of the memory lists the value an unlisted address reads as. -/
def Mem.noZero (m : Tab Byte) : Bool := m.all fun c => c.2 != 0

/-- The canonical form of a byte memory. -/
def Memory.wf (m : Tab Byte) : Bool := Tab.sorted m && Mem.noZero m

end Sys2Proof.Machine
end

