-- ==== Sys2Proof/Machine/Ops.lean ====
section
/-! DEFINITION. Sys2Proof/Machine/Ops.lean: the named operations every meaning is made of: units by number, host
memory through the windows (14 R306), partition memory through the extents (08 R187), events (19 R416 to R418),
charges (15 R342), and the life of a command from its taking to its completion entry (14 R313 to R326). -/

namespace Sys2Proof.Machine

/-! Units by number. -/

def State.core (s : State) (p : Nat) : Core := Tab.get s.cores p (Core.reset p)
def State.setCore (s : State) (p : Nat) (c : Core) : State := { s with cores := Tab.put s.cores p c }
def State.basin (s : State) (b : Nat) : Basin := Tab.get s.basins b {}
def State.setBasin (s : State) (b : Nat) (v : Basin) : State := { s with basins := Tab.put s.basins b v }
def State.stack (s : State) (k : Nat) : Stack := Tab.get s.hbmStacks k {}
def State.setStack (s : State) (k : Nat) (v : Stack) : State := { s with hbmStacks := Tab.put s.hbmStacks k v }
def State.tg (s : State) (c : Nat) : Tg := Tab.get s.tgs c {}
def State.setTg (s : State) (c : Nat) (v : Tg) : State := { s with tgs := Tab.put s.tgs c v }
def State.port (s : State) (q : Nat) : Port := Tab.get s.ports q {}
def State.setPort (s : State) (q : Nat) (v : Port) : State := { s with ports := Tab.put s.ports q v }
def State.codec (s : State) (c : Nat) : Codec := Tab.get s.codecs c {}
def State.setCodec (s : State) (c : Nat) (v : Codec) : State := { s with codecs := Tab.put s.codecs c v }
def State.partRun (s : State) (p : Nat) : PartRun := Tab.get s.runs p {}
def State.setRun (s : State) (p : Nat) (v : PartRun) : State := { s with runs := Tab.put s.runs p v }
def State.fn (s : State) (f : Nat) : FnRegs := Tab.get s.hif.fns f (FnRegs.reset f)
def State.setFn (s : State) (f : Nat) (v : FnRegs) : State := { s with hif := { s.hif with fns := Tab.put s.hif.fns f v } }
def ringKey (f q : Nat) : Nat := f * 64 + q
def State.sq (s : State) (f q : Nat) : SubRing := Tab.get s.sqs (ringKey f q) {}
def State.setSq (s : State) (f q : Nat) (v : SubRing) : State := { s with sqs := Tab.put s.sqs (ringKey f q) v }
def State.cq (s : State) (f q : Nat) : CompRing := Tab.get s.cqs (ringKey f q) {}
def State.setCq (s : State) (f q : Nat) (v : CompRing) : State := { s with cqs := Tab.put s.cqs (ringKey f q) v }
def State.latch (s : State) (f : Nat) : Latches := Tab.get s.latches f {}
def State.setLatch (s : State) (f : Nat) (v : Latches) : State := { s with latches := Tab.put s.latches f v }
def State.account (s : State) (c : Nat) : Account := Tab.get s.acct.accounts c {}
def State.setAccount (s : State) (c : Nat) (v : Account) : State :=
  { s with acct := { s.acct with accounts := Tab.put s.acct.accounts c v } }
def State.evtRing (s : State) (f : Nat) : EvtRing := Tab.get s.evt.rings f {}
def State.setEvtRing (s : State) (f : Nat) (v : EvtRing) : State :=
  { s with evt := { s.evt with rings := Tab.put s.evt.rings f v } }
def planKey (p h : Nat) : Nat := p * 2 ^ 32 + h
def State.plan (s : State) (p h : Nat) : Option Plan := Tab.find s.plans (planKey p h)
def State.setPlan (s : State) (p h : Nat) (v : Plan) : State := { s with plans := Tab.put s.plans (planKey p h) v }
def reqKey (p h slot : Nat) : Nat := planKey p h * 2 ^ 18 + slot
/-- The request of a slot; which slot it is follows from where it is listed. -/
def State.request (s : State) (p h slot : Nat) : Option Request :=
  (Tab.find s.requests (reqKey p h slot)).map fun r => { r with part := p, plan := h, slot := slot }
def State.setRequest (s : State) (r : Request) : State :=
  { s with requests := Tab.put s.requests (reqKey r.part r.plan r.slot) r }
def State.freeRequest (s : State) (r : Request) : State :=
  { s with requests := Tab.del s.requests (reqKey r.part r.plan r.slot) }
def State.cmd (s : State) (id : Nat) : Option Cmd := s.cmds.find? fun c => c.id == id
def State.setCmd (s : State) (c : Cmd) : State :=
  { s with cmds := s.cmds.map fun d => if d.id = c.id then c else d }
/-- The next number of a free value (log 1). -/
def State.drawFree (s : State) : State := { s with free := s.free + 1 }

/-- MTC.NOW (12 R273). -/
def State.now (s : State) : Nat := s.mtc.now.toNat

/-- Function f exists: the physical function, or VF Enable is set (14 R304, R328). -/
def fnEnabled (s : State) (f : Nat) : Bool := f == 0 || (f < 64 && s.hif.vfEnable)

/-- Device number from the straps (12 R268). -/
def devnum (s : State) : Nat :=
  let v := s.run.straps.toNat
  bitsOf v 0 6 * 64 + bitsOf v 10 2 * 16 + bitsOf v 8 2 * 4 + bitsOf v 6 2

/-- Full function (17 R373 step 6). -/
def fullFunction (s : State) : Bool := s.run.phase == .stage1 && s.run.stage2 && s.run.stage3 && !s.run.failed

/-- The command processor takes descriptors (17 R375, R377, 19 R410). -/
def takesDescriptors (s : State) : Bool :=
  (fullFunction s || (s.run.failed && s.run.phase == .stage1)) && s.run.pcieUp && !s.jtag.pins

/-- The device reacts to anything but its reset pins (17 R373, 21 R434). -/
def alive (s : State) : Bool := !(s.run.phase == .held) && !(s.run.phase == .off)

/-- Stage 0 has been reached and the device is not held (17 R373 step 2). -/
def staged (s : State) : Bool := s.run.phase == .stage0 || s.run.phase == .stage1

/-! Partitions. -/

/-- Basins named by a mask, ascending. -/
def maskBasins (m : BitVec 10) : List Nat := (List.range 10).filter fun b => bitOf m.toNat b

/-- Basins of partition p in service, ascending (15 R331, 01 R15). -/
def liveBasins (s : State) (p : Nat) : List Nat :=
  match Tab.find s.parts p with
  | some r => (maskBasins r.mask).filter fun b => !(s.basin b).withdrawn
  | none => []

/-- The lead basin of partition p: its lowest-numbered basin in service (01 R21, 13 R291). -/
def leadBasin (s : State) (p : Nat) : Option Nat := (liveBasins s p).head?

/-- The partition basin b belongs to, 0xF for none. -/
def basinPart (s : State) (b : Nat) : Nat :=
  match s.parts.find? fun e => bitOf e.2.mask.toNat b with
  | some e => e.1
  | none => 0xF

/-- The basin of physical core p (01 R13: 150 cores a basin). -/
def coreBasin (p : Nat) : Nat := p / 150

/-! Host memory (14 R303, R306). -/

/-- Pages lo..hi lie in the union of the windows; fuel bounds the windows walked. -/
def winCover (wins : List (Nat × Nat)) : Nat → Nat → Nat → Bool
  | 0, lo, hi => hi < lo
  | n + 1, lo, hi =>
    if hi < lo then true
    else match (wins.filter fun w => w.1 ≤ lo && lo ≤ w.2).map Prod.snd with
      | [] => false
      | l :: ls => winCover wins n (ls.foldl max l + 1) hi

/-- The n bytes from host address a lie in function f's windows (14 R306). -/
def inWindows (s : State) (f a n : Nat) : Bool :=
  n == 0 || winCover ((s.fn f).winBase.zip (s.fn f).winLimit |>.map fun w => (w.1.toNat, w.2.toNat)) 5
    (a / 4096) ((a + n - 1) / 4096)

/-- n bytes of host memory from a, counted in HIF.DMA_RD_BYTES. -/
def hostRead (s : State) (a n : Nat) : List Byte × State :=
  (Mem.readN s.host a n, { s with hif := { s.hif with rdBytes := satAdd s.hif.rdBytes n } })

/-- Bytes written to host memory at a, counted in HIF.DMA_WR_BYTES. -/
def hostWrite (s : State) (a : Nat) (bs : List Byte) : State :=
  { s with host := Mem.writeN s.host a bs, hif := { s.hif with wrBytes := satAdd s.hif.wrBytes bs.length } }

/-! Partition memory (08 R187). -/

/-- The device address of partition address x: the extent whose cumulative size exceeds x. -/
def mapAddr : List (Nat × Nat) → Nat → Option Nat
  | [], _ => none
  | (g, n) :: t, x =>
    if x < n * Config.granuleBytes then some (g * Config.granuleBytes + x)
    else mapAddr t (x - n * Config.granuleBytes)

/-- The byte at partition address x. -/
def partByte (s : State) (p x : Nat) : Byte :=
  match Tab.find s.parts p with
  | some r => match mapAddr r.extents x with
    | some d => Mem.read s.hbm d
    | none => 0
  | none => 0

/-- n bytes from partition address x. -/
def partRead (s : State) (p x n : Nat) : List Byte := (List.range n).map fun i => partByte s p (x + i)

/-- The memory with bytes written from an address through extents. -/
def writeExt (m : Tab Byte) (ext : List (Nat × Nat)) (x : Nat) : List Byte → Tab Byte
  | [] => m
  | b :: bs => writeExt (match mapAddr ext x with | some d => Mem.write m d b | none => m) ext (x + 1) bs

/-- Bytes written from partition address x. -/
def partWrite (s : State) (p x : Nat) (bs : List Byte) : State :=
  match Tab.find s.parts p with
  | some r => { s with hbm := writeExt s.hbm r.extents x bs }
  | none => s

/-- The n bytes from partition address x lie in the quota (08 R187). -/
def inQuota (s : State) (p x n : Nat) : Bool :=
  match Tab.find s.parts p with
  | some r => x + n ≤ r.quota
  | none => false

/-- The granules of some extents set to zero (08 R193). -/
def wipeExtents (m : Tab Byte) (ext : List (Nat × Nat)) : Tab Byte :=
  ext.foldl (fun m e => Mem.wipe m (e.1 * Config.granuleBytes) (e.2 * Config.granuleBytes)) m

/-! Events (19 R416 to R418). -/

/-- A 32-byte event entry (19 R416) with phase bit ph. -/
def eventBytes (s : State) (e : Event) (ph : Bool) : List Byte :=
  toLe 8 e.mtc ++ toLe 2 e.source ++ toLe 2 e.code ++ [BitVec.ofNat 8 (b2n ph), BitVec.ofNat 8 (e.part % 16)]
    ++ toLe 2 (devnum s) ++ slice e.detail 0 16

/-- The event-log object of the flash store (19 R418). -/
def eventLogObject : Nat := 0xFFFF000000000002

/-- Raise an event now: it waits for the rings and enters the log, and some enter the store's log object. -/
def raiseAs (s : State) (e : Event) : State :=
  let s1 := { s with evt := { s.evt with raised := s.evt.raised ++ [e], log := (e :: s.evt.log).take 1024 } }
  if loggedToStore e.code && s.fls.online then
    let o := Tab.get s.medium.objects eventLogObject
      { bytes := [], owner := 0, serial := s.medium.nextSerial, isSealed := false }
    let fresh := (Tab.find s.medium.objects eventLogObject).isNone
    { s1 with medium := { s1.medium with
        objects := Tab.put s1.medium.objects eventLogObject { o with bytes := o.bytes ++ eventBytes s e false },
        nextSerial := if fresh then s1.medium.nextSerial + 1 else s1.medium.nextSerial } }
  else s1

/-- Raise an event of a partition (0xF: none). -/
def raiseEvent (s : State) (code source part : Nat) (detail : List Byte) : State :=
  raiseAs s { mtc := s.now, source := source, code := code, part := part, detail := detail }

/-- EV_RING_ERROR (14 R311): function, ring, SQ or CQ, cause. -/
def raiseRingError (s : State) (f q : Nat) (isCq : Bool) (cause : Nat) : State :=
  raiseAs s { mtc := s.now, source := srcPcie, code := evRingError, part := 0xF,
              detail := toLe 1 f ++ toLe 1 q ++ toLe 1 (b2n isCq) ++ toLe 1 cause, fn := some f }

/-- EV_HOST_READ of function f's command of this tag and partition, and the failed-read count (14 R303). -/
def raiseHostRead (s : State) (f tag part : Nat) : State :=
  let s1 := { s with hif := { s.hif with hostRdErr := satAdd s.hif.hostRdErr 1 } }
  raiseAs s1 { mtc := s.now, source := srcPcie, code := evHostRead, part := if part < 10 then part else 0xF,
               detail := toLe 4 f ++ toLe 4 tag, fn := some f }

/-! Interrupts (14 R305, R316). -/

/-- The two quadwords of entry v in function f's MSI-X table (14 R305), by the number of the quadword. -/
def msixKey (f q : Nat) : Nat := f * 4096 + q

/-- A quadword of the MSI-X table: at reset every vector is masked, as PCIe defines it (log 15). -/
def msixWord (s : State) (f q : Nat) : Word64 :=
  Tab.get s.hif.msix (msixKey f q) (if q % 2 = 1 then 0x100000000 else 0)

/-- Vector v of function f is masked. -/
def vectorMasked (s : State) (f v : Nat) : Bool := bitOf (msixWord s f (2 * v + 1)).toNat 32

/-- Raise MSI-X vector v of function f: sent, or pending while it is masked (14 R316). -/
def raiseVector (s : State) (f v : Nat) : State :=
  if vectorMasked s f v then
    { s with hif := { s.hif with pba := if s.hif.pba.contains (f, v) then s.hif.pba else (f, v) :: s.hif.pba } }
  else { s with hif := { s.hif with vectors := (f, v) :: s.hif.vectors } }

/-- The function's MSI-X table size (14 R301). -/
def vectorCount (f : Nat) : Nat := if f = 0 then 2048 else 64

/-- A completion ring's vector is due now (14 R316): no holdoff, no vector yet, or HOLDOFF µs have passed. -/
def vectorDue (now holdoff : Nat) (last : Option Nat) : Bool :=
  holdoff == 0 || (match last with | none => true | some t => t + holdoff * 1000 ≤ now)

/-! Charges (15 R340 to R342). -/

/-- Lists of counters added place by place, saturating. -/
def addCounters (cs : List Word64) (ns : List Nat) : List Word64 :=
  (List.range cs.length).map fun i => satAdd (cs.getD i 0) (ns.getD i 0)

/-- A charge entered in a client's account (15 R340: counters saturate). -/
def chargeClient (s : State) (client : Nat) (ch : Charge) : State :=
  let a := s.account client
  s.setAccount client { engine := addCounters a.engine ch.engine, bytes := addCounters a.bytes ch.bytes,
                        energy := satAdd a.energy ch.energy }

/-- The totals a command has been charged. -/
def Cmd.charged (c : Cmd) (ch : Charge) : Cmd :=
  { c with engineNs := c.engineNs + (ch.engine.take 8).sum, bytes := c.bytes + (ch.bytes.take 5).sum,
           energyUj := c.energyUj + ch.energy }

/-- Charge a command and its client (15 R342). -/
def chargeCmd (s : State) (c : Cmd) (ch : Charge) : State × Cmd :=
  let c' := c.charged ch
  ((chargeClient s (dClient c.desc) ch).setCmd c', c')

/-! Completion (14 R313 to R316, R325). -/

/-- A number that stays at all ones of w bits. -/
def satNat (w v : Nat) : Nat := min v (2 ^ w - 1)

/-- An energy in µJ, rounded to the nearest mJ; which way a half goes is open (14 R325, log 13). -/
def nearestMj (u : Nat) : Nat := if u % 1000 = 500 && !Config.halfUp u then u / 1000 else (u + 500) / 1000

/-- The 32-byte completion entry (14 R325). -/
def completionBytes (s : State) (c : Cmd) (phase : Bool) (status retry : Nat) : List Byte :=
  toLe 4 (dTag c.desc) ++ toLe 2 status ++ toLe 1 (b2n phase + 2 * b2n (retry != 0)) ++ toLe 1 retry
    ++ toLe 8 s.now ++ toLe 8 (satNat 64 c.engineNs) ++ toLe 4 (satNat 32 (ceilDiv c.bytes 1024))
    ++ toLe 4 (satNat 32 (nearestMj c.energyUj))

/-- Write a command's entry into its completion ring and raise or hold the vector (14 R306, R315, R316). -/
def writeEntry (s : State) (c : Cmd) (status retry : Nat) : State :=
  let r := s.cq c.fn c.cq
  let a := r.base.toNat * 4096 + r.tail.toNat * 32
  if inWindows s c.fn a 32 then
    let tail' := (r.tail.toNat + 1) % 2 ^ r.log2.toNat
    let due := vectorDue s.now r.holdoff.toNat r.lastVector
    let ask := r.irqEn && dIrq c.desc
    let r' := { r with tail := BitVec.ofNat 16 tail', phase := if tail' = 0 then !r.phase else r.phase,
                       lastVector := if ask && due then some s.now else r.lastVector,
                       held := if ask && !due then true else if ask then false else r.held }
    let s1 := (hostWrite s a (completionBytes s c r.phase status retry)).setCq c.fn c.cq r'
    if ask && due then raiseVector s1 c.fn r.vector.toNat else s1
  else
    raiseRingError (s.setCq c.fn c.cq { r with error := true, cause := 3 }) c.fn c.cq true 3

/-- The flash-store object that CTX_SAVE or CODEC_ENCODE writes (16 R358; 06 R142, 11 R249). -/
def objectWritten (d : List Byte) : Option Nat :=
  if dOpcode d = 0x0024 && bitOf (leAt d 32 1) 1 then some (leAt d 40 8)
  else if dOpcode d = 0x0060 && bitOf (leAt d 33 1) 2 then some (leAt d 56 8)
  else none

/-- At the end of such a command its object is sealed and visible, or deleted (16 R358). -/
def settleObject (s : State) (c : Cmd) (status : Nat) : State :=
  match objectWritten c.desc with
  | none => s
  | some o =>
    match Tab.find s.medium.objects o with
    | some b =>
      if b.visible || b.writer != c.id then s
      else if status = stOk || (status = stStoreFull && dOpcode c.desc = 0x0060) then
        { s with medium := { s.medium with
            objects := Tab.put s.medium.objects o { b with visible := true, isSealed := true } } }
      else { s with medium := { s.medium with objects := Tab.del s.medium.objects o } }
    | none => s

/-- The command is over: out of the list of commands, the object it wrote settled, its entry written, BAD_DESC
counted. -/
def closeCmd (s : State) (c : Cmd) (status retry : Nat) : State :=
  let fr := s.fn c.fn
  let s0 := settleObject s c status
  let s1 := writeEntry { s0 with cmds := s0.cmds.filter fun d => d.id != c.id } c status retry
  if status = stBadDesc then s1.setFn c.fn { fr with badDesc := satAdd fr.badDesc 1 } else s1

/-- A command completes: the chain of its ring goes on, or its chained successors complete with ST_CANCELLED
(14 R314). Fuel bounds the successors. -/
def finishN : Nat → State → Cmd → Nat → Nat → State
  | 0, s, _, _, _ => s
  | n + 1, s, c, status, retry =>
    let s1 := closeCmd s c status retry
    let ring := s1.sq c.fn c.sq
    let s2 := if ring.chain = .after c.id
      then s1.setSq c.fn c.sq { ring with chain := if status = stOk then .free else .broken } else s1
    match s2.cmds.find? fun d => d.pred == some c.id with
    | none => s2
    | some d =>
      if status = stOk then s2.setCmd { d with pred := none } else finishN n s2 d stCancelled 0

/-- A command completes with a status and a retry count. -/
def finishWith (s : State) (c : Cmd) (status retry : Nat) : State := finishN (s.cmds.length + 1) s c status retry

/-- A command completes with a status. -/
def finish (s : State) (c : Cmd) (status : Nat) : State := finishWith s c status 0

/-- A command refused by its own checks completes with nothing charged in its entry (14 R325). -/
def refuse (s : State) (c : Cmd) (status : Nat) : State := finish s { c with engineNs := 0, bytes := 0, energyUj := 0 } status

/-- The command of this number completes, if it is still open. -/
def finishId (s : State) (id status : Nat) : State :=
  match s.cmd id with
  | some c => finish s c status
  | none => s

/-! Taking descriptors (14 R312 to R314, R319). -/

/-- The checks of 14 R319, in order: the first status that applies. Ownership is not asked of PARTITION_SET, which
gives it (log 14). taken is when the descriptor was taken. -/
def headerVerdict (s : State) (f : Nat) (d : List Byte) (taken : Nat) : Option Nat :=
  let o := dOpcode d
  if s.run.failed && !(o == 0x0001 || o == 0x0091 || o == 0x00A0) then some stDeviceFailed
  else match opRow o with
  | none => some stBadDesc
  | some r =>
    let needs := match r.part with
      | .required => some true
      | .forbidden => some false
      | .byMemKind b => some (bitOf (leNat d) b)
    if !reservedZero d r || (dRestart d && !(o == 0x0020 || o == 0x0025)) then some stBadDesc
    else if 4095 < dClient d then some stBadDesc
    else if dClient d < (s.fn f).clientBase.toNat
        || (s.fn f).clientBase.toNat + (s.fn f).clientCount.toNat ≤ dClient d || (r.pfOnly && f != 0)
      then some stDenied
    else if needs == some (dPart d == 0xFFFF) || (dPart d != 0xFFFF && 10 ≤ dPart d) then some stBadDesc
    else if dPart d != 0xFFFF && o != 0x00B0 && !bitOf (s.fn f).owned.toNat (dPart d) then some stDenied
    else if (r.plan == .required) == (dHandle d == 0) then some stBadDesc
    else if taken + 60000000000 < dNotBefore d then some stBadDesc
    else none

/-- What the command processor finds at HEAD of submission ring q of function f. -/
inductive Look where
  | nothing
  | outside
  | found (d : List Byte)
  deriving DecidableEq, Repr

/-- Entries of a completion ring that the host has not consumed, and places kept for commands (14 R313). -/
def cqLoad (s : State) (f q : Nat) : Nat :=
  let r := s.cq f q
  (r.tail.toNat + 2 ^ r.log2.toNat - r.head.toNat) % 2 ^ r.log2.toNat
    + (s.cmds.filter fun c => c.fn == f && c.cq == q).length

/-- A descriptor may be taken from a ring (14 R311, R313): the ring is enabled and not empty, and its completion ring has a place. -/
def ringReady (s : State) (f q : Nat) : Bool :=
  let r := s.sq f q
  let c := s.cq f r.cq.toNat
  takesDescriptors s && f < 64 && q < 64 && fnEnabled s f && r.log2 != 0 && !r.error && r.head != r.tail
    && c.log2 != 0 && cqLoad s f r.cq.toNat < 2 ^ c.log2.toNat - 1

/-- The place of a ring in the round robin (14 R313): functions after the one served last, in a function rings after the one served
last. -/
def ringPlace (s : State) (f q : Nat) : Nat := (f + 63 - s.hif.lastFn) % 64 * 64 + (q + 63 - (s.fn f).lastSq) % 64

/-- No other ready ring comes before this one. -/
def ringTurn (s : State) (f q : Nat) : Bool :=
  (Tab.keys s.sqs).all fun k => !ringReady s (k / 64) (k % 64) || ringPlace s f q ≤ ringPlace s (k / 64) (k % 64)

/-- Look at HEAD of a ring (14 R306, R311, R313). -/
def lookAt (s : State) (f q : Nat) : Look :=
  let r := s.sq f q
  if !(ringReady s f q && ringTurn s f q) then .nothing
  else
    let a := r.base.toNat * 4096 + r.head.toNat * 128
    if inWindows s f a 128 then .found (Mem.readN s.host a 128) else .outside

/-- Take the descriptor d at HEAD: a command of a new number, chained behind its predecessor where that has not
completed. -/
def takeHead (s : State) (f q : Nat) (d : List Byte) : State × Cmd :=
  let r := s.sq f q
  let fr := s.fn f
  let pred := match r.chain with | .after i => some i | _ => none
  let c : Cmd := { id := s.nextId, fn := f, sq := q, cq := r.cq.toNat, desc := d, pred := pred, takenAt := s.now }
  let chain := if dChain d then (if r.chain = .broken then .broken else .after s.nextId) else .free
  let s1 := { s with nextId := s.nextId + 1, cmds := s.cmds ++ [c],
                     hif := { s.hif with rdBytes := satAdd s.hif.rdBytes 128, lastFn := f } }
  ((s1.setSq f q { r with head := BitVec.ofNat 16 ((r.head.toNat + 1) % 2 ^ r.log2.toNat), chain := chain }).setFn f
      { fr with cmds := satAdd fr.cmds 1, lastSq := q }, c)

/-- Commands of c's ring taken before c and not complete. -/
def earlier (s : State) (c : Cmd) : List Cmd := s.cmds.filter fun d => d.fn == c.fn && d.sq == c.sq && d.id < c.id

/-- c waits for its fence: an earlier command of its ring is open, and not a sequence command already accepted
(14 R314). -/
def fenceWaits (s : State) (c : Cmd) : Bool := dFence c.desc && (earlier s c).any fun d => d.state != .accepted

/-- c waits for its fence or its chain, or an earlier command of its ring does (14 R314). -/
def orderWaits (s : State) (c : Cmd) : Bool :=
  fenceWaits s c || c.pred.isSome
    || (earlier s c).any fun d => d.state == .waiting && (fenceWaits s d || d.pred.isSome)

/-- PARTITION_SET, PLAN_LOAD and PLAN_UNLOAD run one at a time, in the order taken (06 R130, 15 R333). -/
def serialOp (d : List Byte) : Bool := dOpcode d == 0x00B0 || dOpcode d == 0x0010 || dOpcode d == 0x0011

/-- c waits for such a command taken before it, from whichever ring. -/
def serialWaits (s : State) (c : Cmd) : Bool := serialOp c.desc && s.cmds.any fun d => serialOp d.desc && d.id < c.id

/-- A start is checked in two parts (06 R133): the header and the first part when the command is taken, the second when the job
begins. A restore is checked so too (log 111). -/
def twoPart (d : List Byte) : Bool := dOpcode d == 0x0020 || dOpcode d == 0x0025

/-- Start a command that ring order lets start: the header's verdict, then its time, then its own meaning. -/
def startCmd (s : State) (c : Cmd) (env : Env) (run : State → Cmd → Env → State) : State :=
  match if twoPart c.desc then none else headerVerdict s c.fn c.desc c.takenAt with
  | some st => finish s c st
  | none =>
    if s.now < dNotBefore c.desc then s
    else let c' := { c with state := .running }
         run (s.setCmd c') c' env

/-- No check before the command starts. -/
def noEarly (_ : State) (_ : Cmd) : Option Nat := none

/-- What is checked when a command is taken: of one checked in two parts the header and its first part, early. -/
def takenVerdict (s : State) (c : Cmd) (early : State → Cmd → Option Nat) : Option Nat :=
  if twoPart c.desc then (headerVerdict s c.fn c.desc c.takenAt).orElse fun _ => early s c else none

/-- A taken command starts, waits, or completes: as a broken chain's successor (14 R314), or refused when taken. -/
def beginCmd (s : State) (c : Cmd) (broken : Bool) (env : Env) (early : State → Cmd → Option Nat)
    (run : State → Cmd → Env → State) : State :=
  if broken then finish s c stCancelled
  else match takenVerdict s c early with
    | some st => finish s c st
    | none => if orderWaits s c || serialWaits s c then s else startCmd s c env run

/-- The descriptor row of one opcode: it takes the descriptor at HEAD when that has the row's opcode, or an opcode
no row has, which completes with ST_BAD_DESC (14 R319). -/
def takeRow (opcode f q : Nat) (env : Env) (early : State → Cmd → Option Nat) (run : State → Cmd → Env → State)
    (s : State) : State :=
  match lookAt s f q with
  | .nothing => s
  | .outside =>
    let r := s.sq f q
    raiseRingError (s.setSq f q { r with error := true, cause := 3 }) f q false 3
  | .found d =>
    if dOpcode d = opcode || !knownOpcode (dOpcode d) then
      let broken := (s.sq f q).chain == .broken
      let t := takeHead s f q d
      beginCmd t.1 t.2 broken env early run
    else s

/-- The open execution that runs an operation of a job is changed. -/
def onExec (s : State) (p op : Nat) (f : Exec → Exec) : State :=
  let r := s.partRun p
  match r.job with
  | some j => s.setRun p { r with job := some { j with execs := j.execs.map fun e => if e.op == op then f e else e } }
  | none => s

/-! Small shared answers. -/

/-- A command of which a host read failed (14 R303). -/
def hostReadFailed (s : State) (c : Cmd) : State := 
  finish (raiseHostRead s c.fn (dTag c.desc) (dPart c.desc)) c stEndedData

/-- A register window's counter block is cleared in basin b unless the basin is withdrawn or does not exist, or the
device takes no such write (20 R425). -/
def writable (s : State) : Bool := staged s && !s.run.failed

/-- Change basin b when a write to it acts (20 R425). -/
def onBasin (s : State) (b : Nat) (f : Basin → Basin) : State :=
  if writable s && b < 10 && !(s.basin b).withdrawn then s.setBasin b (f (s.basin b)) else s

/-- Data of a rank's part joins a chunk, in the order of arrival (R280). -/
def Chunk.take (c : Chunk) (rank : Nat) (bs : List Byte) : Chunk :=
  { c with parts := Tab.mod c.parts rank [] (· ++ bs), order := if c.order.contains rank then c.order else c.order ++ [rank] }

/-- A written table bank of partition p waits for its switch: jobs wait (05 R120 step 2). -/
def switchWaits (s : State) (p : Nat) : Bool := (liveBasins s p).any fun b => (s.basin b).sfu.switchPending

/-- A reseed comes before the generator's next request (09 R208). -/
def reseedDue (r : Rng) : Bool := (r.requests + 1) % 4096 == 0

/-- The seeding generator can supply seeds (09 R209, R217). -/
def drbgReady (r : Rng) : Bool := r.instantiated && !(reseedDue r && !r.springOk)

/-- The lane test port names a core without a generator in use (09 R217). -/
def ltBadCore (s : State) (c : Nat) : Bool := 1500 ≤ c || (s.core c).role == 2 || (s.core c).role == 3

end Sys2Proof.Machine
end

