-- ==== Sys2Proof/Machine/Rings.lean ====
section
/-! DEFINITION. Sys2Proof/Machine/Rings.lean: doorbells, ring configuration, interrupts, event rings, foreign
requests (14 R302 to R317, 19 R417 to R421), and NOP (14 R321). -/

namespace Sys2Proof.Machine

/-- Accesses of function f reach the device (14 R304, 17 R373, 19 R410). -/
def reaches (s : State) (f : Nat) : Bool := staged s && s.run.pcieUp && !s.jtag.pins && fnEnabled s f

/-! NOP. -/

/-- NOP completes with ST_OK once it starts (14 R321). -/
def runNop (s : State) (c : Cmd) (env : Env) : State :=
  let t := chargeCmd s c env.charge
  finish t.1 t.2 stOk

/-- NOP. -/
def execNop (f q : Nat) (env : Env) (s : State) : Host.Outcome State Fault Refusal :=
  .next (takeRow 0x0001 f q env noEarly runNop s)

/-! Doorbells (14 R311, R330). -/

/-- A write of v to the tail doorbell of submission ring q. -/
def sqTail (f q v : Nat) (s : State) : State :=
  let w := BitVec.ofNat 16 v
  let r := { s.sq f q with bell := w }
  if r.log2 == 0 then s.setSq f q r
  else if 2 ^ r.log2.toNat ≤ w.toNat then
    raiseRingError (s.setSq f q { r with error := true, cause := 1 }) f q false 1
  else s.setSq f q { r with tail := w }

/-- SQ_TAIL_DOORBELL (14 R311). -/
def execSqTailDoorbell (f q v : Nat) (s : State) : Host.Outcome State Fault Refusal :=
  .next (if reaches s f && q < 64 then sqTail f q v s else s)

/-- A write of v to the head doorbell of completion ring q. -/
def cqHead (f q v : Nat) (s : State) : State :=
  let w := BitVec.ofNat 16 v
  let r := { s.cq f q with bell := w }
  if r.log2 == 0 then s.setCq f q r
  else if 2 ^ r.log2.toNat ≤ w.toNat then
    raiseRingError (s.setCq f q { r with error := true, cause := 1 }) f q true 1
  else s.setCq f q { r with head := w }

/-- CQ_HEAD_DOORBELL (14 R311). -/
def execCqHeadDoorbell (f q v : Nat) (s : State) : Host.Outcome State Fault Refusal :=
  .next (if reaches s f && q < 64 then cqHead f q v s else s)

/-! Ring configuration (14 R309, R310, R329). -/

/-- RING.SQ_CFG as one word. -/
def sqCfgWord (r : SubRing) : Word64 :=
  BitVec.ofNat 64 (packFields [(0, r.log2.toNat), (5, r.cq.toNat), (12, r.base.toNat)])

/-- RING.CQ_CFG as one word. -/
def cqCfgWord (r : CompRing) : Word64 := BitVec.ofNat 64 (packFields [(0, r.log2.toNat), (12, r.base.toNat)])

/-- A LOG2_SIZE that enables a ring (14 R309). -/
def ringSize (n : Nat) : Bool := 4 ≤ n && n ≤ 16

/-- A write to a submission ring's configuration (14 R310). -/
def sqCfg (f q : Nat) (acc : RegAcc) (v : Word64) (s : State) : State :=
  let r := s.sq f q
  let w := (accMerge acc (sqCfgWord r) v).toNat
  let n := bitsOf w 0 5
  let r' := { r with log2 := BitVec.ofNat 5 n, cq := BitVec.ofNat 6 (bitsOf w 5 6), base := BitVec.ofNat 52 (bitsOf w 12 52) }
  if n = 0 then s.setSq f q r'
  else if r.log2 != 0 then s
  else if ringSize n && inWindows s f (bitsOf w 12 52 * 4096) (128 * 2 ^ n) && (s.cq f (bitsOf w 5 6)).log2 != 0 then
    s.setSq f q { r' with head := 0, tail := 0, error := false, cause := 0, chain := .free }
  else s

/-- SQ_CFG_WRITE (14 R310). -/
def execSqCfgWrite (f q : Nat) (acc : RegAcc) (v : Word64) (s : State) : Host.Outcome State Fault Refusal :=
  .next (if reaches s f && q < 64 then sqCfg f q acc v s else s)

/-- An enabled submission ring links to completion ring q of f, or a command still owes it an entry (14 R310). -/
def cqBusy (s : State) (f q : Nat) : Bool :=
  ((List.range 64).any fun i => (s.sq f i).log2 != 0 && (s.sq f i).cq.toNat == q)
    || s.cmds.any fun c => c.fn == f && c.cq == q

/-- A write to a completion ring's configuration (14 R310). -/
def cqCfg (f q : Nat) (acc : RegAcc) (v : Word64) (s : State) : State :=
  let r := s.cq f q
  let w := (accMerge acc (cqCfgWord r) v).toNat
  let n := bitsOf w 0 5
  let r' := { r with log2 := BitVec.ofNat 5 n, base := BitVec.ofNat 52 (bitsOf w 12 52) }
  if n = 0 then (if r.log2 != 0 && cqBusy s f q then s else s.setCq f q r')
  else if r.log2 != 0 then s
  else if ringSize n && inWindows s f (bitsOf w 12 52 * 4096) (32 * 2 ^ n) then
    s.setCq f q { r' with head := 0, tail := 0, phase := true, error := false, cause := 0, lastVector := none,
                          held := false }
  else s

/-- CQ_CFG_WRITE (14 R310). -/
def execCqCfgWrite (f q : Nat) (acc : RegAcc) (v : Word64) (s : State) : Host.Outcome State Fault Refusal :=
  .next (if reaches s f && q < 64 then cqCfg f q acc v s else s)

/-- DESCRIPTOR_READ_FAIL (14 R317): the descriptor at HEAD of a ring that would be read cannot be. -/
def execDescriptorReadFail (f q : Nat) (s : State) : Host.Outcome State Fault Refusal :=
  .next (match lookAt s f q with
    | .found _ =>
      let s1 := { s with hif := { s.hif with hostRdErr := satAdd s.hif.hostRdErr 1 } }
      raiseRingError (s1.setSq f q { s1.sq f q with error := true, cause := 2 }) f q false 2
    | _ => s)

/-- IRQ_HOLDOFF_END (14 R316): the held vector of a completion ring, or of the function's event ring, is raised. -/
def execIrqHoldoffEnd (f q : Nat) (ev : Bool) (s : State) : Host.Outcome State Fault Refusal :=
  .next (
    if ev then
      let r := s.evtRing f
      if r.held && vectorDue s.now r.holdoff.toNat r.lastVector then
        raiseVector (s.setEvtRing f { r with held := false, lastVector := some s.now }) f r.vector.toNat
      else s
    else
      let r := s.cq f q
      if r.held && vectorDue s.now r.holdoff.toNat r.lastVector then
        raiseVector (s.setCq f q { r with held := false, lastVector := some s.now }) f r.vector.toNat
      else s)

/-! Event rings (19 R417, R418, R421). -/

/-- EVT.CFG as one word. -/
def evtCfgWord (r : EvtRing) : Word64 := BitVec.ofNat 64 (packFields [(0, r.log2.toNat), (12, r.base.toNat)])

/-- EVT_CFG_WRITE (19 R421): it acts only while the ring is disabled, but for a write of 0; enabling starts the ring
afresh (log 20). -/
def execEvtCfgWrite (f : Nat) (acc : RegAcc) (v : Word64) (s : State) : Host.Outcome State Fault Refusal :=
  .next (
    if !reaches s f then s
    else
      let r := s.evtRing f
      let w := (accMerge acc (evtCfgWord r) v).toNat
      let n := bitsOf w 0 5
      let r' := { r with log2 := BitVec.ofNat 5 n, base := BitVec.ofNat 52 (bitsOf w 12 52) }
      if n = 0 then s.setEvtRing f r'
      else if r.log2 != 0 || !ringSize n then s
      else s.setEvtRing f { r' with head := 0, tail := 0, phase := true, lost := none, lastVector := none, held := false })

/-- EVT_HEAD_WRITE (19 R418, R421): values of 2^n and above are ignored. -/
def execEvtHeadWrite (f v : Nat) (s : State) : Host.Outcome State Fault Refusal :=
  .next (
    let r := s.evtRing f
    if reaches s f && v < 2 ^ r.log2.toNat && v < 65536 then s.setEvtRing f { r with head := BitVec.ofNat 16 v } else s)

/-- One entry into the place at TAIL of f's event ring, or dropped outside the windows (14 R306). -/
def putEvent (s : State) (f : Nat) (e : Event) : State :=
  let r := s.evtRing f
  let a := r.base.toNat * 4096 + r.tail.toNat * 32
  if inWindows s f a 32 then
    let tail' := (r.tail.toNat + 1) % 2 ^ r.log2.toNat
    let due := vectorDue s.now r.holdoff.toNat r.lastVector
    let s1 := (hostWrite s a (eventBytes s e r.phase)).setEvtRing f
      { r with tail := BitVec.ofNat 16 tail', phase := if tail' = 0 then !r.phase else r.phase,
               written := satAdd r.written 1,
               lastVector := if r.irqEn && due then some s.now else r.lastVector,
               held := if r.irqEn then !due else r.held }
    if r.irqEn && due then raiseVector s1 f r.vector.toNat else s1
  else s.setEvtRing f { r with dropped := satAdd r.dropped 1 }

/-- The event ring of f has no free place. -/
def evtFull (s : State) (f : Nat) : Bool :=
  let r := s.evtRing f
  (r.tail.toNat + 1) % 2 ^ r.log2.toNat == r.head.toNat

/-- The overflow that waits is reported first once places are free (19 R418). -/
def reportLost (s : State) (f : Nat) (e : Event) : State :=
  let r := s.evtRing f
  match r.lost with
  | some (n, t) =>
    if evtFull s f then s
    else
      let s1 := putEvent (s.setEvtRing f { r with lost := none }) f
        { mtc := e.mtc, source := (Config.overflowSource s.free).toNat, code := evEvtOverflow, part := 0xF,
          detail := toLe 8 n ++ toLe 8 t }
      s1.drawFree
  | none => s

/-- An event into f's ring, or dropped and counted when the ring is full. -/
def eventToRing (s : State) (f : Nat) (e : Event) : State :=
  if (s.evtRing f).log2 = 0 then s
  else
    let s1 := reportLost s f e
    if evtFull s1 f then
      let r := s1.evtRing f
      s1.setEvtRing f { r with dropped := satAdd r.dropped 1,
                               lost := some (match r.lost with | some (n, t) => (n + 1, t) | none => (1, e.mtc)) }
    else putEvent s1 f e

/-- Function f's ring receives the event (19 R417). -/
def receivesEvent (s : State) (f : Nat) (e : Event) : Bool :=
  f == 0 || (fnEnabled s f && ((e.part < 10 && bitOf (s.fn f).owned.toNat e.part) || e.fn == some f))

/-- Event a comes before b: ascending (mtc, source) (19 R417). -/
def eventBefore (a b : Event) : Bool := a.mtc < b.mtc || (a.mtc == b.mtc && a.source < b.source)

/-- The event to write next: the least by (mtc, source), the first raised among equals. -/
def nextEvent : List Event → Option Event
  | [] => none
  | e :: es => match nextEvent es with
    | some d => if eventBefore d e then some d else some e
    | none => some e

/-- EVENT_WRITE (19 R417): the next raised event goes to the rings that receive it, 20 µs after it was raised or
later. -/
def execEventWrite (s : State) : Host.Outcome State Fault Refusal :=
  .next (match nextEvent s.evt.raised with
    | some e =>
      if e.mtc + 20000 ≤ s.now then
        ((List.range 64).filter fun f => receivesEvent s f e).foldl (fun s f => eventToRing s f e)
          { s with evt := { s.evt with raised := s.evt.raised.erase e } }
      else s
    | none => s)

/-! Foreign requests (14 R302). -/

/-- FOREIGN_REQUEST (14 R302): a request of another requester is rejected and counted; a posted one is dropped and
logged through AER. -/
def execForeignRequest (requester : Nat) (posted : Bool) (s : State) : Host.Outcome State Fault Refusal :=
  .next (
    if staged s && s.run.pcieUp && s.hif.requester != some requester then
      { s with hif := { s.hif with p2pReject := satAdd s.hif.p2pReject 1,
                                   aerLogged := s.hif.aerLogged + b2n posted } }
    else s)

end Sys2Proof.Machine
end

