-- ==== Sys2Proof/Machine/Sha3.lean ====
section
/-! DEFINITION. Sys2Proof/Machine/Sha3.lean: SHA3-256 and SHA3-512 (FIPS 202), by which 05 R121, 06 R123, 07 R157,
09 R208 and 18 R386 to R397 measure. -/

namespace Sys2Proof.Machine

/-- The 25 lanes of the permutation's state; lane (x, y) has number x + 5y. -/
abbrev Lanes := List Word64

/-- Lane (x, y). -/
def laneAt (a : Lanes) (x y : Nat) : Word64 := a.getD (x % 5 + 5 * (y % 5)) 0

/-- The 25 lanes that f gives. -/
def mkLanes (f : Nat → Nat → Word64) : Lanes := (List.range 25).map fun i => f (i % 5) (i / 5)

/-- Rotation offsets, lane by lane. -/
def rhoOffsets : List Nat :=
  [0, 1, 62, 28, 27, 36, 44, 6, 55, 20, 3, 10, 43, 25, 39, 41, 45, 15, 21, 8, 18, 2, 61, 56, 14]

/-- Round constants. -/
def roundConstants : List Word64 :=
  [0x0000000000000001, 0x0000000000008082, 0x800000000000808A, 0x8000000080008000,
   0x000000000000808B, 0x0000000080000001, 0x8000000080008081, 0x8000000000008009,
   0x000000000000008A, 0x0000000000000088, 0x0000000080008009, 0x000000008000000A] ++
  [0x000000008000808B, 0x800000000000008B, 0x8000000000008089, 0x8000000000008003,
   0x8000000000008002, 0x8000000000000080, 0x000000000000800A, 0x800000008000000A,
   0x8000000080008081, 0x8000000000008080, 0x0000000080000001, 0x8000000080008008]

/-- Column parities spread over the lanes. -/
def keccakTheta (a : Lanes) : Lanes :=
  let c := (List.range 5).map fun x =>
    laneAt a x 0 ^^^ laneAt a x 1 ^^^ laneAt a x 2 ^^^ laneAt a x 3 ^^^ laneAt a x 4
  mkLanes fun x y => laneAt a x y ^^^ c.getD ((x + 4) % 5) 0 ^^^ (c.getD ((x + 1) % 5) 0).rotateLeft 1

/-- Lanes rotated and moved. -/
def keccakRhoPi (a : Lanes) : Lanes :=
  mkLanes fun x y =>
    let x' := (x + 3 * y) % 5
    (laneAt a x' x).rotateLeft (rhoOffsets.getD (x' + 5 * x) 0)

/-- Rows combined. -/
def keccakChi (a : Lanes) : Lanes :=
  mkLanes fun x y => laneAt a x y ^^^ (~~~ laneAt a (x + 1) y &&& laneAt a (x + 2) y)

/-- One round. -/
def keccakRound (a : Lanes) (rc : Word64) : Lanes :=
  match keccakChi (keccakRhoPi (keccakTheta a)) with
  | [] => []
  | l :: t => (l ^^^ rc) :: t

/-- The permutation of 24 rounds. -/
def keccakF (a : Lanes) : Lanes := roundConstants.foldl keccakRound a

/-- A block of rate bytes absorbed. -/
def absorbBlock (rate : Nat) (a : Lanes) (block : List Byte) : Lanes :=
  keccakF ((List.range 25).map fun i =>
    if 8 * i < rate then a.getD i 0 ^^^ BitVec.ofNat 64 (leAt block (8 * i) 8) else a.getD i 0)

/-- n blocks of the padded message absorbed. -/
def absorbN (rate : Nat) : Nat → Lanes → List Byte → Lanes
  | 0, a, _ => a
  | n + 1, a, m => absorbN rate n (absorbBlock rate a (m.take rate)) (m.drop rate)

/-- The message with SHA3's suffix and padding. -/
def sha3Pad (rate : Nat) (m : List Byte) : List Byte :=
  let k := rate - m.length % rate
  if k = 1 then m ++ [0x86] else m ++ [0x06] ++ List.replicate (k - 2) 0 ++ [0x80]

/-- SHA3 of out bytes, out at most the rate. -/
def sha3 (out : Nat) (m : List Byte) : List Byte :=
  let rate := 200 - 2 * out
  let p := sha3Pad rate m
  ((absorbN rate (p.length / rate) (List.replicate 25 0) p).flatMap fun l => toLe 8 l.toNat).take out

/-- SHA3-256. -/
def sha3_256 (m : List Byte) : List Byte := sha3 32 m
/-- SHA3-512. -/
def sha3_512 (m : List Byte) : List Byte := sha3 64 m

end Sys2Proof.Machine
end

