-- ==== Sys2Proof/Machine/Time.lean ====
section
/-! DEFINITION. Sys2Proof/Machine/Time.lean: the passing of machine time (12 R273), which in this model is what a step
does on an empty queue (log 4). -/

namespace Sys2Proof.Machine

/-- TARGET_MV as it acts: 0 selects 750 (17 R385). -/
def State.targetMv (s : State) : Nat := zeroSelects s.tel.targetMv 750

/-- VDD_TAP in force (17 R382): the lowest of the targets, never below 500 mV. -/
def vtapNow (s : State) : Nat :=
  let t := min (min s.targetMv s.tel.powerMv) s.tel.thermalMv
  max 500 (if s.run.throttleIn then min t (zeroSelects s.tel.throttleMv 600) else t)

/-- The power loop holds VDD_TAP below TARGET_MV (17 R380, R385 CAPPED). -/
def capped (s : State) : Bool := s.tel.powerMv < s.targetMv

/-- Thermal protection holds VDD_TAP down (17 R383, R385 THERMAL). -/
def thermal (s : State) : Bool := s.tel.thermalMv < s.targetMv

/-- One tick of the MTC: it counts, and so do the TEL time counters (17 R380, R381, R383). It does not run while the
device is held in reset or off. -/
def tick (s : State) : State :=
  if alive s then
    { s with
      mtc := { s.mtc with now := s.mtc.now + 1 }
      tel := { s.tel with
        capNs := satAdd s.tel.capNs (b2n (capped s))
        thermNs := satAdd s.tel.thermNs (b2n (thermal s))
        throttleNs := satAdd s.tel.throttleNs (b2n s.run.throttleIn) } }
  else s

end Sys2Proof.Machine
end

