-- ==== Sys2Proof/Machine/RegRead.lean ====
section
/-! DEFINITION. Sys2Proof/Machine/RegRead.lean: what every register of BAR0 reads (20 R422 to R428): block by block, in
the order of the map. An offset that holds no register reads 0 (00 R9). -/

namespace Sys2Proof.Machine

/-- A register's word from its fields (position, value). -/
def regWord (fs : List (Nat × Nat)) : Word64 := BitVec.ofNat 64 (packFields fs)

/-- A field of one bit. -/
def flag (pos : Nat) (b : Bool) : Nat × Nat := (pos, b2n b)

/-! GLB (20 R426). -/

/-- GLB.STATUS.STAGE (20 R426, log 23). -/
def stageCode (s : State) : Nat :=
  if s.run.phase != .stage1 then 0
  else if s.run.stage2 && s.run.stage3 then 3
  else if s.run.failed then 1
  else 2

/-- Basins in service. -/
def serviceBasins (s : State) : List Nat := (List.range 10).filter fun b => !(s.basin b).withdrawn

/-- Stacks in service. -/
def serviceStacks (s : State) : Nat := ((List.range 20).filter fun k => (s.stack k).inService).length

/-- GLB.CAPABILITY (20 R426): 0 until stage 2 completes. -/
def capability (s : State) : Word64 :=
  if !s.run.stage2 then 0
  else
    let bs := serviceBasins s
    let cm := (List.range 4).filter fun c => !bitOf s.run.codecDisabled.toNat c
    regWord ([(0, 144 * bs.length), (16, bs.length), (24, serviceStacks s), (32, 16), (37, cm.length)]
      ++ cm.map (fun c => (40 + c, 1)) ++ bs.map (fun b => (44 + b, 1)))

/-- The GLB block. -/
def readGlb (s : State) (f o : Nat) : Word64 :=
  if o = 0x000 then
    regWord [(0, 0x1E9D), (16, if f = 0 then 0x0A40 else 0x0A41), (32, 1), (40, 1), (44, 3)]
  else if o = 0x008 then capability s
  else if o = 0x010 then
    regWord [(0, stageCode s), flag 3 s.run.stage2, flag 4 s.run.stage3, flag 5 s.run.failed, flag 6 s.run.awaitImage]
  else 0

/-! HIF and RING (14 R328, R329). -/

/-- Function f's HIF registers. -/
def readHifFn (s : State) (f o : Nat) : Word64 :=
  let r := s.fn f
  if o = 0x00 then regWord [(0, f), flag 6 (fnEnabled s f), flag 7 r.flrBusy]
  else if o = 0x08 then regWord [(0, r.clientBase.toNat), (16, r.clientCount.toNat)]
  else if o = 0x10 then regWord [(0, r.owned.toNat)]
  else if 0x20 ≤ o && o < 0x60 then
    let k := (o - 0x20) / 16
    regWord [(12, (if o % 16 = 0 then r.winBase.getD k 0 else r.winLimit.getD k 0).toNat)]
  else if o = 0x60 then r.cmds
  else if o = 0x68 then regWord [(0, r.badDesc.toNat)]
  else 0

/-- A quadword of function f's MSI-X table or pending bits (14 R305). -/
def readMsix (s : State) (f o : Nat) : Word64 :=
  if 0x8000 ≤ o && o < 0x8000 + 16 * vectorCount f then msixWord s f ((o - 0x8000) / 8)
  else if 0x7000 ≤ o && o < 0x7000 + vectorCount f / 8 then
    regWord (((List.range 64).filter fun i => s.hif.pba.contains (f, (o - 0x7000) * 8 + i)).map fun i => (i, 1))
  else 0

/-- The HIF block as function f sees it. -/
def readHif (s : State) (f o : Nat) : Word64 :=
  if 0x7000 ≤ o then readMsix s f o
  else if f != 0 then (if 0x1000 ≤ o && o < 0x1100 then readHifFn s f (o - 0x1000) else 0)
  else if 0x1000 ≤ o then (if o < 0x5000 then readHifFn s ((o - 0x1000) / 0x100) (o % 0x100) else 0)
  else if o = 0x000 then regWord [(0, s.hif.speed.toNat), flag 3 s.hif.flit, (4, s.hif.width.toNat)]
  else if o = 0x010 then s.hif.rdBytes
  else if o = 0x018 then s.hif.wrBytes
  else if o = 0x020 then regWord [(0, satNat 32 s.cmds.length)]
  else if o = 0x028 then regWord [(0, s.hif.hostRdErr.toNat)]
  else if o = 0x030 then regWord [(0, s.hif.p2pReject.toNat)]
  else 0

/-- RING.SQ_STATE. -/
def sqStateWord (s : State) (f q : Nat) : Word64 :=
  let r := s.sq f q
  regWord [(0, r.head.toNat), (16, r.tail.toNat), flag 32 r.error, (33, r.cause.toNat),
    (48, satNat 16 (s.cmds.filter fun c => c.fn == f && c.sq == q).length)]

/-- RING.CQ_STATE. -/
def cqStateWord (r : CompRing) : Word64 :=
  regWord [(0, r.tail.toNat), (16, r.head.toNat), flag 32 r.phase, flag 33 r.irqEn, (34, r.vector.toNat),
    (45, r.holdoff.toNat), flag 53 r.error, (54, r.cause.toNat)]

/-- Function f's ring registers. -/
def readRing (s : State) (f o : Nat) : Word64 :=
  if o < 0x400 then (if o % 16 = 0 then sqCfgWord (s.sq f (o / 16)) else sqStateWord s f (o / 16))
  else if o < 0x800 then
    (if o % 16 = 0 then cqCfgWord (s.cq f ((o - 0x400) / 16)) else cqStateWord (s.cq f ((o - 0x400) / 16)))
  else 0

/-! MGT, SEC, LCS (20 R427, 18 R402, R403). -/

/-- The MGT block. -/
def readMgt (s : State) (o : Nat) : Word64 :=
  if o = 0x000 then regWord [(0, s.mgt.opcode.toNat), flag 10 s.mgt.done, (11, s.mgt.result.toNat)]
  else if o = 0x008 then s.mgt.arg0
  else if o = 0x010 then s.mgt.arg1
  else if o = 0x018 then s.mgt.resp0
  else 0

/-- SEC.SLOTS.STATE. -/
def slotsByte (fs : Fuses) : Nat := packFields ((List.range 4).map fun k => (2 * k, (fs.slots.getD k {}).state.toNat))

/-- The digest of the identity public key, zero without identity (18 R394, R402). -/
def idDigest (fs : Fuses) : List Byte :=
  match fs.identity with
  | some seed => sha3_256 (Config.mldsaPublicKey seed)
  | none => List.replicate 32 0

/-- The SEC block. -/
def readSec (s : State) (o : Nat) : Word64 :=
  let r := s.sec
  if o = 0x008 then
    regWord [flag 0 r.imageOk, flag 1 r.source, (2, r.slot.toNat), (4, r.failCause.toNat), (8, r.svn.toNat)]
  else if o = 0x010 then regWord [(0, slotsByte s.fuses)]
  else if o = 0x018 then regWord [(0, s.fuses.rollback)]
  else if o = 0x020 then regWord [(0, r.recovLen.toNat)]
  else if o = 0x028 then regWord [flag 1 r.recovMode, flag 3 r.recovDone, (4, r.recovResult.toNat)]
  else if 0x040 ≤ o && o < 0x080 then BitVec.ofNat 64 (leAt r.fwDigest (o - 0x040) 8)
  else if 0x080 ≤ o && o < 0x090 then BitVec.ofNat 64 (leAt s.fuses.serial (o - 0x080) 8)
  else if 0x090 ≤ o && o < 0x0B0 then BitVec.ofNat 64 (leAt (idDigest s.fuses) (o - 0x090) 8)
  else if 0x100 ≤ o && o < 0x140 then r.nonce.getD ((o - 0x100) / 8) 0
  else if o = 0x140 then r.attDst
  else if o = 0x148 then regWord [flag 1 r.attKind, flag 3 r.attDone, (4, r.attResult.toNat)]
  else if o = 0x150 then regWord [(0, r.attLen.toNat)]
  else if o = 0x160 then regWord [(0, r.recovFails.toNat)]
  else if o = 0x168 then regWord [(0, r.reports.toNat)]
  else 0

/-- LCS.STATE.DEBUG: JTAG readback is allowed in BLANK, TEST and RETURN (18 R398). -/
def debugAllowed (fs : Fuses) : Bool := fs.lcs == 0 || fs.lcs == 1 || fs.lcs == 4

/-- LCS.REQ. -/
def lcsReqWord (r : Sec) : Word64 :=
  regWord [(0, r.lcTarget.toNat), flag 5 r.lcDone, (6, r.lcResult.toNat), (10, r.lcDetail.toNat)]

/-- The LCS block. -/
def readLcs (s : State) (o : Nat) : Word64 :=
  if o = 0x000 then
    regWord [(0, s.fuses.lcs.toNat), flag 3 (debugAllowed s.fuses), (8, s.fuses.storeEpoch.toNat)]
  else if o = 0x008 then lcsReqWord s.sec
  else if o = 0x010 then s.sec.recordAddr
  else if o = 0x018 then regWord [(0, s.sec.slotSel.toNat), flag 5 s.sec.slotDone, (6, s.sec.slotResult.toNat)]
  else if 0x020 ≤ o && o < 0x040 then s.sec.slotHash.getD ((o - 0x020) / 8) 0
  else 0

/-! TEL and MTC (17 R385, 12 R283). -/

/-- The TEL block. -/
def readTel (s : State) (o : Nat) : Word64 :=
  let r := s.tel
  if o = 0x008 then
    regWord [flag 0 (capped s), flag 1 (thermal s), flag 2 s.run.throttleIn, flag 3 s.run.thermAlert,
      flag 4 r.unreachable, flag 5 (vtapNow s < 680)]
  else if o = 0x010 then regWord [(0, r.limitW.toNat)]
  else if o = 0x018 then regWord [(0, r.targetMv.toNat), (16, vtapNow s)]
  else if o = 0x020 then regWord [(0, r.throttleMv.toNat)]
  else if o = 0x028 then
    regWord [(0, r.targetC.toNat), (8, r.hbmTargetC.toNat), (16, r.hottestC.toNat), (24, r.hottestDie.toNat)]
  else if o = 0x030 then regWord [(0, r.pwrNow.toNat)]
  else if o = 0x040 then r.capNs
  else if o = 0x048 then r.thermNs
  else if o = 0x050 then r.throttleNs
  else if o = 0x058 then regWord [(8, s.run.lastCause.toNat)]
  else if o = 0x060 then regWord [(0, r.railSel.toNat)]
  else if o = 0x068 then
    (if r.railSel.toNat < 11 then regWord [(0, r.rails.getD r.railSel.toNat 0 % 2 ^ 48)] else 0)
  else if 0x100 ≤ o && o < 0x100 + 8 * 60 then
    let d := (o - 0x100) / 8
    regWord [(0, (Tab.get r.rates d 0).toNat), (16, (Tab.get r.dies d 0).toNat)]
  else 0

/-- The MTC block. -/
def readMtc (s : State) (o : Nat) : Word64 :=
  let r := s.mtc
  if o = 0x000 then r.now
  else if o = 0x008 then regWord [flag 0 r.resync]
  else if o = 0x010 then
    regWord [flag 0 r.sync, flag 1 r.root, flag 2 r.standalone, flag 3 r.isolated, (4, r.census.toNat),
      flag 6 r.unsync, (8, r.hops.toNat), (16, r.parentPort.toNat)]
  else if o = 0x018 then regWord [(0, s.run.straps.toNat), (16, devnum s)]
  else if o = 0x020 then regWord [(0, r.offset.toNat)]
  else if o = 0x028 then regWord [(0, r.trim.toNat)]
  else if o = 0x030 then regWord [(0, r.syncPeriod.toNat)]
  else if o = 0x038 then regWord [(0, r.mx.toNat), (3, r.my.toNat), (6, r.mz.toNat), (32, r.devices.toNat)]
  else if o = 0x040 then regWord [(0, r.retrainMs.toNat), (16, r.collMs.toNat)]
  else if o = 0x048 then regWord [(0, r.censusSel.toNat)]
  else if o = 0x050 then
    regWord [(0, (Tab.get s.census.states r.censusSel.toNat 0).toNat),
      (8, (Tab.get s.census.blocks (r.censusSel.toNat / 64) 0).toNat)]
  else if o = 0x058 then regWord [(0, r.waves.toNat)]
  else if o = 0x060 then regWord [(0, r.lateStarts.toNat)]
  else 0

/-! EVT, ACCT, SCHED (19 R421, 15 R344, R345). -/

/-- Function f's event-ring registers. -/
def readEvtFn (s : State) (f o : Nat) : Word64 :=
  let r := s.evtRing f
  if o = 0x00 then evtCfgWord r
  else if o = 0x08 then
    regWord [(0, r.tail.toNat), (16, r.head.toNat), flag 32 r.phase, flag 33 r.irqEn, (34, r.vector.toNat),
      (45, r.holdoff.toNat)]
  else if o = 0x10 then r.written
  else if o = 0x18 then regWord [(0, r.dropped.toNat)]
  else 0

/-- The EVT block as function f sees it. -/
def readEvt (s : State) (f o : Nat) : Word64 :=
  if f != 0 then (if o < 0x100 then readEvtFn s f o else 0)
  else if o < 0x4000 then readEvtFn s (o / 0x100) (o % 0x100)
  else if o = 0x8000 then regWord [(0, s.evt.logSel.toNat)]
  else if 0x8008 ≤ o && o < 0x8028 then
    match s.evt.log[s.evt.logSel.toNat]? with
    | some e => BitVec.ofNat 64 (leAt (eventBytes s e false) (o - 0x8008) 8)
    | none => 0
  else 0

/-- An account record (15 R343). -/
def accountBytes (s : State) (c : Nat) : List Byte :=
  let a := s.account c
  toLe 8 c ++ toLe 8 s.now ++ a.engine.flatMap (fun w => toLe 8 w.toNat)
    ++ a.bytes.flatMap (fun w => toLe 8 w.toNat) ++ toLe 8 a.energy.toNat

/-- The ACCT block; DATA reads what the function has latched (15 R345). -/
def readAcct (s : State) (f o : Nat) : Word64 :=
  if o = 0x008 then regWord [(0, s.acct.sel.toNat)]
  else if o = 0x010 then s.acct.unattrUj
  else if o = 0x018 then s.acct.totalUj
  else if o = 0x020 then s.acct.updateMtc
  else if 0x040 ≤ o && o < 0x0C0 then
    match (s.latch f).acct with
    | some r => BitVec.ofNat 64 (leAt r (o - 0x040) 8)
    | none => 0
  else 0

/-- The weight of a client (15 R336, R344). -/
def clientWeight (s : State) (c : Nat) : Nat := zeroSelects (Tab.get s.acct.weights c 1) 1

/-- The SCHED block. -/
def readSched (s : State) (o : Nat) : Word64 :=
  if 0x8000 ≤ o then regWord [(0, (Tab.get s.acct.weights ((o - 0x8000) / 8) 1).toNat)]
  else if 0x1000 ≤ o && o < 0x1A00 then
    let p := (o - 0x1000) / 0x100
    let k := o % 0x100
    let r := s.partRun p
    if k = 0x00 then
      regWord [flag 0 (match r.job with | some j => j.serving | none => false), flag 1 r.preempted.isSome,
        flag 2 r.halted, flag 3 r.switchAt.isSome]
    else if k = 0x08 then regWord [(0, match Tab.find s.parts p with | some q => q.budget | none => 8192)]
    else if k = 0x10 then r.steps
    else if k = 0x18 then r.decodeTokens
    else if k = 0x20 then r.prefillTokens
    else if k = 0x28 then regWord [(0, r.lastStepNs.toNat)]
    else if k = 0x30 then regWord [(0, r.switches.toNat)]
    else if k = 0x38 then regWord [(0, r.lastSwitchNs.toNat)]
    else 0
  else 0

/-! OPT, HBM, FLS, CDC (12 R284, 08 R204, 16 R365, 11 R259). -/

/-- The direction of port q (12 R260). -/
def portDir (q : Nat) : Nat := if q < 12 then q / 2 else 6

/-- Port q's registers. -/
def readOpt (s : State) (q o : Nat) : Word64 :=
  let r := s.port q
  if o = 0x000 then regWord [(0, q), (8, q / 2 + 1), (12, portDir q)]
  else if o = 0x008 then regWord [flag 0 r.enable, (3, r.loopback.toNat)]
  else if o = 0x010 then
    regWord [(0, r.lightOk.toNat), flag 8 r.linkUp, flag 9 r.peerLost, flag 10 r.isolated, (16, r.epoch.toNat)]
  else if o = 0x018 then regWord [(0, r.peerDev.toNat), (12, r.peerPort.toNat), flag 16 r.peerValid]
  else if o = 0x020 then r.peerSession
  else if o = 0x028 then regWord [(0, r.holder.toNat), (32, r.holderPart.toNat)]
  else if o = 0x030 then r.fecCorr
  else if o = 0x038 then r.fecUncorr
  else if o = 0x040 then regWord [(0, r.crcErr.toNat)]
  else if o = 0x048 then regWord [(0, r.retries.toNat)]
  else if o = 0x050 then regWord [(0, r.retrains.toNat)]
  else if o = 0x058 then r.tx
  else if o = 0x060 then r.rx
  else if o = 0x068 then r.transit
  else if o = 0x070 then regWord [(0, r.fencedTalk.toNat)]
  else if o = 0x078 then regWord [(0, r.stale.toNat)]
  else if 0x080 ≤ o && o < 0x0C0 then
    (if r.linkUp then regWord [(0, (Config.rxPower s.free q ((o - 0x080) / 8)).toNat)] else 0)
  else if 0x0C0 ≤ o && o < 0x100 then regWord [(0, (r.laserPower.getD ((o - 0x0C0) / 8) 0).toNat)]
  else if o = 0x100 then regWord [(0, r.delay.toNat)]
  else 0

/-- Stack k's registers. -/
def readStack (s : State) (k o : Nat) : Word64 :=
  let r := s.stack k
  if o = 0x000 then regWord [(0, k), (8, k / 2), (32, r.info.toNat)]
  else if o = 0x008 then
    regWord [flag 0 r.trained, flag 1 r.inService, flag 2 r.failed, (8, r.failCause.toNat), (16, r.failChannel.toNat)]
  else if o = 0x010 then regWord [flag 1 r.patrolEn]
  else if o = 0x018 then regWord [(0, r.temp.toNat)]
  else if o = 0x020 then r.ce
  else if o = 0x028 then r.retried
  else if o = 0x030 then regWord [(0, r.ue.toNat)]
  else if o = 0x038 then regWord [(0, r.addrErr.toNat)]
  else if o = 0x040 then regWord [(0, r.late.toNat)]
  else if o = 0x048 then r.readBytes
  else if o = 0x050 then r.writeBytes
  else if o = 0x058 then regWord [(0, r.ueAtom.toNat), (32, r.ueChannel.toNat)]
  else if o = 0x060 then regWord [(0, r.patrol.toNat)]
  else 0

/-- The traffic generator of device channel c. -/
def readTg (s : State) (c o : Nat) : Word64 :=
  let r := s.tg c
  if o = 0x000 then
    regWord [flag 1 r.stop, (2, r.pattern.toNat), (5, r.op.toNat), flag 7 r.continuous, (8, r.share.toNat)]
  else if o = 0x008 then regWord [flag 0 r.busy, flag 1 r.done, flag 2 r.miscompare, flag 3 r.refused]
  else if o = 0x010 then regWord [(0, r.seed.toNat)]
  else if o = 0x018 then regWord [(0, r.first.toNat)]
  else if o = 0x020 then regWord [(0, r.last.toNat)]
  else if o = 0x028 then regWord [(0, r.loops.toNat)]
  else if o = 0x030 then r.errBits
  else if o = 0x038 then r.errAtoms
  else if o = 0x040 then regWord [(0, r.firstErr.toNat)]
  else if o = 0x048 then r.rdBytes
  else if o = 0x050 then r.wrBytes
  else if o = 0x058 then r.timeNs
  else if 0x080 ≤ o && o < 0x100 then r.lat.getD ((o - 0x080) / 8) 0
  else 0

/-- The HBM block. -/
def readHbm (s : State) (o : Nat) : Word64 :=
  let k := o / 0x10000
  let r := o % 0x10000
  if r < 0x1000 then readStack s k r
  else if 0x8000 ≤ r then readTg s (k * 32 + (r - 0x8000) / 0x400) (r % 0x400)
  else 0

/-- Objects of the store that functions can see hold space: bytes of the objects function f owns (16 R365). -/
def ownedBytes (s : State) (f : Nat) : Nat :=
  ((Tab.vals s.medium.objects).filter fun o => o.owner == f).map (fun o => o.bytes.length) |>.sum

/-- Bytes all objects hold. -/
def heldBytes (s : State) : Nat := ((Tab.vals s.medium.objects).map fun o => o.bytes.length).sum

/-- Usable bytes no object holds (16 R363). -/
def flashFree (s : State) : Nat := s.fls.capacity.toNat - heldBytes s

/-- FLS.BLK_DATA of the selected block (16 R361, R365): what the medium holds of it, retired where a program or erase failed. -/
def blockData (m : Medium) (sel : Nat) : Word64 :=
  let w := Config.blockRecord sel
  if m.grownBad.contains sel then w ||| 0x300000000 else w

/-- The FLS block. -/
def readFls (s : State) (o : Nat) : Word64 :=
  let r := s.fls
  if o = 0x000 then regWord [flag 1 r.patrolEn]
  else if o = 0x008 then
    regWord [flag 0 r.online, flag 1 r.readOnly, (2, r.medium.toNat), (8, r.trainedCh.toNat), (16, r.offlineCause.toNat)]
  else if o = 0x010 then regWord [(0, r.rate.toNat)]
  else if o = 0x018 then r.rawBytes
  else if o = 0x020 then r.capacity
  else if o = 0x028 then (if r.online then regWord [(0, flashFree s)] else 0)
  else if o = 0x030 then (if r.online then regWord [(0, s.medium.objects.length)] else 0)
  else if o = 0x038 then regWord [(0, r.spare.toNat)]
  else if o = 0x040 then regWord [(0, r.badFactory.toNat)]
  else if o = 0x048 then regWord [(0, r.badGrown.toNat)]
  else if o = 0x050 then r.readBytes
  else if o = 0x058 then r.writeBytes
  else if o = 0x060 then r.cwCorrected
  else if o = 0x068 then regWord [(0, r.retryReads.toNat)]
  else if o = 0x070 then regWord [(0, r.softDecodes.toNat)]
  else if o = 0x078 then regWord [(0, r.ue.toNat)]
  else if o = 0x080 then r.ueLastObj
  else if o = 0x088 then r.ueLastOff
  else if o = 0x090 then regWord [(0, r.refreshed.toNat)]
  else if o = 0x098 then regWord [(0, r.patrol.toNat)]
  else if o = 0x0A0 then regWord [(0, r.eraseMax.toNat)]
  else if o = 0x0A8 then regWord [(0, r.eraseMin.toNat)]
  else if o = 0x0B0 then regWord [(0, r.eraseMean.toNat)]
  else if o = 0x0B8 then regWord [(0, r.ratedPe.toNat)]
  else if o = 0x0C0 then regWord [(0, r.blkSel.toNat)]
  else if o = 0x0C8 then (if r.online then blockData s.medium r.blkSel.toNat else 0)
  else if 0x1000 ≤ o && o < 0x1400 then
    let f := (o - 0x1000) / 16
    if o % 16 = 0 then Tab.get r.quotas f (BitVec.allOnes 64)
    else if r.online then regWord [(0, ownedBytes s f)] else 0
  else 0

/-- Codec engine c's registers. -/
def readCdc (s : State) (c o : Nat) : Word64 :=
  let r := s.codec c
  if o = 0x000 then regWord [(0, c), (8, c + 6)]
  else if o = 0x010 then
    regWord [flag 0 r.busy, flag 1 (r.holder != 0), (2, r.holderPart.toNat), (8, satNat 8 r.queue.length)]
  else if o = 0x018 then regWord [(0, r.holder.toNat)]
  else if o = 0x020 then regWord [(0, r.curTag.toNat), (32, r.curFrame.toNat)]
  else if o = 0x028 then r.framesEnc
  else if o = 0x030 then r.framesDec
  else if o = 0x038 then r.bytesOut
  else if o = 0x040 then r.bytesIn
  else if o = 0x048 then regWord [(0, r.rowsRecoded.toNat)]
  else if o = 0x050 then regWord [(0, r.rowsSkipped.toNat)]
  else if o = 0x058 then regWord [(0, r.picsDamaged.toNat)]
  else if o = 0x060 then r.blocksConcealed
  else if o = 0x068 then r.clamped
  else if o = 0x070 then regWord [(0, r.hintsIgnored.toNat)]
  else if o = 0x078 then regWord [(0, r.unsupported.toNat)]
  else if o = 0x080 then regWord [(0, r.bounds.toNat)]
  else 0

/-! The windows of a basin: SFU, WRK, MERE, NUM, ATT, UPD, RSM. -/

/-- Word i of a table bank (05 R103). -/
def bankWord (t : TableBank) (i : Nat) : Word32 :=
  match t with
  | .blank => 0
  | .defaults => Config.defaultCoeff i
  | .loaded ws => ws.getD i 0

/-- The 32 KiB of a table bank. -/
def bankBytes (t : TableBank) : List Byte := (List.range 8192).flatMap fun i => toLe 4 (bankWord t i).toNat

/-- The active bank. -/
def Sfu.bank (r : Sfu) : TableBank := if r.active then r.bank1 else r.bank0

/-- The digest of the active bank (05 R121); zero before the banks are first loaded. -/
def sfuDigest (r : Sfu) : List Byte := if r.bank = .blank then List.replicate 32 0 else sha3_256 (bankBytes r.bank)

/-- Basin b's SFU registers. -/
def readSfu (s : State) (b o : Nat) : Word64 :=
  let r := (s.basin b).sfu
  if o = 0x008 then regWord [flag 0 r.active, flag 1 r.loadBusy, flag 2 r.switchPending]
  else if o = 0x010 then regWord [(0, r.gen0.toNat)]
  else if o = 0x018 then regWord [(0, r.gen1.toNat)]
  else if 0x020 ≤ o && o < 0x040 then BitVec.ofNat 64 (leAt (sfuDigest r) (o - 0x020) 8)
  else if o = 0x040 then r.results
  else if o = 0x048 then r.flushed
  else if o = 0x050 then regWord [(0, r.nonfinite.toNat)]
  else if o = 0x058 then regWord [(0, r.loads.toNat)]
  else 0

/-- RNG registers (09 R217). -/
def readRng (s : State) (o : Nat) : Word64 :=
  let r := s.rng
  if o = 0x008 then
    regWord [flag 0 r.springOk, flag 1 (drbgReady r), flag 2 r.springFail, (3, r.failTest.toNat), (5, r.attempts.toNat)]
  else if o = 0x010 then r.rawBits
  else if o = 0x018 then regWord [(0, r.rctFails.toNat)]
  else if o = 0x020 then regWord [(0, r.aptFails.toNat)]
  else if o = 0x028 then r.seeds
  else if o = 0x030 then regWord [(0, r.reseeds.toNat)]
  else if o = 0x040 then r.ltKey0
  else if o = 0x048 then r.ltKey1
  else if o = 0x050 then r.ltIndex
  else if o = 0x058 then regWord [(0, r.ltDraw.toNat), (32, r.ltStream.toNat)]
  else if o = 0x060 then regWord [(0, r.ltCore.toNat), (11, r.ltLane.toNat), flag 20 r.ltDone, flag 21 (ltBadCore s r.ltCore.toNat)]
  else if o = 0x068 then r.ltOut0
  else if o = 0x070 then r.ltOut1
  else 0

/-- The partition whose lead basin is b. -/
def ledBy (s : State) (b : Nat) : Option Nat := (List.range 10).find? fun p => leadBasin s p == some b

/-- The record of operation o in a plan image (06 R123, R125). -/
def opRecord (image : List Byte) (o : Nat) : List Byte := slice image (leAt image 48 8 + 64 * o) 64

/-- The lowest of a list of numbers. -/
def leastOf : List Nat → Option Nat
  | [] => none
  | x :: xs => match leastOf xs with
    | some y => some (min x y)
    | none => some x

/-- The lowest open operation of partition p's job (06 R144, 13 R286). -/
def lowestOpen (s : State) (p : Nat) : Option Exec :=
  match (s.partRun p).job with
  | some j => match leastOf (j.execs.map Exec.op) with
    | some o => j.execs.find? fun e => e.op == o
    | none => none
  | none => none

/-- The layer of an operation of a job's plan. -/
def opLayer (s : State) (p h o : Nat) : Nat :=
  match s.plan p h with
  | some pl => leAt (opRecord pl.image o) 2 2
  | none => 0

/-- WRK.PROGRESS of the partition (06 R144). -/
def progressWord (s : State) (p : Nat) : Word64 :=
  match (s.partRun p).job, lowestOpen s p with
  | some j, some e => regWord [(0, e.pass % 65536), (16, opLayer s p j.handle e.op), (32, e.op)]
  | _, _ => regWord [(32, 0xFFFF)]

/-- Basin b's WRK registers. -/
def readWrk (s : State) (b o : Nat) : Word64 :=
  let r := (s.basin b).wrk
  let led := ledBy s b
  if o = 0x008 then regWord [(0, r.timeoutUs.toNat)]
  else if o = 0x010 then regWord [(0, basinPart s b), flag 4 led.isSome]
  else match led with
    | none => if o = 0x028 then regWord [(32, 0xFFFF)] else 0
    | some p =>
      let run := s.partRun p
      if o = 0x018 then regWord [(0, run.epoch.toNat)]
      else if o = 0x020 then regWord [(0, match run.job with | some j => j.handle | none => 0)]
      else if o = 0x028 then progressWord s p
      else if o = 0x030 then (match run.job with | some j => j.seed | none => 0)
      else if o = 0x038 then r.fetches
      else if o = 0x040 then r.commits
      else if o = 0x048 then regWord [(0, r.dupCommits.toNat)]
      else if o = 0x050 then regWord [(0, r.reissued.toNat)]
      else if o = 0x058 then regWord [(0, match run.job with | some j => j.execs.length | none => 0)]
      else if o = 0x060 then r.ctxLen
      else 0

/-- Plan-region bytes of basin b that loaded plans hold (08 R203). -/
def heldIn (s : State) (b : Nat) : Nat :=
  ((Tab.vals s.plans).map fun p => ((p.held.filter fun e => e.1 == b).map Prod.snd).sum).sum

/-- The basin whose request-table slice holds the entry of a slot: entry e lies in basin e mod 10 (08 R180). -/
def entryBasin (p h slot : Nat) : Nat := Config.requestEntry p h slot % 262144 % 10

/-- Basin b's MERE registers. -/
def readMere (s : State) (b o : Nat) : Word64 :=
  let r := (s.basin b).mere
  if o = 0x000 then regWord [flag 1 r.scrubEn]
  else if o = 0x008 then regWord [(0, Config.planRegionBytes)]
  else if o = 0x010 then regWord [(0, satNat 32 (heldIn s b))]
  else if o = 0x018 then regWord [(0, satNat 32 (4096 * r.stream.length))]
  else if o = 0x020 then r.readBytes
  else if o = 0x028 then r.writeBytes
  else if o = 0x030 then r.hits
  else if o = 0x038 then r.misses
  else if o = 0x040 then r.merges
  else if o = 0x048 then regWord [(0, r.ce.toNat)]
  else if o = 0x050 then regWord [(0, r.ue.toNat)]
  else if o = 0x058 then regWord [(0, r.ueLast.toNat)]
  else if o = 0x060 then regWord [(0, r.passes.toNat)]
  else if o = 0x068 then
    regWord [(0, match ledBy s b with
      | some p => (match Tab.find s.parts p with | some q => q.deadlineUs | none => 2000)
      | none => 2000)]
  else 0

/-- Basin b's NUM registers. -/
def readNum (s : State) (b o : Nat) : Word64 :=
  let r := (s.basin b).num
  if o = 0x000 then regWord [flag 0 r.countEn, flag 1 r.freeze]
  else if o = 0x008 then r.checked
  else if o = 0x010 then regWord [(0, r.mismatch.toNat)]
  else if o = 0x018 then regWord [(0, r.overs.toNat)]
  else if o = 0x020 then regWord [(0, r.escalated.toNat)]
  else if o = 0x028 then r.spillDynamic
  else if o = 0x030 then regWord [(0, r.spillOverflow.toNat)]
  else if o = 0x038 then regWord [(0, r.nonfinite.toNat)]
  else if o = 0x040 then regWord [(0, r.errMax.toNat)]
  else if o = 0x048 then r.spillLast
  else if o = 0x050 then regWord [(0, r.status.toNat)]
  else 0

/-- The directory slice of a node (07 R158): bytes 0–3 of its key, mod 10. -/
def sliceOf (key : List Byte) : Nat := leAt key 0 4 % 10

/-- A cached node: no reference, no child (07 R161). -/
def Node.cached (n : Node) : Bool := n.refs == 0 && n.children == 0

/-- The code of a request's state (07 R162). -/
def ReqState.code : ReqState → Nat
  | .queued => 1
  | .prefill => 2
  | .decode => 3
  | .parked => 4
  | .done => 5

/-- A request-table entry (07 R162). -/
def requestBytes (r : Request) : List Byte :=
  [BitVec.ofNat 8 (packFields [(0, r.state.code), (3, r.priority), flag 6 r.retain, flag 7 r.endOnPark]),
   BitVec.ofNat 8 r.part, 0, 0]
    ++ toLe 4 r.plan ++ toLe 4 r.log.length ++ toLe 4 r.computed ++ toLe 4 r.generated ++ toLe 4 r.maxNew
    ++ toLe 4 r.shared ++ toLe 4 r.pages.length ++ toLe 8 r.seed.toNat ++ toLe 8 r.outAddr
    ++ toLe 8 r.progressAddr ++ toLe 4 r.admitOrder ++ toLe 4 r.parkCount

/-- The footprint record of an image (06 R127). -/
def footprint (image : List Byte) : List Byte := slice image (leAt image 64 8) 64

/-- The serving block of an image (07 R154). -/
def servingBlock (image : List Byte) : List Byte := slice image (leAt image 88 8) 32

/-- The image's kind (06 R123): 1 is a serving plan. -/
def planKind (image : List Byte) : Nat := leAt image 6 1

/-- Pages of a pool that are free (07 R178). -/
def poolFree (pl : Plan) : Nat := leAt (servingBlock pl.image) 0 4 - pl.pages.length

/-- The serving plan whose job runs on partition p. -/
def servingPlan (s : State) (p : Nat) : Option Plan :=
  match (s.partRun p).job with
  | some j => if j.serving then s.plan p j.handle else none
  | none => none

/-- Requests of partition p in a state. -/
def countState (s : State) (p : Nat) (st : ReqState) : Nat :=
  ((Tab.vals s.requests).filter fun r => r.part == p && r.state == st).length

/-- Basin b's ATT registers. -/
def readAtt (s : State) (b o : Nat) : Word64 :=
  let r := (s.basin b).att
  if o = 0x008 then regWord [(0, (s.nodes.filter fun n => sliceOf n.key == b).length)]
  else if o = 0x010 then regWord [(0, Config.sliceNodes)]
  else if o = 0x018 then r.lookups
  else if o = 0x020 then r.hits
  else if o = 0x028 then r.inserts
  else if o = 0x030 then r.evicts
  else if o = 0x038 then regWord [(0, r.collisions.toNat)]
  else if o = 0x040 then regWord [(0, r.insertFull.toNat)]
  else match ledBy s b with
    | none => if o = 0x078 then regWord [(0, r.reqHandle.toNat), (32, r.reqSlot.toNat)] else 0
    | some p =>
      let valid := match s.plan p r.reqHandle.toNat with
        | some pl => planKind pl.image == 1 && r.reqSlot.toNat < leAt (footprint pl.image) 4 4
        | none => false
      if o = 0x048 then regWord [(0, match servingPlan s p with | some pl => leAt (servingBlock pl.image) 0 4 | none => 0)]
      else if o = 0x050 then regWord [(0, match servingPlan s p with | some pl => poolFree pl | none => 0)]
      else if o = 0x058 then
        regWord [(0, (s.nodes.filter fun n => n.part == p && n.cached).length)]
      else if o = 0x060 then regWord [(0, r.parks.toNat)]
      else if o = 0x068 then regWord [(0, countState s p .queued), (32, countState s p .prefill)]
      else if o = 0x070 then regWord [(0, countState s p .decode), (32, countState s p .parked)]
      else if o = 0x078 then regWord [(0, r.reqHandle.toNat), (32, r.reqSlot.toNat), flag 63 valid]
      else if 0x080 ≤ o && o < 0x0C0 then
        (if valid then match s.request p r.reqHandle.toNat r.reqSlot.toNat with
          | some q => BitVec.ofNat 64 (leAt (requestBytes q) (o - 0x080) 8)
          | none => 0
        else 0)
      else 0

/-- Basin b's UPD registers. -/
def readUpd (s : State) (b o : Nat) : Word64 :=
  let r := (s.basin b).upd
  if o = 0x000 then regWord [flag 1 r.busy]
  else if o = 0x008 then r.step
  else if o = 0x010 then regWord [(0, r.lr.toNat)]
  else if o = 0x018 then regWord [(0, r.kappa.toNat)]
  else if o = 0x020 then r.elements
  else if o = 0x028 then r.ops
  else if o = 0x030 then regWord [(0, r.clipped.toNat)]
  else if o = 0x038 then regWord [(0, r.skipped.toNat)]
  else 0

/-- Basin b's RSM registers. -/
def readRsm (s : State) (b o : Nat) : Word64 :=
  let r := (s.basin b).rsm
  if o = 0x000 then regWord [flag 1 r.busy]
  else if o = 0x008 then r.boxes
  else if o = 0x010 then regWord [(0, r.badBoxes.toNat)]
  else if o = 0x018 then r.values
  else if o = 0x020 then regWord [(0, r.commands.toNat)]
  else 0

/-! CORE and BIST (04 R101, 19 R412, R420). -/

/-- Pages of 2 KiB in a readback space of a core (19 R412): core store 1 MiB, resident-operand buffer 256 KiB, weight slices two
of 128 × 128 × 4 bits (04 R74), table banks 32 KiB (05 R103). The other two spaces' sizes are not given, so PAGE's whole range is
theirs (log 17). -/
def rbPages (space : Nat) : Nat :=
  match space with
  | 0 => 512
  | 1 => 128
  | 2 => 16
  | 3 => 16
  | 4 => 8
  | 5 => 512
  | 6 => 512
  | _ => 0

/-- The readback window of core p shows its selected page. -/
def rbValid (c : Core) : Bool := c.quiesced && c.rbPage.toNat < rbPages c.rbSpace.toNat

/-- Core p's registers. -/
def readCore (s : State) (p o : Nat) : Word64 :=
  let c := s.core p
  if o = 0x000 then regWord [(0, p), (16, p / 50), (24, p / 150)]
  else if o = 0x008 then regWord [(0, c.logical.toNat), (12, c.role.toNat)]
  else if o = 0x010 then regWord [flag 0 c.quiesce, flag 1 c.quiesced]
  else if o = 0x018 then c.beats
  else if o = 0x020 then c.strips
  else if o = 0x028 then regWord [(0, c.curOp.toNat), (32, c.curStrip.toNat)]
  else if o = 0x1000 then regWord [(0, c.rbSpace.toNat), (32, c.rbPage.toNat), flag 63 (rbValid c)]
  else if 0x1800 ≤ o then
    if rbValid c then
      let at0 := c.rbPage.toNat * 2048 + (o - 0x1800)
      let sfu := (s.basin (coreBasin p)).sfu
      if c.rbSpace = 2 then BitVec.ofNat 64 (leAt (bankBytes sfu.bank0) at0 8)
      else if c.rbSpace = 3 then BitVec.ofNat 64 (leAt (bankBytes sfu.bank1) at0 8)
      else BitVec.ofNat 64 (leNat ((List.range 8).map fun i => Config.coreInternal s.free p c.rbSpace.toNat (at0 + i)))
    else 0
  else 0

/-- BIST registers; MEM_DATA reads what the function has latched (19 R413). -/
def readBist (s : State) (f o : Nat) : Word64 :=
  let r := s.bist
  if o = 0x000 then
    regWord [(1, r.kind.toNat), flag 3 r.depth, flag 5 r.done, (16, r.failed.toNat), (32, r.first.toNat), (48, r.count.toNat)]
  else if o = 0x008 then regWord [(0, r.resSel.toNat)]
  else if 0x010 ≤ o && o < 0x030 then BitVec.ofNat 64 (leAt (Tab.get r.results r.resSel.toNat []) (o - 0x010) 8)
  else if o = 0x030 then regWord [(0, r.runs.toNat)]
  else if o = 0x038 then regWord [(0, r.fails.toNat)]
  else if o = 0x040 then regWord [(0, r.memBasin.toNat), (6, r.memAddr.toNat), flag 32 r.memUe]
  else if 0x080 ≤ o && o < 0x0C0 then
    match (s.latch f).mem with
    | some d => BitVec.ofNat 64 (leAt d (o - 0x080) 8)
    | none => 0
  else 0

/-! The map (20 R422, 14 R305). -/

/-- The register at an offset of the physical function's BAR0, as the physical function reads it. -/
def readPf (s : State) (o : Nat) : Word64 :=
  if o < 0x10000 then readGlb s 0 o
  else if o < 0x20000 then readHif s 0 (o - 0x10000)
  else if o < 0x40000 then readRing s ((o - 0x20000) / 0x800) (o % 0x800)
  else if o < 0x50000 then readMgt s (o - 0x40000)
  else if o < 0x60000 then readSec s (o - 0x50000)
  else if o < 0x70000 then readLcs s (o - 0x60000)
  else if o < 0x80000 then readTel s (o - 0x70000)
  else if o < 0x90000 then readMtc s (o - 0x80000)
  else if o < 0xA0000 then readEvt s 0 (o - 0x90000)
  else if o < 0xB0000 then readAcct s 0 (o - 0xA0000)
  else if o < 0xC0000 then readSched s (o - 0xB0000)
  else if o < 0x100000 then 0
  else if o < 0x110000 then readOpt s ((o - 0x100000) / 0x1000) (o % 0x1000)
  else if o < 0x200000 then 0
  else if o < 0x340000 then readHbm s (o - 0x200000)
  else if o < 0x400000 then 0
  else if o < 0x410000 then readFls s (o - 0x400000)
  else if o < 0x500000 then 0
  else if o < 0x540000 then readCdc s ((o - 0x500000) / 0x10000) (o % 0x10000)
  else if o < 0x600000 then 0
  else if o < 0x60A000 then readSfu s ((o - 0x600000) / 0x1000) (o % 0x1000)
  else if o < 0x680000 then 0
  else if o < 0x681000 then readRng s (o - 0x680000)
  else if o < 0x700000 then 0
  else if o < 0x70A000 then readWrk s ((o - 0x700000) / 0x1000) (o % 0x1000)
  else if o < 0x800000 then 0
  else if o < 0x8A0000 then readMere s ((o - 0x800000) / 0x10000) (o % 0x10000)
  else if o < 0x1000000 then 0
  else if o < 0x1BB8000 then readCore s ((o - 0x1000000) / 0x2000) (o % 0x2000)
  else if o < 0x2000000 then 0
  else if o < 0x2001000 then readBist s 0 (o - 0x2000000)
  else if o < 0x2100000 then 0
  else if o < 0x210A000 then readNum s ((o - 0x2100000) / 0x1000) (o % 0x1000)
  else if o < 0x2200000 then 0
  else if o < 0x220A000 then readAtt s ((o - 0x2200000) / 0x1000) (o % 0x1000)
  else if o < 0x2300000 then 0
  else if o < 0x230A000 then readUpd s ((o - 0x2300000) / 0x1000) (o % 0x1000)
  else if o < 0x2400000 then 0
  else if o < 0x240A000 then readRsm s ((o - 0x2400000) / 0x1000) (o % 0x1000)
  else 0

/-- The register at an offset of virtual function f's view (14 R305). -/
def readVf (s : State) (f o : Nat) : Word64 :=
  if o < 0x10000 then readGlb s f o
  else if o < 0x20000 then readHif s f (o - 0x10000)
  else if o < 0x20800 then readRing s f (o - 0x20000)
  else if 0x90000 ≤ o && o < 0x90100 then readEvt s f (o - 0x90000)
  else 0

/-- The 8 bytes at an offset of BAR0 as function f reads them (19 R411: a read changes nothing). -/
def regRead (s : State) (f o : Nat) : Word64 := if f = 0 then readPf s o else readVf s f o

end Sys2Proof.Machine
end

