-- ==== Sys2Proof/Machine/Route.lean ====
section
/-! DEFINITION. Sys2Proof/Machine/Route.lean: where a data flit goes (12 R268, R269) and how a port sends (R265, R266). -/

namespace Sys2Proof.Machine

/-! Coordinates and routes (12 R268, R269). -/

/-- The place of device d on axis k (0 x, 1 y, 2 z) within its block. -/
def devPos (d k : Nat) : Nat := bitsOf d (2 * k) 2

/-- The position of block b on axis k, as the census records it. -/
def blockPos (s : State) (b k : Nat) : Nat := bitsOf (Tab.get s.census.blocks b 0).toNat (2 * k) 2

/-- The global coordinate of device d on axis k. -/
def coord (s : State) (d k : Nat) : Nat := 4 * blockPos s (d / 64) k + devPos d k

/-- Devices round the ring of axis k. -/
def ringLen (s : State) (k : Nat) : Nat :=
  4 * max 1 (if k = 0 then s.mtc.mx.toNat else if k = 1 then s.mtc.my.toNat else s.mtc.mz.toNat)

/-- Steps in the + direction from this device to device d on axis k. -/
def stepsTo (s : State) (d k : Nat) : Nat :=
  (coord s d k + ringLen s k - coord s (devnum s) k % ringLen s k) % ringLen s k

/-- The direction (0 +x, 1 −x, 2 +y, 3 −y, 4 +z, 5 −z) in which a flit for device d leaves: X first, then Y, then Z, the
shorter way round, + on a tie. -/
def routeDir (s : State) (d : Nat) : Option Nat :=
  match (List.range 3).find? fun k => stepsTo s d k != 0 with
  | some k => some (if 2 * stepsTo s d k ≤ ringLen s k then 2 * k else 2 * k + 1)
  | none => none

/-- Hops to device d. -/
def hopsTo (s : State) (d : Nat) : Nat :=
  ((List.range 3).map fun k => min (stepsTo s d k) (ringLen s k - stepsTo s d k)).sum

/-- The port a flit from src to dst leaves by: of the two of its direction the lower for an even src. -/
def routePort (s : State) (src dst : Nat) : Option Nat := (routeDir s dst).map fun d => 2 * d + src % 2

/-- A port of the torus in direction d crosses the wrap link of its axis from this device. -/
def crossesWrap (s : State) (d : Nat) : Bool :=
  let x := coord s (devnum s) (d / 2)
  if d % 2 = 0 then x + 1 == ringLen s (d / 2) else x == 0

/-! Sending (12 R265, R266). -/

/-- The credit set of a class and dateline. -/
def creditKey (cls : Nat) (dateline : Bool) : Nat := 2 * cls + b2n dateline

/-- The flit has a credit. -/
def hasCredit (p : Port) (f : Flit) : Bool := 0 < Tab.get p.credits (creditKey f.cls f.dateline) 0

/-- The longest waiting flit of a class that has a credit. -/
def waitingOf (p : Port) (cls : Nat) : Option Flit := p.waiting.find? fun f => f.cls == cls && hasCredit p f

/-- The next waiting flit that may go (R266): class 3 first, then the other classes round robin, beginning after the one that sent
last. -/
def nextFlit (p : Port) : Option Flit :=
  ([3, (p.turn + 1) % 3, (p.turn + 2) % 3, p.turn % 3].findSome? (waitingOf p))

/-- Waiting flits are sent while the link is up, the window has room and credits last. Fuel bounds them. -/
def pumpPort : Nat → Port → Port
  | 0, p => p
  | n + 1, p =>
    if p.linkUp && p.retained.length < 4095 then
      match nextFlit p with
      | some f =>
        let k := creditKey f.cls f.dateline
        pumpPort n { p with
          waiting := p.waiting.erase f
          retained := p.retained ++ [{ f with seq := p.nextSeq.toNat, epoch := p.epoch.toNat,
                                              ack := match p.lastIn with | some a => a.toNat | none => 0xFFF }]
          nextSeq := p.nextSeq + 1
          turn := if f.cls < 3 then f.cls else p.turn
          credits := Tab.put p.credits k (Tab.get p.credits k 0 - 1)
          tx := satAdd p.tx 1 }
      | none => p
    else p

/-- Port q sends what it may. -/
def pump (s : State) (q : Nat) : State := s.setPort q (pumpPort (s.port q).waiting.length (s.port q))

/-- A flit waits at port q and is sent when it may be. -/
def sendOn (s : State) (q : Nat) (f : Flit) : State :=
  pump (s.setPort q { s.port q with waiting := (s.port q).waiting ++ [f] }) q

/-- The partition whose job runs a machine job. -/
def mjobPart (s : State) (mjob : Nat) : Option Nat :=
  (List.range 10).find? fun p => match (s.partRun p).job with
    | some j => j.ranks.any fun r => r.mjob == mjob
    | none => false

/-- The plan of a machine job holds port q (R270). -/
def planHolds (s : State) (mjob q : Nat) : Bool :=
  match (mjobPart s mjob).bind fun p => (s.partRun p).job with
  | some j => (s.port q).holder != 0 && (s.port q).holder.toNat == j.handle
  | none => false

/-- An express port of the flit's plan that ends at the flit's destination (R269). -/
def expressPort (s : State) (f : Flit) : Option Nat :=
  [12, 13, 14, 15].find? fun q => (s.port q).linkUp && (s.port q).peerDev.toNat == f.dst && planHolds s f.mjob q

/-- A flit that starts here goes out by an express port to its destination or on its route (log 182), only on a port of its plan
(R270); one for this device itself goes nowhere. -/
def sendFlit (s : State) (f : Flit) : State :=
  match expressPort s f with
  | some q => sendOn s q f
  | none =>
    match routePort s f.src f.dst, routeDir s f.dst with
    | some q, some d => if planHolds s f.mjob q then sendOn s q { f with dateline := crossesWrap s d } else s
    | _, _ => s

/-! Aborts (12 R282). -/

/-- The abort of a machine job for one device. -/
def abortFlit (s : State) (mjob dst : Nat) : Flit :=
  { seq := 0, ack := 0, epoch := 0, dst := dst, src := devnum s, cls := 3, dateline := false, mjob := mjob, op := 0,
    exec := 0, chunk := 0, part := 0, payload := [] }

/-- The abort of every machine job of a partition's job goes to its ranks. -/
def sendAborts (s : State) (p : Nat) : State :=
  match (s.partRun p).job with
  | some j => j.ranks.foldl (fun s r => (r.devices.filter (· != devnum s)).foldl
      (fun s d => sendFlit s (abortFlit s r.mjob d)) s) s
  | none => s

/-- Partition p runs a multi-device job (12 R277). -/
def multiJob (s : State) (p : Nat) : Bool :=
  match (s.partRun p).job with
  | some j => !j.ranks.isEmpty
  | none => false

end Sys2Proof.Machine
end

