-- ==== Sys2Proof/Machine/Ends.lean ====
section
/-! DEFINITION. Sys2Proof/Machine/Ends.lean: how work ends: requests and their pages (07 R163, R166, R170, R176), the
strips cores hold, jobs and serving steps with their commands, a plan's resources (06 R132), the FAILED state
(08 R200, 13 R287, R300), and dead cores (01 R14, R15, 13 R288, R289). -/

namespace Sys2Proof.Machine

/-! Requests. -/

/-- The 16-byte progress record (07 R166). FREE is state code 0. -/
def progressBytes (r : Request) (state reason : Nat) : List Byte :=
  toLe 4 r.generated ++ toLe 1 state ++ toLe 1 reason ++ [0, 0] ++ toLe 8 r.seed.toNat

/-- Write the progress record of a request where it asked for one (07 R164, R166), within its function's windows
(14 R306). -/
def putProgress (s : State) (r : Request) (state reason : Nat) : State :=
  if r.progressAddr != 0 && inWindows s r.fn r.progressAddr 16 then
    hostWrite s r.progressAddr (progressBytes r state reason)
  else s

/-- The record of a request whose command is open (R166: none follows the completion entry). -/
def writeProgress (s : State) (r : Request) (state reason : Nat) : State :=
  if r.cmd.isSome then putProgress s r state reason else s

/-- The request's next progress record would fall outside its function's windows (14 R306). -/
def progressBarred (s : State) (r : Request) : Bool :=
  r.cmd.isSome && r.progressAddr != 0 && !inWindows s r.fn r.progressAddr 16

/-- The page is a node's, or some request's other than r (07 R161). -/
def pageInUse (s : State) (r : Request) (pg : Nat) : Bool :=
  (s.nodes.any fun n => n.part == r.part && n.plan == r.plan && n.page == pg)
    || (Tab.vals s.requests).any fun q => q.part == r.part && q.plan == r.plan && q.slot != r.slot && q.pages.contains pg

/-- The pages and node references of a request go back (07 R161, R163). -/
def releasePages (s : State) (r : Request) : State :=
  let s1 := { s with nodes := s.nodes.map fun (n : Node) =>
    if n.part == r.part && n.plan == r.plan && r.pages.contains n.page then { n with refs := n.refs - 1 } else n }
  match s1.plan r.part r.plan with
  | some pl =>
    s1.setPlan r.part r.plan { pl with pages := pl.pages.filter fun e => !(r.pages.contains e.1) || pageInUse s1 r e.1 }
  | none => s1

/-- Commands complete with a status, in order. -/
def finishIds (s : State) (ids : List Nat) (status : Nat) : State := ids.foldl (fun s i => finishId s i status) s

/-- A request's slot becomes FREE (07 R163, R169, R170): its pages go back, its command completes with the status, held appends
with ST_CANCELLED, waiting releases with ST_OK. -/
def closeRequest (s : State) (r : Request) (status : Nat) : State :=
  let s1 := (releasePages s r).freeRequest r
  let s2 := match r.cmd with | some id => finishId s1 id status | none => s1
  finishIds (finishIds s2 (r.held.map Prod.fst) stCancelled) r.releases stOk

/-- A request ends other than in DONE: its progress is reported and its slot is FREE. -/
def endRequest (s : State) (r : Request) (status reason : Nat) : State := closeRequest (writeProgress s r 0 reason) r status

/-- The requests of a plan, in slot order. -/
def planRequests (s : State) (p h : Nat) : List Request :=
  (Tab.vals s.requests).filter fun r => r.part == p && r.plan == h

/-- Every request of a plan that is open ends. -/
def endRequests (s : State) (p h status reason : Nat) (which : Request → Bool) : State :=
  ((planRequests s p h).filter which).foldl (fun s r => endRequest s r status reason) s

/-- Releases that wait for the end of a step take effect (07 R170). -/
def settleReleases (s : State) (p h : Nat) : State := endRequests s p h stCancelled 6 fun r => !r.releases.isEmpty

/-! Cores and jobs. -/

/-- Core c of partition p gives up the strips it holds. -/
def Core.idle (c : Core) : Core := { c with running := none, ahead := none, buffer := [], curOp := 0xFFFFFFFF, curStrip := 0xFFFFFFFF }

/-- The core gives up the strip it fetched ahead, with its weight blocks. -/
def Core.dropAhead (c : Core) : Core :=
  { c with ahead := none, buffer := match c.ahead with
      | some t => c.buffer.filter fun b => !(b.op == t.op && b.strip == t.strip)
      | none => c.buffer }

/-- The core holds work of partition p. -/
def Core.worksFor (c : Core) (p : Nat) : Bool :=
  (match c.running with | some t => t.part == p | none => false)
    || (match c.ahead with | some t => t.part == p | none => false)

/-- The strips of partition p's job are abandoned on every core (13 R294 step 2). -/
def idleCores (s : State) (p : Nat) : State :=
  { s with cores := s.cores.map fun e => (e.1, if e.2.worksFor p then e.2.idle else e.2) }

/-- The quiescing cores of partition p quiesce at the end of its job (04 R101). -/
def quiesceCores (s : State) (p : Nat) : State :=
  { s with cores := s.cores.map fun e =>
      (e.1, if basinPart s (coreBasin e.1) == p && e.2.quiesce then { e.2 with quiesced := true } else e.2) }

/-- The queue of partition p's resample units, which are busy while work is queued or running (04 R91, R102). -/
def setResampling (s : State) (p : Nat) (ws : List EngineWork) : State :=
  (liveBasins s p).foldl (fun s b => s.setBasin b { s.basin b with rsm := { (s.basin b).rsm with busy := !ws.isEmpty } })
    (s.setRun p { s.partRun p with resampling := ws })

/-- The work is an operation of a job. -/
def EngineWork.isOp : EngineWork → Bool
  | .op _ _ => true
  | .cmd _ => false

/-- The operations of the partition's job leave its resample units; commands stay. -/
def dropResampleOps (s : State) (p : Nat) : State := setResampling s p ((s.partRun p).resampling.filter fun w => !w.isOp)

/-- Codec work of the partition's job leaves the engines. -/
def dropCodecOps (s : State) (p : Nat) : State :=
  { s with codecs := Tab.map s.codecs fun c =>
      let mine := fun w => match w with | EngineWork.op q _ => q == p | _ => false
      let cur := match c.current with | some w => if mine w then none else some w | none => none
      { c with current := cur, queue := c.queue.filter fun w => !mine w, busy := cur.isSome,
               curTag := if cur.isSome then c.curTag else 0xFFFFFFFF,
               curFrame := if cur.isSome then c.curFrame else 0xFFFFFFFF } }

/-- A basin whose update engine does nothing. -/
def Basin.rest (b : Basin) : Basin := { b with upd := { b.upd with busy := false } }

/-- The running job of a partition is over: it leaves the partition, its cores and its engines. -/
def clearJob (s : State) (p : Nat) : State :=
  let s1 := dropResampleOps (quiesceCores (idleCores (dropCodecOps s p) p) p) p
  let s2 := s1.setRun p { s1.partRun p with job := none, step := none, halt := .none }
  (liveBasins s p).foldl (fun t b => t.setBasin b (t.basin b).rest) s2

/-- The commands a halt owes an answer. -/
def haltCmds : Halt → List Nat
  | .none => []
  | .preempt c => [c]
  | .save c => [c]
  | .restart (some c) => [c]
  | .restart none => []

/-- A job ends with a status: its command completes with its retry count, and a pre-emption or save that waited on it
with ST_CANCELLED (13 R296, 15 R339). A serving step it cuts short is over (07 R170). -/
def endJob (s : State) (p status : Nat) : State :=
  let run := s.partRun p
  match run.job with
  | some j =>
    let s1 := clearJob s p
    let s2 := match s1.cmd j.cmd with
      | some c =>
        let c' := if j.serving then { c with engineNs := 0, bytes := 0, energyUj := 0 } else c
        finishWith s1 c' status j.restarts
      | none => s1
    let s3 := finishIds s2 (haltCmds run.halt) stCancelled
    if j.serving then settleReleases s3 p j.handle else s3
  | none => s

/-- The pre-empted job of a partition is over; its command has completed already with ST_PREEMPTED (14 R323). -/
def clearPreempted (s : State) (p : Nat) : State := s.setRun p { s.partRun p with preempted := none }

/-! Plans (06 R132, 17 R379). -/

/-- The request entries and directory nodes of a plan are wiped. -/
def wipePlanTables (s : State) (p h : Nat) : State :=
  { s with requests := s.requests.filter fun e => !(e.2.part == p && e.2.plan == h)
           nodes := s.nodes.filter fun n => !(n.part == p && n.plan == h) }

/-- Engines and ports a plan held are free (01 R23). -/
def releaseUnits (s : State) (p h : Nat) : State :=
  { s with
    codecs := Tab.map s.codecs fun c =>
      if c.holder.toNat == h && c.holderPart.toNat == p then { c with holder := 0, holderPart := 0xF } else c
    ports := Tab.map s.ports fun c =>
      if c.holder.toNat == h && c.holderPart.toNat == p then { c with holder := 0, holderPart := 0xF } else c }

/-- A plan is gone: its resources, tables and own memory (06 R132). -/
def dropPlan (s : State) (p h : Nat) : State :=
  let s1 := releaseUnits (wipePlanTables s p h) p h
  { s1 with plans := Tab.del s1.plans (planKey p h) }

/-- Handles of the plans loaded on a partition, ascending. -/
def planHandles (s : State) (p : Nat) : List Nat :=
  ((Tab.vals s.plans).filter fun q => q.part == p).map Plan.handle

/-! State FAILED (08 R200, 13 R287, R300). -/

/-- The opcodes that complete as usual in FAILED (13 R300). -/
def worksFailed (d : List Byte) : Bool := dOpcode d == 0x0001 || dOpcode d == 0x0091 || dOpcode d == 0x00A0

/-- Every command that is open, but for NOP, SNAPSHOT and ACCT_READ, completes with ST_DEVICE_FAILED. Fuel bounds the
commands. -/
def failCommands : Nat → State → State
  | 0, s => s
  | n + 1, s =>
    match s.cmds.find? fun c => !worksFailed c.desc with
    | some c => failCommands n (finish s c stDeviceFailed)
    | none => s

/-- Enter FAILED: every job, step and request of the device ends, tile movers stop, commands complete; the aborts of
multi-device jobs are sent (13 R300). -/
def enterFailed (s : State) : State :=
  let s0 := (List.range 10).foldl sendAborts s
  let s1 := { s0 with run := { s0.run with failed := true } }
  let s2 := failCommands (s1.cmds.length + 1) s1
  let s3 := (List.range 10).foldl (fun s p => clearPreempted (clearJob s p) p) s2
  { (List.range 10).foldl (fun s p => setResampling s p []) s3 with
            requests := []
            codecs := Tab.map s3.codecs fun c =>
              { c with current := none, queue := [], busy := false, curTag := 0xFFFFFFFF, curFrame := 0xFFFFFFFF }
            fls := { s3.fls with pending := [] } }

/-- A device failure of 13 R287. -/
def failDevice (s : State) (source : Nat) : State :=
  if s.run.failed then s else enterFailed (raiseEvent s evDeviceFailed source 0xF [])

/-- The code of a stack's failure (08 R204). -/
def stackCode : StackCause → BitVec 3
  | .training => 1
  | .retraining => 2
  | .timeout => 3
  | .lanes => 4
  | .port => 5

/-- A stack is lost (08 R200): its status names the cause, the event is raised, the device enters FAILED. -/
def loseStack (s : State) (k : Nat) (cause : StackCause) (ch : Nat) : State :=
  let s1 := s.setStack k { s.stack k with failed := true, trained := false, inService := false,
                                           failCause := (stackCode cause), failChannel := BitVec.ofNat 5 ch }
  let s2 := raiseEvent s1 evStackLost (srcStack k) 0xF (toLe 1 (stackCode cause).toNat ++ toLe 1 ch)
  if s2.run.failed then s2 else enterFailed s2

/-! Withdrawal and dead cores (01 R14, R15, 13 R289, R291). -/

/-- A plan whose footprint lies on basin b is stale (13 R291). -/
def stalePlans (s : State) (p : Nat) : State :=
  { s with plans := Tab.map s.plans fun q => if q.part == p then { q with stale := true } else q }

/-- Fault progress (19 R419 EV_JOB_FAULT): pass, layer, operation, strip of the lowest open operation; all ones when no
job or step of the partition runs (13 R286). In a serving step the pass is 0. -/
def faultDetail (s : State) (p : Nat) : List Byte :=
  match (s.partRun p).job, lowestOpen s p with
  | some j, some e =>
    let strip := (List.range e.total).find? fun i => Tab.find e.board i != some Board.done
    toLe 2 (if j.serving then 0 else e.pass) ++ toLe 2 (opLayer s p j.handle e.op) ++ toLe 4 e.op
      ++ toLe 4 (strip.getD 0xFFFFFFFF)
  | _, _ => List.replicate 12 0xFF

/-- A partition's halt is the restart of a job fault. -/
def Halt.isRestart : Halt → Bool
  | .restart _ => true
  | _ => false

/-- Basin b is withdrawn (01 R15): its cores read ROLE 3 unless dead, the partition's plans are stale, and a job
running on the partition ends as a fault without restart (13 R292, R297). EV_JOB_FAULT is raised unless the fault was
detected before: by Sounding, or in the restart that this one joins (R294 step 1); a multi-device job's ranks get the abort (R299). The withdrawal of every basin fails
the device (13 R287). -/
def withdrawBasin (s : State) (b : Nat) (detected : Bool) : State :=
  if (s.basin b).withdrawn then s
  else
    let p := basinPart s b
    let s1 := s.setBasin b { s.basin b with withdrawn := true }
    let cs := (List.range 150).foldl (fun t i =>
      let c := Tab.get t (150 * b + i) (Core.reset (150 * b + i))
      if c.role = 2 then t else Tab.put t (150 * b + i) { c.idle with role := 3, logical := 0x7FF }) s1.cores
    let s2 := raiseEvent { s1 with cores := cs } evBasinWithdrawn (srcBasin b) p []
    let s3 := if p < 10 then
        let t := stalePlans s2 p
        let t1 := if (t.partRun p).job.isSome && !detected && !(t.partRun p).halt.isRestart then raiseEvent t evJobFault (srcBasin b) p (faultDetail s p) else t
        endJob (sendAborts t1 p) p stJobFault
      else s2
    if (serviceBasins s3).isEmpty then failDevice s3 (srcBasin b) else s3

/-- The lowest-numbered unused spare of a die that is not under test (13 R289, 19 R408). -/
def spareOf (s : State) (die : Nat) : Option Nat :=
  ((List.range 50).map fun i => 50 * die + i).find? fun p => (s.core p).role == 1 && !(s.core p).underTest

/-- Core p is declared dead (13 R289): fenced, its number moves to a spare of its die, or its basin is withdrawn.
Causes: 0 BIST, 1 heartbeat, 2 Sounding. The work it held is the caller's to settle (06 R137). -/
def declareDead (s : State) (p cause : Nat) : State :=
  let c := s.core p
  if c.role = 2 then s
  else
    let part := basinPart s (coreBasin p)
    let s1 := s.setCore p { c.idle with role := 2, logical := 0x7FF, fenced := true, dropped := 0, talkAt := none }
    let s2 := raiseEvent s1 evCoreDead p part ([BitVec.ofNat 8 cause, 0] ++ toLe 2 c.logical.toNat)
    if c.role = 0 then
      match spareOf s2 (p / 50) with
      | some q => s2.setCore q { (s2.core q) with role := 0, logical := c.logical, lastBeat := s.now }
      | none => withdrawBasin s2 (coreBasin p) (cause = 2)
    else s2

/-- EV_FENCED_TALK, at most once a millisecond a source, with the messages dropped since the last (13 R289). -/
def talkDue (now : Nat) (last : Option Nat) : Bool :=
  match last with
  | none => true
  | some t => t + 1000000 ≤ now

end Sys2Proof.Machine
end

