-- ==== Sys2Proof/Machine/Hbm.lean ====
section
/-! DEFINITION. Sys2Proof/Machine/Hbm.lean: the stacked memory: interleave (08 R189), the end-to-end code (R190, R191),
reads and writes counted by stack (R204), and wipes (R193, R379). -/

namespace Sys2Proof.Machine

/-! Interleave (08 R189). -/

/-- The residue class j of device tile t. -/
def tileClass (t : Nat) : Nat :=
  let b := t / 10
  (t % 10 + (bitsOf b 0 13 + bitsOf b 13 13) % 10) % 10

/-- The permutation p of device tile t. -/
def tilePerm (t : Nat) : Nat :=
  let b := t / 10
  bitsOf b 0 6 ^^^ bitsOf b 6 6 ^^^ bitsOf b 12 6 ^^^ bitsOf b 18 6 ^^^ bitsOf b 24 2

/-- The device channel of atom a of device tile t. -/
def atomChannel (t a : Nat) : Nat := 10 * (a ^^^ tilePerm t) + tileClass t

/-- The atom index of every atom of device tile t. -/
def atomIndex (t : Nat) : Nat := t / 10

/-- The device tile whose atom lies at an atom index of a device channel: the inverse of the interleave. -/
def channelTile (ch idx : Nat) : Nat :=
  10 * idx + (ch % 10 + 20 - (bitsOf idx 0 13 + bitsOf idx 13 13) % 10) % 10

/-- Atoms of device tile t that lie on stack k. -/
def stackAtoms (t k : Nat) : Nat := ((List.range 64).filter fun a => atomChannel t a / 32 == k).length

/-- The partition that holds device tile t's granule, 0xF for none (08 R187). -/
def tilePart (s : State) (t : Nat) : Nat :=
  match s.parts.find? fun e => e.2.extents.any fun x => x.1 ≤ t / 10000 && t / 10000 < x.1 + x.2 with
  | some e => e.1
  | none => 0xF

/-! The end-to-end code (08 R190, R191): a Reed–Solomon code over GF(2^16). -/

/-- Multiplication by α in GF(2^16): x^16 + x^12 + x^3 + x + 1. -/
def gfDouble (x : BitVec 16) : BitVec 16 := if x.msb then (x <<< 1) ^^^ 0x100B else x <<< 1

/-- The product of two elements over the low n bits of the second, highest first. -/
def gfMulN (a b : BitVec 16) : Nat → BitVec 16
  | 0 => 0
  | n + 1 => let r := gfMulN a (b >>> 1) n; gfDouble r ^^^ (if b.getLsbD 0 then a else 0)

/-- The product in GF(2^16). -/
def gfMul (a b : BitVec 16) : BitVec 16 := gfMulN a b 16

/-- α to the n-th power. -/
def alphaPow : Nat → BitVec 16
  | 0 => 1
  | n + 1 => gfDouble (alphaPow n)

/-- The coefficients of g(x) below x^3: of x^2, x^1 and x^0. -/
def codeG2 : BitVec 16 := alphaPow 1 ^^^ alphaPow 2 ^^^ alphaPow 3
@[inherit_doc codeG2]
def codeG1 : BitVec 16 := alphaPow 3 ^^^ alphaPow 4 ^^^ alphaPow 5
@[inherit_doc codeG2]
def codeG0 : BitVec 16 := alphaPow 6

/-- The remainder of m(x)·x^3 by g(x), symbols from the highest degree: coefficients of x^2, x^1, x^0. -/
def codeRem : List (BitVec 16) → BitVec 16 × BitVec 16 × BitVec 16 → BitVec 16 × BitVec 16 × BitVec 16
  | [], r => r
  | m :: ms, (a, b, c) =>
    let f := a ^^^ m
    codeRem ms (b ^^^ gfMul f codeG2, c ^^^ gfMul f codeG1, gfMul f codeG0)

/-- The address symbol of device atom number A. -/
def addressSymbol (n : Nat) : BitVec 16 := BitVec.ofNat 16 (bitsOf n 0 16 ^^^ bitsOf n 16 16 ^^^ bitsOf n 32 3)

/-- Symbols 0 to 33 of the codeword of an atom: data, metadata 0, address. -/
def codeMessage (data : List Byte) (n : Nat) : List (BitVec 16) :=
  (List.range 32).map (fun k => BitVec.ofNat 16 (leAt data (2 * k) 2)) ++ [0, addressSymbol n]

/-- The 64 bits of code stored with an atom: symbols 34, 35, 36, metadata. -/
def codeField (data : List Byte) (n : Nat) : Word64 :=
  let r := codeRem (codeMessage data n) (0, 0, 0)
  BitVec.ofNat 64 (packFields [(0, r.1.toNat), (16, r.2.1.toNat), (32, r.2.2.toNat)])

/-- The syndrome c(α^j) of a word of 37 symbols. -/
def syndrome (j : Nat) (ws : List (BitVec 16)) : BitVec 16 := ws.foldl (fun v w => gfMul v (alphaPow j) ^^^ w) 0

/-- What the checker decides of a word (08 R191). -/
inductive AtomVerdict where
  | clean
  | corrected (symbol : Nat)
  | address
  | undecodable
  deriving DecidableEq, Repr

/-- The position of a single error with syndromes s1, s2, s3: X = α^(36 − i) with s2 = X·s1 and s3 = X·s2. -/
def errorAt (s1 s2 s3 : BitVec 16) : Option Nat :=
  (List.range 37).find? fun i => gfMul (alphaPow (36 - i)) s1 == s2 && gfMul (alphaPow (36 - i)) s2 == s3

/-- The checker's decision on a word of 37 symbols with its own address symbol at position 33. -/
def checkWord (ws : List (BitVec 16)) : AtomVerdict :=
  let s1 := syndrome 1 ws
  let s2 := syndrome 2 ws
  let s3 := syndrome 3 ws
  if s1 == 0 && s2 == 0 && s3 == 0 then .clean
  else if s1 == 0 then .undecodable
  else match errorAt s1 s2 s3 with
    | some i => if i = 33 then .address else .corrected i
    | none => .undecodable

/-- The data bytes of a device atom. -/
def atomBytes (s : State) (n : Nat) : List Byte := (List.range 64).map fun i => Mem.read s.hbm (64 * n + i)

/-- The code a device atom carries: whatever wrote it wrote the code of its data and its own address (R190, R193). -/
def atomCode (s : State) (n : Nat) : Word64 := codeField (atomBytes s n) n

/-- The 37 symbols that the checker of device atom n sees of one reading, its own address symbol at position 33. -/
def received (s : State) (n : Nat) (r : Reading) : List (BitVec 16) :=
  let m := r.other.getD n
  let d := atomBytes s m
  let c := atomCode s m
  let word := (List.range 32).map (fun k => BitVec.ofNat 16 (leAt d (2 * k) 2))
    ++ [c.extractLsb' 48 16, addressSymbol n, c.extractLsb' 0 16, c.extractLsb' 16 16, c.extractLsb' 32 16]
  word.zipIdx.map fun e =>
    if e.2 = 33 then e.1 else (r.errors.filter fun x => x.1 == e.2).foldl (fun v x => v ^^^ x.2) e.1

/-- What became of an atom's read (R191): a correction, decodes that found another address, a delivery by a reread, or none. -/
structure AtomOutcome where
  corrected : Bool := false
  address : Nat := 0
  retried : Bool := false
  lost : Bool := false
  deriving DecidableEq, Repr

/-- The verdicts on a read and its rereads, n of them still allowed; those not listed are clean. -/
def settleAtom : Nat → List AtomVerdict → AtomOutcome → AtomOutcome
  | 0, _, o => { o with lost := true }
  | _ + 1, [], o => o
  | _ + 1, .clean :: _, o => o
  | _ + 1, .corrected _ :: _, o => { o with corrected := true }
  | n + 1, .address :: t, o => settleAtom n t { o with address := o.address + 1, retried := true }
  | n + 1, .undecodable :: t, o => settleAtom n t { o with retried := true }

/-- An atom's read decided: the read and at most two rereads (R191). -/
def atomOutcome (s : State) (r : AtomRead) : AtomOutcome :=
  settleAtom 3 (r.tries.map fun t => checkWord (received s r.atom t)) {}

/-- The channel and the atom index of a device atom. -/
def atomAt (n : Nat) : Nat × Nat := (atomChannel (n / 64) (n % 64), atomIndex (n / 64))

/-- The home basin of device tile t in partition p (R182). -/
def homeBasin (s : State) (p t : Nat) : Option Nat :=
  let bs := liveBasins s p
  bs[t % bs.length]?

/-- A MERE window changed. -/
def onMere (s : State) (b : Nat) (f : Mere → Mere) : State := s.setBasin b { s.basin b with mere := f (s.basin b).mere }

/-! Reads and writes of partition HBM, counted (08 R188, R204). -/

/-- Each stack's counter grows by f of its number. -/
def countStacks (s : State) (f : Nat → Nat) (upd : Stack → Nat → Stack) : State :=
  { s with hbmStacks := (List.range 20).foldl (fun t k => Tab.mod t k ({} : Stack) fun v => upd v (f k)) s.hbmStacks }

/-- Device tiles of the n bytes from partition address x. -/
def tilesOf (s : State) (p x n : Nat) : List Nat :=
  match Tab.find s.parts p with
  | some r =>
    if n = 0 then []
    else (List.range ((x + n - 1) / 4096 - x / 4096 + 1)).filterMap fun i =>
      (mapAddr r.extents ((x / 4096 + i) * 4096)).map (· / 4096)
  | none => []

/-- Bytes that some tiles put on stack k. -/
def tilesOnStack (ts : List Nat) (k : Nat) : Nat := (ts.map fun t => 64 * stackAtoms t k).sum

/-- Bytes read from the stacks (08 R204). -/
def addRead (s : State) (f : Nat → Nat) : State := countStacks s f fun v n => { v with readBytes := satAdd v.readBytes n }

/-- Bytes written to the stacks (08 R204). -/
def addWritten (s : State) (f : Nat → Nat) : State :=
  countStacks s f fun v n => { v with writeBytes := satAdd v.writeBytes n }

/-- n bytes of partition HBM read whole tiles at a time. -/
def hbmGet (s : State) (p x n : Nat) : List Byte × State :=
  (partRead s p x n, addRead s (tilesOnStack (tilesOf s p x n)))

/-- A write of device tile t by partition p updates the stream-cache copy of its home basin, where one is there (R183). The copy
holds what HBM holds, so only its bytes are counted. -/
def writeCopy (s : State) (p t : Nat) : State :=
  match homeBasin s p t with
  | some b =>
    if (s.basin b).mere.stream.contains t then onMere s b fun m => { m with writeBytes := satAdd m.writeBytes 4096 } else s
  | none => s

/-- n bytes written from partition address x, whole tiles at a time: the stacks' bytes, and the copies in Mere. -/
def countWritten (s : State) (p x n : Nat) : State :=
  let ts := tilesOf s p x n
  ts.foldl (fun s t => writeCopy s p t) (addWritten s (tilesOnStack ts))

/-- Bytes written to partition HBM whole tiles at a time. -/
def hbmPut (s : State) (p x : Nat) (bs : List Byte) : State := partWrite (countWritten s p x bs.length) p x bs

/-! Wipes (08 R193, 17 R379). -/

/-- Bytes a wiped granule puts on each stack: 1,000 blocks of ten tiles, 32 atoms of each. -/
def granuleStackBytes : Nat := 2048000

/-- The granules of extents wiped, and counted. -/
def wipeGranules (s : State) (ext : List (Nat × Nat)) : State :=
  let n := (ext.map Prod.snd).sum
  addWritten { s with hbm := wipeExtents s.hbm ext } fun _ => n * granuleStackBytes

/-- Atoms first..last of device channel ch wiped. -/
def wipeAtoms (s : State) (ch first last : Nat) : State :=
  { s with hbm := s.hbm.filter fun c =>
      !(atomChannel (c.1 / 4096) (c.1 / 64 % 64) == ch && first ≤ atomIndex (c.1 / 4096) && atomIndex (c.1 / 4096) ≤ last) }

/-- All of HBM wiped: every stack's 96 GB (17 R379). -/
def wipeAll (s : State) : State := addWritten { s with hbm := [] } fun _ => 96000000000

end Sys2Proof.Machine
end

