-- ==== Sys2Proof/Machine/Bist.lean ====
section
/-! DEFINITION. Sys2Proof/Machine/Bist.lean: self-test of units (19 R404 to R406, R408): what passes, what is recorded, and what
becomes of a unit that fails. -/

namespace Sys2Proof.Machine

/-- The unit source numbers a kind tests (19 R404), as (first, count). -/
def testRanges (kind : Nat) : List (Nat × Nat) :=
  if kind = 0 then [(0, 1500), (0x900, 4)]
  else if kind = 1 then [(0, 1500), (0x600, 10)]
  else if kind = 2 then [(0x700, 20)]
  else [(0x800, 16)]

/-- The partition a unit works for: that of its basin, or the holder of a codec engine. -/
def unitPart (s : State) (source : Nat) : Nat :=
  if source < 1500 then basinPart s (coreBasin source)
  else if 0x600 ≤ source && source < 0x60A then basinPart s (source - 0x600)
  else if 0x900 ≤ source && source < 0x904 then (s.codec (source - 0x900)).holderPart.toNat
  else 0xF

/-- A unit fails its test (19 R406): the event, then what becomes of the unit. -/
def unitFails (s : State) (kind depth source firstFail : Nat) : State :=
  let s1 := raiseEvent s evBistFail source (unitPart s source)
    (toLe 1 kind ++ toLe 1 depth ++ List.replicate 6 0 ++ toLe 8 firstFail)
  if source < 1500 then declareDead s1 source 0
  else if 0x600 ≤ source && source < 0x60A then withdrawBasin s1 (source - 0x600) false
  else if 0x900 ≤ source && source < 0x904 then
    { s1 with run := { s1.run with codecDisabled := s1.run.codecDisabled ||| BitVec.ofNat 4 (2 ^ (source - 0x900)) } }
  else s1

/-- The expected signature of a unit (19 R405): by depth and unit type. -/
def expectedMisr (depth source : Nat) : Word64 := Config.misr depth (0x900 ≤ source)

/-- The result of one test (19 R405, R408): 0 pass, 1 fail, 2 not compared. A unit of which nothing is told passes. -/
def testResult (s : State) (kind depth source : Nat) (t : Option TestResult) : Nat :=
  if kind = 0 && depth = 1 && s.run.phase != .stage1 then 2
  else match t with
    | some r => if kind = 0 then (if r.signature = expectedMisr depth source then 0 else 1) else if r.pass then 0 else 1
    | none => 0

/-- A result entry (19 R408). The duration of a test of which nothing is told is free (log 187). -/
def resultEntry (source result kind depth : Nat) (t : Option TestResult) : List Byte :=
  let misr := expectedMisr depth source
  toLe 2 source ++ toLe 1 result ++ toLe 1 (kind + 8 * depth)
    ++ toLe 4 (match t with | some r => r.timeUs | none => (Config.bistTime kind depth source).toNat)
    ++ toLe 8 (if kind = 0 then (match t with | some r => r.signature | none => misr).toNat else 0)
    ++ toLe 8 (if kind = 0 && result != 2 then misr.toNat else 0)
    ++ toLe 8 (match t with | some r => if result = 1 then r.firstFail else 0 | none => 0)

/-- Cores of the units are held out of service, or given back. -/
def holdUnits (s : State) (units : List Nat) (on : Bool) : State :=
  (units.filter (· < 1500)).foldl (fun s p => s.setCore p { s.core p with underTest := on }) s

/-- The spare whose test ends at once because core p needs it (19 R408). -/
def borrowedSpare (s : State) (p : Nat) : Option Nat :=
  if (s.core p).role != 0 || (spareOf s (p / 50)).isSome then none
  else ((List.range 50).map fun i => 50 * (p / 50) + i).find? fun q => (s.core q).role == 1 && (s.core q).underTest

/-- The failing units are treated in ascending order; cut are the spares whose tests ended with result 2. -/
def failUnits (kind depth : Nat) : List (Nat × Option TestResult) → State → List Nat → State × List Nat
  | [], s, cut => (s, cut)
  | (u, t) :: us, s, cut =>
    let at' := match t with | some r => r.firstFail | none => 0
    if cut.contains u || testResult s kind depth u t != 1 then failUnits kind depth us s cut
    else
      match if u < 1500 then borrowedSpare s u else none with
      | some q =>
        failUnits kind depth us (unitFails (s.setCore q { s.core q with underTest := false }) kind depth u at') (q :: cut)
      | none => failUnits kind depth us (unitFails s kind depth u at') cut

/-- The generator of channel c after a stack test's last run over the atoms up to last, and whether that run found a mismatch (19
R404, log 187): what the result names is the first mismatch; the rest of what the run measures is free. -/
def tgChecked (s : State) (ch last : Nat) (bad : Option Nat) : Tg :=
  { s.tg ch with
    done := true, miscompare := (s.tg ch).miscompare || bad.isSome
    errBits := if bad.isSome then Config.tgMeasured s.free ch 0 else 0
    errAtoms := if bad.isSome then Config.tgMeasured s.free ch 1 else 0
    firstErr := BitVec.ofNat 26 (bad.getD 0)
    rdBytes := BitVec.ofNat 64 (64 * (last + 1)), wrBytes := BitVec.ofNat 64 (64 * (last + 1))
    timeNs := Config.tgMeasured s.free ch 2
    lat := (List.range 16).map fun i => Config.tgMeasured s.free ch (3 + i) }

/-- The stack checkers on stack k (19 R404 kind 2, 08 R202): patterns of each channel are written, read and compared, one at quick
depth and two at full depth; the range is wiped when a run ends. -/
def checkStack (s : State) (k depth : Nat) (t : Option TestResult) : State :=
  let last := if depth = 0 then 999999 else 46874999
  let runs := if depth = 0 then 1 else 2
  let bad := fun c => match t with
    | some r => if !r.pass && r.firstFail / 2 ^ 32 == c then some (r.firstFail % 2 ^ 32) else none
    | none => none
  let s1 := (List.range 32).foldl (fun s c =>
    (wipeAtoms s (32 * k + c) 0 last).setTg (32 * k + c) (tgChecked s (32 * k + c) last (bad c))) s
  let bytes := 32 * runs * 64 * (last + 1)
  s1.setStack k { s1.stack k with readBytes := satAdd (s1.stack k).readBytes bytes
                                  writeBytes := satAdd (s1.stack k).writeBytes (2 * bytes) }

/-- The results of some tests recorded: the unit's latest entry, tests run and tests failed (19 R420). -/
def recordTests (s : State) (es : List (Nat × Nat × List Byte)) : State :=
  { s with bist := { s.bist with
      results := es.foldl (fun t e => Tab.put t e.1 e.2.2) s.bist.results
      runs := satAdd s.bist.runs es.length
      fails := satAdd s.bist.fails (es.filter fun e => e.2.1 == 1).length } }

/-- Units are tested: failures treated and results recorded; the entries in order and how many failed. -/
def runTests (s : State) (kind depth : Nat) (units : List Nat) (tests : List TestResult) :
    State × List (List Byte) × Nat :=
  let us := units.zipIdx.map fun u => (u.1, tests[u.2]?)
  let s1 := if kind = 2 then (us.foldl (fun s u => checkStack s (u.1 - 0x700) depth u.2) s).drawFree else s
  let r := failUnits kind depth us (holdUnits s1 units true) []
  let es := us.map fun e =>
    let v := if r.2.contains e.1 then 2 else testResult s kind depth e.1 e.2
    (e.1, v, resultEntry e.1 v kind depth e.2)
  (recordTests (holdUnits r.1 units false) es, es.map fun e => e.2.2, (es.filter fun e => e.2.1 == 1).length)

end Sys2Proof.Machine
end

