-- ==== Sys2Proof/Machine/Xts.lean ====
section
/-! DEFINITION. Sys2Proof/Machine/Xts.lean: AES-256 (FIPS 197) and AES-256-XTS (IEEE 1619), under which the flash store keeps its data
(16 R362). -/

namespace Sys2Proof.Machine

/-! The field of AES. -/

/-- A byte times x. -/
def xtime (b : Byte) : Byte := if b.msb then (b <<< 1) ^^^ 0x1B else b <<< 1

/-- The product of two bytes; fuel bounds the bits of the second. -/
def gmul : Nat → Byte → Byte → Byte
  | 0, _, _ => 0
  | n + 1, a, b => (if b.getLsbD 0 then a else 0) ^^^ gmul n (xtime a) (b >>> 1)

/-- The square of a byte. -/
def gsquare (a : Byte) : Byte := gmul 8 a a

/-- The inverse of a byte, 0 of 0: its 254th power. -/
def ginv (a : Byte) : Byte :=
  let a2 := gsquare a
  let a3 := gmul 8 a2 a
  let a12 := gsquare (gsquare a3)
  let a15 := gmul 8 a12 a3
  let a240 := gsquare (gsquare (gsquare (gsquare a15)))
  gmul 8 (gmul 8 a240 a12) a2

/-- The S-box. -/
def sbox (a : Byte) : Byte :=
  let b := ginv a
  b ^^^ b.rotateLeft 1 ^^^ b.rotateLeft 2 ^^^ b.rotateLeft 3 ^^^ b.rotateLeft 4 ^^^ 0x63

/-! AES-256. -/

/-- The words of the key schedule from word i on, given the eight before; fuel bounds them. -/
def keyWords : Nat → Nat → List (List Byte) → Byte → List (List Byte)
  | 0, _, _, _ => []
  | n + 1, i, last, rcon =>
    let prev := last.getLastD []
    let t := if i % 8 = 0 then xorBytes ((prev.drop 1 ++ prev.take 1).map sbox) [rcon, 0, 0, 0]
      else if i % 8 = 4 then prev.map sbox else prev
    let w := xorBytes (last.headD []) t
    w :: keyWords n (i + 1) (last.drop 1 ++ [w]) (if i % 8 = 0 then xtime rcon else rcon)

/-- The 15 round keys of a 32-byte key. -/
def roundKeys (key : List Byte) : List (List Byte) :=
  let first := (List.range 8).map fun i => slice key (4 * i) 4
  let ws := first ++ keyWords 52 8 first 1
  (List.range 15).map fun r => (slice4 ws (4 * r)).flatten
where
  /-- Four words from word i. -/
  slice4 (ws : List (List Byte)) (i : Nat) : List (List Byte) := (ws.drop i).take 4

/-- The rows of the state shifted; byte r + 4c stands in row r and column c. -/
def shiftRows (s : List Byte) : List Byte := (List.range 16).map fun i => s.getD (i % 4 + 4 * ((i / 4 + i % 4) % 4)) 0

/-- The columns of the state mixed. -/
def mixColumns (s : List Byte) : List Byte :=
  (List.range 16).map fun i =>
    let a := fun k => s.getD (i / 4 * 4 + (i % 4 + k) % 4) 0
    xtime (a 0) ^^^ xtime (a 1) ^^^ a 1 ^^^ a 2 ^^^ a 3

/-- AES-256 of a 16-byte block. -/
def aes256 (key block : List Byte) : List Byte :=
  let ks := roundKeys key
  let s0 := xorBytes block (ks.headD [])
  let s13 := (List.range 13).foldl (fun s r => xorBytes (mixColumns (shiftRows (s.map sbox))) (ks.getD (r + 1) [])) s0
  xorBytes (shiftRows (s13.map sbox)) (ks.getD 14 [])

/-! XTS. -/

/-- A tweak times α, as bytes from the lowest. -/
def nextTweak (t : List Byte) : List Byte :=
  let v := BitVec.ofNat 128 (leNat t)
  toLe 16 ((v <<< 1) ^^^ (if v.msb then 0x87 else 0)).toNat

/-- The blocks of a data unit encrypted under tweaks that follow one another. -/
def xtsBlocks (key : List Byte) : List Byte → List (List Byte) → List Byte
  | _, [] => []
  | t, b :: bs => xorBytes (aes256 key (xorBytes b t)) t ++ xtsBlocks key (nextTweak t) bs

/-- AES-256-XTS of a data unit of whole blocks under a 64-byte key, whose second half encrypts the tweak. -/
def xtsEncrypt (key : List Byte) (tweak : Nat) (bs : List Byte) : List Byte :=
  xtsBlocks (slice key 0 32) (aes256 (slice key 32 32) (toLe 16 tweak)) ((List.range (bs.length / 16)).map fun k => slice bs (16 * k) 16)

end Sys2Proof.Machine
end

