-- ==== Sys2Proof/Machine/Flash.lean ====
section
/-! DEFINITION. Sys2Proof/Machine/Flash.lean: what the NAND holds of an object (16 R348, R362) and how a codeword is read (R359). -/

namespace Sys2Proof.Machine

/-! Data units, codewords and pages (R348, R362). -/

/-- Data units of 4,096 bytes in an object. -/
def Obj.units (b : Obj) : Nat := ceilDiv b.bytes.length 4096

/-- Data unit i of an object, its end filled with zeros (log 184). -/
def Obj.unit (b : Obj) (i : Nat) : List Byte := slice b.bytes (4096 * i) 4096

/-- The tweak of a data unit: its index, and the serial of its object; journal and index records have serial 0. -/
def unitTweak (serial index : Nat) : Nat := index % 2 ^ 64 + serial % 2 ^ 64 * 2 ^ 64

/-- A codeword: 4,096 bytes of encrypted data and 506 of parity. -/
def codewordOf (key : List Byte) (serial index : Nat) (data : List Byte) : List Byte :=
  let e := xtsEncrypt key (unitTweak serial index) data
  e ++ slice (Config.ldpcParity e) 0 506

/-- A page: four codewords, and 184 spare bytes. -/
structure NandPage where
  codewords : List (List Byte)
  spare : List Byte
  deriving DecidableEq, Repr

/-- Page p of an object: data units 4p to 4p + 3; the spare bytes carry the object's serial, the index of its first data unit and a
CRC of both. -/
def Obj.page (key : List Byte) (b : Obj) (p : Nat) : NandPage :=
  { codewords := (List.range 4).map fun k => codewordOf key b.serial (4 * p + k) (b.unit (4 * p + k))
    spare := slice (toLe 8 b.serial ++ toLe 8 (4 * p) ++ Config.spareCrc b.serial (4 * p)) 0 184 }

/-- The pages that hold an object, and no other's data. -/
def Obj.pages (key : List Byte) (b : Obj) : List NandPage := (List.range (ceilDiv b.units 4)).map (b.page key)

/-! Reading a codeword (R359). -/

/-- How a codeword was decoded, or that it was not. -/
inductive Decoded where
  | intact | hard | reread | soft | lost
  deriving DecidableEq, Repr

/-- Hard decision corrects so many bit errors. -/
def hardDecodes (errors : Nat) : Bool := errors ≤ 120

/-- The steps of R359: hard decision; up to 16 rereads, each decoded by hard decision; three sensing levels by soft decision. -/
def decodeCodeword (r : CodewordRead) : Decoded :=
  if r.errors = 0 then .intact
  else if hardDecodes r.errors then .hard
  else if (r.rereads.take 16).any hardDecodes then .reread
  else if r.soft then .soft
  else .lost

/-- The block of a codeword so decoded is due for a refresh (R359, R360): it needed more than 72 corrected bits, a reread or soft
decision. -/
def refreshWanted (r : CodewordRead) : Bool :=
  match decodeCodeword r with
  | .hard => 72 < r.errors
  | .reread => true
  | .soft => true
  | _ => false

end Sys2Proof.Machine
end

