-- ==== Sys2Proof/Machine/Store.lean ====
section
/-! DEFINITION. Sys2Proof/Machine/Store.lean: how commands move data: tier reads (08 R195), host memory, the flash
store (16 R346 to R363) and COPY (14 R322). -/

namespace Sys2Proof.Machine

/-! Reads that fail (08 R195, 13 R298). -/

/-- The 8 bytes that name an atom in an event (19 R419). -/
def atomDetail (ch atom : Nat) : List Byte := toLe 2 ch ++ [0, 0] ++ toLe 4 atom

/-- An uncorrectable atom is counted and reported (08 R191, R195). -/
def tierUe (s : State) (part ch atom : Nat) : State :=
  let k := ch / 32
  let v := s.stack k
  raiseEvent (s.setStack k { v with ue := satAdd v.ue 1, ueAtom := BitVec.ofNat 26 atom, ueChannel := BitVec.ofNat 10 ch })
    evHbmUe (srcStack k) part (atomDetail ch atom)

/-- A late read is counted and reported (08 R195). -/
def tierLate (s : State) (part ch atom : Nat) : State :=
  let k := ch / 32
  raiseEvent (s.setStack k { s.stack k with late := satAdd (s.stack k).late 1 }) evTierLate (srcStack k) part
    (atomDetail ch atom)

/-- A device atom's read is counted at its stack (08 R191); whether it is lost. -/
def countAtom (s : State) (part : Nat) (r : AtomRead) : State × Bool :=
  let o := atomOutcome s r
  let at' := atomAt r.atom
  let k := at'.1 / 32
  let v := s.stack k
  let s1 := s.setStack k { v with ce := satAdd v.ce (b2n o.corrected), addrErr := satAdd v.addrErr o.address,
                                  retried := satAdd v.retried (b2n (o.retried && !o.lost)) }
  (if o.lost then tierUe s1 part at'.1 at'.2 else s1, o.lost)

/-- The events of some tier reads, and the status that the first verdict among them gives (08 R195, R197). -/
def tierStatus (s : State) (part : Nat) (t : Tier) : State × Option Nat :=
  t.foldl (fun (a : State × Option Nat) e =>
    match e with
    | .atom r =>
      let c := countAtom a.1 part r
      (c.1, if c.2 then some (a.2.getD stEndedData) else a.2)
    | .late n => (tierLate a.1 part (atomAt n).1 (atomAt n).2, some (a.2.getD stTierLate))) (s, none)

/-- n bytes that hold unspecified values (log 11). -/
def openBytes (s : State) (n : Nat) : List Byte × State :=
  ((List.range n).map fun i => Config.unspecifiedByte s.free i, s.drawFree)

/-- A unit found a logic fault while it worked for a command (13 R286, R298): the event, then its quick BIST, which a
test result may fail. -/
def unitFault (s : State) (part source : Nat) (tests : List TestResult) : State :=
  (runTests (raiseEvent s evJobFault source part (faultDetail s part)) 0 0 [source] tests).1

/-- The unit that works for a partition's commands: its lead basin. -/
def leadSource (s : State) (p : Nat) : Nat := srcBasin ((leadBasin s p).getD 0)

/-! Objects (16 R349 to R353). -/

/-- System objects (16 R349). -/
def systemObject (o : Nat) : Bool := 0xFFFF000000000000 ≤ o

/-- Function f sees object o (16 R349, R350). -/
def seesObject (f o : Nat) (b : Obj) : Bool :=
  b.visible && (f == 0 || (if systemObject o then o == 0xFFFF000000000001 else b.owner == f))

/-- The object as a read finds it: the bytes of its completed appends, gone once a delete was taken (16 R353). -/
def readsObject (s : State) (o : Nat) : Option Obj :=
  if s.fls.pending.any fun p => p.object == o && p.deletes then none else Tab.find s.medium.objects o

/-- The object as a write finds it: with every earlier command on it (16 R353). -/
def afterOp (o : Nat) (b : Option Obj) (p : StoreOp) : Option Obj :=
  if p.object != o then b
  else if p.deletes then none
  else match b with
    | some v => some { v with bytes := v.bytes ++ p.bytes, isSealed := v.isSealed || p.seals }
    | none => some { bytes := p.bytes, owner := p.owner, serial := 0, isSealed := p.seals }

@[inherit_doc afterOp]
def writesObject (s : State) (o : Nat) : Option Obj := s.fls.pending.foldl (afterOp o) (Tab.find s.medium.objects o)

/-- Bytes that writes not yet programmed will add. -/
def pendingBytes (s : State) (f : Option Nat) : Nat :=
  ((s.fls.pending.filter fun p => match f with | some g => p.owner == g | none => true).map fun p => p.bytes.length).sum

/-- There is no room for n more bytes of function f's object, or for a new object (16 R357, R361). -/
def storeFull (s : State) (f n : Nat) (create : Bool) : Bool :=
  let quota := (Tab.get s.fls.quotas f (BitVec.allOnes 64)).toNat
  s.fls.readOnly || s.fls.capacity.toNat < heldBytes s + pendingBytes s none + n
    || (quota != 2 ^ 64 - 1 && quota < ownedBytes s f + pendingBytes s (some f) + n)
    || (create && 1048576 ≤ s.medium.objects.length + (s.fls.pending.filter StoreOp.create).length)

/-! Flash reads (16 R359). -/

/-- An uncorrectable codeword: the object is damaged, the place recorded, the event raised. -/
def flashUe (s : State) (o off : Nat) : State :=
  let objects := match Tab.find s.medium.objects o with
    | some b => Tab.put s.medium.objects o { b with damaged := true }
    | none => s.medium.objects
  raiseEvent { s with
      medium := { s.medium with objects := objects }
      fls := { s.fls with ue := satAdd s.fls.ue 1, ueLastObj := BitVec.ofNat 64 o,
                          ueLastOff := BitVec.ofNat 64 (off / 4096 * 4096) } }
    evStoreUe srcFlash 0xF (toLe 8 o ++ toLe 8 (off / 4096 * 4096))

/-- A codeword of object o is read (16 R359): it is counted, its block scheduled for refresh where that is due; a lost one is
reported. -/
def readCodeword (s : State) (o : Nat) (r : CodewordRead) : State :=
  let k := decodeCodeword r
  let s1 := { s with
    medium := { s.medium with refreshDue := if refreshWanted r then s.medium.refreshDue ++ [(o, r.unit)] else s.medium.refreshDue }
    fls := { s.fls with cwCorrected := satAdd s.fls.cwCorrected (b2n (k == .hard))
                        retryReads := satAdd s.fls.retryReads (b2n (k == .reread))
                        softDecodes := satAdd s.fls.softDecodes (b2n (k == .soft)) } }
  if k = .lost then flashUe s1 o (4096 * r.unit) else s1

/-- The codewords of object o that hold bytes off to off + len − 1 are read in order; with the data unit of the first that is lost, at
which the read stops. Those not named have no bit errors. -/
def readCodewords (s : State) (o off len : Nat) (rs : List CodewordRead) : State × Option Nat :=
  (rs.filter fun r => off / 4096 ≤ r.unit && 4096 * r.unit < off + len).foldl (fun (a : State × Option Nat) r =>
    match a.2 with
    | some _ => a
    | none => (readCodeword a.1 o r, if decodeCodeword r = .lost then some r.unit else none)) (s, none)

/-- FLS.BLK_SEL of a block (16 R365). -/
def blockSel (b : BadBlock) : Nat := packFields [(0, b.channel % 8), (3, b.ce % 4), (5, b.lun % 16), (9, b.block % 2 ^ 20)]

/-- Blocks retired, and the store read-only when the spare pool is exhausted (16 R361). -/
def wearOut (s : State) (w : FlashWear) : State :=
  let s1 := w.bad.foldl (fun s b => raiseEvent s evBadBlock srcFlash 0xF
    (toLe 1 b.channel ++ toLe 1 b.ce ++ toLe 1 b.lun ++ [0] ++ toLe 4 b.block)) s
  let n := w.bad.length
  let s2 := if n = 0 then s1
    else { s1 with medium := { s1.medium with grownBad := s1.medium.grownBad ++ w.bad.map blockSel }
                   fls := { s1.fls with badGrown := satAdd s1.fls.badGrown n,
                                        spare := BitVec.ofNat 32 (s1.fls.spare.toNat - n),
                                        capacity := BitVec.ofNat 64 (w.goodBytes * 971 / 1000) } }
  if w.low && !s2.fls.readOnly then
    raiseEvent { s2 with fls := { s2.fls with readOnly := true } } evStoreReadonly srcFlash 0xF []
  else s2

/-- What a read of a whole object for a command gives: its bytes, or the status that ends the command (16 R347, R353,
R358, R359). -/
def wholeObject (s : State) (f o : Nat) (env : Env) : State × (Nat ⊕ List Byte) :=
  if !s.fls.online then (s, .inl stStoreUnreadable)
  else if o = 0 then (s, .inl stBadDesc)
  else match readsObject s o with
    | none => (s, .inl stStoreNoObject)
    | some b =>
      if !seesObject f o b then (s, .inl stStoreNoObject)
      else if !b.isSealed then (s, .inl stBadDesc)
      else
        let t := readCodewords s o 0 b.bytes.length env.flash
        match t.2 with
        | none => ({ t.1 with fls := { t.1.fls with readBytes := satAdd t.1.fls.readBytes b.bytes.length } }, .inr b.bytes)
        | some _ => (t.1, .inl stStoreUnreadable)

/-- The checks on an object that CTX_SAVE or CODEC_ENCODE creates (16 R357, R358). -/
def newObjectStatus (s : State) (f o : Nat) : Option Nat :=
  if !s.fls.online then some stStoreUnreadable
  else if o = 0 || systemObject o then some stBadDesc
  else match writesObject s o with
    | some b => some (if seesObject f o b then stBadDesc else stStoreNoObject)
    | none => if storeFull s f 0 true then some stStoreFull else none

/-- Such an object is created, invisible. -/
def createHidden (s : State) (c : Cmd) (o : Nat) : State :=
  { s with medium := { s.medium with
      objects := Tab.put s.medium.objects o
        { bytes := [], owner := c.fn, serial := s.medium.nextSerial, isSealed := false, visible := false, writer := c.id }
      nextSerial := s.medium.nextSerial + 1 } }

/-- Bytes appended to such an object. -/
def appendHidden (s : State) (o : Nat) (bs : List Byte) : State :=
  match Tab.find s.medium.objects o with
  | some b =>
    { s with medium := { s.medium with objects := Tab.put s.medium.objects o { b with bytes := b.bytes ++ bs } }
             fls := { s.fls with writeBytes := satAdd s.fls.writeBytes bs.length } }
  | none => s

/-! STORE_READ (16 R355). -/

/-- The object named in bytes 40–47. -/
def stObject (d : List Byte) : Nat := leAt d 40 8

/-- The checks of R357 on a STORE_READ; a length of zero is decided before them, but for the first (14 R327). -/
def storeReadStatus (s : State) (c : Cmd) : Option Nat :=
  let d := c.desc
  let hbm := bitOf (leAt d 32 1) 0
  let off := leAt d 48 8
  let len := leAt d 56 8
  let dst := leAt d 64 8
  if !s.fls.online then some stStoreUnreadable
  else if len = 0 then some stOk
  else if stObject d = 0 || dst % (if hbm then 4096 else 64) != 0 || (hbm && off % 4096 != 0) then some stBadDesc
  else if (if hbm then !inQuota s (dPart d) dst (ceilDiv len 4096 * 4096) else !inWindows s c.fn dst len) then some stDenied
  else match readsObject s (stObject d) with
    | none => some stStoreNoObject
    | some b =>
      if !seesObject c.fn (stObject d) b then some stStoreNoObject
      else if hbm && len % 4096 != 0 && off + len != ceilDiv b.bytes.length 4096 * 4096 then some stBadDesc
      else if b.bytes.length < off + len
          && !(hbm && off + len == ceilDiv b.bytes.length 4096 * 4096 && off < b.bytes.length) then some stBadDesc
      else none

/-- The bytes a read delivers: those of the object, then zeros; after an uncorrectable codeword unspecified ones. -/
def readDelivers (s : State) (d : List Byte) (b : Obj) (env : Env) : State × List Byte × Nat :=
  let off := leAt d 48 8
  let len := leAt d 56 8
  let bs := slice b.bytes off len
  let r := readCodewords s (stObject d) off (min len (b.bytes.length - off)) env.flash
  match r.2 with
  | none => ({ r.1 with fls := { r.1.fls with readBytes := satAdd r.1.fls.readBytes len } }, bs, stOk)
  | some unit =>
    let n := 4096 * unit - off
    let t := openBytes { r.1 with fls := { r.1.fls with readBytes := satAdd r.1.fls.readBytes n } } (len - n)
    (t.2, bs.take n ++ t.1, stStoreUnreadable)

/-- STORE_READ. -/
def runStoreRead (s : State) (c : Cmd) (env : Env) : State :=
  let t := chargeCmd s c env.charge
  match storeReadStatus s c, readsObject s (stObject c.desc) with
  | some st, _ => finish s c st
  | none, some b =>
    let r := readDelivers t.1 c.desc b env
    let dst := leAt c.desc 64 8
    let s1 := if bitOf (leAt c.desc 32 1) 0 then hbmPut r.1 (dPart c.desc) dst r.2.1 else hostWrite r.1 dst r.2.1
    finish s1 t.2 r.2.2
  | none, none => finish s c stStoreNoObject

/-- STORE_READ. -/
def execStoreRead (f q : Nat) (env : Env) (s : State) : Host.Outcome State Fault Refusal :=
  .next (takeRow 0x0080 f q env noEarly runStoreRead s)

/-! STORE_WRITE (16 R354). -/

/-- The checks of R357 on a STORE_WRITE. -/
def storeWriteStatus (s : State) (c : Cmd) : Option Nat :=
  let d := c.desc
  let create := bitOf (leAt d 32 1) 0
  let seal' := bitOf (leAt d 32 1) 1
  let hbm := bitOf (leAt d 32 1) 2
  let o := stObject d
  let src := leAt d 48 8
  let len := leAt d 56 8
  let at' := leAt d 64 8
  let cur := writesObject s o
  let have' := match cur with | some b => b.bytes.length | none => 0
  let owner := match cur with | some b => b.owner | none => c.fn
  if !s.fls.online then some stStoreUnreadable
  else if o = 0 || (create && systemObject o) || src % (if hbm then 4096 else 64) != 0 || (hbm && len % 4096 != 0)
      || 2 ^ 44 < len then some stBadDesc
  else if (if hbm then !inQuota s (dPart d) src len else !inWindows s c.fn src len) then some stDenied
  else if (match cur with | some b => !seesObject c.fn o b | none => !create) then some stStoreNoObject
  else if systemObject o then some stDenied
  else if (create && cur.isSome) || ((match cur with | some b => b.isSealed | none => false) && (len != 0 || seal'))
      || (at' != 2 ^ 64 - 1 && at' != have') || 2 ^ 44 < have' + len then some stBadDesc
  else if storeFull s owner len create then some stStoreFull
  else none

/-- STORE_WRITE: the source is read, then the append, seal and creation wait for the journal (16 R352). -/
def runStoreWrite (s : State) (c : Cmd) (env : Env) : State :=
  match storeWriteStatus s c with
  | some st => finish s c st
  | none =>
    let d := c.desc
    let create := bitOf (leAt d 32 1) 0
    let seal' := bitOf (leAt d 32 1) 1
    let o := stObject d
    let len := leAt d 56 8
    let t := chargeCmd s c env.charge
    if bitOf (leAt d 32 1) 2 then
      let r := tierStatus t.1 (dPart d) env.tier
      match r.2 with
      | some st => finish r.1 t.2 st
      | none =>
        let g := hbmGet r.1 (dPart d) (leAt d 48 8) len
        pendWrite g.2 t.2 o create g.1 seal' env
    else if len != 0 && !env.hostOk then hostReadFailed t.1 t.2
    else
      let g := hostRead t.1 (leAt d 48 8) len
      pendWrite g.2 t.2 o create g.1 seal' env
where
  /-- The write waits for the journal; one that does nothing is over. -/
  pendWrite (s : State) (c : Cmd) (o : Nat) (create : Bool) (bs : List Byte) (seal' : Bool) (env : Env) : State :=
    if !create && !seal' && bs.isEmpty then finish s c stOk
    else
      let owner := match writesObject s o with | some b => b.owner | none => c.fn
      let s1 := wearOut s env.wear
      { s1 with fls := { s1.fls with pending := s1.fls.pending ++
        [{ object := o, create := create, bytes := bs, seals := seal', deletes := false, owner := owner, cmd := c.id }] } }

/-- STORE_WRITE. -/
def execStoreWrite (f q : Nat) (env : Env) (s : State) : Host.Outcome State Fault Refusal :=
  .next (takeRow 0x0081 f q env noEarly runStoreWrite s)

/-! STORE_DELETE and STORE_LIST (16 R353, R356). -/

/-- STORE_DELETE: it waits for the journal behind the appends already taken. -/
def runStoreDelete (s : State) (c : Cmd) (env : Env) : State :=
  let o := stObject c.desc
  let t := chargeCmd s c env.charge
  if !s.fls.online then finish s c stStoreUnreadable
  else if o = 0 then finish s c stBadDesc
  else match writesObject s o with
    | none => finish s c stStoreNoObject
    | some b =>
      if !seesObject c.fn o b then finish s c stStoreNoObject
      else if systemObject o then finish s c stDenied
      else
        { t.1 with fls := { t.1.fls with pending := t.1.fls.pending ++
          [{ object := o, create := false, bytes := [], seals := false, deletes := true, owner := c.fn, cmd := c.id }] } }

/-- STORE_DELETE. -/
def execStoreDelete (f q : Nat) (env : Env) (s : State) : Host.Outcome State Fault Refusal :=
  .next (takeRow 0x0082 f q env noEarly runStoreDelete s)

/-- An object's record (16 R356). -/
def objectRecord (o : Nat) (b : Obj) : List Byte :=
  toLe 8 o ++ toLe 8 b.bytes.length ++ toLe 8 b.serial
    ++ toLe 1 (b2n b.isSealed + 2 * b2n b.recovered + 4 * b2n b.damaged) ++ toLe 1 (b.owner % 64) ++ List.replicate 6 0

/-- The objects function f sees, in ascending order. -/
def visibleObjects (s : State) (f : Nat) : List (Nat × Obj) := s.medium.objects.filter fun e => seesObject f e.1 e.2

/-- STORE_LIST. -/
def runStoreList (s : State) (c : Cmd) (env : Env) : State :=
  let d := c.desc
  let first := leAt d 40 8
  let n := leAt d 48 4
  let dst := leAt d 56 8
  let t := chargeCmd s c env.charge
  if !s.fls.online then finish s c stStoreUnreadable
  else if n = 0 then finish s c stOk
  else if dst % 64 != 0 then finish s c stBadDesc
  else if !inWindows s c.fn dst (32 + 32 * n) then finish s c stDenied
  else
    let all := visibleObjects s c.fn
    let from' := all.filter fun e => first ≤ e.1
    let out := from'.take n
    let next := match (from'.drop n).head? with | some e => e.1 | none => 0
    let head := toLe 4 out.length ++ [0, 0, 0, 0] ++ toLe 8 next ++ toLe 4 all.length ++ List.replicate 12 0
    finish (hostWrite t.1 dst (head ++ out.flatMap fun e => objectRecord e.1 e.2)) t.2 stOk

/-- STORE_LIST. -/
def execStoreList (f q : Nat) (env : Env) (s : State) : Host.Outcome State Fault Refusal :=
  .next (takeRow 0x0083 f q env noEarly runStoreList s)

/-! The journal and the patrol (16 R352, R360). -/

/-- A write, seal or delete is durable. -/
def programOp (m : Medium) (p : StoreOp) : Medium :=
  if p.deletes then { m with objects := Tab.del m.objects p.object }
  else match Tab.find m.objects p.object with
    | some b =>
      let b' : Obj := { b with bytes := b.bytes ++ p.bytes, isSealed := b.isSealed || p.seals, recovered := false }
      { m with objects := Tab.put m.objects p.object b' }
    | none =>
      let b' : Obj := { bytes := p.bytes, owner := p.owner, serial := m.nextSerial, isSealed := p.seals }
      { m with nextSerial := m.nextSerial + 1, objects := Tab.put m.objects p.object b' }

/-- JOURNAL_PROGRAM (16 R352): what waits becomes durable, and the commands complete in the order taken. -/
def execJournalProgram (s : State) : Host.Outcome State Fault Refusal :=
  .next (
    let ops := s.fls.pending
    let bytes := (ops.map fun p => p.bytes.length).sum
    let s1 := { s with medium := ops.foldl programOp s.medium,
                       fls := { s.fls with pending := [], writeBytes := satAdd s.fls.writeBytes bytes } }
    ops.foldl (fun s p => finishId s p.cmd stOk) s1)

/-- FLASH_PATROL (16 R360): the codewords with bit errors among those read, by object; the blocks refreshed, of those that are due; wear
met. -/
def execFlashPatrol (reads : List (Nat × CodewordRead)) (refreshed : Nat) (wear : FlashWear) (passDone : Bool)
    (s : State) : Host.Outcome State Fault Refusal :=
  .next (
    if alive s && s.fls.online && s.fls.patrolEn then
      let s1 := reads.foldl (fun s e => readCodeword s e.1 e.2) s
      let n := min refreshed s1.medium.refreshDue.length
      wearOut { s1 with
        medium := { s1.medium with refreshDue := if n = 0 then s1.medium.refreshDue else [] }
        fls := { s1.fls with refreshed := satAdd s1.fls.refreshed n, patrol := satAdd s1.fls.patrol (b2n passDone) } } wear
    else s)

/-! COPY (14 R322). -/

/-- COPY's direction, source, destination and length. -/
def cpDir (d : List Byte) : Nat := bitsOf (leAt d 32 1) 0 2
@[inherit_doc cpDir]
def cpSrc (d : List Byte) : Nat := leAt d 40 8
@[inherit_doc cpDir]
def cpDst (d : List Byte) : Nat := leAt d 48 8
@[inherit_doc cpDir]
def cpLen (d : List Byte) : Nat := leAt d 56 8

/-- The checks of R322 in order. -/
def copyStatus (s : State) (c : Cmd) : Option Nat :=
  let d := c.desc
  let n := cpLen d
  let hostToHbm := cpDir d = 0
  let hbmToHost := cpDir d = 1
  if cpDir d = 3 then some stBadDesc
  else if n = 0 then some stOk
  else if cpSrc d % 4096 != 0 || cpDst d % 4096 != 0 || n % 4096 != 0
      || (cpDir d = 2 && cpSrc d < cpDst d + n && cpDst d < cpSrc d + n) then some stBadDesc
  else if (if hostToHbm then !inWindows s c.fn (cpSrc d) n else !inQuota s (dPart d) (cpSrc d) n)
      || (if hbmToHost then !inWindows s c.fn (cpDst d) n else !inQuota s (dPart d) (cpDst d) n) then some stDenied
  else none

/-- COPY writes its destination. -/
def copyTo (s : State) (d bs : List Byte) : State :=
  if cpDir d = 1 then hostWrite s (cpDst d) bs else hbmPut s (dPart d) (cpDst d) bs

/-- The destination of a COPY that failed holds unspecified values. -/
def copyJunk (s : State) (d : List Byte) : State := let t := openBytes s (cpLen d); copyTo t.2 d t.1

/-- COPY. -/
def runCopy (s : State) (c : Cmd) (env : Env) : State :=
  let d := c.desc
  match copyStatus s c with
  | some st => finish s c st
  | none =>
    let t := chargeCmd s c env.charge
    if env.fault then
      finish (unitFault (copyJunk t.1 d) (dPart d) (leadSource s (dPart d)) env.tests) t.2 stJobFault
    else if cpDir d = 0 then
      if !env.hostOk then hostReadFailed (copyJunk t.1 d) t.2
      else let g := hostRead t.1 (cpSrc d) (cpLen d); finish (copyTo g.2 d g.1) t.2 stOk
    else
      let r := tierStatus t.1 (dPart d) env.tier
      match r.2 with
      | some st => finish (copyJunk r.1 d) t.2 st
      | none => let g := hbmGet r.1 (dPart d) (cpSrc d) (cpLen d); finish (copyTo g.2 d g.1) t.2 stOk

/-- COPY. -/
def execCopy (f q : Nat) (env : Env) (s : State) : Host.Outcome State Fault Refusal :=
  .next (takeRow 0x0040 f q env noEarly runCopy s)

end Sys2Proof.Machine
end

