-- ==== Sys2Proof/Machine/Faults.lean ====
section
/-! DEFINITION. Sys2Proof/Machine/Faults.lean: faults and data errors of running work (13 R285 to R299, 08 R176, R184, R195 to
R200), heartbeats (06 R138), and the rows of the memory. -/

namespace Sys2Proof.Machine

/-- The device works: stage 1 is complete and it has not failed. -/
def works (s : State) : Bool := s.run.phase == .stage1 && !s.run.failed

/-! Job faults (13 R294, R297). -/

/-- The pre-emption that waits behind a halt. -/
def haltPreempt : Halt → Option Nat
  | .preempt c => some c
  | .restart c => c
  | _ => none

/-- The work of partition p is abandoned and waits for JOB_RESTART (13 R294 step 2); a save in progress is cancelled
(R296). -/
def abandonRun (s : State) (p : Nat) : State :=
  let run := s.partRun p
  let s1 := dropResampleOps (idleCores (dropCodecOps s p) p) p
  let s2 := s1.setRun p { s1.partRun p with halt := .restart (haltPreempt run.halt) }
  match run.halt with
  | .save c => finishId s2 c stCancelled
  | _ => s2

/-- A job fault of partition p whose event has been raised. A fault joins the restart in progress; a serving step whose
fourth run faults halts the partition (13 R297); a serving job between steps loses nothing (R294). -/
def jobFault (s : State) (p : Nat) : State :=
  let run := s.partRun p
  match run.job, run.halt with
  | none, _ => s
  | some _, .restart _ => s
  | some j, _ =>
    if j.serving then
      match run.step with
      | none => s
      | some st =>
        if 3 ≤ st.faults then
          let s1 := raiseEvent s evServingHalted srcSched p (toLe 4 j.handle)
          endJob (s1.setRun p { run with halted := true, haltPlan := j.handle }) p stJobFault
        else abandonRun (s.setRun p { run with step := some { st with faults := st.faults + 1 } }) p
    else abandonRun s p

/-- A fault raised by a unit (13 R286). -/
def faultFrom (s : State) (source p : Nat) : State := jobFault (raiseEvent s evJobFault source p (faultDetail s p)) p

/-- LOGIC_FAULT (13 R286, R287, R298): in a core, a basin unit or a codec engine it faults the job there; in the command
processor, the management processor or the security engine it fails the device. -/
def execLogicFault (unit : FaultUnit) (s : State) : Host.Outcome State Fault Refusal :=
  .next (
    if !works s then s
    else match unit with
      | .core p => if p < 1500 then faultFrom s p (basinPart s (coreBasin p)) else s
      | .basin b => if b < 10 then faultFrom s (srcBasin b) (basinPart s b) else s
      | .codec c =>
        if c < 4 then
          faultFrom s (srcCodec c) (match (s.codec c).current with | some (.op p _) => p | _ => 0xF)
        else s
      | .stop source => failDevice s source)

/-- FABRIC_ERROR (13 R286). -/
def execFabricError (source : Nat) (p : Nat) (s : State) : Host.Outcome State Fault Refusal :=
  .next (if works s then faultFrom s source (if p < 10 then p else 0xF) else s)

/-! Heartbeats and dead cores (06 R137, R138, 13 R289). -/

/-- CORE_HEARTBEAT (06 R138). -/
def execCoreHeartbeat (core : Nat) (s : State) : Host.Outcome State Fault Refusal :=
  .next (if works s && core < 1500 && (s.core core).role == 0 then s.setCore core { s.core core with lastBeat := s.now } else s)

/-- The heartbeat timeout in µs that governs a core (06 R138). -/
def beatTimeout (s : State) (core : Nat) : Nat :=
  let b := coreBasin core
  let lead := match leadBasin s (basinPart s b) with | some l => l | none => b
  zeroSelects (s.basin lead).wrk.timeoutUs 100

/-- HEARTBEAT_TIMEOUT (06 R138): a serving core that is not quiesced and has been silent for the timeout is declared
dead. -/
def execHeartbeatTimeout (core : Nat) (s : State) : Host.Outcome State Fault Refusal :=
  .next (
    let c := s.core core
    if works s && core < 1500 && c.role == 0 && !c.quiesce && c.lastBeat + beatTimeout s core * 1000 ≤ s.now then
      declareDead s core 1
    else s)

/-- DEAD_CORE_MESSAGE (13 R289): dropped and counted; reported at most once a millisecond. -/
def execDeadCoreMessage (core : Nat) (s : State) : Host.Outcome State Fault Refusal :=
  .next (
    let c := s.core core
    if works s && core < 1500 && c.fenced then
      if talkDue s.now c.talkAt then
        raiseEvent (s.setCore core { c with dropped := 0, talkAt := some s.now }) evFencedTalk core
          (basinPart s (coreBasin core)) (toLe 4 (satNat 32 (c.dropped + 1)))
      else s.setCore core { c with dropped := c.dropped + 1 }
    else s)

/-! Data errors (08 R176, R195, R196). -/

/-- A node leaves its slice; its parent has one child fewer. -/
def removeNode (s : State) (n : Node) : State :=
  { s with nodes := (s.nodes.erase n).map fun (m : Node) =>
      if m.part == n.part && m.plan == n.plan && m.key == n.parent then { m with children := m.children - 1 } else m }

/-- The pages of requests behind a removed node are private from it on (07 R160, 08 R184). -/
def privatise (n : Node) (r : Request) : Request :=
  if r.part == n.part && r.plan == n.plan then
    match r.pages.findIdx? (· == n.page) with
    | some k => { r with shared := min r.shared k }
    | none => r
  else r

/-- A node that could not be read leaves its slice. -/
def loseNode (s : State) (n : Node) : State :=
  let s1 := removeNode s n
  { s1 with requests := Tab.map s1.requests (privatise n) }

/-- The page goes back to the pool unless a node or a request uses it. -/
def dropPage (s : State) (p h pg : Nat) : State :=
  if (s.nodes.any fun n => n.part == p && n.plan == h && n.page == pg)
      || (planRequests s p h).any (fun r => r.pages.contains pg) then s
  else match s.plan p h with
    | some pl => s.setPlan p h { pl with pages := Tab.del pl.pages pg }
    | none => s

/-- A request of the running step ends; its tokens of the step are not reported. -/
def endInStep (s : State) (r : Request) (status : Nat) : State :=
  let run := s.partRun r.part
  let s1 := match run.step with
    | some st => s.setRun r.part { run with step := some { st with ended := st.ended ++ [(r.slot, status)] } }
    | none => s
  endRequest s1 r status 0

/-- The request takes part in the running step and has not ended there. -/
def inStep (s : State) (r : Request) : Bool :=
  match (s.partRun r.part).step with
  | some st => st.parts.any (fun q => q.slot == r.slot) && !(st.ended.any fun e => e.1 == r.slot && e.2 < 65536)
  | none => false

/-- A page of a serving plan could not be read (08 R176): a private page ends its request, a node page every request of the
step that read it, and the node leaves its slice. -/
def pageError (s : State) (p h pg status : Nat) : State :=
  let node := s.nodes.find? fun n => n.part == p && n.plan == h && n.page == pg
  let hit := (planRequests s p h).filter fun r => r.pages.contains pg && (node.isNone || inStep s r)
  let s1 := match node with | some n => loseNode s n | none => s
  dropPage (hit.foldl (fun s r => endInStep s r status) s1) p h pg

/-- A tensor of a serving plan could not be read (08 R195, R196): the requests of the step end with the status, the plan is
damaged, its other requests and the serving job end with ST_ENDED_DATA. -/
def planError (s : State) (p h status : Nat) : State :=
  let s1 := match s.plan p h with | some pl => s.setPlan p h { pl with damaged := true } | none => s
  let s2 := ((planRequests s1 p h).filter fun r => inStep s1 r).foldl (fun s r => endInStep s r status) s1
  let s3 := endRequests s2 p h stEndedData 0 fun r => r.state != .done
  endJob s3 p stEndedData

/-- A command that waits behind this one, and so acts at the same MTC time, is a fault of partition p. -/
def faultComing (s : State) (p : Nat) : Bool :=
  s.pending.any fun c =>
    match c with
    | .logicFault (.core k) => basinPart s (coreBasin k) == p
    | .logicFault (.basin b) => basinPart s b == p
    | .logicFault (.codec c) => (match (s.codec c).current with | some (.op q _) => q == p | _ => false)
    | .fabricError _ q => q == p
    | _ => false

/-- Data of partition p's running work could not be read (08 R195); page: a page of the serving plan's pool, else a tensor. A
fault found before, or at the same time, takes precedence (R197). -/
def dataError (s : State) (p status : Nat) (page : Option Nat) : State :=
  match (s.partRun p).job, (s.partRun p).halt with
  | none, _ => s
  | some _, .restart _ => s
  | some j, _ =>
    if faultComing s p then s
    else if j.serving then
      match page with
      | some pg => pageError s p j.handle pg status
      | none => planError s p j.handle status
    else endJob s p status

/-! Tier reads (08 R182, R191, R195). -/

/-- Bytes of the running plan's footprint in basin b that R181 leaves unplaced; the placed part's size is not given (log 176). -/
def unplaced (s : State) (b : Nat) : Nat :=
  match (s.partRun (basinPart s b)).job with
  | some j => match s.plan (basinPart s b) j.handle with
    | some pl => let n := ((pl.held.filter fun e => e.1 == b).map Prod.snd).sum; n - min n (Config.placedBytes pl.image b)
    | none => 0
  | none => 0

/-- Tiles the stream cache of basin b can hold: the running plan's bytes that are not placed, and the plan-region bytes that no
plan holds (08 R182). -/
def streamRoom (s : State) (b : Nat) : Nat := (unplaced s b + (Config.planRegionBytes - heldIn s b)) / 4096

/-- Tile t becomes the most recently used of a stream cache with the given room. -/
def useTile (room t : Nat) (ts : List Nat) : List Nat :=
  let us := ts.erase t ++ [t]
  us.drop (us.length - room)

/-- A tile read from HBM by its home basin b: a miss that `joined` others joined. Its events are counted; where it is delivered it
enters the stream cache. The status of its verdict, if any. -/
def readTile (s : State) (p b tile joined : Nat) (events : Tier) : State × Option Nat :=
  let s1 := onMere (addRead s fun k => 64 * stackAtoms tile k) b fun m =>
    { m with misses := satAdd m.misses 1, merges := satAdd m.merges joined }
  let r := tierStatus s1 p events
  if r.2.isSome then r
  else (onMere r.1 b fun m => { m with writeBytes := satAdd m.writeBytes 4096, readBytes := satAdd m.readBytes (4096 * (joined + 1)),
                                       stream := useTile (streamRoom s b) tile m.stream }, none)

/-- The atoms' readings that are of a tile. -/
def ofTile (tile : Nat) (reads : List AtomRead) : Tier := (reads.filter fun r => r.atom / 64 == tile).map TierEvent.atom

/-- The read deadline of a partition in ns (08 R194). -/
def deadlineNs (s : State) (p : Nat) : Nat := 1000 * (match Tab.find s.parts p with | some q => q.deadlineUs | none => 2000)

/-- TIER_READ (08 R182, R191, R195): a read of device tile `tile` for partition p, issued at an MTC time, returns. One that returns
after its deadline has been judged late then (R197), and is not delivered. -/
def execTierRead (p tile issued joined : Nat) (reads : List AtomRead) (page : Option Nat) (s : State) :
    Host.Outcome State Fault Refusal :=
  .next (
    if !(works s && p < 10 && tilePart s tile == p) || issued + deadlineNs s p < s.now then s
    else match homeBasin s p tile with
      | none => s
      | some b =>
        if (s.basin b).mere.stream.contains tile then
          onMere s b fun m => { m with hits := satAdd m.hits 1, readBytes := satAdd m.readBytes 4096,
                                       stream := useTile (streamRoom s b) tile m.stream }
        else
          let r := readTile s p b tile joined (ofTile tile reads)
          match r.2 with
          | some st => dataError r.1 p st page
          | none => r.1)

/-- A read that waits behind this command, and so is found uncorrectable at the same MTC time, is of the same owner's data. -/
def lossComing (s : State) (p : Nat) (page : Option Nat) : Bool :=
  s.pending.any fun c =>
    match c with
    | .tierRead q tile issued _ reads pg =>
      q == p && pg == page && !decide (issued + deadlineNs s p < s.now)
        && (reads.any fun r => r.atom / 64 == tile && (atomOutcome s r).lost)
    | _ => false

/-- TIER_READ_LATE (08 R195, R197): atom is the lowest-numbered one still undelivered at the deadline of a read issued at an MTC
time. An uncorrectable atom found at the same time takes precedence. -/
def execTierReadLate (p tile atom issued : Nat) (page : Option Nat) (s : State) : Host.Outcome State Fault Refusal :=
  .next (
    if works s && p < 10 && tilePart s tile == p && atom < 64 && issued + deadlineNs s p ≤ s.now then
      let s1 := tierLate s p (atomChannel tile atom) (atomIndex tile)
      if lossComing s p page then s1 else dataError s1 p stTierLate page
    else s)

/-! Mere (08 R184). -/

/-- The command's data is lost: the command, the request or the job that uses it ends (08 R184, R195). -/
def commandError (s : State) (id : Nat) : State :=
  match (List.range 10).find? fun p => (match (s.partRun p).job with | some j => j.cmd == id | none => false) with
  | some p => dataError s p stEndedData none
  | none =>
    match (Tab.vals s.requests).find? fun r => r.cmd == some id with
    | some r => endInStep s r stEndedData
    | none => match s.cmd id with
      | some c => if c.state == .running then finish s c stEndedData else s
      | none => s

/-- An uncorrectable word at a Mere address of basin b, by what lies in its region (08 R180, R184). -/
def mereUe (s : State) (b addr : Nat) (use : MereUse) : State :=
  let p := basinPart s b
  match use with
  | .tensor => if addr < 0x3C000000 then dataError s p stEndedData none else s
  | .page n => if addr < 0x3C000000 then dataError s p stEndedData (some n) else s
  | .stream tile reread page =>
    if addr < 0x3C000000 && (s.basin b).mere.stream.contains tile then
      let r := readTile (onMere s b fun m => { m with stream := m.stream.erase tile }) p b tile 0 reread
      match r.2 with
      | some st => dataError r.1 p st page
      | none => r.1
    else s
  | .control => if addr < 0x3C000000 then faultFrom s (srcBasin b) p else s
  | .node n =>
    if 0x3C000000 ≤ addr && addr < 0x3E800000 then
      match (s.nodes.filter fun m => sliceOf m.key == b)[n]? with
      | some m => loseNode s m
      | none => s
    else s
  | .request q h slot =>
    if 0x3E800000 ≤ addr && addr < 0x3EA00000 && entryBasin q h slot == b then
      match s.request q h slot with
      | some r => endInStep s r stEndedData
      | none => s
    else s
  | .mover id => if 0x3EA00000 ≤ addr then commandError s id else s
  | .free => s

/-- MERE_SCRUB (08 R184): the scrub, while it is enabled, or a read of the word finds it in error; a pass is the scrub's. -/
def execMereScrub (b addr : Nat) (byRead : Bool) (found : MereFound) (s : State) : Host.Outcome State Fault Refusal :=
  .next (
    if !(works s && b < 10 && addr < Config.mereBytes && (byRead || (s.basin b).mere.scrubEn) && !(s.basin b).withdrawn) then s
    else match found with
      | .corrected => onMere s b fun m => { m with ce := satAdd m.ce 1 }
      | .passDone => if byRead then s else onMere s b fun m => { m with passes := satAdd m.passes 1 }
      | .uncorrectable use =>
        let s1 := onMere s b fun m => { m with ue := satAdd m.ue 1, ueLast := BitVec.ofNat 30 (addr / 8 * 8) }
        mereUe (raiseEvent s1 evMereUe (srcBasin b) (basinPart s b) (toLe 8 addr)) b addr use)

/-! The stacks (08 R185, R198, R200). -/

/-- One atom the patrol read: a corrected one is written back. -/
def patrolAtom (s : State) (r : AtomRead) : State :=
  let k := (atomAt r.atom).1 / 32
  let s1 := (countAtom s (tilePart s (r.atom / 64)) r).1
  if (atomOutcome s r).corrected then s1.setStack k { s1.stack k with writeBytes := satAdd (s1.stack k).writeBytes 64 } else s1

/-- HBM_PATROL (08 R185, R198): what the stack's on-die code corrected and the commands retried after a parity error are summed; the
patrol, while it is enabled, reads atoms of the stack and records those it cannot read. -/
def execHbmPatrol (stack : Nat) (reads : List AtomRead) (onDie retries : Nat) (passDone : Bool) (s : State) :
    Host.Outcome State Fault Refusal :=
  .next (
    let v := s.stack stack
    if staged s && stack < 20 && v.inService then
      let s1 := s.setStack stack { v with ce := satAdd v.ce onDie, retried := satAdd v.retried retries }
      if v.patrolEn then
        let s2 := s1.setStack stack { s1.stack stack with
          readBytes := satAdd v.readBytes (if passDone then 96000000000 else 0), patrol := satAdd v.patrol (b2n passDone) }
        (reads.filter fun r => (atomAt r.atom).1 / 32 == stack).foldl patrolAtom s2
      else s1
    else s)

/-- HBM_CHANNEL_TIMEOUT (08 R200). -/
def execHbmChannelTimeout (stack ch : Nat) (s : State) : Host.Outcome State Fault Refusal :=
  .next (if staged s && stack < 20 && ch < 32 && !(s.stack stack).failed then loseStack s stack .timeout ch else s)

/-- STACK_LOST (08 R200). -/
def execStackLost (stack : Nat) (cause : StackCause) (ch : Nat) (s : State) : Host.Outcome State Fault Refusal :=
  .next (if staged s && stack < 20 && ch < 32 && !(s.stack stack).failed then loseStack s stack cause ch else s)

end Sys2Proof.Machine
end

