-- ==== Sys2Proof/Machine/Real.lean ====
section
/-! DEFINITION. Sys2Proof/Machine/Real.lean: exact numbers with infinities and NaN, and their rounding to the float
formats (02 R32, R38, R39, R44, R46). Every arithmetic step of the TM40 is one exact operation and one rounding. -/

namespace Sys2Proof.Machine

/-- An exact value: NaN, an infinity, or (−1)^neg × m × 2^e. A zero has a sign. -/
inductive XR where
  | nan
  | inf (neg : Bool)
  | fin (neg : Bool) (m : Nat) (e : Int)
  deriving DecidableEq, Repr

/-- The integer m as a value. -/
def XR.nat (m : Nat) : XR := .fin false m 0

/-- The integer i as a value. -/
def XR.int (i : Int) : XR := .fin (decide (i < 0)) i.natAbs 0

/-- Negation. -/
def XR.neg : XR → XR
  | .nan => .nan
  | .inf s => .inf (!s)
  | .fin s m e => .fin (!s) m e

/-- Magnitude. -/
def XR.abs : XR → XR
  | .nan => .nan
  | .inf _ => .inf false
  | .fin _ m e => .fin false m e

/-- The value is finite. -/
def XR.isFinite : XR → Bool
  | .fin _ _ _ => true
  | _ => false

/-- The sign bit; a NaN has none. -/
def XR.sign : XR → Bool
  | .nan => false
  | .inf s => s
  | .fin s _ _ => s

/-- A finite value as an integer number of units of 2^e0, where e0 is at most its exponent. -/
def XR.units (neg : Bool) (m : Nat) (e e0 : Int) : Int :=
  let v : Int := ((m * 2 ^ (e - e0).toNat : Nat) : Int)
  if neg then -v else v

/-- Exact sum (IEEE 754 specials; a zero sum of opposite signs is +0). -/
def XR.add : XR → XR → XR
  | .nan, _ => .nan
  | _, .nan => .nan
  | .inf a, .inf b => if a == b then .inf a else .nan
  | .inf a, _ => .inf a
  | _, .inf b => .inf b
  | .fin a m e, .fin b n f =>
    let e0 := min e f
    let v := XR.units a m e e0 + XR.units b n f e0
    if v = 0 then .fin (a && b) 0 0 else .fin (decide (v < 0)) v.natAbs e0

/-- Exact difference. -/
def XR.sub (x y : XR) : XR := x.add y.neg

/-- Exact product. -/
def XR.mul : XR → XR → XR
  | .nan, _ => .nan
  | _, .nan => .nan
  | .inf a, .inf b => .inf (a != b)
  | .inf a, .fin b n _ => if n = 0 then .nan else .inf (a != b)
  | .fin a m _, .inf b => if m = 0 then .nan else .inf (a != b)
  | .fin a m e, .fin b n f => .fin (a != b) (m * n) (e + f)

/-- x < y; false when either is NaN. -/
def XR.lt (x y : XR) : Bool :=
  match x, y with
  | .nan, _ => false
  | _, .nan => false
  | .inf a, .inf b => a && !b
  | .inf a, .fin _ _ _ => a
  | .fin _ _ _, .inf b => !b
  | .fin a m e, .fin b n f => let e0 := min e f; decide (XR.units a m e e0 < XR.units b n f e0)

/-- x ≤ y; false when either is NaN. -/
def XR.le (x y : XR) : Bool :=
  match x, y with
  | .nan, _ => false
  | _, .nan => false
  | _, _ => !(XR.lt y x)

/-- An infinity of sign s times a zero or not: the value is zero. -/
def XR.isZero : XR → Bool
  | .fin _ m _ => m == 0
  | _ => false

/-! Rounding. -/

/-- How a rounding chooses between neighbours: to nearest even, toward zero, or stochastically with the top 24 bits of a
draw (R38). -/
inductive Rnd where
  | near
  | zero
  | dither (r : Nat)
  deriving DecidableEq, Repr

/-- n/d rounded to an integer. -/
def roundInt (md : Rnd) (n d : Nat) : Nat :=
  match md with
  | .near =>
    let q := n / d
    let r := n % d
    if 2 * r < d then q else if d < 2 * r then q + 1 else q + q % 2
  | .zero => n / d
  | .dither r => (n * 2 ^ 24 + r * d) / (d * 2 ^ 24)

/-- ⌊log2 (n/d)⌋ for a positive n/d. -/
def log2Rat (n d : Nat) : Int :=
  let k : Int := (Nat.log2 n : Int) - (Nat.log2 d : Int)
  if (if 0 ≤ k then d * 2 ^ k.toNat ≤ n else d ≤ n * 2 ^ (-k).toNat) then k else k - 1

/-- n/d × 2^−u rounded to an integer. -/
def roundUnits (md : Rnd) (n d : Nat) (u : Int) : Nat :=
  if 0 ≤ u then roundInt md n (d * 2 ^ u.toNat) else roundInt md (n * 2 ^ (-u).toNat) d

/-- A binary float format: exponent bits, fraction bits. -/
structure FloatFmt where
  ebits : Nat
  fbits : Nat
  deriving DecidableEq, Repr

/-- Exponent of the smallest normal. -/
def FloatFmt.emin (f : FloatFmt) : Int := 2 - (2 ^ (f.ebits - 1) : Nat)
/-- Exponent of the largest finite value. -/
def FloatFmt.emax (f : FloatFmt) : Int := (2 ^ (f.ebits - 1) : Nat) - 1

def fp32 : FloatFmt := ⟨8, 23⟩
def bf16 : FloatFmt := ⟨8, 7⟩
def fp16 : FloatFmt := ⟨5, 10⟩

/-- The spacing exponent of the format at magnitude n/d. -/
def FloatFmt.spacing (f : FloatFmt) (n d : Nat) : Int :=
  if n = 0 then f.emin - f.fbits else max (log2Rat n d) f.emin - f.fbits

/-- (−1)^neg × n/d rounded to the format; beyond the largest finite value an infinity, or toward zero the largest finite
value. -/
def FloatFmt.roundRat (f : FloatFmt) (md : Rnd) (neg : Bool) (n d : Nat) : XR :=
  let u := f.spacing n d
  let q := roundUnits md n d u
  if XR.lt (.fin false q u) (.fin false 1 (f.emax + 1)) then .fin neg q u
  else if md = .zero then .fin neg (2 ^ (f.fbits + 1) - 1) (f.emax - f.fbits) else .inf neg

/-- A value rounded to the format. -/
def FloatFmt.round (f : FloatFmt) (md : Rnd) : XR → XR
  | .nan => .nan
  | .inf s => .inf s
  | .fin s m e => if 0 ≤ e then f.roundRat md s (m * 2 ^ e.toNat) 1 else f.roundRat md s m (2 ^ (-e).toNat)

/-- The bits of a value that the format holds; NaN is the canonical quiet NaN (R40, R46). -/
def FloatFmt.encode (f : FloatFmt) : XR → Nat
  | .nan => (2 ^ f.ebits - 1) * 2 ^ f.fbits + 2 ^ (f.fbits - 1)
  | .inf s => b2n s * 2 ^ (f.ebits + f.fbits) + (2 ^ f.ebits - 1) * 2 ^ f.fbits
  | .fin s m e =>
    let sgn := b2n s * 2 ^ (f.ebits + f.fbits)
    if m = 0 then sgn
    else
      let l : Int := (Nat.log2 m : Int) + e
      if l < f.emin then sgn + m * 2 ^ (e - (f.emin - f.fbits)).toNat / 2 ^ ((f.emin - f.fbits) - e).toNat
      else
        let frac := m * 2 ^ (f.fbits - Nat.log2 m) / 2 ^ (Nat.log2 m - f.fbits)
        sgn + (l - f.emin + 1).toNat * 2 ^ f.fbits + (frac - 2 ^ f.fbits)

/-- The value of a pattern of the format (R32). -/
def FloatFmt.decode (f : FloatFmt) (w : Nat) : XR :=
  let s := bitOf w (f.ebits + f.fbits)
  let be := bitsOf w f.fbits f.ebits
  let fr := bitsOf w 0 f.fbits
  if be = 2 ^ f.ebits - 1 then (if fr = 0 then .inf s else .nan)
  else if be = 0 then .fin s fr (f.emin - f.fbits)
  else .fin s (2 ^ f.fbits + fr) (f.emin - f.fbits + (be - 1 : Nat))

/-! FP32 steps. -/

/-- The value of an FP32 pattern. -/
def f32 (w : Word32) : XR := fp32.decode w.toNat

/-- A value rounded once to FP32. -/
def rnd32 (md : Rnd) (x : XR) : Word32 := BitVec.ofNat 32 (fp32.encode (fp32.round md x))

/-- rne32 (R44). -/
def rne32 (x : XR) : Word32 := rnd32 .near x

def fnan : Word32 := 0x7FC00000
def fone : Word32 := 0x3F800000
def fzero : Word32 := 0
def finf : Word32 := 0x7F800000
def fninf : Word32 := 0xFF800000

/-- x + y, x − y, x × y with one rounding. -/
def fadd (x y : Word32) : Word32 := rne32 ((f32 x).add (f32 y))
@[inherit_doc fadd]
def fsub (x y : Word32) : Word32 := rne32 ((f32 x).sub (f32 y))
@[inherit_doc fadd]
def fmul (x y : Word32) : Word32 := rne32 ((f32 x).mul (f32 y))
/-- x × y + z with one rounding. -/
def ffma (x y z : Word32) : Word32 := rne32 (((f32 x).mul (f32 y)).add (f32 z))

/-- x / y rounded once to a format, by IEEE 754. -/
def divRound (f : FloatFmt) (md : Rnd) (x y : XR) : XR :=
  match x, y with
  | .nan, _ => .nan
  | _, .nan => .nan
  | .inf _, .inf _ => .nan
  | .inf a, .fin b _ _ => .inf (a != b)
  | .fin a _ _, .inf b => .fin (a != b) 0 0
  | .fin a m e, .fin b n g =>
    if n = 0 then (if m = 0 then .nan else .inf (a != b))
    else f.roundRat md (a != b) (m * 2 ^ (e - g).toNat) (n * 2 ^ (g - e).toNat)

/-- x / y with one rounding. -/
def fdiv (x y : Word32) : Word32 := BitVec.ofNat 32 (fp32.encode (divRound fp32 .near (f32 x) (f32 y)))

/-- ⌊√n⌋ bit by bit: the bits left, the root so far. -/
def isqrtFrom : Nat → Nat → Nat → Nat
  | 0, _, q => q
  | k + 1, n, q => isqrtFrom k n (if (q + 2 ^ k) * (q + 2 ^ k) ≤ n then q + 2 ^ k else q)

/-- ⌊√n⌋. -/
def isqrt (n : Nat) : Nat := isqrtFrom (Nat.log2 n / 2 + 1) n 0

/-- √x with one rounding, by IEEE 754: more than 28 bits of the root and one that says whether it goes on. -/
def fsqrt (x : Word32) : Word32 :=
  match f32 x with
  | .inf false => x
  | .fin s m e =>
    if m = 0 then x
    else if s then fnan
    else
      let up := 64 + (e % 2).toNat
      let n := m * 2 ^ up
      let q := isqrt n
      rne32 (.fin false (2 * q + b2n (q * q != n)) ((e - up) / 2 - 1))
  | _ => fnan

/-- The FP32 pattern of an integer. -/
def fnat (n : Nat) : Word32 := rne32 (.nat n)

/-- The pattern is not finite. -/
def fbad (w : Word32) : Bool := !(f32 w).isFinite

/-- The larger of two FP32 values: NaN if either is, and +0.0 above −0.0 (R89, R114). -/
def fmax (x y : Word32) : Word32 :=
  match f32 x, f32 y with
  | .nan, _ => fnan
  | _, .nan => fnan
  | a, b => if a.lt b then y else if b.lt a then x else if a.sign then y else x

/-- The smaller of two FP32 values. -/
def fmin (x y : Word32) : Word32 :=
  match f32 x, f32 y with
  | .nan, _ => fnan
  | _, .nan => fnan
  | a, b => if a.lt b then x else if b.lt a then y else if a.sign then x else y

/-- ⌊x⌋ of a finite value, as an integer. -/
def XR.floor : XR → Int
  | .fin s m e =>
    let v : Int := if s then -(m : Int) else (m : Int)
    if 0 ≤ e then v * 2 ^ e.toNat else Int.fdiv v (2 ^ (-e).toNat)
  | _ => 0

/-- ⌈x⌉ of a finite value. -/
def XR.ceil (x : XR) : Int := -(x.neg.floor)

end Sys2Proof.Machine
end

