-- ==== Sys2Proof/Machine/Formats.lean ====
section
/-! DEFINITION. Sys2Proof/Machine/Formats.lean: number formats, scales, quantisation and row sums (02 R26 to R52, 03
R64, R71). -/

namespace Sys2Proof.Machine

/-! Formats (02 R26, R28, R30). -/

/-- How a format scales its blocks. -/
inductive ScaleKind where
  | none | e4m3 | e8m0 | bf16
  deriving DecidableEq, Repr

/-- How an element code is read. -/
inductive ElemKind where
  | float (f : FloatFmt)
  | int
  | ternary
  | mini (f : FloatFmt)
  | frac
  deriving DecidableEq, Repr

/-- A format: bits of an element code, elements of a block (0: no block), scale and element encodings. -/
structure Format where
  code : Nat
  width : Nat
  block : Nat
  scale : ScaleKind
  elem : ElemKind
  deriving DecidableEq, Repr

/-- The format of a code (R26). -/
def formatOf : Nat → Option Format
  | 0x01 => some ⟨0x01, 32, 0, .none, .float fp32⟩
  | 0x02 => some ⟨0x02, 16, 0, .none, .float bf16⟩
  | 0x03 => some ⟨0x03, 16, 0, .none, .float fp16⟩
  | 0x10 => some ⟨0x10, 4, 16, .e4m3, .int⟩
  | 0x11 => some ⟨0x11, 3, 16, .e4m3, .int⟩
  | 0x12 => some ⟨0x12, 2, 64, .bf16, .ternary⟩
  | 0x13 => some ⟨0x13, 8, 32, .e4m3, .int⟩
  | 0x14 => some ⟨0x14, 8, 0, .none, .int⟩
  | 0x20 => some ⟨0x20, 4, 32, .e8m0, .mini ⟨2, 1⟩⟩
  | 0x21 => some ⟨0x21, 6, 32, .e8m0, .mini ⟨2, 3⟩⟩
  | 0x22 => some ⟨0x22, 6, 32, .e8m0, .mini ⟨3, 2⟩⟩
  | 0x23 => some ⟨0x23, 8, 32, .e8m0, .mini ⟨4, 3⟩⟩
  | 0x24 => some ⟨0x24, 8, 32, .e8m0, .mini ⟨5, 2⟩⟩
  | 0x25 => some ⟨0x25, 8, 32, .e8m0, .frac⟩
  | _ => none

/-- FP32, the format of code 0x01. -/
def fmtFp32 : Format := ⟨0x01, 32, 0, .none, .float fp32⟩
/-- BF16, the format of code 0x02. -/
def fmtBf16 : Format := ⟨0x02, 16, 0, .none, .float bf16⟩
/-- N4, the format of code 0x10. -/
def fmtN4 : Format := ⟨0x10, 4, 16, .e4m3, .int⟩
/-- N8, the format of code 0x13. -/
def fmtN8 : Format := ⟨0x13, 8, 32, .e4m3, .int⟩

/-- FP32, BF16 or FP16. -/
def Format.isFloat (f : Format) : Bool := match f.elem with | .float _ => true | _ => false

/-- The format has block scales. -/
def Format.scaled (f : Format) : Bool := f.scale != .none

/-- Bytes of one scale. -/
def Format.scaleBytes (f : Format) : Nat :=
  match f.scale with
  | .none => 0
  | .bf16 => 2
  | _ => 1

/-- Elements that share a scale in the sense of R42: INT8 counts as 32, BF16 and FP16 as 1. -/
def Format.group (f : Format) : Nat := if f.code = 0x14 then 32 else if f.block = 0 then 1 else f.block

/-- Two's complement of w bits. -/
def signedOf (w v : Nat) : Int := if v < 2 ^ (w - 1) then (v : Int) else (v : Int) - (2 ^ w : Nat)

/-- A small float whose exponents are all finite (R30). The code of −0 reads as +0, as R30 has it for FP4 and says nothing of
for FP6 and FP8 E4M3 (log 157). -/
def miniValue (f : FloatFmt) (w : Nat) : XR :=
  let s := bitOf w (f.ebits + f.fbits)
  let be := bitsOf w f.fbits f.ebits
  let fr := bitsOf w 0 f.fbits
  if be = 0 then .fin (s && fr != 0) fr (f.emin - f.fbits)
  else .fin s (2 ^ f.fbits + fr) (f.emin - f.fbits + (be - 1 : Nat))

/-- The code is invalid (R31). -/
def Format.badCode (f : Format) (w : Nat) : Bool := (f.code == 0x11 && w == 4) || (f.code == 0x12 && w == 2)

/-- The value of an element code (R30, R31). -/
def Format.value (f : Format) (w : Nat) : XR :=
  match f.elem with
  | .float g => g.decode w
  | .int => if f.badCode w then XR.nat 0 else XR.int (signedOf f.width w)
  | .ternary => if w = 1 then XR.nat 1 else if w = 3 then XR.int (-1) else XR.nat 0
  | .frac => match XR.int (signedOf 8 w) with | .fin s m _ => .fin s m (-6) | x => x
  | .mini g =>
    if f.code = 0x23 then (if w % 128 = 127 then .nan else miniValue g w)
    else if f.code = 0x24 then g.decode w
    else miniValue g w

/-- The value of a block scale (R28). -/
def scaleValue : ScaleKind → Nat → XR
  | .none, _ => XR.nat 1
  | .e4m3, w => if w % 128 = 127 then .nan else miniValue ⟨4, 3⟩ w
  | .e8m0, w => if w = 255 then .nan else .fin false 1 ((w : Int) - 127)
  | .bf16, w => bf16.decode w

/-- A zero of either sign: an FP32 field is compared by value (00 R11). -/
def zero32 (w : Word32) : Bool := w &&& 0x7FFFFFFF == 0

/-- The tensor scale t of a descriptor (R27, R124: 0 selects 1.0). -/
def tensorScale (w : Word32) : Word32 := if zero32 w then fone else w

/-- An element read as FP32 (04 R88). -/
def dequant (f : Format) (t : Word32) (scale code : Nat) : Word32 :=
  match f.elem with
  | .float g => if g = fp32 then (if (f32 (BitVec.ofNat 32 code)) = .nan then fnan else BitVec.ofNat 32 code) else rne32 (g.decode code)
  | _ =>
    if f.scaled then rne32 ((f.value code).mul (f32 (rne32 ((f32 t).mul (scaleValue f.scale scale)))))
    else rne32 ((f.value code).mul (f32 t))

/-! Packing (02 R33). -/

/-- Bytes of n elements packed densely. -/
def packedBytes (width n : Nat) : Nat := ceilDiv (n * width) 8

/-- Element codes packed, element 0 lowest. -/
def packElems (width : Nat) (codes : List Nat) : List Byte :=
  toLe (packedBytes width codes.length) (packFields (codes.zipIdx.map fun e => (e.2 * width, e.1 % 2 ^ width)))

/-- Element i of packed bytes that rd reads. -/
def unpackElem (width : Nat) (rd : Nat → Byte) (i : Nat) : Nat :=
  let lo := i * width
  bitsOf (leNat ((List.range 5).map fun j => rd (lo / 8 + j))) (lo % 8) width

/-! Quantisation (02 R35 to R40, 03 R64). -/

/-- The largest magnitude an element code may take (R35). -/
def Format.qmax (f : Format) : XR :=
  match f.code with
  | 0x10 => XR.nat 7
  | 0x13 => XR.nat 127
  | 0x14 => XR.nat 127
  | 0x20 => XR.nat 6
  | 0x21 => .fin false 15 (-1)
  | 0x22 => XR.nat 28
  | 0x23 => XR.nat 448
  | 0x24 => XR.nat 57344
  | 0x25 => .fin false 127 (-6)
  | _ => XR.nat 0

/-- The scale codes a quantiser may choose, rising in value. -/
def scaleCodes : ScaleKind → List Nat
  | .e4m3 => List.range 127
  | .e8m0 => List.range 255
  | _ => [0]

/-- The least scale at or above amax / (t × qmax), or the largest (R35, R36, R37). -/
def chooseScale (f : Format) (t : XR) (amax : XR) : Nat :=
  if amax.isZero then 0
  else match (scaleCodes f.scale).find? fun c => amax.le (((scaleValue f.scale c).mul t).mul f.qmax) with
    | some c => c
    | none => (scaleCodes f.scale).length - 1

/-- The spacing exponent of element codes at magnitude n/d (R38). -/
def Format.spacing (f : Format) (n d : Nat) : Int :=
  match f.elem with
  | .mini g => g.spacing n d
  | .frac => -6
  | _ => 0

/-- The code of a magnitude of q units of 2^u with a sign; a zero magnitude is +0 (R38). -/
def Format.codeOf (f : Format) (neg : Bool) (q : Nat) (u : Int) : Nat :=
  if q = 0 then 0
  else match f.elem with
    | .mini g => g.encode (.fin neg q u)
    | _ => if neg then 2 ^ f.width - q else q

/-- One element rounded to its code, x / (t × s) with ts the exact product (R38). -/
def quantElem (f : Format) (md : Rnd) (x ts : XR) : Nat :=
  match x, ts with
  | .fin a m e, .fin b n g =>
    if n = 0 then 0
    else
      let num := m * 2 ^ (e - g).toNat
      let den := n * 2 ^ (g - e).toNat
      let u := f.spacing num den
      f.codeOf (a != b) (roundUnits md num den u) u
  | _, _ => 0

/-- The NaN code of a scale (R40). -/
def nanScale : ScaleKind → Nat
  | .e4m3 => 0x7F
  | .e8m0 => 0xFF
  | .bf16 => 0x7FC0
  | .none => 0

/-- The largest magnitude of some FP32 values. -/
def maxAbs (xs : List Word32) : XR := (xs.map fun x => (f32 x).abs).foldl (fun a b => if a.lt b then b else a) (XR.nat 0)

/-- BF16 of an FP32 value (R39). -/
def toBf16 (x : Word32) : Nat := bf16.encode (bf16.round .near (f32 x))

/-! Row sums (02 R44, R50). -/

/-- One level of the fixed pairwise tree. -/
def pairUp : List Word32 → List Word32
  | a :: b :: t => fadd a b :: pairUp t
  | t => t

/-- The fixed pairwise tree over 2^n values. -/
def treeSum : Nat → List Word32 → Word32
  | 0, xs => xs.headD fzero
  | n + 1, xs => treeSum n (pairUp xs)

/-- A row sum (R50): segments of 256, each by the tree, added in order from +0.0. Fuel bounds the segments. -/
def rowSumN : Nat → Word32 → List Word32 → Word32
  | 0, acc, _ => acc
  | n + 1, acc, xs =>
    if xs.isEmpty then acc
    else
      let seg := xs.take 256
      rowSumN n (fadd acc (treeSum 8 (seg ++ List.replicate (256 - seg.length) fzero))) (xs.drop 256)

@[inherit_doc rowSumN]
def rowSum (xs : List Word32) : Word32 := rowSumN (xs.length / 256 + 1) fzero xs

/-! Blocks. -/

/-- A quantised block: scale code, element codes, dynamic outliers (position, BF16), whether a value was not finite. -/
structure QBlock where
  scale : Nat
  codes : List Nat
  outs : List (Nat × Nat) := []
  bad : Bool := false
  deriving DecidableEq, Repr

/-- The outliers that threshold θ finds in an N4 block (R64); θ of +0 finds none. The root of the mean square is compared
exactly (log 41), and a ratio beyond E4M3 takes its largest value, 448 (log 159). -/
def thresholdOuts (t theta : Word32) (xs : List Word32) : List Bool :=
  if zero32 theta then xs.map fun _ => false
  else
    let ms := fdiv (rowSum (xs.map fun x => fmul x x)) (fnat xs.length)
    let tx := f32 t
    let ref := match (List.range 127).find? fun c =>
        let v := (scaleValue .e4m3 c).mul tx
        (f32 ms).le (v.mul v) with
      | some c => c
      | none => 126
    let lim := ((f32 theta).mul tx).mul (scaleValue .e4m3 ref)
    xs.map fun x => lim.lt (f32 x).abs

/-- A block quantised (R35 to R40, R64): rounding modes per element, θ, and whether outliers are taken out. -/
def quantBlock (f : Format) (t theta : Word32) (xs : List Word32) (mds : List Rnd) : QBlock :=
  let tx := f32 t
  if f.scaled && xs.any fbad then { scale := nanScale f.scale, codes := xs.map fun _ => 0, bad := true }
  else
    let big := if f.code = 0x10 then thresholdOuts t theta xs else xs.map fun _ => false
    let kept := (xs.zip big).filterMap fun e => if e.2 then none else some e.1
    let sc := if f.scaled then chooseScale f tx (maxAbs kept) else 0
    let ts := (scaleValue f.scale sc).mul tx
    let lim := ts.mul f.qmax
    let out := (xs.zip big).map fun e => e.2 || (!fbad e.1 && lim.lt (f32 e.1).abs && !(maxAbs kept).isZero)
    { scale := sc
      codes := (xs.zip (out.zip mds)).map fun e => if e.2.1 || fbad e.1 then 0 else quantElem f e.2.2 (f32 e.1) ts
      outs := (xs.zip out).zipIdx.filterMap fun e => if e.1.2 then some (e.2, toBf16 e.1.1) else none
      bad := xs.any fbad }

/-- A block's values read back by R88. -/
def dequantBlock (f : Format) (t : Word32) (b : QBlock) : List Word32 := b.codes.map fun c => dequant f t b.scale c

/-- A value rounded to a float format, zeros keeping their sign (R39). -/
def quantFloat (g : FloatFmt) (md : Rnd) (x : Word32) : Nat := g.encode (g.round md (f32 x))

end Sys2Proof.Machine
end

