-- ==== Sys2Proof/Machine/Special.lean ====
section
/-! DEFINITION. Sys2Proof/Machine/Special.lean: the special-function unit (05 R103 to R109, R115), softmax (R112),
normalisation (02 R51, R52, 05 R113). -/

namespace Sys2Proof.Machine

/-- Coefficient j of segment i of slot k in a table bank (R103). -/
def coeff (t : TableBank) (k i j : Nat) : Word32 := bankWord t (512 * k + 4 * i + j)

/-- Domain [lo, hi) of a kernel's reduced argument (R103). -/
def kernelDomain : Nat → Nat × Nat
  | 1 => (1, 2)
  | 2 => (1, 2)
  | 3 => (1, 4)
  | 6 => (0, 4)
  | 7 => (0, 9)
  | _ => (0, 1)

/-- How the unit evaluates: its table bank, and native or F2 mode (R104, R115). -/
structure SfUnit where
  bank : TableBank
  f2 : Bool
  deriving DecidableEq, Repr

/-- The rounding of the unit's steps (R115). -/
def SfUnit.md (u : SfUnit) : Rnd := if u.f2 then .zero else .near

/-- One single-rounded step. -/
def SfUnit.rnd (u : SfUnit) (x : XR) : Word32 := rnd32 u.md x

/-- A kernel at reduced argument a ≥ lo (R104, R115). The last segment serves an argument that has rounded up to hi
(log 42). -/
def SfUnit.kernel (u : SfUnit) (slot : Nat) (a : XR) : Word32 :=
  let dom := kernelDomain slot
  let segs := if u.f2 then 64 else 128
  let k := if u.f2 then slot + 8 else slot
  match a.sub (XR.nat dom.1) with
  | .fin _ m e =>
    let i := min (m * 2 ^ e.toNat * segs / ((dom.2 - dom.1) * 2 ^ (-e).toNat)) (segs - 1)
    let d := (XR.fin false m e).sub (.fin false (i * (dom.2 - dom.1)) (if u.f2 then -6 else -7))
    let c := coeff u.bank k i
    let p := if u.f2 then c 2 else u.rnd (((f32 (c 3)).mul d).add (f32 (c 2)))
    let q := u.rnd (((f32 p).mul d).add (f32 (c 1)))
    u.rnd (((f32 q).mul d).add (f32 (c 0)))
  | _ => fnan

/-- x times a power of two. -/
def XR.shift (x : XR) (k : Int) : XR :=
  match x with
  | .fin s m e => .fin s m (e + k)
  | y => y

/-- ⌊x⌋ and the fraction of a finite value. -/
def splitInt (x : XR) : Int × XR := let n := x.floor; (n, x.sub (XR.int n))

/-- A positive finite value as 2^e × m with m in [1, 2). -/
def splitExp (x : XR) : Int × XR :=
  match x with
  | .fin _ m e => let k : Int := (Nat.log2 m : Int) + e; (k, .fin false m (e - k))
  | y => (0, y)

/-- log2 e to 256 fraction bits. -/
def log2e : XR :=
  .fin false 167052672916848388242985626561247531987276682633131050150846402744536260568207 (-256)

/-- 2/π to 400 fraction bits: enough for the reduction of every FP32 value to be exact before its rounding. -/
def twoOverPi : XR :=
  .fin false
    1643911329583902420875415334500933844528715375594949448028823594483032746353267717644494237032291291638281598697874456093
    (-400)

/-- p × 2^n, with overflow to +∞ (R106). Beyond ±600 every FP32 p overflows, or is below half the least subnormal, so the
exponent is cut there. -/
def SfUnit.scaled (u : SfUnit) (p : Word32) (n : Int) : Word32 :=
  if fbad p then p
  else
    let v := (f32 p).shift (max (-600) (min 600 n))
    if v.lt (.fin false 1 128) then u.rnd v else finf

/-- 2^x of a finite value: slot 0 at its fraction, times 2 to its integer part. -/
def SfUnit.pow2 (u : SfUnit) (x : XR) : Word32 := let s := splitInt x; u.scaled (u.kernel 0 s.2) s.1

/-- exp (R105, R106): x × log2 e to 48 fraction bits, cut below (log 43); in F2 mode rounded to FP32, toward zero as R115
has every composition step (log 167). A product beyond FP32 is split at the largest finite value. -/
def SfUnit.exp (u : SfUnit) (w : Word32) : Word32 :=
  match f32 w with
  | .nan => fnan
  | .inf s => if s then fzero else finf
  | x =>
    let y := x.mul log2e
    u.pow2 (if u.f2 then f32 (u.rnd y) else (XR.int (y.shift 48).floor).shift (-48))

/-- exp2. -/
def SfUnit.exp2 (u : SfUnit) (w : Word32) : Word32 :=
  match f32 w with
  | .nan => fnan
  | .inf s => if s then fzero else finf
  | x => u.pow2 x

/-- log2. -/
def SfUnit.log2 (u : SfUnit) (w : Word32) : Word32 :=
  match f32 w with
  | .nan => fnan
  | .inf s => if s then fnan else finf
  | .fin s m e =>
    if m = 0 then fninf else if s then fnan else if w = fone then fzero
    else let p := splitExp (.fin s m e); u.rnd ((XR.int p.1).add (f32 (u.kernel 1 p.2)))

/-- log. -/
def SfUnit.log (u : SfUnit) (w : Word32) : Word32 := u.rnd ((f32 (u.log2 w)).mul (f32 0x3F317218))

/-- Reciprocal. -/
def SfUnit.rcp (u : SfUnit) (w : Word32) : Word32 :=
  match f32 w with
  | .nan => fnan
  | .inf s => if s then 0x80000000 else fzero
  | .fin s m e =>
    if m = 0 then (if s then fninf else finf)
    else
      let p := splitExp (.fin false m e)
      let v := (f32 (u.kernel 2 p.2)).shift (-p.1)
      u.rnd (if s then v.neg else v)

/-- rsqrt. -/
def SfUnit.rsqrt (u : SfUnit) (w : Word32) : Word32 :=
  match f32 w with
  | .nan => fnan
  | .inf s => if s then fnan else fzero
  | .fin s m e =>
    if m = 0 then (if s then fninf else finf) else if s then fnan
    else
      let p := splitExp (.fin false m e)
      let k := Int.fdiv p.1 2
      u.rnd ((f32 (u.kernel 3 (p.2.shift (p.1 - 2 * k)))).shift (-k))

/-- sqrt. -/
def SfUnit.sqrt (u : SfUnit) (w : Word32) : Word32 :=
  match f32 w with
  | .nan => fnan
  | .inf s => if s then fnan else finf
  | .fin s m _ => if m = 0 then w else if s then fnan else u.rnd ((f32 w).mul (f32 (u.rsqrt w)))

/-- The sign of w on a magnitude. -/
def withSign (w v : Word32) : Word32 := if w.msb then v ||| 0x80000000 else v

/-- tanh. -/
def SfUnit.tanh (u : SfUnit) (w : Word32) : Word32 :=
  match f32 w with
  | .nan => fnan
  | .inf _ => withSign w fone
  | x =>
    if x.isZero then w
    else if (XR.nat 9).le x.abs then withSign w fone
    else let p := u.kernel 7 x.abs; if w.msb then p ^^^ 0x80000000 else p

/-- Sigmoid (R105, R106). -/
def SfUnit.sigmoid (u : SfUnit) (w : Word32) : Word32 :=
  if w = finf then fone
  else if w = fninf then fzero
  else if fbad w then fnan
  else if u.f2 then
    let h := u.tanh (u.rnd ((f32 w).mul (.fin false 1 (-1))))
    u.rnd ((XR.fin false 1 (-1)).add (f32 (u.rnd ((XR.fin false 1 (-1)).mul (f32 h)))))
  else u.rcp (u.rnd ((XR.nat 1).add (f32 (u.exp (w ^^^ 0x80000000)))))

/-- erf, ±1 from magnitude 4 on. -/
def SfUnit.erf (u : SfUnit) (w : Word32) : Word32 :=
  match f32 w with
  | .nan => fnan
  | .inf _ => withSign w fone
  | x =>
    if (XR.nat 4).le x.abs then withSign w fone
    else let p := u.kernel 6 x.abs; if w.msb then p ^^^ 0x80000000 else p

/-- rnd(rnd(0.5 × x) × rnd(1 + g)). -/
def SfUnit.gelu (u : SfUnit) (w g : Word32) : Word32 :=
  u.rnd ((f32 (u.rnd ((XR.fin false 1 (-1)).mul (f32 w)))).mul (f32 (u.rnd ((XR.nat 1).add (f32 g)))))

/-- GELU in either form, and SiLU, at the infinities (R106). -/
def gateSpecial (w v : Word32) : Word32 :=
  match f32 w with
  | .nan => fnan
  | .inf s => if s then 0x80000000 else finf
  | _ => v

/-- The inner argument of the tanh form of GELU (R105); 0.044715 is 0x3D372713. -/
def SfUnit.geluInner (u : SfUnit) (w : Word32) : Word32 :=
  let cube := u.rnd ((f32 w).mul (f32 (u.rnd ((f32 w).mul (f32 w)))))
  u.rnd ((f32 0x3F4C422A).mul (f32 (u.rnd ((f32 w).add (f32 (u.rnd ((f32 0x3D372713).mul (f32 cube))))))))

/-- softplus. -/
def SfUnit.softplus (u : SfUnit) (w : Word32) : Word32 :=
  match f32 w with
  | .nan => fnan
  | .inf s => if s then fzero else finf
  | x =>
    if (XR.nat 20).lt x then w
    else if x.lt (XR.int (-16)) then u.exp w
    else
      let e := u.exp (w ||| 0x80000000)
      u.rnd ((f32 (fmax w fzero)).add (f32 (u.log (u.rnd ((XR.nat 1).add (f32 e))))))

/-- sin with its quadrant advanced by add; cos adds one. -/
def SfUnit.sinq (u : SfUnit) (w : Word32) (add : Nat) : Word32 :=
  match f32 w with
  | .nan => fnan
  | .inf _ => fnan
  | x =>
    if x.isZero && add == 0 then w
    else
      let s := splitInt (x.mul twoOverPi)
      let q := ((s.1 + add) % 4).toNat
      let v := u.kernel (if q % 2 = 0 then 4 else 5) (f32 (rne32 s.2))
      if q < 2 then v else v ^^^ 0x80000000

/-- Subnormal inputs are zeros of the same sign (R107). -/
def flushIn (w : Word32) : Word32 := if (w &&& 0x7F800000) = 0 then w &&& 0x80000000 else w

/-- A function by its code (R105). -/
def SfUnit.fn (u : SfUnit) (code : Nat) (x : Word32) : Word32 :=
  let w := flushIn x
  match code with
  | 0x00 => if f32 w = .nan then fnan else w
  | 0x01 => u.exp w
  | 0x02 => u.exp2 w
  | 0x03 => u.log w
  | 0x04 => u.log2 w
  | 0x05 => u.rcp w
  | 0x06 => u.rsqrt w
  | 0x07 => u.sqrt w
  | 0x08 => u.sigmoid w
  | 0x09 => u.tanh w
  | 0x0A => gateSpecial w (u.gelu w (u.erf (u.rnd ((f32 w).mul (f32 0x3F3504F3)))))
  | 0x0B => gateSpecial w (u.gelu w (u.tanh (u.geluInner w)))
  | 0x0C => gateSpecial w (u.rnd ((f32 w).mul (f32 (u.sigmoid w))))
  | 0x0D => u.softplus w
  | 0x0E => u.sinq w 0
  | 0x0F => u.sinq w 1
  | c => Config.sfuOpen c w

/-! Function records (R107 to R109, R115). -/

/-- A 24-byte function record. -/
structure FnRec where
  code : Nat
  form : Nat
  f2 : Bool
  out : Nat
  flush : Word32
  bias : Nat
  scale : Nat
  gate : Nat
  deriving DecidableEq, Repr

/-- The record held in 24 bytes. -/
def fnRecOf (b : List Byte) : FnRec :=
  { code := leAt b 0 1, form := bitsOf (leAt b 1 1) 0 2, f2 := bitOf (leAt b 1 1) 2, out := leAt b 2 1,
    flush := BitVec.ofNat 32 (leAt b 4 4), bias := leAt b 8 4, scale := leAt b 12 4, gate := leAt b 16 4 }

/-- The float format of a code. -/
def floatOf (code : Nat) : FloatFmt := if code = 0x02 then bf16 else if code = 0x03 then fp16 else fp32

/-- The flush threshold of a record (R107). -/
def flushLimit (r : FnRec) : XR :=
  if zero32 r.flush then .fin false 1 (floatOf r.out).emin else f32 r.flush

/-- A result below a threshold becomes a zero of its sign; whether it did. -/
def flushOut (lim : XR) (v : XR) : XR × Bool :=
  if !v.isZero && v.isFinite && v.abs.lt lim then (.fin v.sign 0 0, true) else (v, false)

/-- A function's result, and 1 if R106 counts it: not finite from a finite input. -/
def SfUnit.call (u : SfUnit) (code : Nat) (x : Word32) : Word32 × Nat :=
  let y := u.fn code x
  (y, b2n (!fbad x && fbad y))

/-- What a function record makes of x with bias b, scale s and gate g: the FP32 value after R107, whether it was flushed,
and whether a finite input gave a result that is not finite. Every operand that enters the unit is read with its subnormals
as zeros (R107); the gate product rounds to nearest in either mode (R109, R115); the count of R106 looks at the function's
own argument and value (log 166). -/
def applyFn (bank : TableBank) (r : FnRec) (md : Rnd) (x b s g : Word32) : Word32 × Bool × Bool :=
  let u : SfUnit := { bank := bank, f2 := r.f2 }
  let arg := if r.form = 1 then u.rnd ((f32 (flushIn x)).add (f32 (flushIn b))) else x
  let f := u.call r.code arg
  let y := if r.form = 1 then u.rnd ((f32 (flushIn s)).mul (f32 f.1))
    else if r.form = 2 then
      let f' := if r.f2 then rne32 (bf16.round .near (f32 f.1)) else f.1
      fmul (flushIn g) f'
    else f.1
  let strange := f.2 == 1
  let fmt := floatOf r.out
  if r.f2 then
    let v := flushOut (.fin false 1 (-126)) (f32 y)
    (rne32 (fmt.round md v.1), v.2, strange)
  else
    let rounded := if r.out = 0x01 then f32 y else fmt.round md (f32 y)
    let v := flushOut (flushLimit r) rounded
    (rne32 v.1, v.2, strange)

/-- What a unit delivered inside softmax, attention or a normalisation: results, and those R106 counts. Their flush is
left out (R107 speaks of the operation's out_format and threshold, which these steps have not; log 165). -/
structure Tally where
  results : Nat := 0
  bad : Nat := 0
  deriving DecidableEq, Repr

/-- Two tallies together. -/
def Tally.add (a b : Tally) : Tally := { results := a.results + b.results, bad := a.bad + b.bad }

/-- The tally of some calls. -/
def tallyOf (cs : List (Word32 × Nat)) : Tally := { results := cs.length, bad := (cs.map Prod.snd).sum }

/-! Softmax (R112) and normalisation (02 R51, R52). -/

/-- The running maximum and sum of a softmax, with what the unit delivered. -/
structure Soft where
  m : Word32
  l : Word32
  tally : Tally := {}
  deriving DecidableEq, Repr

/-- The factor c of a tile whose maximum is mn (R111). -/
def SfUnit.rescale (u : SfUnit) (m mn : Word32) : Word32 × Tally :=
  if m = fninf then (fzero, {}) else let e := u.call 1 (fsub m mn); (e.1, tallyOf [e])

/-- One tile of the online softmax: maximum, sum. -/
def softTile (u : SfUnit) (t : Soft) (ss : List Word32) : Soft :=
  let mn := ss.foldl fmax t.m
  if mn = fninf then t
  else
    let c := u.rescale t.m mn
    let ps := ss.map fun s => u.call 1 (fsub s mn)
    { m := mn, l := fadd (fmul t.l c.1) (rowSum (ps.map Prod.fst)), tally := (t.tally.add c.2).add (tallyOf ps) }

/-- The first pass of R112 over tiles of 128. Fuel bounds the tiles. -/
def softPass (u : SfUnit) : Nat → List Word32 → Soft → Soft
  | 0, _, t => t
  | n + 1, xs, t => if xs.isEmpty then t else softPass u n (xs.drop 128) (softTile u t (xs.take 128))

/-- Standalone softmax of a row (R112). -/
def softmaxRow (u : SfUnit) (xs : List Word32) : List Word32 × Tally :=
  let t := softPass u (xs.length / 128 + 1) xs { m := fninf, l := fzero }
  let r := u.call 5 t.l
  let es := xs.map fun x => u.call 1 (fsub x t.m)
  (es.map fun e => fmul e.1 r.1, (t.tally.add (tallyOf es)).add (tallyOf [r]))

/-- x / n with one rounding, n exact (R51). -/
def fdivNat (x : Word32) (n : Nat) : Word32 := BitVec.ofNat 32 (fp32.encode (divRound fp32 .near (f32 x) (XR.nat n)))

/-- A normalised row: its values, whether R52 reports it, what the unit delivered. -/
structure Normed where
  values : List Word32
  overflow : Bool
  tally : Tally := {}
  deriving DecidableEq, Repr

/-- Layer and group statistics of one row (R51). An element whose difference from a finite mean overflows follows the formula
(log 158). -/
def layerRow (u : SfUnit) (eps : Word32) (xs : List Word32) : Normed :=
  let n := xs.length
  let x0 := xs.headD fzero
  let dsum := rowSum (xs.map fun x => fsub x x0)
  let mean := fadd x0 (fdivNat dsum n)
  let var := fdivNat (rowSum (xs.map fun x => fmul (fsub x mean) (fsub x mean))) n
  let r := u.call 6 (fadd var eps)
  if xs.any fbad then { values := xs.map fun _ => fnan, overflow := true, tally := tallyOf [r] }
  else { values := xs.map fun x => fmul (fsub x mean) r.1, overflow := fbad dsum || fbad var, tally := tallyOf [r] }

/-- RMS statistics of one row (R51). -/
def rmsRow (u : SfUnit) (eps : Word32) (xs : List Word32) : Normed :=
  let ms := fdivNat (rowSum (xs.map fun x => fmul x x)) xs.length
  let r := u.call 6 (fadd ms eps)
  if xs.any fbad then { values := xs.map fun _ => fnan, overflow := true, tally := tallyOf [r] }
  else { values := xs.map fun x => fmul x r.1, overflow := fbad ms, tally := tallyOf [r] }

end Sys2Proof.Machine
end

