-- ==== Sys2Proof/Machine/Video.lean ====
section
/-! DEFINITION. Sys2Proof/Machine/Video.lean: the settings of an encode (11 R234, R238, R246, R249, R250), the levels of the two
standards (PRESUMED, log 52), the order of its pictures, its headers and rate control (R237, R246 to R248). -/

namespace Sys2Proof.Machine

/-! CODEC_ENCODE (R249). -/

def ceAv1 (d : List Byte) : Bool := bitOf (leAt d 32 1) 0
def ceDeep (d : List Byte) : Bool := bitOf (leAt d 32 1) 1
def ceMode (d : List Byte) : Nat := bitsOf (leAt d 32 1) 2 2
def ceGop (d : List Byte) : Nat := bitsOf (leAt d 32 1) 4 2
def ceStats (d : List Byte) : Bool := bitOf (leAt d 32 1) 6
def ceHints (d : List Byte) : Bool := bitOf (leAt d 32 1) 7
def ceEngine (d : List Byte) : Nat := bitsOf (leAt d 33 1) 0 2
def ceObject (d : List Byte) : Bool := bitOf (leAt d 33 1) 2
def ceFollow (d : List Byte) : Bool := bitOf (leAt d 33 1) 3
def ceWidth (d : List Byte) : Nat := leAt d 34 2
def ceHeight (d : List Byte) : Nat := leAt d 36 2
def ceFrames (d : List Byte) : Nat := leAt d 38 2
def ceFpsNum (d : List Byte) : Nat := leAt d 40 4
def ceFpsDen (d : List Byte) : Nat := leAt d 44 4
def ceSrc (d : List Byte) : Nat := leAt d 48 8
def ceDst (d : List Byte) : Nat := leAt d 56 8
def ceCapacity (d : List Byte) : Nat := leAt d 64 8
def ceStatsAddr (d : List Byte) : Nat := leAt d 72 8
def ceHintAddr (d : List Byte) : Nat := leAt d 80 8
def ceTarget (d : List Byte) : Nat := leAt d 88 4
def ceMax (d : List Byte) : Nat := leAt d 92 4
def ceCpb (d : List Byte) : Nat := leAt d 96 4
def ceQ (d : List Byte) : Nat := leAt d 100 1
def ceLevel (d : List Byte) : Nat := leAt d 101 1
def ceTier (d : List Byte) : Bool := bitOf (leAt d 102 1) 0
def cePeriod (d : List Byte) : Nat := leAt d 104 2
def ceReport (d : List Byte) : Nat := leAt d 112 8

/-- The frame stride F of pictures of a size (R234). -/
def frameStride (w h : Nat) : Nat := ceilDiv (3 * w * h) 4096 * 4096

/-- Blocks of a size in a picture. -/
def blocksIn (w h size : Nat) : Nat := ceilDiv w size * ceilDiv h size

/-- The stride of a picture's statistics (R244), and of its hints (R243). -/
def statStride (w h : Nat) : Nat := ceilDiv (64 + 32 * blocksIn w h 16) 4096 * 4096
@[inherit_doc statStride]
def hintStride (w h : Nat) : Nat := ceilDiv (16 * blocksIn w h 64) 4096 * 4096

/-- m_min of a block row (R247). -/
def rowReserve (w : Nat) : Nat := 64 * ceilDiv w 64 + 256

/-! Levels (log 52). -/

/-- What a level and tier allow: luma samples of a picture, luma samples per second, bits per second and buffer bits in
thousands. -/
structure LevelLimit where
  picture : Nat
  rate : Nat
  kbps : Nat
  kbits : Nat
  deriving DecidableEq, Repr

/-- Levels of HEVC by general_level_idc: picture, rate, kbps of Main and High tier (0: no High tier); the buffer holds one
second. Levels 1 and 2 have buffers of their own. -/
def hevcLevels : List (Nat × Nat × Nat × Nat × Nat) :=
  [(30, 36864, 552960, 128, 0), (60, 122880, 3686400, 1500, 0), (63, 245760, 7372800, 3000, 0),
   (90, 552960, 16588800, 6000, 0), (93, 983040, 33177600, 10000, 0), (120, 2228224, 66846720, 12000, 30000),
   (123, 2228224, 133693440, 20000, 50000), (150, 8912896, 267386880, 25000, 100000),
   (153, 8912896, 534773760, 40000, 160000), (156, 8912896, 1069547520, 60000, 240000),
   (180, 35651584, 1069547520, 60000, 240000), (183, 35651584, 2139095040, 120000, 480000),
   (186, 35651584, 4278190080, 240000, 800000)]

/-- Levels of AV1 by seq_level_idx. -/
def av1Levels : List (Nat × Nat × Nat × Nat × Nat) :=
  [(0, 147456, 4423680, 1500, 0), (1, 278784, 8363520, 3000, 0), (4, 665856, 19975680, 6000, 0),
   (5, 1065024, 31950720, 10000, 0), (8, 2359296, 70778880, 12000, 30000), (9, 2359296, 141557760, 20000, 50000),
   (12, 8912896, 267386880, 30000, 100000), (13, 8912896, 534773760, 40000, 160000),
   (14, 8912896, 1069547520, 60000, 240000), (15, 8912896, 1069547520, 60000, 240000),
   (16, 35651584, 1069547520, 60000, 240000), (17, 35651584, 2139095040, 100000, 480000),
   (18, 35651584, 4278190080, 160000, 800000), (19, 35651584, 4278190080, 160000, 800000)]

/-- The limits of a level and tier. -/
def levelLimit (av1 : Bool) (level : Nat) (high : Bool) : Option LevelLimit :=
  match (if av1 then av1Levels else hevcLevels).find? fun e => e.1 == level with
  | some (_, pic, rate, main, hi) =>
    if high then (if hi = 0 then none else some ⟨pic, rate, hi, hi⟩)
    else some ⟨pic, rate, main, if !av1 && level == 30 then 350 else main⟩
  | none => none

/-- The settings fit the level and tier they state (R250). -/
def levelOk (d : List Byte) : Bool :=
  match levelLimit (ceAv1 d) (ceLevel d) (ceTier d) with
  | some l =>
    ceWidth d * ceHeight d ≤ l.picture && ceWidth d * ceHeight d * ceFpsNum d ≤ l.rate * ceFpsDen d
      && ceMax d ≤ l.kbps && ceCpb d ≤ l.kbits
  | none => false

/-! The checks of an encode's fields (R238, R246, R250). -/

/-- The stream has a buffer model: CBR, VBR, or capped CQ. -/
def buffered (d : List Byte) : Bool := ceMode d != 0 || ceMax d != 0

/-- The rate fields agree with the mode (R246), and the buffer gives every picture its reserve. -/
def ratesOk (d : List Byte) : Bool :=
  if buffered d then
    (if ceMode d = 1 then ceTarget d == ceMax d else ceTarget d ≤ ceMax d)
      && rowReserve (ceWidth d) * ceilDiv (ceHeight d) 64 * ceFpsNum d ≤ ceTarget d * 1000 * ceFpsDen d
      && 2 * ceMax d * ceFpsDen d ≤ ceCpb d * ceFpsNum d
  else ceCpb d == 0

/-- Every field but the addresses lies in its range. -/
def encodeFields (d : List Byte) : Bool :=
  let w := ceWidth d
  let h := ceHeight d
  ceMode d != 3 && w % 8 == 0 && h % 8 == 0 && 64 ≤ w && w ≤ 8192 && 64 ≤ h && h ≤ 4352
    && 1 ≤ ceFpsNum d && ceFpsNum d ≤ 240000 && 1 ≤ ceFpsDen d && ceFpsDen d ≤ 240000 && ceFpsNum d ≤ 240 * ceFpsDen d
    && !(ceAv1 d && !ceDeep d && 4096 < w) && (ceAv1 d || ceQ d ≤ 51)
    && (ceGop d != 3 || cePeriod d % 8 == 0) && (ceStats d || ceStatsAddr d == 0) && (ceHints d || ceHintAddr d == 0)
    && ceReport d % 32 == 0 && ratesOk d && levelOk d

/-- What an encode depends on (R240): its fields but the engine, the addresses, the destination and whether statistics are
written. -/
def ceSettings (d : List Byte) : List Byte :=
  [BitVec.ofNat 8 (leAt d 32 1) &&& 0xBF] ++ (d.drop 34).take 14 ++ (d.drop 88).take 18

/-! Pictures in their order (R237, R246). -/

/-- The display index of the k-th picture coded of n: under random access each group of 8 is coded from its last picture by
halves (log 53). -/
def displayOf (gop n k : Nat) : Nat :=
  if gop = 3 then
    (0 :: ((List.range (ceilDiv (n - 1) 8)).flatMap fun g =>
      ([8, 4, 2, 1, 3, 6, 5, 7].map (8 * g + ·)).filter (· < n))).getD k k
  else k

/-- The display index of coded picture k of an encode, and the coded picture of a display index. -/
def displayAt (d : List Byte) (k : Nat) : Nat := displayOf (ceGop d) (ceFrames d) k
@[inherit_doc displayAt]
def codedAt (d : List Byte) (f : Nat) : Nat := ((List.range (ceFrames d)).find? fun k => displayAt d k == f).getD f

/-- Picture f in display order is an IRAP or key picture (R249 `intra_period`); it is intra. -/
def irapAt (d : List Byte) (f : Nat) : Bool := f == 0 || (cePeriod d != 0 && f % cePeriod d == 0)
@[inherit_doc irapAt]
def intraAt (d : List Byte) (f : Nat) : Bool := ceGop d == 0 || irapAt d f

/-- The temporal layer of picture f in display order (log 178). -/
def layerOf (d : List Byte) (f : Nat) : Nat :=
  if ceGop d = 3 then (if f % 8 = 0 then 0 else if f % 4 = 0 then 1 else if f % 2 = 0 then 2 else 3) else 0

/-- Reference list 0 of coded picture k: pictures coded before it. -/
def referencesOf (d : List Byte) (k : Nat) : List Nat :=
  if intraAt d (displayAt d k) then [] else ((Config.references (ceSettings d) k).filter (· < k)).eraseDups

/-! Quantisers (R246, R247). -/

/-- A quantiser under its cap. -/
def capQ (d : List Byte) (q : Nat) : Nat := min (if ceAv1 d then 255 else 51) q

/-- The quantiser of coded picture k before any re-code: CQ by its rule; CBR and VBR start with `q` and set the others by rate. -/
def pictureQ (d : List Byte) (clip : Config.Clip) (hist : List (List Nat)) (k : Nat) : Nat :=
  let f := displayAt d k
  capQ d (if ceMode d != 0 then (if k = 0 then ceQ d else Config.rateQ clip hist)
    else if intraAt d f then ceQ d else ceQ d + (if ceAv1 d then 8 else 2) * (1 + layerOf d f))

/-- The quantiser of a row after t re-codes (R247). -/
def recodeQ (d : List Byte) (q t : Nat) : Nat := capQ d (q + t * if ceAv1 d then 16 else 4)

/-! Headers and filler (R237, R248; the standards' numbers, log 178). -/

/-- A NAL unit of a type, in the Annex B byte stream. -/
def nalUnit (type : Nat) (payload : List Byte) : List Byte := [0, 0, 0, 1, BitVec.ofNat 8 (2 * type), 1] ++ payload

/-- A number as leb128, of at most n + 1 bytes. -/
def leb128 : Nat → Nat → List Byte
  | 0, v => [BitVec.ofNat 8 (v % 128)]
  | n + 1, v => if v < 128 then [BitVec.ofNat 8 v] else BitVec.ofNat 8 (v % 128 + 128) :: leb128 n (v / 128)

/-- An open bitstream unit of a type, with its size. -/
def obuUnit (type : Nat) (payload : List Byte) : List Byte :=
  [BitVec.ofNat 8 (8 * type + 2)] ++ leb128 7 payload.length ++ payload

/-- What the stream signals of its buffer (R246): size in bits, bit/s, whether cbr_flag is set, and the bits that arrive before the
first removal (90 % of the buffer). -/
def signalled (d : List Byte) : Option (Nat × Nat × Bool × Nat) :=
  if buffered d then some (ceCpb d * 1000, ceMax d * 1000, ceMode d == 1, ceCpb d * 900) else none

/-- The headers before coded picture k (R237, R248). HEVC: VPS, SPS, PPS and a buffering-period SEI before an IRAP picture, a
picture-timing SEI before every picture. AV1: a temporal delimiter, and the sequence header before a key frame. -/
def headersOf (d : List Byte) (k : Nat) : List Byte :=
  let hd := fun t => Config.header (ceSettings d) (signalled d) t k
  let irap := irapAt d (displayAt d k)
  let sei := fun t => if buffered d then nalUnit 39 (BitVec.ofNat 8 t :: hd t) else []
  if ceAv1 d then obuUnit 2 [] ++ (if irap then obuUnit 1 (hd 1) else [])
  else (if irap then nalUnit 32 (hd 32) ++ nalUnit 33 (hd 33) ++ nalUnit 34 (hd 34) ++ sei 0 else []) ++ sei 1

/-- Filler of n bytes, at least 6: a filler data NAL unit, or a padding OBU (R248). -/
def filler (av1 : Bool) (n : Nat) : List Byte :=
  let m := max 6 n
  if av1 then
    let size := m - 5
    [0x7A, BitVec.ofNat 8 (size % 128 + 128), BitVec.ofNat 8 (size / 128 % 128 + 128), BitVec.ofNat 8 (size / 16384 % 128 + 128),
      BitVec.ofNat 8 (size / 2097152 % 128)] ++ List.replicate (size - 1) 0 ++ [0x80]
  else [0, 0, 1, 0x4C, 1] ++ List.replicate (m - 6) 0xFF ++ [0x80]

/-! Rate control (R246, R247). -/

/-- A block row as coded: its bytes, re-codes, whether by fallback. -/
structure CodedRow where
  code : List Byte
  recodes : Nat
  fallback : Bool
  deriving DecidableEq, Repr

def CodedRow.bits (r : CodedRow) : Nat := 8 * r.code.length

/-- What the row was coded with: 0 to 2 re-codes, 3 by fallback. -/
def CodedRow.choice (r : CodedRow) : Nat := if r.fallback then 3 else r.recodes

/-- A block row within its budget: fits says whether so many bits lie within B_r. code gives its bytes after so many re-codes; lead,
the headers before it, count with it (log 180). The fallback costs at most the reserve. -/
def codeRow (fits : Nat → Bool) (reserve : Nat) (lead : List Byte) (code : Nat → List Byte) (fallback : List Byte) : CodedRow :=
  let c := fun t => lead ++ code t
  if fits (8 * (c 0).length) then ⟨c 0, 0, false⟩
  else if fits (8 * (c 1).length) then ⟨c 1, 1, false⟩
  else if fits (8 * (c 2).length) then ⟨c 2, 2, false⟩
  else ⟨lead ++ fallback.take (reserve / 8 - lead.length), 2, true⟩

/-- The block rows of a picture whose buffer holds full bits × fps_num before its removal; without a buffer model nothing is
re-coded. used are the bits spent, done the choices of the rows before, the last argument the rows left. -/
def codeRows (model : Bool) (num full reserve : Nat) (code : List Nat → Nat → List Byte) (fallback : List Nat → List Byte) :
    List Byte → Nat → List Nat → Nat → List CodedRow
  | _, _, _, 0 => []
  | lead, used, done, n + 1 =>
    let fits := fun b : Nat => !model || (used + b + reserve * n) * num ≤ full
    let c := codeRow fits reserve lead (code done) (fallback done)
    c :: codeRows model num full reserve code fallback [] (used + c.bits) (done ++ [c.choice]) n

/-- Filler after a picture that leaves `after` in the buffer, before `income` arrives (both × fps_num): under CBR, what would not fit
(R248). -/
def fillerOf (d : List Byte) (after income : Nat) : List Byte :=
  let excess := after + income - ceCpb d * 1000 * ceFpsNum d
  if ceMode d = 1 && excess != 0 then filler (ceAv1 d) (ceilDiv excess (8 * ceFpsNum d)) else []

/-- The buffer before the first picture is removed: 90 % of it (R246). -/
def firstFullness (d : List Byte) : Nat := ceCpb d * 900 * ceFpsNum d

end Sys2Proof.Machine
end

