-- ==== Sys2Proof/Machine/Plan.lean ====
section
/-! DEFINITION. Sys2Proof/Machine/Plan.lean: the plan image: its records (06 R123 to R127 and the parameter blocks), and
the checks that PLAN_LOAD makes of them in the order of R443. -/

namespace Sys2Proof.Machine

/-! Header (R123). -/

def hKind (i : List Byte) : Nat := leAt i 6 1
def hLength (i : List Byte) : Nat := leAt i 8 8
def hModel (i : List Byte) : List Byte := slice i 16 16
def hOps (i : List Byte) : Nat := leAt i 32 2
def hPasses (i : List Byte) : Nat := leAt i 34 2
def hLoopFirst (i : List Byte) : Nat := leAt i 36 2
def hLoopLast (i : List Byte) : Nat := leAt i 38 2
def hTensors (i : List Byte) : Nat := leAt i 40 4
def hFns (i : List Byte) : Nat := leAt i 44 4
def hOpOff (i : List Byte) : Nat := leAt i 48 8
def hTensorOff (i : List Byte) : Nat := leAt i 56 8
def hFootOff (i : List Byte) : Nat := leAt i 64 8
def hEcOff (i : List Byte) : Nat := leAt i 72 8
def hFnOff (i : List Byte) : Nat := leAt i 80 8
def hParamOff (i : List Byte) : Nat := leAt i 88 8
def hDataOff (i : List Byte) : Nat := leAt i 96 8
def hDataLen (i : List Byte) : Nat := leAt i 104 8
def hDigest (i : List Byte) : List Byte := slice i 128 64

/-- No tensor, no record (R125). -/
def noIndex : Nat := 0xFFFFFFFF

/-! Records. -/

/-- A tensor descriptor (R124). -/
structure TensorDesc where
  format : Nat
  stochastic : Bool
  source : Nat
  home : Nat
  scale : Word32
  rows : Nat
  cols : Nat
  locator : Nat
  deriving DecidableEq, Repr

/-- The 32 bytes of tensor t. -/
def tensorBytes (i : List Byte) (t : Nat) : List Byte := slice i (hTensorOff i + 32 * t) 32

/-- Tensor t. -/
def tensorAt (i : List Byte) (t : Nat) : TensorDesc :=
  let b := tensorBytes i t
  { format := leAt b 0 1, stochastic := bitOf (leAt b 1 1) 0, source := bitsOf (leAt b 1 1) 1 2, home := bitsOf (leAt b 2 1) 0 1,
    scale := BitVec.ofNat 32 (leAt b 4 4), rows := leAt b 8 8, cols := leAt b 16 4, locator := leAt b 24 8 }

/-- The format of tensor t; FP32 stands where the code has none (PLAN_LOAD admits no such plan). -/
def tensorFmt (i : List Byte) (t : Nat) : Format := (formatOf (tensorAt i t).format).getD fmtFp32

/-- An operation record (R125). -/
structure OpRec where
  kind : Nat
  layer : Nat
  stripRows : Nat
  double : Bool
  logParts : Nat
  m : Nat
  n : Nat
  k : Nat
  resident : Nat
  streamed : Nat
  output : Nat
  function : Nat
  params : Nat
  preds : List Nat
  deriving DecidableEq, Repr

/-- Operation o. -/
def opAt (i : List Byte) (o : Nat) : OpRec :=
  let b := opRecord i o
  { kind := leAt b 0 2, layer := leAt b 2 2, stripRows := leAt b 4 2, double := bitOf (leAt b 6 1) 0,
    logParts := bitsOf (leAt b 6 1) 1 3, m := leAt b 8 4, n := leAt b 12 4, k := leAt b 16 4, resident := leAt b 20 4,
    streamed := leAt b 24 4, output := leAt b 28 4, function := leAt b 32 4, params := leAt b 36 8,
    preds := ((List.range 4).map fun j => leAt b (44 + 2 * j) 2).filter (· != 0xFFFF) }

/-- Parts P of an operation (02 R45). -/
def OpRec.parts (r : OpRec) : Nat := 2 ^ r.logParts

/-- An error-control record (03 R54). -/
structure EcRec where
  period : Nat
  budget : Word32
  policy : Nat
  spillFault : Bool
  master : Bool
  inputCopy : Bool
  capacity : Nat
  statics : Nat
  theta : Word32
  listOff : Nat
  weightOff : Nat
  residual : Nat
  deriving DecidableEq, Repr

/-- The 40 bytes of operation o's error-control record. -/
def ecBytes (i : List Byte) (o : Nat) : List Byte := slice i (hEcOff i + 40 * o) 40

/-- Operation o's error-control record. -/
def ecAt (i : List Byte) (o : Nat) : EcRec :=
  let b := ecBytes i o
  let f := leAt b 8 1
  { period := leAt b 0 4, budget := BitVec.ofNat 32 (leAt b 4 4), policy := bitsOf f 0 2, spillFault := bitsOf f 2 2 == 1,
    master := bitOf f 4, inputCopy := bitOf f 5, capacity := leAt b 9 1, statics := leAt b 10 2,
    theta := BitVec.ofNat 32 (leAt b 12 4), listOff := leAt b 16 8, weightOff := leAt b 24 8, residual := leAt b 32 4 }

/-- Static outlier channels of operation o's streamed input. -/
def staticList (i : List Byte) (o : Nat) : List Nat :=
  (List.range (ecAt i o).statics).map fun j => leAt i (hDataOff i + (ecAt i o).listOff + 2 * j) 2

/-- Function record j (05 R108). -/
def fnBytes (i : List Byte) (j : Nat) : List Byte := slice i (hFnOff i + 24 * j) 24
@[inherit_doc fnBytes]
def fnAt (i : List Byte) (j : Nat) : FnRec := fnRecOf (fnBytes i j)

/-- n bytes of the parameter area. -/
def paramBytes (i : List Byte) (o n : Nat) : List Byte := slice i (hParamOff i + o) n

/-- The footprint record (R127). -/
def footBytes (i : List Byte) : List Byte := slice i (hFootOff i) 64
def fMinBasins (i : List Byte) : Nat := leAt (footBytes i) 0 2
def fEntries (i : List Byte) : Nat := leAt (footBytes i) 4 4
def fMereFixed (i : List Byte) : Nat := leAt (footBytes i) 8 8
def fMereShared (i : List Byte) : Nat := leAt (footBytes i) 16 8
def fMereLead (i : List Byte) : Nat := leAt (footBytes i) 24 8
def fHbm (i : List Byte) : Nat := leAt (footBytes i) 32 8
def fSpill (i : List Byte) : Nat := leAt (footBytes i) 40 2
def fCodecs (i : List Byte) : Nat := bitsOf (leAt (footBytes i) 42 1) 0 4
def fPorts (i : List Byte) : Nat := leAt (footBytes i) 44 2
def fPeers (i : List Byte) : Nat := leAt (footBytes i) 46 2

/-- The serving block (07 R154). -/
def servBytes (i : List Byte) : List Byte := paramBytes i 0 32
def vPool (i : List Byte) : Nat := leAt (servBytes i) 0 4
def vContext (i : List Byte) : Nat := leAt (servBytes i) 4 4
def vVocab (i : List Byte) : Nat := leAt (servBytes i) 8 4
def vKeyFmt (i : List Byte) : Nat := leAt (servBytes i) 12 1
def vValFmt (i : List Byte) : Nat := leAt (servBytes i) 13 1
def vLayers (i : List Byte) : Nat := leAt (servBytes i) 14 2
def vHeads (i : List Byte) : Nat := leAt (servBytes i) 16 2
def vMerePages (i : List Byte) : Nat := leAt (servBytes i) 20 4

/-! Checks. A check names the status that a failure gives. -/

/-- The status, when the condition fails. -/
def need (ok : Bool) (st : Nat) : Option Nat := if ok then none else some st

/-- The first status of some checks. -/
def firstOf (cs : List (Option Nat)) : Option Nat := cs.findSome? id

/-- A check of each of n records in order. -/
def eachOf (n : Nat) (f : Nat → Option Nat) : Option Nat := (List.range n).findSome? f

/-- v lies from lo to hi. -/
def within (v lo hi : Nat) : Bool := lo ≤ v && v ≤ hi

/-- The FP32 value is finite. -/
def finite32 (w : Word32) : Bool := !fbad w

/-- The FP32 value is not below 0 and not NaN; −0 is never negative (00 R11). -/
def nonNeg32 (w : Word32) : Bool := zero32 w || (!w.msb && f32 w != .nan)

/-- A section of n bytes at offset o of the image (R123). -/
def sectionOk (i : List Byte) (o n : Nat) : Bool := o % 64 == 0 && o + n ≤ i.length

/-- The header (R443 step 5). -/
def checkHeader (i : List Byte) (len : Nat) : Option Nat :=
  let loopOk := (hLoopFirst i == 0xFFFF && hLoopLast i == 0xFFFF) || (hLoopFirst i ≤ hLoopLast i && hLoopLast i < hOps i)
  firstOf [
    need (leAt i 0 4 == 0x4E414C50) stBadFormat, need (leAt i 4 2 == 1) stBadFormat,
    need (hKind i ≤ 3 && leAt i 7 1 == 0 && hLength i == len) stBadDesc,
    need loopOk stBadDesc, need (hTensors i ≤ 1048576 && hFns i ≤ 65536) stBadDesc,
    need (sectionOk i (hOpOff i) (64 * hOps i)) stBadDesc, need (sectionOk i (hTensorOff i) (32 * hTensors i)) stBadDesc,
    need (sectionOk i (hFootOff i) 64) stBadDesc, need (sectionOk i (hEcOff i) (40 * hOps i)) stBadDesc,
    need (sectionOk i (hFnOff i) (24 * hFns i)) stBadDesc,
    need (sectionOk i (hParamOff i) (if hKind i = 1 then 32 else 0)) stBadDesc,
    need (sectionOk i (hDataOff i) (hDataLen i)) stBadDesc, need (allZero (slice i 112 16)) stBadDesc,
    need (allZero (slice i 192 64)) stBadDesc, need (hDigest i == sha3_512 (i.drop 256)) stBadFormat]

/-- Bytes of a tensor's element array. -/
def elemBytes (f : Format) (rows cols : Nat) : Nat := packedBytes f.width (rows * cols)

/-- Offset of a tensor's scale array: the tile boundary after its element array (log 44). -/
def scaleOffset (f : Format) (rows cols : Nat) : Nat := ceilDiv (elemBytes f rows cols) 4096 * 4096

/-- Bytes of a tensor as two arrays (02 R33, 08 R188). -/
def plainBytes (f : Format) (rows cols : Nat) : Nat :=
  if f.scaled then scaleOffset f rows cols + rows * (cols / f.block) * f.scaleBytes else elemBytes f rows cols

/-- The operation's results pass through a quantiser (02 R31). -/
def quantises (i : List Byte) (r : OpRec) : Bool :=
  match r.kind with
  | 0x0D => false
  | 0x0C => let k := bitsOf (leAt (paramBytes i r.params 64) 0 1) 0 3; k == 1 || k == 2
  | _ => true

/-- The tensors that operation o's results are written to, the residuals beside them left out (06 R125, 10 R219, 11 R252, 12
R276). -/
def targetsOf (i : List Byte) (o : Nat) : List Nat :=
  let r := opAt i o
  let b := paramBytes i r.params 64
  match r.kind with
  | 0x0B => [r.resident, leAt b 28 4]
  | 0x0C => [leAt b 20 4]
  | _ => [r.output]

/-- Tensor t is laid out in slots (03 R70): N4, written by a quantiser, and no residual. -/
def slotted (i : List Byte) (t : Nat) : Bool :=
  (tensorAt i t).format == 0x10 && (tensorAt i t).source != 3
    && (List.range (hOps i)).any fun o => quantises i (opAt i o) && (targetsOf i o).contains t

/-- 128-element segments of a row (03 R70). -/
def segments (cols : Nat) : Nat := ceilDiv cols 128

/-- Bytes of one slot. -/
def slotBytes (cols : Nat) : Nat := ceilDiv (16896 * segments cols) 4096 * 4096

/-- Offset of the tile map of a slotted tensor. -/
def tileMapOffset (rows cols : Nat) : Nat := ceilDiv rows 128 * slotBytes cols

/-- Bytes a tensor occupies. -/
def tensorSize (i : List Byte) (t : Nat) : Nat :=
  let d := tensorAt i t
  if slotted i t then
    tileMapOffset d.rows d.cols + ceilDiv (if hKind i = 1 then d.rows else ceilDiv d.rows 128) 4096 * 4096
  else plainBytes (tensorFmt i t) d.rows d.cols

/-- Tensor t (R443 step 6). -/
def checkTensor (i : List Byte) (t : Nat) : Option Nat :=
  let b := tensorBytes i t
  let d := tensorAt i t
  firstOf [
    need (formatOf d.format).isSome stBadFormat,
    need (leAt b 1 1 < 8 && leAt b 2 1 < 2 && leAt b 3 1 == 0) stBadDesc,
    need (nonNeg32 d.scale && finite32 d.scale) stBadDesc, need (within d.rows 1 (2 ^ 40)) stBadDesc,
    need (within d.cols 1 (2 ^ 31) && ((tensorFmt i t).block == 0 || d.cols % (tensorFmt i t).block == 0)) stBadDesc,
    need (leAt b 20 4 == 0) stBadDesc,
    need (if d.source = 2 then d.locator + tensorSize i t ≤ hDataLen i else d.source == 1 || d.locator == 0) stBadDesc]

/-- A kind that is cut into strips, attention included (R125). -/
def stripKind (k : Nat) : Bool := within k 1 7 || k == 9

/-- A named tensor, or none. -/
def tensorRef (i : List Byte) (t : Nat) : Bool := t == noIndex || t < hTensors i

/-- Operation record o by itself. -/
def checkOpFields (i : List Byte) (o : Nat) : Option Nat :=
  let b := opRecord i o
  let r := opAt i o
  firstOf [
    need (within r.kind 1 13) stBadDesc,
    need (if stripKind r.kind then within r.stripRows 1 (if r.double then 512 else 1024) else r.stripRows == 0) stBadDesc,
    need (leAt b 6 1 < 16 && r.logParts ≤ 6 && (r.logParts == 0 || within r.kind 1 3) && leAt b 7 1 == 0) stBadDesc,
    need (r.m != 0 && r.n != 0 && r.k != 0) stBadDesc,
    need (tensorRef i r.resident && tensorRef i r.streamed) stBadDesc,
    need (r.output < hTensors i || (r.kind == 12 && r.output == noIndex)) stBadDesc,
    need (r.function == noIndex || r.function < hFns i) stBadDesc,
    need (r.params == 0 || hParamOff i + r.params < i.length) stBadDesc,
    need ((List.range 4).all fun j => let p := leAt b (44 + 2 * j) 2; p == 0xFFFF || p < o) stBadDesc,
    need (allZero (slice b 52 12)) stBadDesc]

/-- A parameter block of n bytes is present. -/
def hasBlock (i : List Byte) (r : OpRec) (n : Nat) : Bool := r.params != 0 && hParamOff i + r.params + n ≤ i.length

/-! Windows (04 R82, R444, R445). -/

/-- One axis of a convolution or pooling window. -/
structure Axis where
  kern : Nat
  stride : Nat
  dil : Nat
  idil : Nat
  lo : Nat
  hi : Nat
  replicate : Bool
  size : Nat
  deriving DecidableEq, Repr

/-- Output extent of an axis; 0 when the window does not fit. -/
def Axis.out (a : Axis) : Nat :=
  let e := a.idil * (a.size - 1) + 1 + a.lo + a.hi
  if e < a.dil * (a.kern - 1) + 1 then 0 else (e - a.dil * (a.kern - 1) - 1) / a.stride + 1

/-- The input coordinate that tap a reads for output o, if any (R82). -/
def Axis.input (x : Axis) (o a : Nat) : Option Nat :=
  let p : Int := (o * x.stride + a * x.dil : Nat) - (x.lo : Int)
  if x.replicate then some (min (max p 0) ((x.size : Int) - 1)).toNat
  else if p < 0 || (x.idil * (x.size - 1) : Nat) < p || p % x.idil != 0 then none
  else some (p.toNat / x.idil)

/-- The axes t, y, x of a convolution block (R444); a causal time axis takes its padding from R82. -/
def convAxes (b : List Byte) : List Axis :=
  let f := leAt b 18 1
  (List.range 3).map fun a =>
    let causal := a == 0 && bitOf f 3
    { kern := leAt b a 1, stride := leAt b (3 + a) 1, dil := leAt b (6 + a) 1, idil := leAt b (9 + a) 1,
      lo := if causal then leAt b (6 + a) 1 * (leAt b a 1 - 1) else leAt b (12 + a) 1,
      hi := leAt b (15 + a) 1, replicate := bitOf f a, size := leAt b (24 + 4 * a) 4 }

/-- The axes of a pooling block (R445). -/
def poolAxes (b : List Byte) : List Axis :=
  (List.range 3).map fun a =>
    { kern := leAt b (1 + a) 1, stride := leAt b (4 + a) 1, dil := 1, idil := 1, lo := leAt b (7 + a) 1,
      hi := leAt b (10 + a) 1, replicate := false, size := leAt b (20 + 4 * a) 4 }

/-- Taps of a window. -/
def taps (axes : List Axis) : Nat := (axes.map Axis.kern).foldl (· * ·) 1
/-- Output positions of one image. -/
def outPositions (axes : List Axis) : Nat := (axes.map Axis.out).foldl (· * ·) 1

def cBatch (b : List Byte) : Nat := leAt b 20 4
def cIn (b : List Byte) : Nat := leAt b 36 4
def cOut (b : List Byte) : Nat := leAt b 40 4
def cGroups (b : List Byte) : Nat := leAt b 44 4

/-- Channels of a group. -/
def cWidth (b : List Byte) : Nat := cIn b / cGroups b

/-- Group size G of R42 for two formats. -/
def groupSize (a w : Format) : Nat := min a.group w.group

/-- A convolution's block (R84, R86, R444). A 2D one has I_t = O_t = k_t = 1 (R81). -/
def checkConv (i : List Byte) (r : OpRec) : Option Nat :=
  let b := paramBytes i r.params 64
  let f := leAt b 18 1
  let axes := convAxes b
  let g := cWidth b
  firstOf [
    need (hasBlock i r 64) stBadDesc,
    need ((List.range 3).all fun a => within (leAt b a 1) 1 16 && within (leAt b (3 + a) 1) 1 8 && within (leAt b (6 + a) 1) 1 8
      && within (leAt b (9 + a) 1) 1 4 && leAt b (12 + a) 1 < 128 && leAt b (15 + a) 1 < 128
      && within (leAt b (24 + 4 * a) 4) 1 65535) stBadDesc,
    need (bitOf f 4 || (leAt b 0 1 == 1 && leAt b 24 4 == 1)) stBadDesc,
    need ((List.range 3).all fun a => !bitOf f a || leAt b (9 + a) 1 == 1) stBadDesc,
    need (!bitOf f 3 || (leAt b 12 1 == 0 && leAt b 15 1 == 0)) stBadDesc,
    need (f < 64 && leAt b 19 1 == 0 && (!bitOf f 5 || (r.kind == 3 && g < 128))) stBadDesc,
    need (within (cBatch b) 1 65535 && within (cIn b) 1 65535 && within (cOut b) 1 65535) stBadDesc,
    need (if r.kind = 2 then cGroups b == 1
      else 2 ≤ cGroups b && cIn b == cOut b && cIn b == cGroups b * g
        && (if 128 ≤ g then g % 128 == 0 else [1, 2, 4, 8, 16, 32, 64].contains g)) stBadDesc,
    need (allZero (slice b 48 16)) stBadDesc,
    need (taps axes ≤ 1024 && axes.all fun a => 1 ≤ a.out) stBadDesc,
    need (bitOf f 4 || (axes.take 1).all fun a => a.out == 1) stBadDesc]

/-- A pooling block (R89, R445). A 2D one has O_t = 1. -/
def checkPool (i : List Byte) (r : OpRec) : Option Nat :=
  let b := paramBytes i r.params 48
  let f := leAt b 0 1
  let axes := poolAxes b
  firstOf [
    need (hasBlock i r 48) stBadDesc, need (f < 8 && (bitOf f 0 || !bitOf f 1)) stBadDesc,
    need ((List.range 3).all fun a => within (leAt b (1 + a) 1) 1 16 && within (leAt b (4 + a) 1) 1 16 && leAt b (7 + a) 1 < 16
      && leAt b (10 + a) 1 < 16 && within (leAt b (20 + 4 * a) 4) 1 65535) stBadDesc,
    need (bitOf f 2 || (leAt b 1 1 == 1 && leAt b 20 4 == 1)) stBadDesc,
    need (allZero (slice b 13 3) && within (leAt b 16 4) 1 65535) stBadDesc,
    need (within (leAt b 32 4) 1 65535 && allZero (slice b 36 12)) stBadDesc,
    need (axes.all (fun a => 1 ≤ a.out) && (bitOf f 2 || (axes.take 1).all fun a => a.out == 1)) stBadDesc]

/-! Attention (07 R145 to R152). -/

/-- The attention combinations of R147. -/
def attentionFormats (q k v : Nat) : Bool :=
  [(0x13, 0x13, 0x13), (0x13, 0x10, 0x13), (0x02, 0x10, 0x02), (0x02, 0x02, 0x02)].contains (q, k, v)

/-- The skip list of an attention block; range r is (lo, hi). -/
def skipRange (i : List Byte) (off q r : Nat) : Nat × Nat :=
  let b := paramBytes i off 8
  let first := leAt (paramBytes i (off + 8 + 8 * q) 8) 0 4
  let at' := off + 8 + 8 * leAt b 0 4 + 8 * (first + r)
  (leAt (paramBytes i at' 8) 0 4, leAt (paramBytes i at' 8) 4 4)

/-- Ranges of query tile q. -/
def skipCount (i : List Byte) (off q : Nat) : Nat := leAt (paramBytes i (off + 8 + 8 * q) 8) 4 4

/-- A skip list is well formed (R152). -/
def checkSkip (i : List Byte) (r : OpRec) (off : Nat) : Bool :=
  let n := leAt (paramBytes i off 8) 0 4
  hParamOff i + off + 8 + 8 * n + 8 * leAt (paramBytes i off 8) 4 4 ≤ i.length && n == ceilDiv r.m 128
    && (List.range n).all fun q => (List.range (skipCount i off q)).all fun j =>
      let e := skipRange i off q j
      e.1 ≤ e.2 && (j == 0 || (skipRange i off q (j - 1)).2 < e.1)

/-- No range of a skip list reaches beyond the last key tile (R152). -/
def skipWithin (i : List Byte) (off keys : Nat) : Bool :=
  (List.range (leAt (paramBytes i off 8) 0 4)).all fun q => (List.range (skipCount i off q)).all fun j =>
    (skipRange i off q j).2 < ceilDiv keys 128

/-- An attention block. -/
def checkAttention (i : List Byte) (r : OpRec) : Option Nat :=
  let b := paramBytes i r.params 64
  let kind := bitsOf (leAt b 0 1) 0 3
  let paged := bitOf (leAt b 0 1) 3
  let q := leAt b 8 2
  let kv := leAt b 10 2
  let known := fun c => (formatOf c).isSome
  firstOf [
    need (hasBlock i r 64) stBadDesc, need (kind ≤ 4 && leAt b 0 1 < 16) stBadDesc,
    need (known (leAt b 1 1) && known (leAt b 2 1) && known (leAt b 3 1)) stBadFormat,
    need (attentionFormats (leAt b 1 1) (leAt b 2 1) (leAt b 3 1)) stBadFormat,
    need (finite32 (BitVec.ofNat 32 (leAt b 4 4))) stBadDesc,
    need (within q 1 256 && within kv 1 256 && q % kv == 0) stBadDesc,
    need (if kind = 2 then within (leAt b 12 4) 1 (2 ^ 31) else leAt b 12 4 == 0) stBadDesc,
    need (kind != 3 || (leAt b 16 2 != 0 && leAt b 18 2 != 0)) stBadDesc,
    need (leAt b 26 2 == 0 && (kind == 3 || leAt b 28 4 == 0)) stBadDesc,
    need (if leAt b 32 8 = 0 then kind != 4
      else !paged && checkSkip i r (leAt b 32 8)) stBadDesc,
    need (if paged then leAt b 40 4 == noIndex && leAt b 44 4 == noIndex
      else leAt b 40 4 < hTensors i && leAt b 44 4 < hTensors i) stBadDesc,
    need (allZero (slice b 48 16)) stBadDesc,
    need (r.k == 128 && r.streamed < hTensors i && (hKind i == 1 || r.stripRows % 128 == 0)) stBadDesc]

/-! Resample, element-wise, codec, update, collective blocks. -/

/-- The fields of a RESAMPLE descriptor or block that R92 limits; d has the block at byte 32. The status, if any, before
the addresses are looked at. -/
def checkResample (d : List Byte) : Option Nat :=
  let kind := bitsOf (leAt d 32 1) 0 2
  let method := bitsOf (leAt d 32 1) 2 2
  let crop := kind == 0
  let sh := leAt d 64 2
  let sw := leAt d 66 2
  let dh := leAt d 68 2
  let dw := leAt d 70 2
  let lim := if crop then 512 else 16384
  let factor := fun (s t : Nat) => t != 0 && s % t == 0 && within (s / t) 1 32
  firstOf [
    need (kind ≤ 1) stBadDesc, need (method ≤ 1 || (method == 2 && !crop)) stBadDesc,
    need ([0x01, 0x02, 0x03, 0x13, 0x14].contains (leAt d 33 1)) stBadFormat,
    need ([0x01, 0x02, 0x03, 0x13].contains (leAt d 34 1)) stBadFormat,
    need (if crop then leAt d 36 4 ≤ 65536 else leAt d 36 4 == 0) stBadDesc,
    need (crop || leAt d 56 8 == 0) stBadDesc,
    need (within sh 1 16384 && within sw 1 16384 && within dh 1 lim && within dw 1 lim) stBadDesc,
    need (within (leAt d 72 2) 1 16384 && within (leAt d 74 2) 1 65535) stBadDesc,
    need (method != 2 || (factor sh dh && factor sw dw)) stBadDesc]

/-- A 96-byte block of a plan as the descriptor it stands for. -/
def asDesc (i : List Byte) (r : OpRec) : List Byte := List.replicate 32 0 ++ paramBytes i r.params 96

/-- A resample operation (04 R92). -/
def checkResampleOp (i : List Byte) (r : OpRec) : Option Nat :=
  let d := asDesc i r
  let row : OpRow := ⟨.forbidden, .forbidden, false, [(256, 4), bytesField 33 34, bytesField 36 87]⟩
  firstOf [need (hasBlock i r 96) stBadDesc, checkResample d, need (reservedZero d row) stBadDesc,
    need (leAt d 40 8 % 4096 == 0 && leAt d 48 8 % 4096 == 0 && leAt d 56 8 % 4096 == 0) stBadDesc]

/-- A drop-out, initialisation or plan-defined stream (09 R213). -/
def streamOk (v : Nat) : Bool := v == 0 || within v 0x10000 0x7FFFFFFF

/-- An element-wise block (09 R446). -/
def checkElementwise (i : List Byte) (r : OpRec) : Option Nat :=
  let b := paramBytes i r.params 32
  let kind := bitsOf (leAt b 0 1) 0 3
  let p0 : Word32 := BitVec.ofNat 32 (leAt b 12 4)
  let p1 : Word32 := BitVec.ofNat 32 (leAt b 16 4)
  firstOf [
    need (hasBlock i r 32) stBadDesc, need (leAt b 0 1 ≤ 5 && allZero (slice b 1 3)) stBadDesc,
    need (if kind ≤ 2 then leAt b 4 4 == 0 else streamOk (leAt b 4 4)) stBadDesc,
    need (if kind = 1 || kind = 2 then leAt b 8 4 < hTensors i else leAt b 8 4 == noIndex) stBadDesc,
    need (if kind ≤ 2 then zero32 p0 else finite32 p0) stBadDesc,
    need (kind != 3 || ((XR.nat 0).le (f32 p0) && (f32 p0).lt (XR.nat 1))) stBadDesc,
    need (match kind with
      | 4 => finite32 p1 && (f32 p0).lt (f32 p1)
      | 5 => finite32 p1 && (XR.nat 0).le (f32 p1)
      | _ => zero32 p1) stBadDesc,
    need (allZero (slice b 20 12)) stBadDesc,
    need (r.k == 1 && r.resident == noIndex && (kind != 0 || r.function != noIndex)
      && (if 4 ≤ kind then r.streamed == noIndex else r.streamed < hTensors i)) stBadDesc]

/-- FP32 strictly between 0 and 1, or the pattern 0 that selects a default. -/
def unitOpen (w : Word32) : Bool := zero32 w || ((XR.nat 0).lt (f32 w) && (f32 w).lt (XR.nat 1))

/-- A schedule program (10 R228). -/
def checkSchedule (i : List Byte) (off : Nat) : Option Nat :=
  let b := paramBytes i off 48
  let w := fun k : Nat => (BitVec.ofNat 32 (leAt b k 4) : Word32)
  firstOf [
    need (off % 16 == 0 && hParamOff i + off + 48 ≤ i.length) stBadDesc,
    need (leAt b 0 1 < 16 && bitsOf (leAt b 0 1) 1 3 ≤ 4 && allZero (slice b 1 3)) stBadDesc,
    need (finite32 (w 4) && (XR.nat 0).lt (f32 (w 4))) stBadDesc,
    need ((XR.nat 0).le (f32 (w 8)) && (f32 (w 8)).le (f32 (w 4))) stBadDesc,
    need (leAt b 16 4 < 2 ^ 24 && (leAt b 16 4 == 0 || leAt b 12 4 ≤ leAt b 16 4)) stBadDesc,
    need (leAt b 24 2 ≤ 16) stBadDesc,
    need (bitsOf (leAt b 0 1) 1 3 != 4 || (unitOpen (w 28) && !zero32 (w 28))) stBadDesc,
    need (zero32 (w 32) || ((XR.nat 0).lt (f32 (w 32)) && (f32 (w 32)).le (XR.nat 1))) stBadDesc,
    need (allZero (slice b 36 12)) stBadDesc]

/-- An update operation and its block (10 R218, R219). -/
def checkUpdate (i : List Byte) (r : OpRec) : Option Nat :=
  let b := paramBytes i r.params 64
  let w := fun k : Nat => (BitVec.ofNat 32 (leAt b k 4) : Word32)
  let fac := bitOf (leAt b 0 1) 0
  let mom := bitOf (leAt b 0 1) 1
  firstOf [
    need (r.resident < hTensors i && r.streamed < hTensors i && r.output == r.resident && r.k == 1 && r.function == noIndex)
      stBadDesc,
    need (hasBlock i r 64) stBadDesc,
    need (leAt b 0 1 < 4 && (fac || r.m == 1 || r.n == 1) && allZero (slice b 1 3)) stBadDesc,
    need (unitOpen (w 4) && unitOpen (w 8)) stBadDesc,
    need (nonNeg32 (w 12) && finite32 (w 12)) stBadDesc, need (nonNeg32 (w 16)) stBadDesc,
    need (nonNeg32 (w 20) && finite32 (w 20)) stBadDesc,
    need (if mom then leAt b 28 4 < hTensors i else leAt b 28 4 == noIndex) stBadDesc,
    need (tensorRef i (leAt b 32 4)) stBadDesc,
    need (if fac then leAt b 36 4 < hTensors i && leAt b 40 4 < hTensors i
      else leAt b 36 4 == noIndex && leAt b 40 4 == noIndex) stBadDesc,
    need (leAt b 44 4 < hTensors i && (if fac then leAt b 48 4 < hTensors i else leAt b 48 4 == noIndex)) stBadDesc,
    need (leAt b 60 4 == 0) stBadDesc, checkSchedule i (leAt b 52 8)]

/-- A collective block (12 R276). A barrier moves no data: its formats may be code 0x00, no tensor, but no other code outside 02
R26. -/
def checkCollective (i : List Byte) (r : OpRec) : Option Nat :=
  let b := paramBytes i r.params 64
  let f := leAt b 0 1
  let kind := bitsOf f 0 3
  let chunks := if leAt b 4 4 = 0 then 1 else leAt b 4 4
  let count := leAt b 8 8
  firstOf [
    need (hasBlock i r 64) stBadDesc, need (f < 64 && kind ≤ 5 && (!bitOf f 3 || kind == 1 || kind == 2)) stBadDesc,
    need ((formatOf (leAt b 1 1)).isSome || (kind == 5 && leAt b 1 1 == 0)) stBadFormat,
    need (if kind = 1 || kind = 2 then [0x01, 0x02, 0x03, 0x13].contains (leAt b 2 1)
      else if kind = 5 then (formatOf (leAt b 2 1)).isSome || leAt b 2 1 == 0
      else leAt b 2 1 == leAt b 1 1) stBadFormat,
    need (leAt b 3 1 == 0 && chunks ≤ 64) stBadDesc,
    need (if kind = 5 then count == 0 else count != 0 && count % (64 * chunks) == 0) stBadDesc,
    need (if kind = 5 then leAt b 16 4 == noIndex && leAt b 20 4 == noIndex
      else leAt b 16 4 < hTensors i && leAt b 20 4 < hTensors i) stBadDesc,
    need ((kind == 4 || leAt b 24 2 == 0) && leAt b 26 2 == 0) stBadDesc,
    need ((leAt b 32 4 == 0 || within (leAt b 32 4) 1000 10000000) && leAt b 36 4 ≤ 1000000 && allZero (slice b 40 24)) stBadDesc]

/-- A codec operation and its block (11 R252): the layout of CODEC_ENCODE with tensors in place of HBM addresses. -/
def checkCodec (i : List Byte) (r : OpRec) : Option Nat :=
  let d := asDesc i r
  let row : OpRow := ⟨.forbidden, .forbidden, false,
    [(256, 12), bytesField 34 101, (816, 1), bytesField 104 105, bytesField 112 119]⟩
  firstOf [
    need (hasBlock i r 96) stBadDesc, need (reservedZero d row && encodeFields d) stBadDesc,
    need (ceObject d) stBadDesc,
    need (ceSrc d < hTensors i && (!ceStats d || ceStatsAddr d < hTensors i) && (!ceHints d || ceHintAddr d < hTensors i)) stBadDesc]

/-! Array products (02 R41). -/

/-- Formats of the eight- and six-bit kind. -/
def wide8 (c : Nat) : Bool := [0x13, 0x14, 0x21, 0x22, 0x23, 0x24, 0x25].contains c

/-- The pair of R41 exists. -/
def pairOk (res str : Nat) : Bool :=
  let four := [0x10, 0x11, 0x20].contains res
  let str4 := str == 0x10 || str == 0x20
  ((four || res == 0x12 || wide8 res) && (str4 || wide8 str))
    || ((res == 0x02 || res == 0x03) && (str == 0x02 || str == 0x03))

/-- Elements of K in one block of the array (04 R77). -/
def kBlock (res str : Nat) : Nat := if res = 0x12 && (str == 0x10 || str == 0x20) then 256 else 128

/-- Bytes of the streamed elements and scales of one K block of one row (04 R79). -/
def rowBlockBytes (f : Format) (kb : Nat) : Nat := packedBytes f.width kb + (if f.scaled then ceilDiv kb f.block * f.scaleBytes else 0)

/-- The regions of the core store fit in 1 MiB (04 R79). -/
def storeFits (i : List Byte) (r : OpRec) : Bool :=
  let acc := (if r.double then 2 else 1) * r.stripRows * 512
  let kb := if r.kind = 4 then 128 else kBlock (tensorAt i r.resident).format (tensorAt i r.streamed).format
  let stage := if within r.kind 1 4 then 2 * r.stripRows * rowBlockBytes (tensorFmt i r.streamed) kb else 0
  acc + stage + 131072 ≤ 1048576

/-- A normalisation's settings (05 R113), which no record of the image holds (log 47). -/
def checkNorm (i : List Byte) (o : Nat) : Option Nat :=
  let r := opAt i o
  let c := Config.normChoice i o
  firstOf [need (r.streamed < hTensors i && r.n ≤ 2 ^ 31) stBadDesc, need (finite32 c.2.2.1 && nonNeg32 c.2.2.1) stBadDesc,
    need (c.1 ≤ 1 || (c.2.1 != 0 && r.n % c.2.1 == 0)) stBadDesc]

/-- The block of operation o by its kind. -/
def checkBlock (i : List Byte) (o : Nat) : Option Nat :=
  let r := opAt i o
  match r.kind with
  | 0x01 => need (r.resident < hTensors i && r.streamed < hTensors i) stBadDesc
  | 0x02 => firstOf [need (r.resident < hTensors i && r.streamed < hTensors i) stBadDesc, checkConv i r]
  | 0x03 => firstOf [need (r.resident < hTensors i && r.streamed < hTensors i) stBadDesc, checkConv i r]
  | 0x04 => checkAttention i r
  | 0x05 => firstOf [need (r.streamed < hTensors i) stBadDesc, checkPool i r]
  | 0x06 => checkNorm i o
  | 0x07 => need (r.streamed < hTensors i) stBadDesc
  | 0x08 => checkResampleOp i r
  | 0x09 => checkElementwise i r
  | 0x0A => checkCodec i r
  | 0x0B => checkUpdate i r
  | 0x0C => checkCollective i r
  | _ => need (r.streamed < hTensors i) stBadDesc

/-- The error-control record of operation o (03 R54). More than 256 static channels wait for the fit check. -/
def checkEc (i : List Byte) (o : Nat) : Option Nat :=
  let b := ecBytes i o
  let e := ecAt i o
  let f := leAt b 8 1
  let list := staticList i o
  firstOf [
    need (e.period == 0 || (List.range 17).any fun k => e.period == 2 ^ k) stBadDesc,
    need (nonNeg32 e.budget && (zero32 e.budget || 2 ^ 23 ≤ e.budget.toNat)) stBadDesc,
    need (bitsOf f 0 2 ≤ 2 && bitsOf f 2 2 ≤ 1 && f < 64 && e.capacity ≤ 8) stBadDesc,
    need (zero32 e.theta || (finite32 e.theta && (XR.nat 1).le (f32 e.theta))) stBadDesc,
    need (256 < e.statics || e.statics == 0 || (e.listOff + 2 * e.statics ≤ hDataLen i
      && (list.zip (list.drop 1)).all (fun p => p.1 < p.2) && list.all (· < (opAt i o).k))) stBadDesc,
    need (256 < e.statics || e.statics == 0 || e.weightOff + 2 * e.statics * (opAt i o).n ≤ hDataLen i) stBadDesc,
    need (tensorRef i e.residual && allZero (slice b 36 4)) stBadDesc]

/-- Function record j (05 R108, R115). -/
def checkFn (i : List Byte) (j : Nat) : Option Nat :=
  let b := fnBytes i j
  let r := fnAt i j
  firstOf [
    need (r.code ≤ 0x0F) stBadDesc, need (r.form ≤ 2 && leAt b 1 1 < 8 && !(r.f2 && r.code == 0x0D)) stBadDesc,
    need (within r.out 1 3) stBadFormat, need (leAt b 3 1 == 0) stBadDesc,
    need (nonNeg32 r.flush && finite32 r.flush) stBadDesc, need (tensorRef i r.bias && tensorRef i r.scale) stBadDesc,
    need (if r.form = 2 then r.gate < hTensors i else r.gate == noIndex) stBadDesc, need (allZero (slice b 20 4)) stBadDesc]

/-- Operation o with its blocks (R443 step 7). -/
def checkOp (i : List Byte) (o : Nat) : Option Nat :=
  let r := opAt i o
  firstOf [checkOpFields i o, checkBlock i o, checkEc i o, if r.function = noIndex then none else checkFn i r.function]

/-- The serving block (07 R154). -/
def checkServing (i : List Byte) : Option Nat :=
  let b := servBytes i
  firstOf [
    need (vContext i / 64 + 1 ≤ vPool i) stBadDesc, need (vContext i % 64 == 0 && within (vContext i) 64 1048576) stBadDesc,
    need (within (vVocab i) 2 (2 ^ 24)) stBadDesc, need ([0x10, 0x13, 0x02].contains (vKeyFmt i)) stBadFormat,
    need ([0x13, 0x02].contains (vValFmt i)) stBadFormat, need (within (vLayers i) 1 1024) stBadDesc,
    need (within (vHeads i) 1 256 && leAt b 18 2 == 0 && leAt b 24 8 == 0) stBadDesc]

/-- The footprint record (R127), which names a port where it names peers (12 R270). -/
def checkFoot (i : List Byte) : Option Nat :=
  let b := footBytes i
  firstOf [
    need (within (fMinBasins i) 1 10 && leAt b 2 2 == 0) stBadDesc, need (fEntries i ≤ 262144) stBadDesc,
    need (leAt b 42 1 < 16 && leAt b 43 1 == 0) stBadDesc, need (fPeers i ≤ 4095 && (fPeers i == 0 || fPorts i != 0)) stBadDesc,
    need (allZero (slice b 48 16)) stBadDesc]

/-! Relations between records (R443 step 9). -/

/-- Operations reachable from o by pred, o excluded; fuel bounds the chain. -/
def ancestors (i : List Byte) : Nat → Nat → List Nat
  | 0, _ => []
  | n + 1, o => (opAt i o).preds ++ (opAt i o).preds.flatMap (ancestors i n)

/-- Operations a and b are ordered through pred (10 R227). -/
def ordered (i : List Byte) (a b : Nat) : Bool :=
  (ancestors i (max a b) (max a b)).contains (min a b)

/-- Tensors an operation reads. -/
def readsOf (i : List Byte) (o : Nat) : List Nat :=
  let r := opAt i o
  let p := paramBytes i r.params 96
  let extra := match r.kind with
    | 0x04 => [leAt p 40 4, leAt p 44 4]
    | 0x09 => [leAt p 8 4]
    | 0x0A => [leAt p 16 4, leAt p 48 4]
    | 0x0B => [leAt p 28 4, leAt p 32 4, leAt p 36 4, leAt p 40 4, leAt p 44 4, leAt p 48 4]
    | 0x0C => [leAt p 16 4]
    | _ => []
  let fn := if r.function = noIndex then [] else [(fnAt i r.function).bias, (fnAt i r.function).scale, (fnAt i r.function).gate]
  ([r.resident, r.streamed, (ecAt i o).residual] ++ extra ++ fn).filter (· < hTensors i)

/-- Tensors an operation writes. -/
def writesOf (i : List Byte) (o : Nat) : List Nat :=
  let r := opAt i o
  let p := paramBytes i r.params 64
  let extra := match r.kind with
    | 0x0B => [leAt p 28 4, leAt p 32 4, leAt p 44 4, leAt p 48 4]
    | 0x0C => [leAt p 20 4]
    | _ => []
  ([r.output, (ecAt i o).residual] ++ extra).filter (· < hTensors i)

/-- The tensors of an update whose other users must be ordered with it (10 R227). -/
def updateState (i : List Byte) (o : Nat) : List Nat :=
  let p := paramBytes i (opAt i o).params 64
  [(opAt i o).resident, leAt p 28 4, leAt p 32 4, leAt p 44 4, leAt p 48 4].filter (· < hTensors i)

/-- Every user of an update's state is ordered with it, and no two updates name one parameter (10 R227). -/
def updatesOrdered (i : List Byte) : Bool :=
  (List.range (hOps i)).all fun u => (opAt i u).kind != 0x0B || (List.range (hOps i)).all fun o =>
    o == u
      || (!((readsOf i o ++ writesOf i o).any (updateState i u).contains && !ordered i u o)
          && !((opAt i o).kind == 0x0B && (opAt i o).resident == (opAt i u).resident))

/-- Tensors an operation's quantiser writes (02 R31). -/
def quantised (i : List Byte) (o : Nat) : List Nat := if quantises i (opAt i o) then writesOf i o else []

/-- Strips of an execution (R135). -/
def stripRowBlocks (r : OpRec) : Nat := ceilDiv r.m r.stripRows
@[inherit_doc stripRowBlocks]
def stripColBlocks (r : OpRec) : Nat := if r.kind = 6 || r.kind = 7 then 1 else ceilDiv r.n 128
@[inherit_doc stripRowBlocks]
def stripTotal (r : OpRec) : Nat :=
  if stripKind r.kind then stripRowBlocks r * stripColBlocks r * r.parts else 0

/-- Tensor t has m rows of n columns, padded to whole blocks of its format (02 R34) or as the output is. -/
def shaped (i : List Byte) (t m n out : Nat) : Bool :=
  let d := tensorAt i t
  let b := max 1 (tensorFmt i t).block
  t < hTensors i && d.rows == m && (d.cols == ceilDiv n b * b || (out < hTensors i && n ≤ d.cols && d.cols == (tensorAt i out).cols))

/-- Tensor t holds n values as a vector: one row, padded to whole blocks, or exactly n elements. -/
def vectorOf (i : List Byte) (t n : Nat) : Bool :=
  let d := tensorAt i t
  let b := max 1 (tensorFmt i t).block
  t < hTensors i && (d.rows * d.cols == n || (d.rows == 1 && d.cols == ceilDiv n b * b))

/-- A named tensor, if one is named, has a property. -/
def ifNamed (t : Nat) (ok : Bool) : Bool := t == noIndex || ok

/-- A tensor has one of some formats. -/
def formatIn (i : List Byte) (t : Nat) (codes : List Nat) : Bool := codes.contains (tensorAt i t).format

/-- An array product's operands: their pair, and whole parts of padded groups (02 R41, R45). -/
def relateProduct (i : List Byte) (r : OpRec) (tapCount width : Nat) : Option Nat :=
  firstOf [need (pairOk (tensorAt i r.resident).format (tensorAt i r.streamed).format) stBadFormat,
    need (tapCount * ceilDiv width (groupSize (tensorFmt i r.streamed) (tensorFmt i r.resident)) % r.parts == 0) stBadDesc]

/-- An attention operation with its tensors, the serving block and its skip list (07 R145, R146, R152). -/
def relateAttention (i : List Byte) (r : OpRec) : Option Nat :=
  let b := paramBytes i r.params 64
  let paged := bitOf (leAt b 0 1) 3
  firstOf [need (r.n == 128 * leAt b 8 2) stBadDesc,
    need (!paged || (hKind i == 1 && leAt b 2 1 == vKeyFmt i && leAt b 3 1 == vValFmt i)) stBadFormat,
    need (leAt b 32 8 == 0 || skipWithin i (leAt b 32 8) (tensorAt i (leAt b 40 4)).rows) stBadDesc,
    need (formatIn i r.streamed [leAt b 1 1]) stBadFormat,
    need (paged || (formatIn i (leAt b 40 4) [leAt b 2 1] && formatIn i (leAt b 44 4) [leAt b 3 1])) stBadFormat]

/-- An element-wise operation with its operands (09 R446). N3 and N2T may stand on no streamed side, and two array operands form a
pair of 02 R41; FP32, which R41 does not name, goes with every format (log 172). -/
def relateElementwise (i : List Byte) (r : OpRec) : Option Nat :=
  let second := leAt (paramBytes i r.params 32) 8 4
  let fp := fun t => formatIn i t [0x01]
  let side := fun t => ifNamed t (!formatIn i t [0x11, 0x12])
  firstOf [need (ifNamed second (shaped i second r.m r.n r.output)) stBadDesc, need (side r.streamed && side second) stBadFormat,
    need (second == noIndex || fp second || fp r.streamed || pairOk (tensorAt i second).format (tensorAt i r.streamed).format)
      stBadFormat]

/-- An update with its tensors (10 R218, R219). -/
def relateUpdate (i : List Byte) (r : OpRec) : Option Nat :=
  let b := paramBytes i r.params 64
  let fac := bitOf (leAt b 0 1) 0
  let vec := fun k : Nat => formatIn i (leAt b k 4) [0x01] && (tensorAt i (leAt b k 4)).home == 1
  firstOf [
    need (shaped i r.resident r.m r.n noIndex && shaped i r.streamed r.m r.n r.resident) stBadDesc,
    need (ifNamed (leAt b 28 4) (shaped i (leAt b 28 4) r.m r.n r.resident)
      && ifNamed (leAt b 32 4) (shaped i (leAt b 32 4) r.m r.n r.resident)) stBadDesc,
    need (leAt b 32 4 == noIndex || formatIn i r.resident [0x13]) stBadDesc,
    need (if fac then vectorOf i (leAt b 36 4) r.m && vectorOf i (leAt b 40 4) r.n && vectorOf i (leAt b 44 4) r.m
        && vectorOf i (leAt b 48 4) r.n
      else vectorOf i (leAt b 44 4) (r.m * r.n)) stBadDesc,
    need (formatIn i r.resident [0x02, 0x13] && formatIn i r.streamed [0x01, 0x02, 0x13]
      && ifNamed (leAt b 28 4) (formatIn i (leAt b 28 4) [0x13]) && vec 44 && (!fac || (vec 36 && vec 40 && vec 48))) stBadFormat]

/-- Operation o with the records it names (R443 step 9): those of its kind, of its function record (05 R108) and of its
error-control record (03 R54, R71). -/
def relateOp (i : List Byte) (o : Nat) : Option Nat :=
  let r := opAt i o
  let e := ecAt i o
  let f := fnAt i r.function
  let c := paramBytes i r.params 64
  let kind := match r.kind with
    | 0x01 => relateProduct i r 1 r.k
    | 0x02 => conv i r c
    | 0x03 => conv i r c
    | 0x04 => relateAttention i r
    | 0x05 => need (r.n == leAt c 32 4 && r.k == 1 && r.m == leAt c 16 4 * outPositions (poolAxes c)) stBadDesc
    | 0x09 => relateElementwise i r
    | 0x0A => need (bitOf (fCodecs i) (ceEngine (asDesc i r))) stBadDesc
    | 0x0B => relateUpdate i r
    | _ => none
  let fn := r.function == noIndex || (ifNamed f.bias (vectorOf i f.bias r.n) && ifNamed f.scale (vectorOf i f.scale r.n)
    && ifNamed f.gate (shaped i f.gate r.m r.n r.output))
  firstOf [kind, need fn stBadDesc, need (zero32 e.theta || formatIn i r.output [0x10]) stBadDesc,
    need (ifNamed e.residual ((tensorAt i e.residual).source == 3 && formatIn i e.residual [0x10]
      && shaped i e.residual r.m r.n r.output)) stBadDesc,
    need (!stripKind r.kind || storeFits i r) stBadDesc]
where
  /-- A convolution with its operands (04 R444). -/
  conv (i : List Byte) (r : OpRec) (c : List Byte) : Option Nat :=
    let axes := convAxes c
    let blk := max 1 (tensorFmt i r.resident).block
    firstOf [need (r.k == ceilDiv (cWidth c) blk * blk && r.n == cOut c && r.m == cBatch c * outPositions axes) stBadDesc,
      relateProduct i r (taps axes) (if r.kind = 3 then cWidth c else r.k)]

/-- The rules that relate records (R443 step 9). -/
def checkRelations (i : List Byte) : Option Nat :=
  firstOf [
    need ((List.range (hOps i)).all fun o => stripTotal (opAt i o) ≤ 2 ^ 26) stBadDesc,
    need (updatesOrdered i) stBadDesc,
    need ((List.range (hOps i)).all fun o => (quantised i o).all fun t =>
      (tensorAt i t).format != 0x11 && (tensorAt i t).format != 0x12) stBadFormat,
    eachOf (hOps i) (relateOp i)]

/-- Functions no operation names. -/
def looseFns (i : List Byte) : List Nat :=
  (List.range (hFns i)).filter fun j => !(List.range (hOps i)).any fun o => (opAt i o).function == j

/-- The whole image of the length given (R443 steps 5 to 9). -/
def checkImage (i : List Byte) (len : Nat) : Option Nat :=
  match checkHeader i len with
  | some st => some st
  | none =>
    firstOf [eachOf (hTensors i) (checkTensor i), eachOf (hOps i) (checkOp i), (looseFns i).findSome? (checkFn i),
      if hKind i = 1 then checkServing i else none, checkFoot i, checkRelations i]

/-- The plan may restart (13 R293): no operation writes a bound or data tensor that an operation reads. -/
def restartable (i : List Byte) : Bool :=
  let read := (List.range (hOps i)).flatMap (readsOf i)
  !(List.range (hOps i)).any fun o => (writesOf i o).any fun t =>
    ((tensorAt i t).source == 1 || (tensorAt i t).source == 2) && read.contains t

end Sys2Proof.Machine
end

