-- ==== Sys2Proof/Machine/Accounts.lean ====
section
/-! DEFINITION. Sys2Proof/Machine/Accounts.lean: partitions (15 R331 to R333), accounts (R340 to R345), and SNAPSHOT (19
R414, R415). -/

namespace Sys2Proof.Machine

/-! Accounts. -/

/-- The command is a serving job's start, whose cost its requests bear (15 R334, R342). -/
def servingStart (s : State) (id : Nat) : Bool :=
  (List.range 10).any fun p => match (s.partRun p).job with | some j => j.serving && j.cmd == id | none => false

/-- A meter's share charged to an open command and its client (15 R342). -/
def chargeShare (s : State) (e : Nat × Charge) : State :=
  if servingStart s e.1 then s
  else match s.cmd e.1 with
    | some c => (chargeCmd s c e.2).1
    | none => s

/-- ACCOUNT_UPDATE (15 R341, R342): shares by command, energy of nobody, energy of the whole TM40. -/
def execAccountUpdate (shares : List (Nat × Charge)) (unattributed total : Nat) (s : State) :
    Host.Outcome State Fault Refusal :=
  .next (
    if staged s then
      let s1 := shares.foldl chargeShare s
      { s1 with acct := { s1.acct with unattrUj := satAdd s1.acct.unattrUj unattributed,
                                       totalUj := satAdd s1.acct.totalUj total, updateMtc := s.mtc.now } }
    else s)

/-- The accounts from client c on, zeroed when asked. -/
def zeroAccounts (s : State) (c n : Nat) : State :=
  { s with acct := { s.acct with accounts := s.acct.accounts.filter fun e => !(c ≤ e.1 && e.1 < c + n) } }

/-- ACCT_READ (15 R343). -/
def runAcctRead (s : State) (c : Cmd) (env : Env) : State :=
  let d := c.desc
  let first := bitsOf (leAt d 32 2) 0 12
  let n := bitsOf (leAt d 34 2) 0 13
  let dst := leAt d 40 8
  if n = 0 then finish s c stOk
  else if 4096 < first + n || dst % 64 != 0 then finish s c stBadDesc
  else if first < (s.fn c.fn).clientBase.toNat
      || (s.fn c.fn).clientBase.toNat + (s.fn c.fn).clientCount.toNat < first + n
      || !inWindows s c.fn dst (128 * n) then finish s c stDenied
  else
    let t := chargeCmd s c env.charge
    let bs := (List.range n).flatMap fun i => accountBytes t.1 (first + i)
    let s1 := hostWrite t.1 dst bs
    finish (if bitOf (leAt d 36 1) 0 then zeroAccounts s1 first n else s1) t.2 stOk

/-- ACCT_READ. -/
def execAcctRead (f q : Nat) (env : Env) (s : State) : Host.Outcome State Fault Refusal :=
  .next (takeRow 0x00A0 f q env noEarly runAcctRead s)

/-! Granules (08 R187, 15 R332). -/

/-- An extent in its place by first granule. -/
def putExtent (e : Nat × Nat) : List (Nat × Nat) → List (Nat × Nat)
  | [] => [e]
  | x :: xs => if e.1 < x.1 then e :: x :: xs else x :: putExtent e xs

/-- Every extent of every partition, ascending. -/
def usedExtents (s : State) : List (Nat × Nat) :=
  (s.parts.flatMap fun e => e.2.extents).foldl (fun xs e => putExtent e xs) []

/-- The free runs between used extents from granule g on. -/
def freeRuns : Nat → List (Nat × Nat) → List (Nat × Nat)
  | g, [] => if g < Config.granules then [(g, Config.granules - g)] else []
  | g, (a, n) :: xs => if g < a then (g, a - g) :: freeRuns (a + n) xs else freeRuns (max g (a + n)) xs

/-- Extents extended by up to n granules of free runs, in ascending order and within 64 extents, with the number of
granules added. -/
def growExtents (ext : List (Nat × Nat)) : Nat → List (Nat × Nat) → List (Nat × Nat) × Nat
  | _, [] => (ext, 0)
  | n, (g, c) :: rs =>
    if n = 0 then (ext, 0)
    else
      let k := min c n
      let joins := match ext.getLast? with | some e => e.1 + e.2 == g | none => false
      if !joins && 64 ≤ ext.length then (ext, 0)
      else
        let ext' := if joins then ext.dropLast ++ [(match ext.getLast? with | some e => (e.1, e.2 + k) | none => (g, k))]
          else ext ++ [(g, k)]
        let r := growExtents ext' (n - k) rs
        (r.1, r.2 + k)

/-- The first n granules of some extents. -/
def keepGranules : Nat → List (Nat × Nat) → List (Nat × Nat)
  | _, [] => []
  | n, (g, c) :: xs => if n = 0 then [] else if n ≤ c then [(g, n)] else (g, c) :: keepGranules (n - c) xs

/-- The granules of some extents after the first n. -/
def dropGranules : Nat → List (Nat × Nat) → List (Nat × Nat)
  | _, [] => []
  | n, (g, c) :: xs => if n = 0 then (g, c) :: xs else if n < c then (g + n, c - n) :: xs else dropGranules (n - c) xs

/-! PARTITION_SET (15 R331, R332). -/

def psDelete (d : List Byte) : Bool := bitsOf (leAt d 32 1) 0 2 == 1
def psOwner (d : List Byte) : Nat := leAt d 33 1
def psMask (d : List Byte) : Nat := bitsOf (leAt d 34 2) 0 10
def psDeadline (d : List Byte) : Nat := leAt d 36 4
def psQuota (d : List Byte) : Nat := leAt d 40 8
def psWeight (d : List Byte) : Nat := leAt d 48 1
def psBudget (d : List Byte) : Nat := leAt d 52 4
def psArea (d : List Byte) : Nat := leAt d 56 8

/-- A new value, or the old where the field says keep. -/
def orKeep (v old : Nat) : Nat := if v = 0 then old else v

/-- The partition of this number before the command: the defaults of creation where it does not exist. -/
def partOr (s : State) (p : Nat) : Partition :=
  (Tab.find s.parts p).getD
    { owner := 0, mask := 0, deadlineUs := 2000, quota := 0, weight := 16, budget := 8192, extents := [] }

/-- Another command that names partition p is open. -/
def namedElsewhere (s : State) (c : Cmd) (p : Nat) : Bool := s.cmds.any fun d => d.id != c.id && dPart d.desc == p

/-- The checks of R332 up to the quota. -/
def partitionStatus (s : State) (c : Cmd) : Option Nat :=
  let d := c.desc
  let p := dPart d
  let old := Tab.find s.parts p
  let o := partOr s p
  let changes := psDelete d || (psOwner d != 0xFF && psOwner d != o.owner) || (psMask d != 0 && psMask d != o.mask.toNat)
    || (psQuota d != 0 && psQuota d < o.quota)
  firstOf [
    need (bitsOf (leAt d 32 1) 0 2 ≤ 1) stBadDesc,
    need (psOwner d == 0xFF || (psOwner d < 64 && fnEnabled s (psOwner d))) stBadDesc,
    need (psDelete d || old.isSome || (psOwner d != 0xFF && psMask d != 0)) stBadDesc,
    need (psDeadline d == 0 || within (psDeadline d) 100 1000000) stBadDesc,
    need (psBudget d == 0 || within (psBudget d) 256 65536) stBadDesc,
    need (psArea d % 64 == 0) stBadDesc,
    need (psArea d == 0 || inWindows s c.fn (psArea d) 256) stDenied,
    need (!(psDelete d && old.isNone)) stOk,
    need (!(old.isSome && changes && (!(planHandles s p).isEmpty || namedElsewhere s c p))) stDenied,
    need (psDelete d || (maskBasins (BitVec.ofNat 10 (psMask d))).all fun b =>
      (basinPart s b == 0xF || basinPart s b == p) && !(s.basin b).withdrawn) stDenied]

/-- Granules that back a quota. -/
def granulesFor (quota : Nat) : Nat := ceilDiv quota Config.granuleBytes

/-- A 32-byte shortfall record (06 R129). -/
def shortfall (resource index holder asked available : Nat) : List Byte :=
  toLe 1 resource ++ toLe 1 index ++ [0, 0] ++ toLe 4 holder ++ toLe 8 asked ++ toLe 8 available ++ List.replicate 8 0

/-- Shortfall records in their 256-byte area (06 R128, R129). -/
def writeShortfalls (s : State) (area : Nat) (rs : List (List Byte)) : State :=
  if area = 0 then s else hostWrite s area (slice (rs.take 8).flatten 0 256)

/-- The owned bit of partition p in the functions: set in one, clear in the others. -/
def setOwner (s : State) (p : Nat) (owner : Option Nat) : State :=
  (List.range 64).foldl (fun s f =>
    let r := s.fn f
    let bit := BitVec.ofNat 10 (2 ^ p)
    let want := owner == some f
    if bitOf r.owned.toNat p == want then s
    else s.setFn f { r with owned := if want then r.owned ||| bit else r.owned &&& ~~~bit }) s

/-- Released basins: their Mere is wiped (15 R332). -/
def wipeBasins (s : State) (bs : List Nat) : State := bs.foldl (fun s b => onMere s b fun m => { m with stream := [] }) s

/-- The partition deleted: granules, basins and owner released. -/
def deletePartition (s : State) (p : Nat) (o : Partition) : State :=
  let s1 := wipeGranules (wipeBasins s (maskBasins o.mask)) o.extents
  setOwner { s1 with parts := Tab.del s1.parts p } p none

/-- PARTITION_SET (15 R331, R332). -/
def runPartitionSet (s : State) (c : Cmd) (env : Env) : State :=
  let d := c.desc
  let p := dPart d
  let o := partOr s p
  let t := chargeCmd s c env.charge
  match partitionStatus s c with
  | some st => finish s c st
  | none =>
    if psDelete d then finish (deletePartition t.1 p o) t.2 stOk
    else
      let quota := orKeep (psQuota d) o.quota
      let have' := (o.extents.map Prod.snd).sum
      let want := granulesFor quota
      let runs := freeRuns 0 (usedExtents s)
      let g := growExtents o.extents (want - have') runs
      if have' + g.2 < want then
        let avail := (have' + (growExtents o.extents Config.granules runs).2) * Config.granuleBytes
        finish (writeShortfalls s (psArea d) [shortfall 3 0 0 quota avail]) c stRefusedFit
      else
        let owner := if psOwner d = 0xFF then o.owner else psOwner d
        let mask : BitVec 10 := if psMask d = 0 then o.mask else BitVec.ofNat 10 (psMask d)
        let n : Partition := {
          owner := owner, mask := mask, deadlineUs := orKeep (psDeadline d) o.deadlineUs, quota := quota,
          weight := orKeep (psWeight d) o.weight, budget := orKeep (psBudget d) o.budget,
          extents := if want ≤ have' then keepGranules want o.extents else g.1 }
        let s1 := wipeBasins t.1 ((maskBasins o.mask).filter fun b => !bitOf mask.toNat b)
        let s2 := if want < have' then wipeGranules s1 (dropGranules want o.extents) else s1
        finish (setOwner { s2 with parts := Tab.put s2.parts p n } p (some owner)) t.2 stOk

/-- PARTITION_SET. -/
def execPartitionSet (f q : Nat) (env : Env) (s : State) : Host.Outcome State Fault Refusal :=
  .next (takeRow 0x00B0 f q env noEarly runPartitionSet s)

/-! SNAPSHOT (19 R414, R415). -/

/-- Section 0: of each function the ring registers, then the doorbell page's doorbells (log 49). -/
def snapRings (s : State) : List Byte :=
  (List.range 64).flatMap fun f =>
    slice ((List.range 256).flatMap (fun i => toLe 8 (readRing s f (8 * i)).toNat)
      ++ (List.range 64).flatMap (fun q => toLe 4 (s.sq f q).bell.toNat)
      ++ (List.range 64).flatMap fun q => toLe 4 (s.cq f q).bell.toNat) 0 4096

/-- Section 1: the request table. -/
def snapRequests (s : State) : List Byte :=
  slice (s.plans.flatMap fun e =>
    if hKind e.2.image = 1 then
      (List.range (fEntries e.2.image)).flatMap fun slot => match s.request e.2.part e.2.handle slot with
        | some r => requestBytes r
        | none => List.replicate 64 0
    else []) 0 16777216

/-- Section 3: the register image; CORE readback windows read as 0. -/
def snapRegisters (s : State) : List Byte :=
  (List.range 8388608).flatMap fun i =>
    let o := 8 * i
    let back := 0x1000000 ≤ o && o < 0x1BB8000 && 0x1000 ≤ o % 0x2000
    toLe 8 (if back then 0 else (regRead s 0 o).toNat)

/-- Section 5: CORE.MAP, OPT.STATUS and OPT.PEER in 4 bytes each, census states in one byte each (log 49). -/
def snapFences (s : State) : List Byte :=
  slice ((List.range 1500).flatMap (fun p => toLe 4 (readCore s p 0x008).toNat)
    ++ (List.range 16).flatMap (fun q => toLe 4 (readOpt s q 0x010).toNat ++ toLe 4 (readOpt s q 0x018).toNat)
    ++ (List.range 4096).map fun d => BitVec.ofNat 8 (Tab.get s.census.states d 0).toNat) 0 32768

/-- Section k; sections 2 and 4 hold structures whose bytes the spec does not lay out (log 19). -/
def snapSection (s : State) (k : Nat) : List Byte :=
  match k with
  | 0 => snapRings s
  | 1 => snapRequests s
  | 2 => (List.range 402653184).map fun i => Config.snapshotByte s.free 2 i
  | 3 => snapRegisters s
  | 4 => (List.range (Config.snapshotLength s.free)).map fun i => Config.snapshotByte s.free 4 i
  | _ => snapFences s

/-- Length of section k. -/
def snapLength (s : State) (k : Nat) : Nat :=
  match k with
  | 0 => 262144
  | 1 => 16777216
  | 2 => 402653184
  | 3 => 67108864
  | 4 => Config.snapshotLength s.free
  | _ => 32768

/-- The whole output of the sections chosen. -/
def snapshotBytes (s : State) (mask total : Nat) : List Byte :=
  slice (toLe 8 total ++ toLe 8 s.now ++ toLe 1 mask) 0 64
    ++ ((List.range 6).filter (bitOf mask)).flatMap fun k =>
      slice (slice (toLe 1 k) 0 8 ++ toLe 8 (snapLength s k) ++ toLe 8 s.now ++ toLe 8 s.now) 0 32 ++ snapSection s k

/-- SNAPSHOT (19 R414, R415). -/
def runSnapshot (s : State) (c : Cmd) (env : Env) : State :=
  let d := c.desc
  let mask := bitsOf (leAt d 32 1) 0 6
  let dst := leAt d 40 8
  let cap := leAt d 48 8
  let rep := leAt d 56 8
  let total := 64 + (((List.range 6).filter (bitOf mask)).map fun k => 32 + snapLength s k).sum
  let report := fun s : State => if rep != 0 && inWindows s c.fn rep 8 then hostWrite s rep (toLe 8 total) else s
  if mask = 0 then finish s c stOk
  else if dst % 64 != 0 then finish (report s) c stBadDesc
  else if !inWindows s c.fn dst (min cap total) || (rep != 0 && !inWindows s c.fn rep 8) then finish (report s) c stDenied
  else if cap < total then finish (report s) c stBadDesc
  else
    let t := chargeCmd s c env.charge
    finish (hostWrite (report t.1).drawFree dst (snapshotBytes s mask total)) t.2 stOk

/-- SNAPSHOT. -/
def execSnapshot (f q : Nat) (env : Env) (s : State) : Host.Outcome State Fault Refusal :=
  .next (takeRow 0x0091 f q env noEarly runSnapshot s)

end Sys2Proof.Machine
end

