-- ==== Sys2Proof/Machine/RegWrite.lean ====
section
/-! DEFINITION. Sys2Proof/Machine/RegWrite.lean: writes to register fields that have no row of their own (20 R423 to
R425, 00 R7 to R9), the latched reads (20 R424, 15 R345, 19 R413), the mailbox commands that touch no other unit
(20 R427), and the clearing of counters. -/

namespace Sys2Proof.Machine

/-- The half-read latch of f ends: f made another BAR0 access (20 R424). -/
def touch (s : State) (f : Nat) : State :=
  if (s.latch f).half.isNone then s else s.setLatch f { s.latch f with half := none }

/-- A field of w bits at lo as an access writes it. -/
def wField (acc : RegAcc) (v : Word64) (w lo : Nat) (old : BitVec w) : BitVec w := accField acc w lo old v

/-- A one-bit field as an access writes it. -/
def wBit (acc : RegAcc) (v : Word64) (lo : Nat) (old : Bool) : Bool :=
  if accCovers acc lo then bitOf v.toNat lo else old

/-- A write-one-to-clear bit after an access (00 R8). -/
def wClear (acc : RegAcc) (v : Word64) (lo : Nat) (old : Bool) : Bool :=
  if accCovers acc lo && bitOf v.toNat lo then false else old

/-- A ranged field: a value outside the range leaves the field; zero says whether 0 may be written, where it selects a
default (zeroSelects). -/
def wRange (acc : RegAcc) (v : Word64) (w lo : Nat) (old : BitVec w) (least most : Nat) (zero : Bool) : BitVec w :=
  let n := bitsOf v.toNat lo w
  if accCovers acc lo && ((zero && n == 0) || (least ≤ n && n ≤ most)) then BitVec.ofNat w n else old

/-! HIF, RING, EVT. -/

/-- A write to function g's HIF registers by the physical function (14 R307, R328). -/
def writeHifFn (s : State) (g o : Nat) (acc : RegAcc) (v : Word64) : State :=
  let r := s.fn g
  if o = 0x08 then
    let b := wField acc v 12 0 r.clientBase
    let n := wField acc v 13 16 r.clientCount
    if 4096 < b.toNat + n.toNat then s else s.setFn g { r with clientBase := b, clientCount := n }
  else if 0x20 ≤ o && o < 0x60 then
    let k := (o - 0x20) / 16
    if o % 16 = 0 then s.setFn g { r with winBase := r.winBase.set k (wField acc v 52 12 (r.winBase.getD k 0)) }
    else s.setFn g { r with winLimit := r.winLimit.set k (wField acc v 52 12 (r.winLimit.getD k 0)) }
  else s

/-- A write to an MSI-X table quadword; unmasking a vector that is pending sends it (14 R305, R316). -/
def writeMsix (s : State) (f q : Nat) (acc : RegAcc) (v : Word64) : State :=
  let w := accMerge acc (msixWord s f q) v
  let w' := if q % 2 = 1 then w &&& 0x1FFFFFFFF else w &&& 0xFFFFFFFFFFFFFFFC
  let s1 := { s with hif := { s.hif with msix := Tab.put s.hif.msix (msixKey f q) w' } }
  if s1.hif.pba.contains (f, q / 2) && !vectorMasked s1 f (q / 2) then
    raiseVector { s1 with hif := { s1.hif with pba := s1.hif.pba.erase (f, q / 2) } } f (q / 2)
  else s1

/-- A write to the HIF block by function f. -/
def writeHif (s : State) (f o : Nat) (acc : RegAcc) (v : Word64) : State :=
  if 0x8000 ≤ o && o < 0x8000 + 16 * vectorCount f then writeMsix s f ((o - 0x8000) / 8) acc v
  else if f = 0 && 0x1000 ≤ o && o < 0x5000 then writeHifFn s ((o - 0x1000) / 0x100) (o % 0x100) acc v
  else s

/-- A write of IRQ_EN, VECTOR and HOLDOFF to function f's RING.CQ_STATE (14 R316, R329): IRQ_EN stays where VECTOR is
above the function's table. -/
def writeCqState (s : State) (f q : Nat) (acc : RegAcc) (v : Word64) : State :=
  let r := s.cq f q
  let vec := wField acc v 11 34 r.vector
  let en := wBit acc v 33 r.irqEn
  s.setCq f q { r with vector := vec, holdoff := wField acc v 8 45 r.holdoff,
                       irqEn := if vectorCount f ≤ vec.toNat then r.irqEn else en }

/-- A write to function f's own ring registers; the configurations have rows of their own. -/
def writeRing (s : State) (f o : Nat) (acc : RegAcc) (v : Word64) : State :=
  if 0x400 ≤ o && o < 0x800 && o % 16 = 8 then writeCqState s f ((o - 0x400) / 16) acc v else s

/-- A write of IRQ_EN, VECTOR and HOLDOFF to function f's EVT.STATE (19 R421). -/
def writeEvtFn (s : State) (f o : Nat) (acc : RegAcc) (v : Word64) : State :=
  if o = 0x08 then
    let r := s.evtRing f
    let vec := wField acc v 11 34 r.vector
    let en := wBit acc v 33 r.irqEn
    s.setEvtRing f { r with vector := vec, holdoff := wField acc v 8 45 r.holdoff,
                            irqEn := if vectorCount f ≤ vec.toNat then r.irqEn else en }
  else s

/-- A write to the EVT block by function f. -/
def writeEvt (s : State) (f o : Nat) (acc : RegAcc) (v : Word64) : State :=
  if o < 0x100 then writeEvtFn s f o acc v
  else if f = 0 && o = 0x8000 then { s with evt := { s.evt with logSel := wField acc v 10 0 s.evt.logSel } }
  else s

/-! MGT, SEC, LCS. -/

/-- A write to the MGT block. GO with an opcode of the mailbox is one of the mailbox rows; with another opcode it
ends with RESULT 1 (20 R427). -/
def writeMgt (s : State) (o : Nat) (acc : RegAcc) (v : Word64) : State :=
  if o = 0x000 then
    let op := wField acc v 8 0 s.mgt.opcode
    if accCovers acc 8 && bitOf v.toNat 8 && (op == 0 || 4 < op.toNat) then
      { s with mgt := { s.mgt with opcode := op, done := true, result := 1 } }
    else { s with mgt := { s.mgt with opcode := op, done := wClear acc v 10 s.mgt.done } }
  else if o = 0x008 then { s with mgt := { s.mgt with arg0 := accMerge acc s.mgt.arg0 v } }
  else if o = 0x010 then { s with mgt := { s.mgt with arg1 := accMerge acc s.mgt.arg1 v } }
  else s

/-- A write to the SEC block; GO and CLEAR have rows of their own. -/
def writeSec (s : State) (o : Nat) (acc : RegAcc) (v : Word64) : State :=
  let r := s.sec
  if o = 0x020 then { s with sec := { r with recovLen := wField acc v 26 0 r.recovLen } }
  else if o = 0x028 then { s with sec := { r with recovMode := wBit acc v 1 r.recovMode, recovDone := wClear acc v 3 r.recovDone } }
  else if 0x100 ≤ o && o < 0x140 then
    let k := (o - 0x100) / 8
    { s with sec := { r with nonce := r.nonce.set k (accMerge acc (r.nonce.getD k 0) v) } }
  else if o = 0x140 then { s with sec := { r with attDst := accMerge acc r.attDst v } }
  else if o = 0x148 then { s with sec := { r with attKind := wBit acc v 1 r.attKind, attDone := wClear acc v 3 r.attDone } }
  else s

/-- A write to the LCS block. -/
def writeLcs (s : State) (o : Nat) (acc : RegAcc) (v : Word64) : State :=
  let r := s.sec
  if o = 0x008 then { s with sec := { r with lcTarget := wField acc v 3 0 r.lcTarget, lcDone := wClear acc v 5 r.lcDone } }
  else if o = 0x010 then { s with sec := { r with recordAddr := accMerge acc r.recordAddr v } }
  else if o = 0x018 then { s with sec := { r with slotSel := wField acc v 2 0 r.slotSel, slotDone := wClear acc v 5 r.slotDone } }
  else if 0x020 ≤ o && o < 0x040 then
    let k := (o - 0x020) / 8
    { s with sec := { r with slotHash := r.slotHash.set k (accMerge acc (r.slotHash.getD k 0) v) } }
  else s

/-! TEL, MTC, ACCT, SCHED. -/

/-- A write to the TEL block (17 R385). -/
def writeTel (s : State) (o : Nat) (acc : RegAcc) (v : Word64) : State :=
  let r := s.tel
  if o = 0x010 then { s with tel := { r with limitW := wRange acc v 12 0 r.limitW 500 3200 true } }
  else if o = 0x018 then { s with tel := { r with targetMv := wRange acc v 10 0 r.targetMv 680 800 true } }
  else if o = 0x020 then { s with tel := { r with throttleMv := wRange acc v 10 0 r.throttleMv 500 750 true } }
  else if o = 0x028 then
    { s with tel := { r with targetC := wRange acc v 8 0 r.targetC 70 105 false,
                             hbmTargetC := wRange acc v 8 8 r.hbmTargetC 70 95 false } }
  else if o = 0x060 then { s with tel := { r with railSel := wField acc v 4 0 r.railSel } }
  else s

/-- A write to the MTC block (12 R283). -/
def writeMtc (s : State) (o : Nat) (acc : RegAcc) (v : Word64) : State :=
  let r := s.mtc
  if o = 0x010 then { s with mtc := { r with unsync := wClear acc v 6 r.unsync } }
  else if o = 0x030 then { s with mtc := { r with syncPeriod := wRange acc v 16 0 r.syncPeriod 100 10000 true } }
  else if o = 0x040 then
    { s with mtc := { r with retrainMs := wRange acc v 16 0 r.retrainMs 10 2000 true,
                             collMs := wRange acc v 16 16 r.collMs 1 65535 true } }
  else if o = 0x048 then { s with mtc := { r with censusSel := wField acc v 12 0 r.censusSel } }
  else s

/-- A write to the ACCT block (15 R345). -/
def writeAcct (s : State) (o : Nat) (acc : RegAcc) (v : Word64) : State :=
  if o = 0x008 then { s with acct := { s.acct with sel := wField acc v 12 0 s.acct.sel } } else s

/-- A write to the SCHED block (15 R344). -/
def writeSched (s : State) (o : Nat) (acc : RegAcc) (v : Word64) : State :=
  if 0x8000 ≤ o && accCovers acc 0 then
    let n := bitsOf v.toNat 0 8
    { s with acct := { s.acct with
        weights := Tab.put s.acct.weights ((o - 0x8000) / 8) (BitVec.ofNat 8 n) } }
  else s

/-! OPT, HBM, FLS, WRK, MERE, NUM, ATT, RNG, CORE, BIST. -/

/-- A write to port q's registers (12 R284): ENABLE, RETRAIN and FENCE have rows of their own. -/
def writeOpt (s : State) (q o : Nat) (acc : RegAcc) (v : Word64) : State :=
  let r := s.port q
  if o = 0x008 then s.setPort q { r with loopback := wField acc v 2 3 r.loopback } else s

/-- A write to the traffic generator of channel c (08 R204): START and STOP have rows of their own. -/
def writeTg (s : State) (c o : Nat) (acc : RegAcc) (v : Word64) : State :=
  let r := s.tg c
  if o = 0x000 then
    s.setTg c { r with pattern := wField acc v 3 2 r.pattern, op := wField acc v 2 5 r.op,
                       continuous := wBit acc v 7 r.continuous,
                       share := wField acc v 8 8 r.share }
  else if o = 0x008 then
    s.setTg c { r with done := wClear acc v 1 r.done, miscompare := wClear acc v 2 r.miscompare, refused := wClear acc v 3 r.refused }
  else if o = 0x010 then
    s.setTg c { r with seed := wField acc v 31 0 r.seed }
  else if o = 0x018 then s.setTg c { r with first := wField acc v 26 0 r.first }
  else if o = 0x020 then s.setTg c { r with last := wField acc v 26 0 r.last }
  else if o = 0x028 then s.setTg c { r with loops := wField acc v 32 0 r.loops }
  else s

/-- A write to the HBM block (08 R204). -/
def writeHbm (s : State) (o : Nat) (acc : RegAcc) (v : Word64) : State :=
  let k := o / 0x10000
  let x := o % 0x10000
  if x = 0x010 then s.setStack k { s.stack k with patrolEn := wBit acc v 1 (s.stack k).patrolEn }
  else if 0x8000 ≤ x then writeTg s (k * 32 + (x - 0x8000) / 0x400) (x % 0x400) acc v
  else s

/-- A write to the FLS block (16 R365). -/
def writeFls (s : State) (o : Nat) (acc : RegAcc) (v : Word64) : State :=
  let r := s.fls
  if o = 0x000 then { s with fls := { r with patrolEn := wBit acc v 1 r.patrolEn } }
  else if o = 0x0C0 then { s with fls := { r with blkSel := wField acc v 29 0 r.blkSel } }
  else if 0x1000 ≤ o && o < 0x1400 && o % 16 = 0 then
    let f := (o - 0x1000) / 16
    { s with fls := { r with quotas := Tab.put r.quotas f (accMerge acc (Tab.get r.quotas f (BitVec.allOnes 64)) v) } }
  else s

/-- A write to basin b's WRK, MERE, NUM or ATT registers. -/
def writeWrk (s : State) (b o : Nat) (acc : RegAcc) (v : Word64) : State :=
  let r := s.basin b
  if o = 0x008 then
    s.setBasin b { r with wrk := { r.wrk with timeoutUs := wRange acc v 16 0 r.wrk.timeoutUs 20 10000 true } }
  else s

@[inherit_doc writeWrk]
def writeMere (s : State) (b o : Nat) (acc : RegAcc) (v : Word64) : State :=
  let r := s.basin b
  if o = 0x000 then s.setBasin b { r with mere := { r.mere with scrubEn := wBit acc v 1 r.mere.scrubEn } } else s

@[inherit_doc writeWrk]
def writeNum (s : State) (b o : Nat) (acc : RegAcc) (v : Word64) : State :=
  let r := s.basin b
  if o = 0x000 then
    s.setBasin b { r with num := { r.num with countEn := wBit acc v 0 r.num.countEn, freeze := wBit acc v 1 r.num.freeze } }
  else if o = 0x050 then
    s.setBasin b { r with num := { r.num with status := if accCovers acc 0 then r.num.status &&& ~~~ BitVec.ofNat 3 v.toNat else r.num.status } }
  else s

@[inherit_doc writeWrk]
def writeAtt (s : State) (b o : Nat) (acc : RegAcc) (v : Word64) : State :=
  let r := s.basin b
  if o = 0x078 then
    s.setBasin b { r with att := { r.att with reqHandle := wField acc v 32 0 r.att.reqHandle, reqSlot := wField acc v 18 32 r.att.reqSlot } }
  else s

/-- A write to the RNG block (09 R217): GO, CLEAR and RETEST have rows of their own. -/
def writeRng (s : State) (o : Nat) (acc : RegAcc) (v : Word64) : State :=
  let r := s.rng
  if o = 0x008 then { s with rng := { r with springFail := wClear acc v 2 r.springFail } }
  else if o = 0x040 then { s with rng := { r with ltKey0 := accMerge acc r.ltKey0 v } }
  else if o = 0x048 then { s with rng := { r with ltKey1 := accMerge acc r.ltKey1 v } }
  else if o = 0x050 then { s with rng := { r with ltIndex := accMerge acc r.ltIndex v } }
  else if o = 0x058 then { s with rng := { r with ltDraw := wField acc v 32 0 r.ltDraw, ltStream := wField acc v 32 32 r.ltStream } }
  else if o = 0x060 then
    { s with rng := { r with ltCore := wField acc v 11 0 r.ltCore, ltLane := wField acc v 8 11 r.ltLane, ltDone := wClear acc v 20 r.ltDone } }
  else s

/-- A write to core p's registers (19 R412): QUIESCE has a row of its own. -/
def writeCore (s : State) (p o : Nat) (acc : RegAcc) (v : Word64) : State :=
  let c := s.core p
  if o = 0x1000 then s.setCore p { c with rbSpace := wField acc v 3 0 c.rbSpace, rbPage := wField acc v 9 32 c.rbPage } else s

/-- A write to the BIST block (19 R420): GO has a row of its own. -/
def writeBist (s : State) (o : Nat) (acc : RegAcc) (v : Word64) : State :=
  let r := s.bist
  if o = 0x000 then
    { s with bist := { r with kind := wField acc v 2 1 r.kind, depth := wBit acc v 3 r.depth, done := wClear acc v 5 r.done,
                              first := wField acc v 16 32 r.first, count := wField acc v 16 48 r.count } }
  else if o = 0x008 then { s with bist := { r with resSel := wField acc v 16 0 r.resSel } }
  else if o = 0x040 then { s with bist := { r with memBasin := wField acc v 4 0 r.memBasin, memAddr := wField acc v 24 6 r.memAddr } }
  else s

/-! The map. -/

/-- A write to a register of a basin, or of a stack, port or engine that sits in it (01 R16), acts unless the basin is
withdrawn (20 R425, log 38). -/
def inBasin (s : State) (b : Nat) (t : State) : State := if (s.basin b).withdrawn then s else t

/-- A write to the blocks that also act in state FAILED (20 R425). -/
def writeAlways (s : State) (o : Nat) (acc : RegAcc) (v : Word64) : Option State :=
  if o < 0x10000 then some s
  else if o < 0x20000 then some (writeHif s 0 (o - 0x10000) acc v)
  else if o < 0x20800 then some (writeRing s 0 (o - 0x20000) acc v)
  else if o < 0x40000 then some s
  else if o < 0x50000 then some (writeMgt s (o - 0x40000) acc v)
  else if o < 0x60000 then some (writeSec s (o - 0x50000) acc v)
  else if o < 0x70000 then some (writeLcs s (o - 0x60000) acc v)
  else if o < 0x80000 then some (writeTel s (o - 0x70000) acc v)
  else if 0x90000 ≤ o && o < 0xA0000 then some (writeEvt s 0 (o - 0x90000) acc v)
  else if 0xA0000 ≤ o && o < 0xB0000 then some (writeAcct s (o - 0xA0000) acc v)
  else none

/-- A write to the other blocks. -/
def writeUnit (s : State) (o : Nat) (acc : RegAcc) (v : Word64) : State :=
  if 0x80000 ≤ o && o < 0x90000 then writeMtc s (o - 0x80000) acc v
  else if 0xB0000 ≤ o && o < 0xC0000 then writeSched s (o - 0xB0000) acc v
  else if 0x100000 ≤ o && o < 0x110000 then
    inBasin s ((o - 0x100000) / 0x2000 + 1) (writeOpt s ((o - 0x100000) / 0x1000) (o % 0x1000) acc v)
  else if 0x200000 ≤ o && o < 0x340000 then
    inBasin s ((o - 0x200000) / 0x20000) (writeHbm s (o - 0x200000) acc v)
  else if 0x400000 ≤ o && o < 0x410000 then writeFls s (o - 0x400000) acc v
  else if 0x680000 ≤ o && o < 0x681000 then writeRng s (o - 0x680000) acc v
  else if 0x700000 ≤ o && o < 0x70A000 then
    inBasin s ((o - 0x700000) / 0x1000) (writeWrk s ((o - 0x700000) / 0x1000) (o % 0x1000) acc v)
  else if 0x800000 ≤ o && o < 0x8A0000 then
    inBasin s ((o - 0x800000) / 0x10000) (writeMere s ((o - 0x800000) / 0x10000) (o % 0x10000) acc v)
  else if 0x1000000 ≤ o && o < 0x1BB8000 then
    inBasin s (coreBasin ((o - 0x1000000) / 0x2000)) (writeCore s ((o - 0x1000000) / 0x2000) (o % 0x2000) acc v)
  else if 0x2000000 ≤ o && o < 0x2001000 then writeBist s (o - 0x2000000) acc v
  else if 0x2100000 ≤ o && o < 0x210A000 then
    inBasin s ((o - 0x2100000) / 0x1000) (writeNum s ((o - 0x2100000) / 0x1000) (o % 0x1000) acc v)
  else if 0x2200000 ≤ o && o < 0x220A000 then
    inBasin s ((o - 0x2200000) / 0x1000) (writeAtt s ((o - 0x2200000) / 0x1000) (o % 0x1000) acc v)
  else s

/-- The bytes of an access, from its first address (20 R423). -/
def accBytes (o : Nat) (acc : RegAcc) (v : Word64) : Nat × List Byte :=
  match acc with
  | .full => (o, toLe 8 v.toNat)
  | .lo => (o, toLe 4 v.toNat)
  | .hi => (o + 4, toLe 4 (v.toNat / 2 ^ 32))

/-- Offsets from here on stand for the physical function's BAR4 window (18 R391, log 24). -/
def bar4 : Nat := 0x4000000

/-- A write to the BAR4 recovery window (18 R391). -/
def writeWindow (s : State) (o : Nat) (acc : RegAcc) (v : Word64) : State :=
  if o < 0x2000000 then
    { s with sec := { s.sec with window := Mem.writeN s.sec.window (accBytes o acc v).1 (accBytes o acc v).2 } }
  else s

/-- A write by function f to the register at offset o (20 R425, 14 R304 to R307). -/
def regWrite (s : State) (f o : Nat) (acc : RegAcc) (v : Word64) : State :=
  if f = 0 then
    if bar4 ≤ o then writeWindow s (o - bar4) acc v
    else match writeAlways s o acc v with
      | some t => t
      | none => if s.run.failed then s else writeUnit s o acc v
  else if 0x18000 ≤ o && o < 0x20000 then writeHif s f (o - 0x10000) acc v
  else if 0x20000 ≤ o && o < 0x20800 then writeRing s f (o - 0x20000) acc v
  else if 0x90000 ≤ o && o < 0x90100 then writeEvt s f (o - 0x90000) acc v
  else s

/-- REGISTER_WRITE (20 R425): offsets that are not a multiple of 8 name no register. -/
def execRegisterWrite (f off : Nat) (acc : RegAcc) (v : Word64) (s : State) : Host.Outcome State Fault Refusal :=
  .next (if reaches s f && off % 8 == 0 then regWrite (touch s f) f off acc v else s)

/-! Latched reads. -/

/-- ACCT.DATA0 and BIST.MEM_DATA0 in the physical function's map. -/
def acctData0 : Nat := 0xA0040
@[inherit_doc acctData0]
def memData0 : Nat := 0x2000080

/-- The selected account's record is latched for function f (15 R345). -/
def latchAcct (s : State) (f : Nat) : State :=
  if f = 0 then s.setLatch f { s.latch f with acct := some (accountBytes s s.acct.sel.toNat) } else s

/-- ACCT_DATA_READ (15 R345): only the physical function's view holds ACCT (20 R422). -/
def execAcctDataRead (f : Nat) (s : State) : Host.Outcome State Fault Refusal :=
  .next (if reaches s f then latchAcct (touch s f) f else s)

/-- What lies at a Mere address reads zero: the region it is in holds nothing since the last wipe (08 R180, 17 R379). -/
def mereEmpty (s : State) (b a : Nat) : Bool :=
  s.run.stage2 &&
    (if a < 0x3C000000 then heldIn s b == 0 && (s.basin b).mere.stream.isEmpty
     else if a < 0x3E800000 then s.nodes.all fun n => sliceOf n.key != b
     else if a < 0x3EA00000 then (Tab.vals s.requests).all fun r => entryBasin r.part r.plan r.slot != b
     else false)

/-- The 64 bytes of Mere that BIST.MEM_SEL selects (19 R413). -/
def mereWord (s : State) : List Byte :=
  let b := s.bist.memBasin.toNat
  let a := s.bist.memAddr.toNat * 64
  if 10 ≤ b then List.replicate 64 0
  else (List.range 64).map fun i => if mereEmpty s b a then 0 else Config.mereByte s.free b (a + i)

/-- BIST.MEM_DATA0 read by function f: 64 bytes taken whole and latched (19 R413). -/
def latchMem (s : State) (f : Nat) (ue : Bool) : State :=
  if f = 0 then
    let s1 := s.setLatch f { s.latch f with mem := some (mereWord s) }
    { s1 with bist := { s1.bist with memUe := ue }, free := s1.free + 1 }
  else s

/-- BIST_MEM_READ (19 R413). -/
def execBistMemRead (f : Nat) (ue : Bool) (s : State) : Host.Outcome State Fault Refusal :=
  .next (if reaches s f then latchMem (touch s f) f ue else s)

/-- HALF_READ_LATCH (20 R424): a read of bits [31:0] latches bits [63:32] of the same register, and the latches of
ACCT.DATA0 and BIST.MEM_DATA0 apply in addition. -/
def execHalfReadLatch (f off : Nat) (s : State) : Host.Outcome State Fault Refusal :=
  .next (
    if reaches s f && off % 8 == 0 then
      let s1 := if off = acctData0 then latchAcct s f else if off = memData0 then latchMem s f s.bist.memUe else s
      let high := BitVec.ofNat 32 ((regRead s1 f off).toNat / 2 ^ 32)
      s1.setLatch f { s1.latch f with half := some (off, high) }
    else s)

/-! Counters cleared (the CLEAR bits; the registers read 1 until done, which is at once in this model). -/

/-- NUM_CLEAR (03 R73): every counter and NUM.ERR_MAX of basin b. -/
def execNumClear (b : Nat) (s : State) : Host.Outcome State Fault Refusal :=
  .next (onBasin s b fun r => { r with num := { r.num with
    checked := 0, mismatch := 0, overs := 0, escalated := 0, spillDynamic := 0, spillOverflow := 0, nonfinite := 0,
    errMax := 0 } })

/-- RSM_CLEAR (04 R102). -/
def execRsmClear (b : Nat) (s : State) : Host.Outcome State Fault Refusal :=
  .next (onBasin s b fun r => { r with rsm := { r.rsm with boxes := 0, badBoxes := 0, values := 0, commands := 0 } })

/-- SFU_CLEAR (05 R122). -/
def execSfuClear (b : Nat) (s : State) : Host.Outcome State Fault Refusal :=
  .next (onBasin s b fun r => { r with sfu := { r.sfu with results := 0, flushed := 0, nonfinite := 0, loads := 0 } })

/-- WRK_CLEAR (06 R144): the counters FETCHES, COMMITS, DUP_COMMITS and REISSUED. -/
def execWrkClear (b : Nat) (s : State) : Host.Outcome State Fault Refusal :=
  .next (onBasin s b fun r => { r with wrk := { r.wrk with fetches := 0, commits := 0, dupCommits := 0, reissued := 0 } })

/-- ATT_CLEAR (07 R178). -/
def execAttClear (b : Nat) (s : State) : Host.Outcome State Fault Refusal :=
  .next (onBasin s b fun r => { r with att := { r.att with
    lookups := 0, hits := 0, inserts := 0, evicts := 0, collisions := 0, insertFull := 0, parks := 0 } })

/-- MERE_CLEAR (08 R203). -/
def execMereClear (b : Nat) (s : State) : Host.Outcome State Fault Refusal :=
  .next (onBasin s b fun r => { r with mere := { r.mere with
    readBytes := 0, writeBytes := 0, hits := 0, misses := 0, merges := 0, ce := 0, ue := 0, passes := 0 } })

/-- UPD_CLEAR (10 R230). -/
def execUpdClear (b : Nat) (s : State) : Host.Outcome State Fault Refusal :=
  .next (onBasin s b fun r => { r with upd := { r.upd with elements := 0, ops := 0, clipped := 0, skipped := 0 } })

/-- CDC_CLEAR (11 R259); engine c sits on base die c + 6. -/
def execCdcClear (c : Nat) (s : State) : Host.Outcome State Fault Refusal :=
  .next (
    if writable s && c < 4 && !(s.basin (c + 6)).withdrawn then
      s.setCodec c { s.codec c with
        framesEnc := 0, framesDec := 0, bytesOut := 0, bytesIn := 0, rowsRecoded := 0, rowsSkipped := 0,
        picsDamaged := 0, blocksConcealed := 0, clamped := 0, hintsIgnored := 0, unsupported := 0, bounds := 0 }
    else s)

/-- HIF_CLEAR (14 R328): every HIF counter, of every function; it acts in FAILED too (20 R425). -/
def execHifClear (s : State) : Host.Outcome State Fault Refusal :=
  .next (
    if staged s then
      { s with hif := { s.hif with rdBytes := 0, wrBytes := 0, hostRdErr := 0, p2pReject := 0,
                                   fns := Tab.map s.hif.fns fun r => { r with cmds := 0, badDesc := 0 } } }
    else s)

/-- SCHED_CLEAR (15 R344). -/
def execSchedClear (s : State) : Host.Outcome State Fault Refusal :=
  .next (
    if writable s then
      { s with runs := Tab.map s.runs fun r => { r with
          steps := 0, decodeTokens := 0, prefillTokens := 0, lastStepNs := 0, switches := 0, lastSwitchNs := 0 } }
    else s)

/-- ACCT_CLEAR_ALL (15 R345): every account and ACCT.UNATTR_UJ; it acts in FAILED too. -/
def execAcctClearAll (s : State) : Host.Outcome State Fault Refusal :=
  .next (if staged s then { s with acct := { s.acct with accounts := [], unattrUj := 0 } } else s)

/-- FLS_CLEAR (16 R365): the counters not taken from the medium. -/
def execFlsClear (s : State) : Host.Outcome State Fault Refusal :=
  .next (
    if writable s then
      { s with fls := { s.fls with readBytes := 0, writeBytes := 0, cwCorrected := 0, retryReads := 0,
                                   softDecodes := 0, ue := 0, refreshed := 0, patrol := 0 } }
    else s)

/-- The TEL time counters are zeroed (17 R385). -/
def telClear (s : State) : State := { s with tel := { s.tel with capNs := 0, thermNs := 0, throttleNs := 0 } }

/-- TEL_CLEAR (17 R385); it acts in FAILED too. -/
def execTelClear (s : State) : Host.Outcome State Fault Refusal := .next (if staged s then telClear s else s)

/-- SEC_CLEAR (18 R402); it acts in FAILED too. -/
def execSecClear (s : State) : Host.Outcome State Fault Refusal :=
  .next (if staged s then { s with sec := { s.sec with recovFails := 0, reports := 0 } } else s)

/-- RNG_CLEAR (09 R217). -/
def execRngClear (s : State) : Host.Outcome State Fault Refusal :=
  .next (
    if writable s then
      { s with rng := { s.rng with rawBits := 0, rctFails := 0, aptFails := 0, seeds := 0, reseeds := 0 } }
    else s)

/-! The management mailbox, where it reads and writes registers (20 R427). -/

/-- A mailbox command ends: by register, DONE and RESULT are set and RESP0 where there is a response; over MCTP the
answer goes back on the bus. -/
def mbAnswer (s : State) (path : MbPath) (result : Nat) (resp : Option Word64) : State :=
  match path with
  | .regs =>
    { s with mgt := { s.mgt with done := true, result := BitVec.ofNat 3 result, resp0 := resp.getD s.mgt.resp0 } }
  | .mctp _ _ =>
    { s with mgt := { s.mgt with mctpResult := BitVec.ofNat 3 result,
                                 mctpResp := match resp with | some w => toLe 8 w.toNat | none => s.mgt.mctpResp } }

/-- The arguments of a mailbox command. -/
def mbArgs (s : State) (path : MbPath) : Word64 × Word64 :=
  match path with
  | .regs => (s.mgt.arg0, s.mgt.arg1)
  | .mctp a b => (a, b)

/-- The register path notes the opcode it runs. -/
def mbOpcode (s : State) (path : MbPath) (o : Nat) : State :=
  match path with
  | .regs => { s with mgt := { s.mgt with opcode := BitVec.ofNat 8 o } }
  | .mctp _ _ => s

/-- MB_READ (20 R427): 8 bytes of BAR0; an offset that is no multiple of 8 or lies beyond BAR0 is out of range. -/
def execMbRead (path : MbPath) (s : State) : Host.Outcome State Fault Refusal :=
  .next (
    if staged s then
      let s1 := mbOpcode s path 1
      let a := (mbArgs s path).1.toNat
      if a % 8 != 0 || 0x4000000 ≤ a then mbAnswer s1 path 2 none
      else mbAnswer s1 path 0 (some (regRead s 0 a))
    else s)

/-- The mailbox may write this offset: TEL and HBM registers (20 R427). -/
def mbWritable (a : Nat) : Bool := (0x70000 ≤ a && a < 0x80000) || (0x200000 ≤ a && a < 0x340000)

/-- MB_VERSIONS (20 R427): the boot ROM's version and the running firmware's svn. -/
def execMbVersions (path : MbPath) (s : State) : Host.Outcome State Fault Refusal :=
  .next (
    if staged s then
      mbAnswer (mbOpcode s path 4) path 0
        (some (BitVec.ofNat 64 (Config.bootRomVersion.toNat + s.sec.svn.toNat * 65536)))
    else s)

end Sys2Proof.Machine
end

