-- ==== Sys2Proof/Machine/Random.lean ====
section
/-! DEFINITION. Sys2Proof/Machine/Random.lean: the lane function (09 R210 to R212), Spring and its health tests
(R205 to R207), the seeding generator (R208, R209), and the RNG rows of R217. -/

namespace Sys2Proof.Machine

/-! The lane function (09 R210). -/

/-- Round constants c[r]. -/
def laneConstants : List (Word64 × Nat) :=
  [(0x243F6A8885A308D3, 12), (0x13198A2E03707344, 28), (0xA4093822299F31D0, 44), (0x082EFA98EC4E6C89, 20),
   (0x452821E638D01377, 36), (0xBE5466CF34E90C6C, 8), (0xC0AC29B7C97C50DD, 52), (0x3F84D5B5B5470917, 16),
   (0x9216D5D98979FB1B, 40), (0xD1310BA698DFB5AC, 24)]

/-- Rounds of the lane function from round r on. -/
def laneRounds (k0 k1 : Word64) : Nat → List (Word64 × Nat) → Word64 × Word64 → Word64 × Word64
  | _, [], ab => ab
  | r, (c, n) :: t, (a, b) =>
    let a1 := (a + b) ^^^ c
    let b1 := b.rotateLeft n ^^^ a1
    laneRounds k0 k1 (r + 1) t (if r = 4 then (a1 ^^^ k1, b1 ^^^ k0) else (a1, b1))

/-- lane(key, index, stream, draw) (09 R210): 128 bits, b above a. -/
def lane (k0 k1 index : Word64) (stream draw : Word32) : BitVec 128 :=
  let r := laneRounds k0 k1 0 laneConstants (index ^^^ k0, (stream ++ draw) ^^^ k1)
  r.2 ++ r.1

/-- The key of a seed (09 R211). -/
def seedKey (seed : Word64) : BitVec 128 := lane 0 0 seed 0xFFFFFFFF 0

/-- A draw under the key of a seed. -/
def seedDraw (seed index : Word64) (stream draw : Word32) : BitVec 128 :=
  let k := seedKey seed
  lane (k.extractLsb' 0 64) (k.extractLsb' 64 64) index stream draw

/-- The top n bits of a draw (09 R211). -/
def topBits (d : BitVec 128) (n : Nat) : Nat := d.toNat / 2 ^ (128 - n)

/-! Spring (09 R205 to R207). -/

/-- Bits packed into bytes, the first bit in bit 0 of byte 0 (log 26). -/
def packBits : Nat → List Bool → List Byte
  | 0, _ => []
  | n + 1, bs => BitVec.ofNat 8 (packFields ((List.range 8).map fun i => (i, b2n (bs.getD i false)))) :: packBits n (bs.drop 8)

/-- A health test's outcome over a run of bits: the state of the repetition count carried on, and the first failure:
(position, 1 repetition count, 2 adaptive proportion). -/
structure Health where
  lastBit : Bool
  runLen : Nat
  fail : Option (Nat × Nat)
  deriving DecidableEq, Repr

/-- The tests over one window of bits whose first bit is f; i numbers the bits, n counts recurrences of f (R206). -/
def healthBits (f : Bool) : List Bool → Nat → Nat → Bool → Nat → Health
  | [], _, _, last, run => ⟨last, run, none⟩
  | b :: bs, i, n, last, run =>
    let run' := if b == last then run + 1 else 1
    let n' := if b == f then n + 1 else n
    if 41 ≤ run' then ⟨b, run', some (i, 1)⟩
    else if 796 ≤ n' then ⟨b, run', some (i, 2)⟩
    else healthBits f bs (i + 1) n' b run'

/-- The tests over windows of 1,024 bits. -/
def healthWindows : Nat → List Bool → Bool → Nat → Health
  | 0, _, last, run => ⟨last, run, none⟩
  | k + 1, bs, last, run =>
    let h := healthBits (bs.headD false) (bs.take 1024) 0 0 last run
    match h.fail with
    | some _ => h
    | none => if bs.length ≤ 1024 then h else healthWindows k (bs.drop 1024) h.lastBit h.runLen

/-- The health tests over raw bits after what Spring has seen. -/
def health (r : Rng) (raw : List Bool) : Health := healthWindows (raw.length / 1024 + 1) raw r.lastBit r.runLen

/-- A test failed: output stops, the test is recorded, the event raised (09 R207). -/
def springFails (s : State) (test : Nat) (kind : Nat) : State :=
  let r := s.rng
  raiseEvent { s with rng := { r with
      springOk := false, springFail := true, failTest := BitVec.ofNat 2 test, failedAt := some s.now, runLen := 0,
      rctFails := if kind = 1 then satAdd r.rctFails 1 else r.rctFails,
      aptFails := if kind = 2 then satAdd r.aptFails 1 else r.aptFails } }
    evSpringFail srcSec 0xF (toLe 1 test)

/-- The start-up test over 4,096 raw bits (09 R206). Fewer bits without a failure do not end it. -/
def startUp (s : State) (bits : List Bool) : State :=
  let r0 := s.rng
  let raw := bits.take 4096
  let s1 := { s with rng := { r0 with rawBits := satAdd r0.rawBits raw.length, runLen := 0 } }
  let h := health s1.rng raw
  match h.fail with
  | some (_, k) => springFails s1 3 k
  | none =>
    if raw.length < 4096 then { s1 with rng := { s1.rng with lastBit := h.lastBit, runLen := h.runLen } }
    else { s1 with rng := { s1.rng with springOk := true, failedAt := none, lastBit := h.lastBit, runLen := h.runLen } }

/-- A block of 2,048 raw bits: tested, then conditioned into 512 bits of output (09 R205, R206). -/
def springBlock (s : State) (raw : List Bool) : State :=
  if s.rng.springOk && raw.length == 2048 then
    let s1 := { s with rng := { s.rng with rawBits := satAdd s.rng.rawBits raw.length } }
    let h := health s1.rng raw
    match h.fail with
    | some (_, k) =>
      let s2 := springFails s1 k k
      { s2 with rng := { s2.rng with attempts := 0 } }
    | none =>
      { s1 with rng := { s1.rng with lastBit := h.lastBit, runLen := h.runLen,
                                     pool := s1.rng.pool ++ sha3_512 (packBits 256 raw) } }
  else s

/-- SPRING_BLOCK (09 R205). -/
def execSpringBlock (raw : List Bool) (s : State) : Host.Outcome State Fault Refusal :=
  .next (if staged s then springBlock s raw else s)

/-- SPRING_RETRY (09 R207): 1 ms after a failure the start-up test runs again, up to three times. -/
def execSpringRetry (raw : List Bool) (s : State) : Host.Outcome State Fault Refusal :=
  .next (
    match s.rng.failedAt with
    | some t =>
      if staged s && t + 1000000 ≤ s.now && s.rng.attempts.toNat < 3 then
        startUp { s with rng := { s.rng with attempts := s.rng.attempts + 1 } } raw
      else s
    | none => s)

/-- RNG_RETEST (09 R207): the start-up test afresh. -/
def execRngRetest (raw : List Bool) (s : State) : Host.Outcome State Fault Refusal :=
  .next (if writable s then startUp { s with rng := { s.rng with attempts := 0 } } raw else s)

/-! The seeding generator (09 R208): Hash_DRBG of SP 800-90A with SHA3-512. -/

/-- Bytes as a number, the first byte highest, as SP 800-90A adds bit strings. -/
def beNat (bs : List Byte) : Nat := leNat bs.reverse

/-- n bytes of a number, the highest first. -/
def toBe (n v : Nat) : List Byte := (toLe n v).reverse

/-- Hash_df to the 111 bytes of seedlen. -/
def hashDf (m : List Byte) : List Byte :=
  (sha3_512 ([1] ++ toBe 4 888 ++ m) ++ sha3_512 ([2] ++ toBe 4 888 ++ m)).take 111

/-- The generator seeded from seed material. -/
def drbgSeed (r : Rng) (material : List Byte) : Rng :=
  let v := hashDf material
  { r with v := v, c := hashDf ([0] ++ v), reseedCount := 1 }

/-- n bytes of Spring output: from the pool, the missing ones free values. -/
def takeSpring (s : State) (n : Nat) : List Byte × State :=
  let have' := s.rng.pool.take n
  let miss := (List.range (n - have'.length)).map fun i => Config.springByte s.free i
  (have' ++ miss, { s with free := s.free + 1, rng := { s.rng with pool := s.rng.pool.drop n } })

/-- Instantiate the generator (09 R208): 512 bits of entropy, 256 of nonce, the serial as personalisation. -/
def drbgInstantiate (s : State) : State :=
  let t := takeSpring s 96
  { t.2 with rng := { drbgSeed t.2.rng (t.1 ++ s.fuses.serial) with instantiated := true, requests := 0 } }

/-- Reseed with 512 bits of Spring output (09 R208). -/
def drbgReseed (s : State) : State :=
  let t := takeSpring s 64
  { t.2 with rng := { drbgSeed t.2.rng ([1] ++ s.rng.v ++ t.1) with reseeds := satAdd t.2.rng.reseeds 1 } }

/-- One generate request of n bytes, at most 64. -/
def drbgGenerate (r : Rng) (n : Nat) : List Byte × Rng :=
  let out := (sha3_512 r.v).take n
  let v' := (beNat r.v + beNat (sha3_512 ([3] ++ r.v)) + beNat r.c + r.reseedCount) % 2 ^ 888
  (out, { r with v := toBe 111 v', reseedCount := r.reseedCount + 1, requests := r.requests + 1 })

/-- n bytes from the generator; none where it is not instantiated, or a reseed is due and Spring has failed (R209). -/
def drbgBytes (s : State) (n : Nat) : Option (List Byte × State) :=
  if !drbgReady s.rng then none
  else
    let s1 := if reseedDue s.rng then drbgReseed s else s
    let g := drbgGenerate s1.rng n
    some (g.1, { s1 with rng := g.2 })

/-- A seed (09 R209): a result of 0 is discarded and drawn again. Fuel bounds the draws (log 175). -/
def drawSeedN : Nat → State → Option (Word64 × State)
  | 0, _ => none
  | k + 1, s =>
    match drbgBytes s 8 with
    | none => none
    | some (bs, s1) =>
      if allZero bs then drawSeedN k s1
      else some (BitVec.ofNat 64 (leNat bs), { s1 with rng := { s1.rng with seeds := satAdd s1.rng.seeds 1 } })

/-- A seed for a command that gives none (09 R209). -/
def drawSeed (s : State) : Option (Word64 × State) := drawSeedN (2 ^ 64) s

/-- The lane test of 09 R217: the register write that holds GO also sets CORE and LANE. -/
def laneTest (v : Word64) (s : State) : State :=
  let r := s.rng
  let c := bitsOf v.toNat 0 11
  let r1 := { r with ltCore := BitVec.ofNat 11 c, ltLane := BitVec.ofNat 8 (bitsOf v.toNat 11 8) }
  if ltBadCore s c then { s with rng := { r1 with ltDone := r.ltDone && !bitOf v.toNat 20 } }
  else
    let d := lane r.ltKey0 r.ltKey1 r.ltIndex r.ltStream r.ltDraw
    { s with rng := { r1 with ltDone := true, ltOut0 := d.extractLsb' 0 64, ltOut1 := d.extractLsb' 64 64 } }

/-- LANE_TEST (09 R217). -/
def execLaneTest (v : Word64) (s : State) : Host.Outcome State Fault Refusal :=
  .next (if writable s then laneTest v s else s)

end Sys2Proof.Machine
end

