-- ==== Sys2Proof/Machine/Reset.lean ====
section
/-! DEFINITION. Sys2Proof/Machine/Reset.lean: resets and what they keep (17 R376 to R379), function-level reset (14 R308),
the reset pins (21 R434), PCIe configuration writes (14 R302), power, throttle and temperature (17 R380 to R384),
SYSREF (21 R436), and the JTAG instructions that take and release the pins (19 R410). -/

namespace Sys2Proof.Machine

/-! What resets keep. -/

/-- A pending write that a reset interrupts leaves no trace but the mark of a lost append (16 R352). -/
def dropStoreOp (m : Medium) (o : StoreOp) : Medium :=
  match Tab.find m.objects o.object with
  | some b =>
    if o.create then m
    else if !b.isSealed && !o.bytes.isEmpty then { m with objects := Tab.put m.objects o.object { b with recovered := true } }
    else m
  | none => m

/-- Objects still being written are deleted (16 R358). -/
def dropInvisible (m : Medium) : Medium := { m with objects := m.objects.filter fun e => e.2.visible }

/-- The medium as it stands when every write in progress is interrupted. -/
def settleMedium (s : State) : Medium := dropInvisible (s.fls.pending.foldl dropStoreOp s.medium)

/-- Everything a cold reset clears is at its reset value; fuses, the flash medium, the host's memory, JTAG, THROTTLE_N
and the model's own counters stay (17 R376). -/
def coldState (s : State) : State :=
  { pending := s.pending, free := s.free, nextId := s.nextId, host := s.host, medium := settleMedium s,
    fuses := s.fuses, jtag := s.jtag, run := { throttleIn := s.run.throttleIn } }

/-- Cold reset: the device is held until RESET_RELEASE (21 R434). -/
def coldHold (s : State) (cause : BitVec 3) (pwrGood perst : Bool) : State :=
  let c := coldState s
  { c with run := { c.run with lastCause := cause, pwrGood := pwrGood, perst := perst } }

/-- HBM.STATUS of the stacks, which a warm reset leaves (08 R204). -/
def keepStacks (t : Tab Stack) : Tab Stack :=
  Tab.map t fun k => { trained := k.trained, inService := k.inService, failed := k.failed, failCause := k.failCause,
                       failChannel := k.failChannel }

/-- Warm reset: everything but straps, HBM.STATUS and FAILED; the start runs from step 1 (17 R376, R377). It means
nothing while the device is held or off (17 R378). -/
def warmReset (s : State) (cause : BitVec 3) : State :=
  if alive s then
    let c := coldState s
    { c with hbmStacks := keepStacks s.hbmStacks
             run := { c.run with phase := .boot, lastCause := cause, pwrGood := s.run.pwrGood, perst := s.run.perst,
                                 straps := s.run.straps, warmStart := true, failed := s.run.failed } }
  else s

/-! Triggers (17 R376, 21 R434). -/

/-- PCIE_HOT_RESET (17 R376). -/
def execPcieHotReset (s : State) : Host.Outcome State Fault Refusal :=
  .next (if s.run.pcieUp then warmReset s 2 else s)

/-- PCIE_LINK_LOSS, also of its reference clock (17 R376, 21 R436). -/
def execPcieLinkLoss (s : State) : Host.Outcome State Fault Refusal :=
  .next (if s.run.pcieUp then warmReset s 3 else s)

/-- TEL_WARM_RESET (17 R376, R385). -/
def execTelWarmReset (s : State) : Host.Outcome State Fault Refusal :=
  .next (if staged s then warmReset s 4 else s)

/-- PERST_N_ASSERT (21 R434). -/
def execPerstNAssert (s : State) : Host.Outcome State Fault Refusal := .next (coldHold s 1 s.run.pwrGood true)

/-- PWR_GOOD_FALL (21 R434): a pulse shorter than 1 µs is ignored. -/
def execPwrGoodFall (ns : Nat) (s : State) : Host.Outcome State Fault Refusal :=
  .next (if 1000 ≤ ns then coldHold s 0 false s.run.perst else s)

/-- RESET_RELEASE (21 R434, 17 R373 step 1): the staged start begins and the MTC runs from 0. -/
def execResetRelease (s : State) : Host.Outcome State Fault Refusal :=
  .next (
    match s.run.phase with
    | .held => { s with run := { s.run with phase := .boot, pwrGood := true, perst := false } }
    | .off =>
      let c := coldHold s 0 true false
      { c with run := { c.run with phase := .boot } }
    | _ => s)

/-- STAGE0_COMPLETE (17 R373 step 2): straps are captured in a cold reset only (21 R433); the link is up. -/
def execStage0Complete (straps speed width : Nat) (flit : Bool) (s : State) : Host.Outcome State Fault Refusal :=
  .next (
    if s.run.phase = .boot then
      { s with
        run := { s.run with phase := .stage0, pcieUp := !s.jtag.pins,
                            straps := if s.run.warmStart then s.run.straps else BitVec.ofNat 12 straps }
        hif := { s.hif with speed := if s.jtag.pins then 0 else BitVec.ofNat 3 speed
                            width := if s.jtag.pins then 0 else BitVec.ofNat 4 width
                            flit := flit && !s.jtag.pins } }
    else s)

/-! Function-level reset (14 R308). -/

/-- The commands of function f are abandoned: no entry is written, and work they queued is withdrawn. -/
def abandonCmds (s : State) (f : Nat) : State :=
  let mine := fun id => s.cmds.any fun c => c.id == id && c.fn == f
  { s with
    cmds := s.cmds.filter fun c => c.fn != f
    runs := Tab.map s.runs fun r => { r with resampling := r.resampling.filter fun w => match w with
      | .cmd i => !mine i
      | .op _ _ => true }
    fls := { s.fls with pending := s.fls.pending.filter fun o => !mine o.cmd }
    medium := { (s.fls.pending.filter fun o => mine o.cmd).foldl dropStoreOp s.medium with
      objects := ((s.fls.pending.filter fun o => mine o.cmd).foldl dropStoreOp s.medium).objects.filter
        fun e => e.2.visible || e.2.owner != f }
    codecs := Tab.map s.codecs fun c =>
      let cm := fun w => match w with | EngineWork.cmd i => mine i | _ => false
      let cur := match c.current with | some w => if cm w then none else some w | none => none
      { c with current := cur, queue := c.queue.filter fun w => !cm w, busy := cur.isSome } }

/-- The rings, event ring, vectors and latches of function f return to their reset values (14 R329, R330, 19 R421). -/
def resetRings (s : State) (f : Nat) : State :=
  { s with
    sqs := s.sqs.filter fun e => e.1 / 64 != f
    cqs := s.cqs.filter fun e => e.1 / 64 != f
    latches := Tab.del s.latches f
    evt := { s.evt with rings := Tab.del s.evt.rings f }
    hif := { s.hif with msix := s.hif.msix.filter fun e => e.1 / 4096 != f, pba := s.hif.pba.filter fun e => e.1 != f } }

/-- The work and content of partition p are gone; the partition stays (14 R308, 17 R379). -/
def wipePartition (s : State) (p : Nat) : State :=
  let s1 := clearPreempted (clearJob s p) p
  let s2 := (planHandles s1 p).foldl (fun s h => dropPlan s p h) s1
  let r := s2.partRun p
  let s3 := s2.setRun p { r with halted := false, switchAt := none, tableLoad := none, served := [] }
  match Tab.find s3.parts p with
  | some q =>
    let s4 := wipeGranules s3 q.extents
    { s4 with
      nodes := s4.nodes.filter fun n => n.part != p
      basins := (maskBasins q.mask).foldl (fun t b =>
        let v := Tab.get t b {}
        Tab.put t b { v with mere := { v.mere with stream := [] },
                             sfu := { v.sfu with loadBusy := false, switchPending := false } }) s4.basins }
  | none => s3

/-- FLR of one function (14 R308); before full function has been reached, of its configuration only (17 R378). -/
def flrOne (s : State) (f : Nat) : State :=
  let s1 := resetRings (abandonCmds s f) f
  if s.run.stage2 && s.run.stage3 then
    ((List.range 10).filter fun p => bitOf (s1.fn f).owned.toNat p).foldl wipePartition s1
  else s1

/-- FLR of function f; of the physical function it clears VF Enable and so acts on every virtual function. -/
def flr (s : State) (f : Nat) : State :=
  if f = 0 then
    let s1 := if s.hif.vfEnable then (List.range 63).foldl (fun s i => flrOne s (i + 1)) s else s
    let s2 := flrOne s1 0
    { s2 with hif := { s2.hif with vfEnable := false } }
  else flrOne s f

/-- PCIE_FLR (14 R308). -/
def execPcieFlr (f : Nat) (s : State) : Host.Outcome State Fault Refusal :=
  .next (if staged s && s.run.pcieUp && fnEnabled s f then flr s f else s)

/-- PCIE_CONFIG_WRITE (14 R302, R304): the requester is recorded; a write of VF Enable creates the virtual functions,
or ends them as an FLR of each would. -/
def execPcieConfigWrite (requester f : Nat) (vfEnable : Option Bool) (s : State) : Host.Outcome State Fault Refusal :=
  .next (
    if staged s && s.run.pcieUp && fnEnabled s f then
      let s1 := { s with hif := { s.hif with requester := some requester } }
      match vfEnable with
      | some true => if f = 0 then { s1 with hif := { s1.hif with vfEnable := true } } else s1
      | some false =>
        if f = 0 && s1.hif.vfEnable then
          let s2 := (List.range 63).foldl (fun s i => flrOne s (i + 1)) s1
          { s2 with hif := { s2.hif with vfEnable := false } }
        else s1
      | none => s1
    else s)

/-! Power, throttle (17 R380, R381). -/

/-- THROTTLE_ASSERT (17 R381): in every stage (21 R435). -/
def execThrottleAssert (s : State) : Host.Outcome State Fault Refusal :=
  .next { s with run := { s.run with throttleIn := true } }

/-- THROTTLE_RELEASE (17 R381): VDD_TAP rises from where it stands under the power loop. -/
def execThrottleRelease (s : State) : Host.Outcome State Fault Refusal :=
  .next (
    if s.run.throttleIn then
      { s with run := { s.run with throttleIn := false }
               tel := { s.tel with powerMv := min s.tel.powerMv (vtapNow s) } }
    else s)

/-- The power loop's target as it stands. -/
def powerTarget (s : State) : Nat := min s.tel.powerMv s.targetMv

/-- POWER_SAMPLE (17 R380): TEL.PWR_NOW is the mean of the latest ten samples; above the limit the target falls by
5 mV, down to 500 mV, where the limit is unreachable. -/
def execPowerSample (mw : Nat) (rails : List Nat) (s : State) : Host.Outcome State Fault Refusal :=
  .next (
    if alive s then
      let xs := (mw :: s.tel.samples).take 10
      let mean := xs.sum / xs.length
      let above := zeroSelects s.tel.limitW 3200 * 1000 < mean
      let cur := powerTarget s
      { s with tel := { s.tel with
          samples := xs, rails := rails, pwrNow := BitVec.ofNat 32 (satNat 32 mean),
          powerMv := if above then max 500 (cur - 5) else s.tel.powerMv,
          unreachable := above && cur ≤ 500 } }
    else s)

/-- POWER_RAISE (17 R380): below 98 % of the limit the target rises by 5 mV, up to TARGET_MV. -/
def execPowerRaise (s : State) : Host.Outcome State Fault Refusal :=
  .next (
    if alive s && s.tel.pwrNow.toNat * 100 < zeroSelects s.tel.limitW 3200 * 1000 * 98 then
      let up := powerTarget s + 5
      { s with tel := { s.tel with powerMv := if s.targetMv ≤ up then 800 else up } }
    else s)

/-! Temperature (17 R383, R384). -/

/-- The highest of a list with its place, the first among equals. -/
def hottest : List Nat → Nat → Nat × Nat
  | [], _ => (0, 0)
  | x :: xs, i => let r := hottest xs (i + 1); if r.1 ≤ x then (x, i) else r

/-- Readings of dies 0–39, the logic dies, and 40–59, the stacks. -/
def logicMax (dies : List Nat) : Nat := (hottest (dies.take 40) 0).1
@[inherit_doc logicMax]
def stackMax (dies : List Nat) : Nat := (hottest ((dies.drop 40).take 20) 0).1

/-- Temperatures and rates into TEL.DIE, TEL.TJ and HBM.TEMP. -/
def storeTemps (s : State) (dies rates : List Nat) : State :=
  let h := hottest (dies.take 60) 0
  { s with
    tel := { s.tel with
      dies := (List.range 60).map (fun d => (d, BitVec.ofNat 8 (dies.getD d 0)))
      rates := (List.range 40).map (fun d => (d, BitVec.ofNat 16 (rates.getD d 0)))
      hottestC := BitVec.ofNat 8 h.1, hottestDie := BitVec.ofNat 8 h.2 }
    hbmStacks := (List.range 20).foldl (fun t k =>
      Tab.put t k { (Tab.get t k ({} : Stack)) with temp := BitVec.ofNat 8 (dies.getD (40 + k) 0) }) s.hbmStacks }

/-- Thermal protection on a sample (17 R383): it lowers by 10 mV every 100 µs from the threshold on, holds from 2 °C
below, and gives the target back to the power loop from 5 °C below. -/
def thermalLoop (s : State) (logic stack : Nat) : State :=
  let tc := s.tel.targetC.toNat
  let hc := s.tel.hbmTargetC.toNat
  let low := if tc ≤ logic || hc ≤ stack then true
    else if logic + 2 ≤ tc && stack + 2 ≤ hc then false else s.tel.lowering
  let cur := min s.tel.thermalMv s.targetMv
  let due := match s.tel.lastThermalStep with | some t => t + 100000 ≤ s.now | none => true
  if low && due then
    { s with tel := { s.tel with lowering := true, thermalMv := max 500 (cur - 10), lastThermalStep := some s.now } }
  else if logic + 5 ≤ tc && stack + 5 ≤ hc && s.tel.thermalMv < 800 then
    { s with tel := { s.tel with lowering := false, thermalMv := 800, lastThermalStep := none,
                                 powerMv := min s.tel.powerMv s.tel.thermalMv } }
  else { s with tel := { s.tel with lowering := low } }

/-- How long the alert's condition has held, and its release (17 R383). -/
def thermalAlert (s : State) (logic stack : Nat) : State :=
  let hot := 105 ≤ logic || 95 ≤ stack
  let cool := logic < 100 && stack < 90
  { s with
    tel := { s.tel with hotSince := if hot then some (s.tel.hotSince.getD s.now) else none }
    run := { s.run with thermAlert := s.run.thermAlert && !cool } }

/-- THERMAL_SAMPLE (17 R383, R384): at 115 °C on a logic die the TM40 switches its rails off; nothing completes. -/
def execThermalSample (dies rates : List Nat) (s : State) : Host.Outcome State Fault Refusal :=
  .next (
    if !alive s then s
    else if 115 ≤ logicMax dies then
      let c := coldState s
      { c with run := { c.run with phase := .off, thermAlert := true } }
    else
      let s1 := storeTemps s dies rates
      thermalAlert (thermalLoop s1 (logicMax dies) (stackMax dies)) (logicMax dies) (stackMax dies))

/-- THERM_ALERT_ASSERT (17 R383): the condition has held for 1 ms with VDD_TAP at 0.50 V. -/
def execThermAlertAssert (s : State) : Host.Outcome State Fault Refusal :=
  .next (
    match s.tel.hotSince with
    | some t => if alive s && vtapNow s == 500 && t + 1000000 ≤ s.now then
        { s with run := { s.run with thermAlert := true } } else s
    | none => s)

/-! SYSREF (21 R436). -/

/-- SYSREF_LOSS (21 R436): out for more than 10 µs, the clock generators hold over. -/
def execSysrefLoss (ns : Nat) (s : State) : Host.Outcome State Fault Refusal :=
  .next (if 10000 < ns then { s with run := { s.run with holdover := true } } else s)

/-- SYSREF_RESTORED (21 R436). -/
def execSysrefRestored (s : State) : Host.Outcome State Fault Refusal :=
  .next { s with run := { s.run with holdover := false } }

/-! JTAG (19 R410). -/

/-- Instructions that take the pins. -/
def jtagTakesPins (code : Nat) : Bool := [0x00, 0x03, 0x04, 0x09, 0x0A].contains code

/-- The instruction a code selects: any code without a meaning here selects BYPASS. -/
def jtagSelect (s : State) (code : Nat) : Nat :=
  if jtagTakesPins code || [0x01, 0x02, 0x20].contains code then code
  else if code = 0x21 && debugAllowed s.fuses then code
  else if code = 0x22 && s.fuses.lcs == 0 then code
  else 0xFF

/-- The device's IDCODE (00 R1). -/
def jtagIdcode : Word64 := 0x1A4009C7

/-- The port with an instruction loaded: IDCODE captures the identity. -/
def Jtag.select (j : Jtag) (instr : BitVec 8) (pins : Bool) : Jtag :=
  { instr := instr, pins := pins, data := if instr = 0x01 then jtagIdcode else j.data }

/-- The pins go back to the device and a warm reset follows (19 R410). -/
def jtagRelease (s : State) (instr : BitVec 8) : State :=
  let s1 := { s with jtag := s.jtag.select instr false }
  if s.jtag.pins then warmReset s1 Config.jtagResetCause else s1

/-- An instruction is loaded. -/
def jtagLoad (s : State) (code : Nat) : State :=
  let i := jtagSelect s code
  if jtagTakesPins i then
    { s with jtag := s.jtag.select (BitVec.ofNat 8 i) true
             run := { s.run with pcieUp := false }
             hif := { s.hif with speed := 0, flit := false, width := 0 } }
  else if i = 0xFF then jtagRelease s 0xFF
  else { s with jtag := s.jtag.select (BitVec.ofNat 8 i) s.jtag.pins }

/-- JTAG_PIN_INSTRUCTION (19 R410). -/
def execJtagPinInstruction (code : Nat) (s : State) : Host.Outcome State Fault Refusal := .next (jtagLoad s code)

/-- JTAG_PIN_RELEASE (19 R410): TRST_N resets the TAP, which selects IDCODE (log 29), or BYPASS is loaded. -/
def execJtagPinRelease (trst : Bool) (s : State) : Host.Outcome State Fault Refusal :=
  .next (jtagRelease s (if trst then 0x01 else 0xFF))

/-- JTAG_READBACK (19 R410): READBACK where DEBUG allows it; it acts as BYPASS elsewhere. -/
def execJtagReadback (off : Nat) (s : State) : Host.Outcome State Fault Refusal :=
  .next (
    let s1 := jtagLoad s 0x21
    if debugAllowed s.fuses && staged s then { s1 with jtag := { s1.jtag with data := regRead s 0 off } } else s1)

end Sys2Proof.Machine
end

