-- ==== Sys2Proof/Machine/Trust.lean ====
section
/-! DEFINITION. Sys2Proof/Machine/Trust.lean: signed records (18 R386 to R388), the recovery window (R391, R392),
attestation (R394 to R397), life-cycle transitions (R398 to R401) and key slots (R387, R393). -/

namespace Sys2Proof.Machine

/-! Signed records (18 R386, R388). -/

/-- Bytes a to b of a record are zero. -/
def zeroBytes (r : List Byte) (a b : Nat) : Bool := allZero (slice r a (b + 1 - a))

/-- Check 2 of R388: magic, the kind asked for, ranges, and reserved bytes. -/
def recordForm (r : List Byte) (kind : Nat) : Bool :=
  let len := leAt r 8 8
  let svn := leAt r 16 1
  let target := leAt r 17 1
  leAt r 0 4 == 0x52434544 && leAt r 4 1 == kind && leAt r 5 1 < 4
    && zeroBytes r 6 7 && zeroBytes r 18 31 && zeroBytes r 112 255 && zeroBytes r 7475 8191
    && (if kind = 1 then 1 ≤ len && len ≤ 33546240 && svn ≤ 128 && target == 0
        else len == 0 && svn == 0 && zeroBytes r 48 111 && (if kind = 2 then target < 4 else target < 6))

/-- The serial of a record names this device, or any where R386 allows that. -/
def recordSerial (s : State) (r : List Byte) (kind : Nat) : Bool :=
  slice r 32 16 == s.fuses.serial || (kind != 3 && zeroBytes r 32 47)

/-- The checks of R388 in order: the code of the first that fails, 0 where the record passes. -/
def checkRecord (s : State) (kind : Nat) (r : List Byte) : Nat :=
  let slot := s.fuses.slots.getD (leAt r 5 1) {}
  let key := slice r 256 2592
  if !recordForm r kind then 2
  else if slot.state != 1 then 3
  else if sha3_256 key != slot.digest then 4
  else if !Config.mldsaVerify key (sha3_512 (slice r 0 2848)) (slice r 2848 4627) then 5
  else if kind == 1 && sha3_512 (slice r 8192 (leAt r 8 8)) != slice r 48 64 then 6
  else if kind == 1 && leAt r 16 1 < s.fuses.rollback then 7
  else if !recordSerial s r kind then 8
  else 0

/-- The slot that signed a record and the version of its image. -/
def recordSlot (r : List Byte) : Nat := leAt r 5 1
@[inherit_doc recordSlot]
def recordSvn (r : List Byte) : Nat := leAt r 16 1

/-- Verified firmware runs (18 R390): measured over header and payload. -/
def runFirmware (s : State) (image : List Byte) (window : Bool) : State :=
  { s with
    sec := { s.sec with imageOk := true, source := window, slot := BitVec.ofNat 2 (recordSlot image), failCause := 0,
                        svn := BitVec.ofNat 8 (recordSvn image), fwDigest := sha3_512 image }
    run := { s.run with awaitImage := false } }

/-- The object of the firmware image (18 R390, 16 R349). -/
def imageObject : Nat := 0xFFFF000000000001

/-! The recovery window (18 R391, R392). -/

/-- Install an image in the store: a new object takes the slot's identifier, sealed. -/
def installImage (s : State) (image : List Byte) : State :=
  { s with medium := { s.medium with
      objects := Tab.put s.medium.objects imageObject
        { bytes := image, owner := 0, serial := s.medium.nextSerial, isSealed := true },
      nextSerial := s.medium.nextSerial + 1 } }

/-- The RESULT of a recovery: 12 before the length, the length before the checks of R388, the store last. -/
def recoveryResult (s : State) (mode storeOk : Bool) : Nat :=
  let len := s.sec.recovLen.toNat
  let image := Mem.readN s.sec.window 0 len
  if s.fuses.lcs == 5 || (mode && s.run.phase != .stage0) then 12
  else if len < 8192 || 33554432 < len || len != 8192 + leAt (Mem.readN s.sec.window 8 8) 0 8 then 10
  else
    let code := checkRecord s 1 image
    if code != 0 then code
    else if !mode && (!s.fls.online || s.fls.readOnly || flashFree s < len || !storeOk) then 11
    else 0

/-- RECOVERY_GO (18 R391, R392): the write that holds GO also sets MODE. -/
def execRecoveryGo (mode : Bool) (storeOk : Bool) (s : State) : Host.Outcome State Fault Refusal :=
  .next (
    if staged s then
      let result := recoveryResult s mode storeOk
      let image := Mem.readN s.sec.window 0 s.sec.recovLen.toNat
      let s1 := { s with sec := { s.sec with
        recovMode := mode, recovDone := true, recovResult := BitVec.ofNat 4 result,
        recovFails := if result = 0 then s.sec.recovFails else satAdd s.sec.recovFails 1 } }
      if result != 0 then s1 else if mode then runFirmware s1 image true else installImage s1 image
    else s)

/-! Attestation (18 R394 to R397). -/

/-- A partition's record in the configuration measurement (18 R397). -/
def cfgRecord (s : State) (p : Nat) : List Byte :=
  match Tab.find s.parts p with
  | some q =>
    toLe 1 1 ++ toLe 1 q.owner ++ toLe 2 q.mask.toNat ++ toLe 4 q.deadlineUs ++ toLe 8 q.quota ++ toLe 1 q.weight
      ++ [0, 0, 0] ++ toLe 4 q.budget ++ List.replicate 8 0
  | none => List.replicate 32 0

/-- The configuration measurement (18 R397). -/
def cfgMeasure (s : State) : List Byte :=
  sha3_512 (toLe 8 (capability s).toNat ++ (List.range 10).flatMap (cfgRecord s)
    ++ (List.range 10).flatMap fun b => if basinPart s b = 0xF then List.replicate 32 0 else sfuDigest (s.basin b).sfu)

/-- A plan's entry in a report (18 R396). -/
def planEntry (p : Plan) : List Byte :=
  toLe 4 p.handle ++ toLe 1 p.part ++ [0, 0, 0] ++ toLe 8 p.loadedAt ++ slice p.measure 0 64

/-- The report's body and plan entries (18 R396): plans in ascending partition and handle order, as they are listed. -/
def reportBody (s : State) (nonce : List Byte) : List Byte :=
  let plans := Tab.vals s.plans
  toLe 4 0x54544144 ++ toLe 2 1 ++ toLe 1 s.fuses.lcs.toNat
    ++ toLe 1 (packFields [(0, s.sec.slot.toNat), flag 2 s.sec.source]) ++ slice s.fuses.serial 0 16
    ++ toLe 8 s.now ++ toLe 4 plans.length ++ toLe 1 s.fuses.rollback ++ toLe 1 s.sec.svn.toNat
    ++ toLe 1 (slotsByte s.fuses) ++ [0] ++ slice nonce 0 64 ++ slice s.sec.fwDigest 0 64 ++ cfgMeasure s
    ++ slice (idDigest s.fuses) 0 32 ++ List.replicate 248 0 ++ plans.flatMap planEntry

/-- A whole report under an identity seed. -/
def report (s : State) (seed nonce : List Byte) : List Byte :=
  let body := reportBody s nonce
  body ++ slice (Config.mldsaSign seed (sha3_512 body)) 0 4627

/-- The 2,592-byte public key of an identity. -/
def publicKey (seed : List Byte) : List Byte := slice (Config.mldsaPublicKey seed) 0 2592

/-- The verifier's nonce from SEC.ATT_NONCE0 to 7. -/
def nonceBytes (s : State) : List Byte := s.sec.nonce.flatMap fun w => toLe 8 w.toNat

/-- An attestation ends without a delivery. -/
def attestFails (s : State) (kind : Bool) (result : BitVec 2) : State :=
  { s with sec := { s.sec with attKind := kind, attDone := true, attResult := result } }

/-- ATTESTATION_GO (18 R395): a destination that is no multiple of 64 counts as outside (log 30). A report is signed, and counts, even
where the host write then fails (log 186). -/
def execAttestationGo (kind : Bool) (hostOk : Bool) (s : State) : Host.Outcome State Fault Refusal :=
  .next (
    if staged s then
      match s.fuses.identity with
      | none => attestFails s kind 1
      | some seed =>
        let out := if kind then publicKey seed else report s seed (nonceBytes s)
        let dst := s.sec.attDst.toNat
        if dst % 64 != 0 || !inWindows s 0 dst out.length then attestFails s kind 2
        else if !hostOk then
          let s1 := attestFails s kind 3
          if kind then s1 else { s1 with sec := { s1.sec with reports := satAdd s1.sec.reports 1 } }
        else
          let s1 := hostWrite s dst out
          { s1 with sec := { s1.sec with
              attKind := kind, attDone := true, attResult := 0, attLen := BitVec.ofNat 32 out.length,
              reports := if kind then s1.sec.reports else satAdd s1.sec.reports 1 } }
    else s)

/-- A management answer over MCTP. -/
def mctpAnswer (s : State) (result : BitVec 3) (resp : List Byte) : State :=
  { s with mgt := { s.mgt with mctpResult := result, mctpResp := resp } }

/-- MCTP_ATTEST_REPORT (18 R395): command 0x01. -/
def execMctpAttestReport (nonce : List Byte) (s : State) : Host.Outcome State Fault Refusal :=
  .next (
    if staged s then
      match s.fuses.identity with
      | none => mctpAnswer s 1 []
      | some seed =>
        mctpAnswer { s with sec := { s.sec with reports := satAdd s.sec.reports 1 } } 0 (report s seed nonce)
    else s)

/-- MCTP_PUBLIC_KEY (18 R395): command 0x02. -/
def execMctpPublicKey (s : State) : Host.Outcome State Fault Refusal :=
  .next (
    if staged s then
      match s.fuses.identity with
      | none => mctpAnswer s 1 []
      | some seed => mctpAnswer s 0 (publicKey seed)
    else s)

/-! Life cycle (18 R398 to R401). -/

/-- The record at LCS.RECORD_ADDR: none where it cannot be read (log 31). -/
def hostRecord (s : State) (hostOk : Bool) : Option (List Byte) :=
  let a := s.sec.recordAddr.toNat
  if a % 64 == 0 && inWindows s 0 a 8192 && hostOk then some (Mem.readN s.host a 8192) else none

/-- The code of a record at LCS.RECORD_ADDR (18 R388); one that cannot be read fails the first check. -/
def hostRecordCode (s : State) (kind : Nat) (hostOk : Bool) : Nat :=
  match hostRecord s hostOk with
  | some r => checkRecord s kind r
  | none => 2

/-- The token of a transition to a target (18 R399): its code, 0 where none is needed or it passes. A token for
another target, or into PROVISIONED by another slot than 0 or 1, fails checks 2 and 3. -/
def tokenCode (s : State) (target : Nat) (hostOk : Bool) : Nat :=
  if target != 2 && target != 4 && target != 5 then 0
  else
    match hostRecord s hostOk with
    | none => 2
    | some r =>
      if !recordForm r 3 || leAt r 17 1 != target then 2
      else if target == 2 && 2 ≤ recordSlot r then 3
      else checkRecord s 3 r

/-- A refused request (18 R399). -/
def refuseLc (s : State) (target result detail : Nat) : State :=
  { s with sec := { s.sec with lcTarget := BitVec.ofNat 3 target, lcDone := true, lcResult := BitVec.ofNat 4 result,
                               lcDetail := BitVec.ofNat 4 detail } }

/-- Step 2 of R400: the identity comes into being, the store key is destroyed, or both end. The identity seed is drawn
from the seeding generator (R394); where that gives none, it is a free value of Spring (log 25). -/
def lcKeys (s : State) (target : Nat) : State :=
  if target = 2 then
    match drbgBytes s 32 with
    | some (seed, s1) => { s1 with fuses := { s1.fuses with identity := some seed } }
    | none =>
      let t := takeSpring s 32
      { t.2 with fuses := { t.2.fuses with identity := some t.1 } }
  else if target = 4 then
    { s with medium := { s.medium with keyErased := true }
             fuses := { s.fuses with storeEpoch := s.fuses.storeEpoch + 1 } }
  else if target = 5 then
    { s with fuses := { s.fuses with identity := none, storeEpoch := s.fuses.storeEpoch + 1 }
             medium := { s.medium with keyErased := true } }
  else s

/-- A life-cycle request (18 R399, R400). In FAILED only the transitions into RETURN and END are accepted (R401): the
others are refused as not the next state (log 32). -/
def lcTransition (s : State) (target : Nat) (hostOk fuseOk : Bool) : State :=
  let needs := target == 2 || target == 4 || target == 5
  if target != s.fuses.lcs.toNat + 1 || 5 < target || (s.run.failed && target != 4 && target != 5) then
    refuseLc s target 1 0
  else if needs && s.sec.recordAddr == 0 then refuseLc s target 2 0
  else
    let code := tokenCode s target hostOk
    if code != 0 then refuseLc s target 3 code
    else
      let s1 := lcKeys s target
      if !fuseOk then refuseLc s1 target 4 0
      else warmReset { s1 with fuses := { s1.fuses with lcs := BitVec.ofNat 3 target } } 5

/-- LCS_TRANSITION (18 R399, R400): the write that holds GO also sets TARGET. -/
def execLcsTransition (target : Nat) (hostOk fuseOk : Bool) (s : State) : Host.Outcome State Fault Refusal :=
  .next (if staged s then lcTransition s (target % 8) hostOk fuseOk else s)

/-- LC_REQUEST (19 R410): a 32-bit update with TARGET and GO, in BLANK only; in other states it acts as BYPASS. -/
def execLcRequest (v : Nat) (fuseOk : Bool) (s : State) : Host.Outcome State Fault Refusal :=
  .next (
    let s1 := jtagLoad s 0x22
    if s.fuses.lcs == 0 then
      let s2 := { s1 with jtag := { s1.jtag with data := lcsReqWord s1.sec } }
      if bitOf v 3 && staged s2 then lcTransition s2 (v % 8) true fuseOk else s2
    else s1)

/-! Key slots (18 R387, R393). -/

/-- A slot operation ends. -/
def slotEnds (s : State) (slot result : Nat) : State :=
  { s with sec := { s.sec with slotSel := BitVec.ofNat 2 slot, slotDone := true, slotResult := BitVec.ofNat 4 result } }

/-- A slot is written. -/
def setSlot (s : State) (k : Nat) (v : KeySlot) : State :=
  { s with fuses := { s.fuses with slots := s.fuses.slots.set k v } }

/-- LCS_SLOT_FUSE (18 R387, R403): only slots 2 and 3 that are empty, only in PROVISIONED. -/
def execLcsSlotFuse (slot : Nat) (fuseOk : Bool) (s : State) : Host.Outcome State Fault Refusal :=
  .next (
    if staged s then
      let k := slot % 4
      if s.fuses.lcs != 2 || k < 2 || (s.fuses.slots.getD k {}).state != 0 then slotEnds s k 12
      else if !fuseOk then slotEnds s k 14
      else slotEnds (setSlot s k { state := 1, digest := s.sec.slotHash.flatMap fun w => toLe 8 w.toNat }) k 0
    else s)

/-- Valid key slots. -/
def validSlots (s : State) : Nat := (s.fuses.slots.filter fun k => k.state == 1).length

/-- The RESULT of a revocation of slot k (18 R393, R403): the record's own check first, then the last valid slot, then
the slots it may name (log 33), then the fuse. -/
def revokeResult (s : State) (k : Nat) (hostOk fuseOk : Bool) : Nat :=
  let code := hostRecordCode s 2 hostOk
  let r := (hostRecord s hostOk).getD []
  let target := leAt r 17 1
  if code != 0 then code
  else if (s.fuses.slots.getD target {}).state == 1 && validSlots s ≤ 1 then 13
  else if recordSlot r == target || target != k || (s.fuses.slots.getD target {}).state != 1 then 12
  else if !fuseOk then 14
  else 0

/-- LCS_SLOT_REVOKE (18 R393). -/
def execLcsSlotRevoke (slot : Nat) (hostOk fuseOk : Bool) (s : State) : Host.Outcome State Fault Refusal :=
  .next (
    if staged s then
      let k := slot % 4
      let result := revokeResult s k hostOk fuseOk
      if result = 0 then slotEnds (setSlot s k { s.fuses.slots.getD k {} with state := 2 }) k 0
      else slotEnds s k result
    else s)

end Sys2Proof.Machine
end

