-- ==== Sys2Proof/Machine/Boot.lean ====
section
/-! DEFINITION. Sys2Proof/Machine/Boot.lean: the staged start (17 R373, R374, 16 R347, 18 R390), self-test (19 R404 to
R409), quiescing (04 R101), stack training and the traffic generators (08 R201, R202, R204). -/

namespace Sys2Proof.Machine

/-! Stage 1 (17 R373 step 3, 18 R390). -/

/-- Spring at the start: its start-up test on the first bits unless it has passed or failed already, then blocks. -/
def bootSpring (s : State) (raw : List (List Bool)) : State :=
  if s.rng.springOk then raw.foldl springBlock s
  else if s.rng.failedAt.isSome then s
  else (raw.drop 1).foldl springBlock (startUp s (raw.headD []))

/-- The store holds no journal under the current store-key epoch (18 R390). -/
def needsFormat (s : State) : Bool := s.medium.keyErased || s.medium.formatted != some s.fuses.storeEpoch

/-- The store is formatted: a store key from Spring, no object; serials are never reused (16 R351, R362). -/
def formatStore (s : State) : State :=
  let t := takeSpring s 64
  { t.2 with medium := { formatted := some s.fuses.storeEpoch, keyErased := false, objects := [],
                         nextSerial := s.medium.nextSerial, storeKey := t.1 } }

/-- What the medium reports goes to the FLS registers (16 R363, R365). -/
def mediaRegs (s : State) (m : BootMedia) : State :=
  { s with fls := { s.fls with
      medium := BitVec.ofNat 2 m.medium, trainedCh := BitVec.ofNat 8 m.trainedCh, rate := BitVec.ofNat 16 m.rate,
      rawBytes := BitVec.ofNat 64 m.rawBytes, capacity := BitVec.ofNat 64 (m.goodBytes * 971 / 1000),
      spare := BitVec.ofNat 32 m.spare, badFactory := BitVec.ofNat 32 m.badFactory,
      badGrown := BitVec.ofNat 32 m.badGrown, eraseMax := BitVec.ofNat 32 m.eraseMax,
      eraseMin := BitVec.ofNat 32 m.eraseMin, eraseMean := BitVec.ofNat 32 m.eraseMean,
      ratedPe := BitVec.ofNat 32 m.ratedPe } }

/-- The store offline with a cause, or online. -/
def storeState (s : State) (cause : Nat) : State :=
  { s with fls := { s.fls with online := cause = 0, offlineCause := BitVec.ofNat 3 cause } }

/-- The boot ROM brings the store online (16 R347, 18 R390): causes 1 to 3 first; a store without a journal under the
current epoch is formatted once Spring has passed, but never in END; a formatted store may have an unreadable journal. -/
def bootStore (s : State) (m : BootMedia) : State :=
  let s1 := mediaRegs s m
  if 1 ≤ m.offlineCause && m.offlineCause ≤ 3 then storeState s1 m.offlineCause
  else if needsFormat s1 then
    if s1.fuses.lcs == 5 then storeState s1 5
    else if s1.rng.springOk then storeState (formatStore s1) 0
    else storeState s1 5
  else storeState s1 m.offlineCause

/-- The firmware check (18 R390): the code of what stops it, 0 where firmware runs or may run. -/
def firmwareCode (s : State) (m : BootMedia) : Nat :=
  if !s.fls.online then 9
  else match Tab.find s.medium.objects imageObject with
    | none => 1
    | some o => if !m.imageReadable then 1 else checkRecord s 1 o.bytes

/-- The boot ROM reads and checks the image, once: a recovery image may run already (18 R391 MODE 1), and after a failure the
TM40 waits for one (17 R374); what MODE 0 writes runs from the next reset. -/
def bootFirmware (s : State) (m : BootMedia) : State :=
  if s.sec.imageOk || s.run.awaitImage then s
  else
    let code := if s.fuses.lcs == 5 then 9 else firmwareCode s m
    if code = 0 then
      match Tab.find s.medium.objects imageObject with
      | some o => runFirmware s o.bytes false
      | none => s
    else { s with sec := { s.sec with imageOk := false, failCause := BitVec.ofNat 4 code }
                  run := { s.run with awaitImage := true } }

/-- STAGE1_COMPLETE (17 R373 step 3): stage 1 is complete once firmware runs and Spring has passed; the device stays
in stage 0 otherwise (R374). -/
def execStage1Complete (media : BootMedia) (raw : List (List Bool)) (s : State) :
    Host.Outcome State Fault Refusal :=
  .next (
    if s.run.phase = .stage0 then
      let s1 := bootFirmware (bootStore (bootSpring s raw) media) media
      if s1.sec.imageOk && s1.rng.springOk then
        drbgInstantiate { s1 with run := { s1.run with phase := .stage1, awaitImage := false } }
      else s1
    else s)

/-! Full function (17 R373 step 6, 18 R389). -/

/-- At full function the rollback counter rises to the image's version. -/
def reachFull (s : State) : State :=
  if fullFunction s then { s with fuses := { s.fuses with rollback := max s.fuses.rollback s.sec.svn.toNat } } else s

/-! BIST_RUN and BIST.CTRL.GO (19 R407, R409). -/

/-- The writing patterns of a channel may start (08 R202). -/
def noLiveData (s : State) : Bool :=
  !s.run.stage2 || (s.plans.isEmpty && s.parts.all fun e => e.2.extents.isEmpty)

/-- The unit is free (19 R408). -/
def unitFree (s : State) (source : Nat) : Bool :=
  if source < 1500 then (s.core source).role != 0 || (s.core source).quiesced
  else if source < 0x700 then basinPart s (source - 0x600) == 0xF
  else if source < 0x800 then noLiveData s
  else if source < 0x900 then (s.port (source - 0x800)).holder == 0 && !(s.port (source - 0x800)).enable
  else (s.codec (source - 0x900)).holder == 0

/-- BIST_RUN's fields. -/
def bistKind (d : List Byte) : Nat := bitsOf (leAt d 32 1) 0 2
@[inherit_doc bistKind]
def bistDepth (d : List Byte) : Nat := bitsOf (leAt d 32 1) 2 1
@[inherit_doc bistKind]
def bistFirst (d : List Byte) : Nat := leAt d 34 2
@[inherit_doc bistKind]
def bistCount (d : List Byte) : Nat := leAt d 36 2
@[inherit_doc bistKind]
def bistAddr (d : List Byte) : Nat := leAt d 40 8

/-- BIST_RUN (19 R407, R408). -/
def runBist (s : State) (c : Cmd) (env : Env) : State :=
  let d := c.desc
  let first := bistFirst d
  let n := bistCount d
  let units := (List.range n).map (first + ·)
  let t := chargeCmd s c env.charge
  if 1500 < n then finish s c stBadDesc
  else if n = 0 then finish s c stOk
  else if !(testRanges (bistKind d)).any (fun r => r.1 ≤ first && first + n ≤ r.1 + r.2) || bistAddr d % 64 != 0 then
    finish s c stBadDesc
  else if bistAddr d != 0 && !inWindows s c.fn (bistAddr d) (32 + 32 * n) then finish s c stDenied
  else if !units.all (unitFree s) then finish s c stDenied
  else
    let r := runTests t.1 (bistKind d) (bistDepth d) units env.tests
    let s1 := if bistAddr d = 0 then r.1
      else hostWrite r.1 (bistAddr d) (toLe 2 n ++ toLe 2 r.2.2 ++ List.replicate 28 0 ++ r.2.1.flatten)
    finish s1 t.2 stOk

/-- BIST_RUN. -/
def execBistRun (f q : Nat) (env : Env) (s : State) : Host.Outcome State Fault Refusal :=
  .next (takeRow 0x0090 f q env noEarly runBist s)

/-- BIST_GO (19 R409, R420): the free units of the selected range, before stage 2 only. The write that holds GO also
sets KIND, DEPTH, FIRST and COUNT. -/
def execBistGo (v : Word64) (tests : List TestResult) (s : State) : Host.Outcome State Fault Refusal :=
  .next (
    if writable s then
      let n := v.toNat
      let r := { s.bist with kind := BitVec.ofNat 2 (bitsOf n 1 2), depth := bitOf n 3,
                             first := BitVec.ofNat 16 (bitsOf n 32 16), count := BitVec.ofNat 16 (bitsOf n 48 16) }
      let s1 := { s with bist := { r with done := if bitOf n 5 then false else r.done } }
      if s.run.stage2 || bitsOf n 48 16 = 0 then s1
      else
        let inRange := fun u => (testRanges (bitsOf n 1 2)).any fun e => e.1 ≤ u && u < e.1 + e.2
        let units := ((List.range (bitsOf n 48 16)).map (bitsOf n 32 16 + ·)).filter fun u => inRange u && unitFree s u
        let t := runTests s1 (bitsOf n 1 2) (bitsOf n 3 1) units tests
        { t.1 with bist := { t.1.bist with done := true, failed := BitVec.ofNat 16 t.2.2 } }
    else s)

/-! Stage 2 (17 R373 step 4, R374). -/

/-- A stack trains, or is lost (08 R185, R200). -/
def trainStack (s : State) (k : Nat) (ok : Bool) : State :=
  if ok then
    s.setStack k { s.stack k with trained := true, inService := true, info := Config.stackInfo k, failed := false,
                                  failCause := 0, failChannel := 0 }
  else loseStack s k .training 0

/-- The map of one die over the cores that pass (01 R14, 13 R290): the first 48 serve, the others are spares. -/
def mapDie (s : State) (die : Nat) (ok : Nat → Bool) : State :=
  let all := (List.range 50).map (50 * die + ·)
  let good := all.filter ok
  let put := fun (s : State) (p : Nat) (role : Nat) (log : Nat) =>
    s.setCore p { s.core p with role := BitVec.ofNat 3 role, logical := BitVec.ofNat 11 log, fenced := role == 2,
                                lastBeat := s.now }
  let s1 := all.foldl (fun s p => if ok p then put s p 1 0x7FF else put s p 2 0x7FF) s
  if good.length < 48 then s1
  else ((good.take 48).zip (List.range 48)).foldl (fun s e => put s e.1 0 (48 * die + e.2)) s1

/-- The units of stage 2's quick tests (17 R373): every core, codec engine and basin, each with its result. -/
def stage2Units (kind : Nat) (tests : List TestResult) : List (Nat × Option TestResult) :=
  ((testRanges kind).flatMap fun r => (List.range r.2).map (r.1 + ·)).zipIdx.map fun u => (u.1, tests[u.2]?)

/-- The units of a kind that fail. -/
def stage2Bad (s : State) (kind : Nat) (tests : List TestResult) : List (Nat × Option TestResult) :=
  (stage2Units kind tests).filter fun u => testResult s kind 0 u.1 u.2 == 1

/-- A core fails stage 2: its dead number is none, and no spare takes it, since the map follows (01 R14). -/
def stage2Dead (s : State) (p : Nat) : State := raiseEvent s evCoreDead p 0xF ([0, 0] ++ toLe 2 0x7FF)

/-- Quick BIST of stage 2 (17 R373, R374): the results, each die's map over the cores that pass, the failing units; a die with fewer
than 48 that pass loses its basin. -/
def stage2Tests (s : State) (logic memory : List TestResult) : State :=
  let rec' := fun s kind tests => recordTests s ((stage2Units kind tests).map fun u =>
    let v := testResult s kind 0 u.1 u.2
    (u.1, v, resultEntry u.1 v kind 0 u.2))
  let bad := [(0, stage2Bad s 0 logic), (1, stage2Bad s 1 memory)]
  let deadCores := (List.range 1500).filter fun p => bad.any fun b => b.2.any fun u => u.1 == p
  let s1 := (List.range 30).foldl (fun s d => mapDie s d fun p => !deadCores.contains p) (rec' (rec' s 0 logic) 1 memory)
  let s2 := bad.foldl (fun s b => b.2.foldl (fun s u =>
    unitFails s b.1 0 u.1 (match u.2 with | some r => r.firstFail | none => 0)) s) s1
  let s3 := deadCores.foldl stage2Dead s2
  ((List.range 30).filter fun d => 2 < (deadCores.filter fun p => p / 50 == d).length).foldl
    (fun s d => withdrawBasin s (d / 3) false) s3

/-- The default tables go into bank 0 of every core as generation 1 (05 R104). -/
def loadDefaults (s : State) : State :=
  { s with basins := (List.range 10).foldl (fun t b =>
      let v := Tab.get t b {}
      Tab.put t b { v with sfu := { v.sfu with bank0 := .defaults, gen0 := 1, active := false } }) s.basins }

/-- STAGE2_COMPLETE (17 R373 step 4): stacks train, memories are wiped, quick BIST of kinds 0 and 1 runs (19 R404), maps are built,
tables load. -/
def execStage2Complete (stacksOk : List Bool) (logic memory : List TestResult) (s : State) :
    Host.Outcome State Fault Refusal :=
  .next (
    if s.run.phase = .stage1 ∧ s.run.stage2 = false ∧ s.run.failed = false then
      let s1 := (List.range 20).foldl (fun s k => if s.run.failed then s else trainStack s k (stacksOk.getD k true)) s
      if s1.run.failed then s1
      else
        let s2 := loadDefaults (stage2Tests (wipeAll s1) logic memory)
        if s2.run.failed then s2 else reachFull { s2 with run := { s2.run with stage2 := true } }
    else s)

/-! Stage 3 (17 R373 step 5, 12 R271, R272). -/

/-- A session identifier from the seeding generator (12 R267); a free value of Spring where that gives none. -/
def drawSession (s : State) : Word64 × State :=
  match drbgBytes s 8 with
  | some (bs, s1) => (BitVec.ofNat 64 (leNat bs), s1)
  | none => let t := takeSpring s 8; (BitVec.ofNat 64 (leNat t.1), t.2)

/-- The port may train: enabled, held down by no isolation, and its light is complete (12 R262, R271, R284). -/
def canTrain (p : Port) : Bool := p.enable && !p.isolated && p.lightOk == 0xFF

/-- A port trains: the link is up under its session. -/
def trainPort (s : State) (q : Nat) : State :=
  let t := drawSession s
  t.2.setPort q { t.2.port q with linkUp := true, session := t.1, downAt := none }

/-- The census of a standalone device names itself (12 R271). -/
def standaloneCensus (s : State) : State :=
  { s with mtc := { s.mtc with standalone := true, root := true, census := 1, devices := 1, mx := 1, my := 1, mz := 1 }
           census := { s.census with states := [(devnum s, 1)], blocks := [] } }

/-- STAGE3_COMPLETE (17 R373 step 5). -/
def execStage3Complete (trained : List Bool) (s : State) : Host.Outcome State Fault Refusal :=
  .next (
    if s.run.phase = .stage1 ∧ s.run.stage3 = false ∧ s.run.failed = false then
      let qs := (List.range 16).filter fun q => trained.getD q false && canTrain (s.port q)
      let s1 := qs.foldl trainPort s
      let s2 := if qs.isEmpty then standaloneCensus s1
        else { s1 with mtc := { s1.mtc with root := devnum s1 == 0 } }
      reachFull { s2 with run := { s2.run with stage3 := true } }
    else s)

/-! Quiescing a core (04 R101). -/

/-- CORE_QUIESCE: at once where no job runs on the core's partition, else at the job's end. -/
def execCoreQuiesce (p : Nat) (on : Bool) (s : State) : Host.Outcome State Fault Refusal :=
  .next (
    if writable s && p < 1500 && !(s.basin (coreBasin p)).withdrawn then
      let busy := (s.partRun (basinPart s (coreBasin p))).job.isSome
      s.setCore p { s.core p with quiesce := on, quiesced := on && (!busy || (s.core p).quiesced) }
    else s)

/-! Stack training in stage 0 and the traffic generators (08 R201, R202, R204). -/

/-- Training for the traffic generator (08 R204); a stack that does not train is not yet lost (log 35). -/
def trainForTg (s : State) (k : Nat) (ok : Bool) : State :=
  s.setStack k { s.stack k with trained := ok, info := if ok then Config.stackInfo k else (s.stack k).info }

/-- HBM_TRAIN (08 R204): ignored after stage 0. -/
def execHbmTrain (stack : Nat) (ok : Bool) (s : State) : Host.Outcome State Fault Refusal :=
  .next (if s.run.phase = .stage0 ∧ s.run.failed = false ∧ stack < 20 then trainForTg s stack ok else s)

/-- MB_TRAIN_STACK (20 R427): in stage 0 only. -/
def execMbTrainStack (path : MbPath) (ok : Bool) (s : State) : Host.Outcome State Fault Refusal :=
  .next (
    if staged s then
      let s1 := mbOpcode s path 3
      let k := (mbArgs s path).1.toNat
      if 20 ≤ k then mbAnswer s1 path 2 none
      else if s.run.phase != .stage0 || s.run.failed then mbAnswer s1 path 3 none
      else mbAnswer (trainForTg s1 k ok) path 0 none
    else s)

/-- The generator's registers may be written: its device channel exists and its basin serves. -/
def tgWritable (s : State) (ch : Nat) : Bool := writable s && ch < 640 && !(s.basin (ch / 64)).withdrawn

/-- The start is refused (08 R201, R202); so are an untrained stack and atoms the channel does not have (log 36). -/
def tgRefused (s : State) (ch : Nat) (g : Tg) : Bool :=
  6 ≤ g.pattern.toNat || (g.op == 3 && g.pattern != 5) || g.last.toNat < g.first.toNat || 46875000 ≤ g.last.toNat
    || (g.pattern != 5 && !noLiveData s) || !(s.stack (ch / 32)).trained

/-- TG_CTRL written with START (08 R201, R202): the write also sets the other fields. -/
def tgStart (s : State) (ch : Nat) (v : Word64) : State :=
  if tgWritable s ch then
    let s1 := writeTg s ch 0x000 .full v
    let g := s1.tg ch
    if g.busy then s1
    else if tgRefused s1 ch g then s1.setTg ch { g with refused := true }
    else
      let g1 := { g with stop := false, errBits := 0, errAtoms := 0, firstErr := 0, rdBytes := 0, wrBytes := 0,
                         timeNs := 0, lat := List.replicate 16 0, startedAt := s.now }
      if g.loops == 0 && !g.continuous then s1.setTg ch { g1 with done := true }
      else s1.setTg ch { g1 with busy := true }
  else s

/-- HBM_TG_START. -/
def execHbmTgStart (ch : Nat) (v : Word64) (s : State) : Host.Outcome State Fault Refusal := .next (tgStart s ch v)

/-- TG_CTRL.STOP (08 R204): the run ends after the current atom, which HBM_TG_RUN_END reports. -/
def tgStop (s : State) (ch : Nat) : State :=
  if tgWritable s ch && (s.tg ch).busy then s.setTg ch { s.tg ch with stop := true } else s

/-- HBM_TG_STOP. -/
def execHbmTgStop (ch : Nat) (s : State) : Host.Outcome State Fault Refusal := .next (tgStop s ch)

/-! The patterns (08 R201). -/

/-- The next n bits of x^31 + x^28 + 1 from a register of 31 bits, bit 30 the oldest (log 174). -/
def prbsBits : Nat → Nat → List Bool
  | 0, _ => []
  | n + 1, x =>
    let b := bitOf x 30 != bitOf x 27
    b :: prbsBits n (x * 2 % 2 ^ 31 + b2n b)

/-- Data bit k of atom n (of the channel) under a pattern, as the generator of channel ch writes and compares it. Which atoms lie
in odd rows is the controller's own (08 R185): a free value. -/
def tgBit (g : Tg) (ch n k : Nat) : Bool :=
  match g.pattern.toNat with
  | 0 =>
    let seed := if g.seed = 0 then 0x7FFFFFFF else g.seed.toNat
    (prbsBits (512 * (n - g.first.toNat) + k + 1) seed).getLastD false
  | 1 => (n - g.first.toNat) % 512 == k
  | 2 => (n - g.first.toNat) % 512 != k
  | 3 => bitOf (ch * 2 ^ 48 + n * 8 + k / 64) (k % 64)
  | _ => if Config.oddRow ch n then k % 2 == 1 else k % 2 == 0

/-- The bits of an atom of device channel ch as HBM holds them. -/
def atomBit (s : State) (ch n k : Nat) : Bool :=
  let t := channelTile ch n
  let a := ((List.range 64).find? fun a => atomChannel t a == ch).getD 0
  (Mem.read s.hbm (4096 * t + 64 * a + k / 8)).getLsbD (k % 8)

/-- What the generator's comparisons found: data bits, atoms, and the first atom. -/
structure TgErrors where
  bits : Nat := 0
  atoms : Nat := 0
  first : Option Nat := none
  deriving DecidableEq, Repr

/-- One read of a run compared: read i, in a run of len atoms. A writing run compares with what it wrote, a run that compares only
with what HBM holds, the soak its code only; a fault in the read flips data bits or the code (08 R201). -/
def tgCompare (s : State) (g : Tg) (ch len : Nat) (faults : List TgFault) (e : TgErrors) (i : Nat) : TgErrors :=
  let n := g.first.toNat + i % max 1 len
  let hit := faults.find? fun f => f.read == i
  let flips := match hit with | some f => f.flips | none => []
  let bits :=
    if g.pattern = 5 then 0
    else if g.op = 2 then
      ((List.range 512).filter fun k => (atomBit s ch n k != tgBit g ch n k) != flips.contains k).length
    else (flips.filter (· < 512)).eraseDups.length
  if bits != 0 || hit.isSome then
    { bits := e.bits + bits, atoms := e.atoms + 1, first := e.first.orElse fun _ => some n }
  else e

/-- The reads of a run that can differ: all of a run that compares with what HBM holds, else those with a fault, in order. -/
def tgReads (g : Tg) (reads : Nat) (faults : List TgFault) : List Nat :=
  if g.op = 2 && g.pattern != 5 then List.range reads
  else (faults.map TgFault.read).filter (· < reads)

/-- Bytes a run has written: the range as often as LOOPS says, unless it only reads; a free value of a run that was
stopped or repeats (log 34). -/
def tgWrote (s : State) (g : Tg) : Word64 :=
  if g.pattern == 5 || g.op == 2 then 0
  else if g.stop || g.continuous then Config.tgWritten s.free
  else BitVec.ofNat 64 (satNat 64 (64 * (g.last.toNat + 1 - g.first.toNat) * g.loops.toNat))

/-- HBM_TG_RUN_END (08 R202, R204): each read counts in one bin of the histogram. The range of a run that wrote is wiped. -/
def execHbmTgRunEnd (ch : Nat) (faults : List TgFault) (lat : List Nat) (s : State) : Host.Outcome State Fault Refusal :=
  .next (
    let g := s.tg ch
    if alive s && ch < 640 && g.busy then
      let reads := (lat.take 16).sum
      let atoms := g.last.toNat + 1 - g.first.toNat
      let e := (tgReads g reads faults).foldl (tgCompare s g ch atoms faults) {}
      let wr := tgWrote s g
      let s1 := s.setTg ch { g with
        busy := false, stop := false, done := true, miscompare := g.miscompare || e.atoms != 0,
        errBits := BitVec.ofNat 64 e.bits, errAtoms := BitVec.ofNat 64 e.atoms,
        firstErr := BitVec.ofNat 26 (e.first.getD 0), rdBytes := BitVec.ofNat 64 (64 * reads), wrBytes := wr,
        timeNs := BitVec.ofNat 64 (s.now - g.startedAt),
        lat := (List.range 16).map fun i => BitVec.ofNat 64 (lat.getD i 0) }
      let wiped := g.pattern != 5 && g.op != 2
      let k := ch / 32
      let s2 := s1.setStack k { s1.stack k with
        readBytes := satAdd (s1.stack k).readBytes (64 * reads)
        writeBytes := satAdd (s1.stack k).writeBytes (wr.toNat + if wiped then 64 * atoms else 0) }
      { (if wiped then wipeAtoms s2 ch g.first.toNat g.last.toNat else s2) with free := s.free + 1 }
    else s)

/-! Writes by the mailbox (20 R427). -/

/-- The bits of TEL and HBM registers that act when 1 is written (00 R7): CLEAR and WARM of TEL, TRAIN of a stack, START and STOP of
a generator. ok: whether a stack that is to train does. -/
def actBits (s : State) (a : Nat) (v : Word64) (ok : Bool) : State :=
  let k := (a - 0x200000) / 0x10000
  let x := a % 0x10000
  let ch := 32 * k + (x - 0x8000) / 0x400
  if a = 0x70000 then (if bitOf v.toNat 0 then telClear s else s)
  else if a = 0x70058 then (if bitOf v.toNat 0 then warmReset s 4 else s)
  else if a < 0x200000 then s
  else if x = 0x010 then
    (if bitOf v.toNat 0 && s.run.phase == .stage0 && !s.run.failed then trainForTg s k ok else s)
  else if 0x8000 ≤ x && x % 0x400 == 0 then
    let s1 := if bitOf v.toNat 0 then tgStart s ch v else s
    if bitOf v.toNat 1 then tgStop s1 ch else s1
  else s

/-- MB_WRITE (20 R427): an 8-byte write to a TEL or HBM register. -/
def execMbWrite (path : MbPath) (ok : Bool) (s : State) : Host.Outcome State Fault Refusal :=
  .next (
    if staged s then
      let s1 := mbOpcode s path 2
      let a := (mbArgs s path).1.toNat
      let v := (mbArgs s path).2
      if a % 8 != 0 || 0x4000000 ≤ a then mbAnswer s1 path 2 none
      else if !mbWritable a then mbAnswer s1 path 3 none
      else actBits (mbAnswer (regWrite s1 0 a .full v) path 0 none) a v ok
    else s)

end Sys2Proof.Machine
end

