-- ==== Sys2Proof/Machine/Motion.lean ====
section
/-! DEFINITION. Sys2Proof/Machine/Motion.lean: the block-row pipeline of a codec engine (11 R239, R240) and its motion search (R241 to
R243). -/

namespace Sys2Proof.Machine

/-! The pipeline (R239, R240). -/

/-- The five stages. -/
inductive Stage where
  | fetch | decide | transform | filter | entropy
  deriving DecidableEq, Repr

/-- The stages of an encode in their order, and of a decode, whose fetch brings the reference samples. -/
def encodeOrder : List Stage := [.fetch, .decide, .transform, .filter, .entropy]
@[inherit_doc encodeOrder]
def decodeOrder : List Stage := [.entropy, .fetch, .transform, .filter]

/-- Blocks of row r that have left stage number k of the order. -/
def FramePipe.gone (p : FramePipe) (k r : Nat) : Nat := (p.left.getD k []).getD r 0

/-- A picture of rows × cols blocks of which nothing, or everything, has left its stages. -/
def FramePipe.entering (order : List Stage) (frame : Nat) (refs : List Nat) (rows : Nat) : FramePipe :=
  ⟨frame, refs, order.map fun _ => List.replicate rows 0⟩
@[inherit_doc FramePipe.entering]
def FramePipe.passed (order : List Stage) (frame rows cols : Nat) : FramePipe :=
  ⟨frame, [], order.map fun _ => List.replicate rows cols⟩

/-- Picture q of the pipe is final for row r of a picture that references it (R240): its row r + 3, or its last, has passed the last
stage. -/
def rowFinal (rows cols last : Nat) (pipe : List FramePipe) (r q : Nat) : Bool :=
  pipe.any fun p => p.frame == q && p.gone last (min (r + 3) (rows - 1)) == cols

/-- The next block of row r may leave stage number k (R239): it has left the stage before (in the first, its references are final),
and in this stage the block up and to the right of it, or the end of the row above, has left too; those to its left have. -/
def mayLeave (rows cols last : Nat) (pipe : List FramePipe) (p : FramePipe) (k r : Nat) : Bool :=
  let x := p.gone k r
  x < cols && (if k = 0 then p.refs.all (rowFinal rows cols last pipe r) else x < p.gone (k - 1) r)
    && (r == 0 || min (x + 2) cols ≤ p.gone k (r - 1))

/-- One more block of row r leaves stage number k. -/
def FramePipe.leave (p : FramePipe) (k r : Nat) : FramePipe :=
  { p with left := p.left.modify k fun row => row.modify r (· + 1) }

/-- Every place of the pipe where a block may leave a stage: picture, stage, row. -/
def readyBlocks (rows cols : Nat) (pipe : List FramePipe) : List (Nat × Nat × Nat) :=
  pipe.flatMap fun p => (List.range p.left.length).flatMap fun k =>
    ((List.range rows).filter fun r => mayLeave rows cols (p.left.length - 1) pipe p k r).map fun r => (p.frame, k, r)

/-- One block leaves its stage at each of those places. -/
def advancePipe (rows cols : Nat) (pipe : List FramePipe) : List FramePipe :=
  (readyBlocks rows cols pipe).foldl (fun ps b => ps.map fun p => if p.frame = b.1 then p.leave b.2.1 b.2.2 else p) pipe

/-- The pipe run until nothing moves; the fuel is one round for every block and stage. -/
def settlePipe (rows cols : Nat) : Nat → List FramePipe → List FramePipe
  | 0, pipe => pipe
  | n + 1, pipe =>
    if (readyBlocks rows cols pipe).isEmpty then pipe else settlePipe rows cols n (advancePipe rows cols pipe)

/-- The 64×64 blocks of an encode's pictures: rows and columns. -/
def ceRows (d : List Byte) : Nat := ceilDiv (ceHeight d) 64
@[inherit_doc ceRows]
def ceCols (d : List Byte) : Nat := ceilDiv (ceWidth d) 64

/-- Picture k of an encode enters stage 1, and the blocks of the pictures in the engine move as far as R239 and R240 let them. -/
def enterPipe (d : List Byte) (pipe : List FramePipe) (k : Nat) : List FramePipe :=
  if pipe.any fun p => p.frame == k then pipe
  else
    let ps := pipe ++ [FramePipe.entering encodeOrder k (referencesOf d k) (ceRows d)]
    settlePipe (ceRows d) (ceCols d) (5 * ceRows d * ceCols d * ps.length) ps

/-- Every picture of the pipe has left the last stage. -/
def pipePassed (d : List Byte) (pipe : List FramePipe) : Bool :=
  pipe.all fun p => (List.range (ceRows d)).all fun r => ceCols d ≤ p.gone 4 r

/-! Vectors (R241, R242), in eighths of a luma sample relative to their block. -/

abbrev Vec := Int × Int

/-- The window (R242): 256 samples across and 128 down, each way. -/
def inWindow (v : Vec) : Bool := -2048 ≤ v.1 && v.1 ≤ 2048 && -1024 ≤ v.2 && v.2 ≤ 1024

/-- A candidate clamped to the window. -/
def clampVec (v : Vec) : Vec := (max (-2048) (min 2048 v.1), max (-1024) (min 1024 v.2))

/-- A picture as the search reads it: whether AV1, its luma samples and size. -/
structure Plane where
  av1 : Bool
  samples : List Nat
  width : Nat
  height : Nat

/-- The luma sample at a place in whole samples, the picture's edge repeated beyond it. -/
def Plane.whole (p : Plane) (x y : Int) : Nat :=
  p.samples.getD ((max 0 (min y (p.height - 1))).toNat * p.width + (max 0 (min x (p.width - 1))).toNat) 0

/-- The luma sample at a place in eighths; between whole positions the standard's filters give it (log 178). -/
def Plane.sample (p : Plane) (x y : Int) : Nat :=
  if x % 8 = 0 && y % 8 = 0 then p.whole (x / 8) (y / 8) else Config.between p.av1 p.samples p.width p.height x y

/-- A block of luma samples: place and size, cut at the picture's edge. -/
structure Block where
  x : Nat
  y : Nat
  w : Nat
  h : Nat

/-- Block b (in raster order) of a size. -/
def blockAt (width height size b : Nat) : Block :=
  let cols := ceilDiv width size
  let x := b % cols * size
  let y := b / cols * size
  ⟨x, y, min size (width - x), min size (height - y)⟩

/-- The residual of sample (i, j) of a block under a vector. -/
def residual (src ref : Plane) (b : Block) (v : Vec) (i j : Nat) : Int :=
  (src.whole (b.x + i) (b.y + j) : Int) - ref.sample (8 * (b.x + i : Int) + v.1) (8 * (b.y + j : Int) + v.2)

/-- Luma SAD of a block under a vector. -/
def sad (src ref : Plane) (b : Block) (v : Vec) : Nat :=
  ((List.range b.h).map fun j => ((List.range b.w).map fun i => (residual src ref b v i j).natAbs).sum).sum

/-- The sign of an 8×8 Hadamard transform's entry: −1 where the indices share an odd number of one bits. -/
def hadamardSign (a i : Nat) : Int :=
  if (((List.range 3).filter fun k => a.testBit k && i.testBit k).length) % 2 = 1 then -1 else 1

/-- The sum of the magnitudes of the 8×8 Hadamard transform of the residual at (x, y) of a block. -/
def hadamard (src ref : Plane) (b : Block) (v : Vec) (x y : Nat) : Nat :=
  ((List.range 64).map fun c =>
    ((List.range 64).map fun k =>
      hadamardSign (c % 8) (k % 8) * hadamardSign (c / 8) (k / 8) * residual src ref b v (x + k % 8) (y + k / 8)).sum.natAbs).sum

/-- Luma SATD of a block under a vector (R244), in 8×8 Hadamard units. -/
def satd (src ref : Plane) (b : Block) (v : Vec) : Nat :=
  Config.satdUnits (((List.range (b.h / 8)).map fun j =>
    ((List.range (b.w / 8)).map fun i => hadamard src ref b v (8 * i) (8 * j)).sum).sum)

/-- The cheapest of a list of vectors with its cost, the first of equals (log 179). -/
def cheapest (cost : Vec → Rat) : List Vec → Option (Vec × Rat)
  | [] => none
  | v :: vs =>
    match cheapest cost vs with
    | some b => if b.2 < cost v then some b else some (v, cost v)
    | none => some (v, cost v)

/-- A vector and those at the given offsets from it, of those within the window. -/
def around (offsets : List Vec) (v : Vec) : List Vec := ((0, 0) :: offsets).map (fun o => (v.1 + o.1, v.2 + o.2)) |>.filter inWindow

/-- The 8 neighbours at a distance. -/
def neighbours (n : Int) : List Vec :=
  [(-n, -n), (0, -n), (n, -n), (-n, 0), (n, 0), (-n, n), (0, n), (n, n)]

/-- The offsets of the integer search: ±16 samples. -/
def integerOffsets : List Vec :=
  (List.range 33).flatMap fun j => (List.range 33).map fun i => (8 * (Int.ofNat i - 16), 8 * (Int.ofNat j - 16))

/-- The steps of a refinement: whole samples, halves, quarters, and eighths of AV1. -/
def steps (av1 : Bool) : List (List Vec) :=
  [integerOffsets, neighbours 4, neighbours 2] ++ if av1 then [neighbours 1] else []

/-- A vector at its whole sample. -/
def wholeVec (v : Vec) : Vec := (v.1 / 8 * 8, v.2 / 8 * 8)

/-- A candidate refined: from its whole sample, each step keeps its cheapest. -/
def refine (av1 : Bool) (cost : Vec → Rat) (c : Vec) : Vec :=
  (steps av1).foldl (fun v os => match cheapest cost (around os v) with | some b => b.1 | none => v) (wholeVec (clampVec c))

/-- The vector found for a block in one reference: the cheapest refined candidate; duplicates are dropped before (R241). -/
def searched (av1 : Bool) (cost : Vec → Rat) (candidates : List Vec) : Option (Vec × Rat) :=
  cheapest cost (candidates.eraseDups.map (refine av1 cost))

/-- What the search found for a block: for each reference of list 0 its vector, and the cheapest of them all. -/
structure Found where
  vectors : List (Option Vec)
  best : Option (Nat × Vec)
  deriving DecidableEq, Repr

def Found.none : Found := ⟨[], .none⟩

/-! Hints (R243). -/

/-- Entry e (0 or 1) of block b of picture k: dx, dy in quarter samples, ref. -/
def hintAt (d : List Byte) (hints : List Byte) (k b e : Nat) : Vec × Nat :=
  let a := k * hintStride (ceWidth d) (ceHeight d) + 16 * b + 8 * e
  (((BitVec.ofNat 16 (leAt hints a 2)).toInt, (BitVec.ofNat 16 (leAt hints (a + 2) 2)).toInt), leAt hints (a + 4) 1)

/-- The hint candidates of a block for reference r of list 0. -/
def hintVecs (d : List Byte) (hints : List Byte) (k b r : Nat) : List Vec :=
  if ceHints d then ([0, 1].map (hintAt d hints k b)).filterMap fun e => if e.2 = r then some (2 * e.1.1, 2 * e.1.2) else none
  else []

/-- Hint entries of a picture of n references that are ignored and counted. -/
def hintsIgnored (d : List Byte) (hints : List Byte) (k n : Nat) : Nat :=
  if ceHints d then
    ((List.range (blocksIn (ceWidth d) (ceHeight d) 64)).flatMap fun b =>
      [0, 1].filter fun e => let r := (hintAt d hints k b e).2; r != 255 && n ≤ r).length
  else 0

/-! The search of a picture. -/

/-- The reference nearest in display order, the first of equals (log 179). -/
def nearestRef (d : List Byte) (k : Nat) (refs : List Nat) : Option Nat :=
  let far := fun q => ((displayAt d q : Int) - displayAt d k).natAbs
  refs.find? fun q => refs.all fun p => far q ≤ far p

/-- What one block finds (R241, R242): left and above are what its row and the row above have found, old what the co-located picture
found. -/
def searchBlock (d : List Byte) (hints : List Byte) (k x b : Nat) (lam : Rat) (src : Plane) (refs : List Plane)
    (left above old : List Found) : Found :=
  let blk := blockAt (ceWidth d) (ceHeight d) 64 b
  let near := fun (fs : List Found) (i r : Nat) => ((fs.getD i Found.none).vectors.getD r none).toList
  let found := refs.zipIdx.map fun p =>
    let cs := [(0, 0)] ++ (if x = 0 then [] else near left (x - 1) p.2) ++ near above x p.2 ++ near above (x + 1) p.2
      ++ ((old.getD b Found.none).best.map (·.2)).toList ++ hintVecs d hints k b p.2
    let cost := fun v => (satd src p.1 blk v : Rat) + lam * Config.vectorBits (ceAv1 d) cs v
    searched (ceAv1 d) cost cs
  let best := found.zipIdx.foldl (fun (m : Option (Nat × Vec × Rat)) f =>
    match f.1, m with
    | some v, some b => if v.2 < b.2.2 then some (f.2, v) else some b
    | some v, .none => some (f.2, v)
    | .none, m => m) .none
  ⟨found.map (·.map (·.1)), best.map fun b => (b.1, b.2.1)⟩

/-- The blocks of a picture, row by row and from left to right: those of all rows, in raster order. -/
def searchRows (find : Nat → Nat → List Found → List Found → Found) (rows cols : Nat) : List Found :=
  ((List.range rows).foldl (fun (t : List Found × List Found) r =>
    let row := (List.range cols).foldl (fun left x => left ++ [find r x left t.2]) []
    (t.1 ++ row, row)) ([], [])).1

/-- The search of a picture: lam its λ, refs its references as reconstructed, old what the co-located picture found. -/
def searchPicture (d : List Byte) (hints : List Byte) (k : Nat) (lam : Rat) (src : Plane) (refs : List Plane) (old : List Found) :
    List Found :=
  searchRows (fun r x left above => searchBlock d hints k x (r * ceCols d + x) lam src refs left above old) (ceRows d) (ceCols d)

end Sys2Proof.Machine
end

