-- ==== Sys2Proof/Machine/Tensor.lean ====
section
/-! DEFINITION. Sys2Proof/Machine/Tensor.lean: the tensors of a plan: where their bytes are (06 R124, 08 R188), which rows
Sounding samples and whose they are (03 R55, R69), how rows are read (02 R33, R88, 03 R65, R70), and how results are
quantised into them (02 R35 to R40, 03 R59, R60, R63, R67 to R71). -/

namespace Sys2Proof.Machine

/-! Bytes. -/

/-- The key of byte off of tensor t in a plan's own memory. -/
def memKey (t off : Nat) : Nat := t * 2 ^ 96 + off

/-- The tensor and the offset of a key. -/
def memTensor (k : Nat) : Nat := k / 2 ^ 96
@[inherit_doc memTensor]
def memOffset (k : Nat) : Nat := k % 2 ^ 96

/-- Offsets of the device's own places beside a tensor's arrays, which no rule gives an address (log 46): side lists of rows
without room for them in their slot, static channels, N8 forms of escalated inputs with a tag for each row, and the BF16
copies of sampled rows with a tag for each row. -/
def sideBase : Nat := 2 ^ 80
@[inherit_doc sideBase]
def staticBase : Nat := 2 * 2 ^ 80
@[inherit_doc sideBase]
def wideBase : Nat := 3 * 2 ^ 80
@[inherit_doc sideBase]
def wideTagBase : Nat := 4 * 2 ^ 80
@[inherit_doc sideBase]
def copyBase : Nat := 5 * 2 ^ 80
@[inherit_doc sideBase]
def copyTagBase : Nat := 6 * 2 ^ 80

/-- A job at work on its plan. -/
structure Work where
  s : State
  p : Nat
  pl : Plan
  j : Job

/-- Partition address of a bound tensor. -/
def bindingOf (j : Job) (slot : Nat) : Option Nat := (j.bindings.find? fun b => b.1 == slot).map Prod.snd

/-- Byte off of tensor t. Bytes of the device's own places read 0 until written (log 46). -/
def Work.byte (w : Work) (t off : Nat) : Byte :=
  let d := tensorAt w.pl.image t
  match Tab.find w.pl.mem (memKey t off) with
  | some b => b
  | none =>
    if sideBase ≤ off then 0
    else match d.source with
      | 1 => match bindingOf w.j d.locator with
        | some a => partByte w.s w.p (a + off)
        | none => 0
      | 2 => w.pl.image.getD (hDataOff w.pl.image + d.locator + off) 0
      | 3 => 0
      | _ => Config.unwrittenByte (planKey w.pl.part w.pl.handle) t off

/-- Bytes listed in a plan's own memory. -/
def putMem (m : Tab Byte) (k : Nat) : List Byte → Tab Byte
  | [] => m
  | b :: bs => putMem (Tab.put m k b) (k + 1) bs

/-- The operation whose resident operand tensor t is, if any. -/
def residentIn (i : List Byte) (t : Nat) : Option Nat := (List.range (hOps i)).find? fun o => (opAt i o).resident == t

/-- The basin that holds byte off of Mere-homed tensor t: a resident operand lies by column blocks, another by tiles (08 R181). -/
def Work.mereHome (w : Work) (t off : Nat) : Option Nat :=
  let bs := liveBasins w.s w.p
  let d := tensorAt w.pl.image t
  let f := tensorFmt w.pl.image t
  let n := match residentIn w.pl.image t with
    | some o =>
      let row := if off < scaleOffset f d.rows d.cols then off * 8 / max 1 (d.cols * f.width)
        else (off - scaleOffset f d.rows d.cols) / max 1 (d.cols / max 1 f.block * f.scaleBytes)
      row % max 1 (opAt w.pl.image o).n / 128
    | none => off / 4096
  bs[n % bs.length]?

/-- A write of n bytes at offset off of a tensor of the plan's own is counted where the tensor lies: in Mere by its basin, in HBM by
whole tiles (08 R181, R188, R203, R204). The device's own places beside it have no address (log 46). -/
def Work.countPut (w : Work) (t off n : Nat) : State :=
  if sideBase ≤ off then w.s
  else if (tensorAt w.pl.image t).home = 1 then
    match w.mereHome t off with
    | some b => onMere w.s b fun m => { m with writeBytes := satAdd m.writeBytes n }
    | none => w.s
  else countWritten w.s w.p (Config.tensorPlace (planKey w.pl.part w.pl.handle) t + off) n

/-- Bytes written to tensor t from offset off. -/
def Work.put (w : Work) (t off : Nat) (bs : List Byte) : Work :=
  let d := tensorAt w.pl.image t
  match if off < sideBase && d.source == 1 then bindingOf w.j d.locator else none with
  | some a => { w with s := hbmPut w.s w.p (a + off) bs }
  | none => { w with s := w.countPut t off bs.length, pl := { w.pl with mem := putMem w.pl.mem (memKey t off) bs } }

/-- A write of tensor t is counted for the draws of later ones (02 R38, R39). -/
def Work.wrote (w : Work) (t : Nat) : Work := { w with j := { w.j with writes := Tab.put w.j.writes t (Tab.get w.j.writes t 0 + 1) } }

/-- The bytes of tensor t from offset off to the end of their tile are zero (08 R188). -/
def Work.zeroTail (w : Work) (t off : Nat) : Work := w.put t off (List.replicate (ceilDiv off 4096 * 4096 - off) 0)

/-! The rows of a serving step (15 R335, 03 R69). -/

/-- Whose a row of the running step is: the request's slot, seed and escalation set, and the row's position and token. -/
structure RowOwner where
  slot : Nat
  seed : Word64
  pos : Nat
  token : Nat
  escalation : List Nat
  deriving DecidableEq, Repr

/-- The rows of the running serving step of plan h, in order. -/
def stepRows (s : State) (p h : Nat) : List RowOwner :=
  match (s.partRun p).step with
  | some st => st.parts.flatMap fun q =>
      match s.request p h q.slot with
      | some r => (List.range q.count).map fun k =>
          { slot := q.slot, seed := r.seed, pos := q.first + k, token := r.log.getD (q.first + k) 0, escalation := r.escalation }
      | none => []
  | none => []

/-- The rows of the step the work belongs to; none for a job that does not serve. -/
def Work.owners (w : Work) : List RowOwner := if w.j.serving then stepRows w.s w.p w.j.handle else []

/-- The owner of row r. -/
def Work.owner (w : Work) (r : Nat) : Option RowOwner := w.owners[r]?

/-- Rows of m that are computed: in a serving step those it has. -/
def Work.liveRows (w : Work) (m : Nat) : Nat := if w.j.serving then min m w.owners.length else m

/-- The operations escalated for row r: those of the job, or of the request that owns the row (03 R60, R69). -/
def Work.escalated (w : Work) (r : Nat) : List Nat :=
  if w.j.serving then (match w.owner r with | some q => q.escalation | none => []) else w.j.escalation

/-! Order of executions (06 R126). -/

/-- Operation o lies in the loop section; none in a serving plan, whose steps run every operation once (15 R334). -/
def inLoop (i : List Byte) (o : Nat) : Bool :=
  hKind i != 1 && hLoopFirst i != 0xFFFF && hLoopFirst i ≤ o && o ≤ hLoopLast i

/-- Executions of operation o in the whole job, or in one serving step. -/
def runsOf (i : List Byte) (o : Nat) : Nat := if inLoop i o then hPasses i else 1

/-- The operation executions completed. -/
def Job.doneOf (j : Job) (o : Nat) : Nat := Tab.get j.done o 0

/-! Where a window reads (04 R81, R82). -/

/-- The coordinates of flat position x over extents, outermost first (04 R81). -/
def unflatten : List Nat → Nat → List Nat
  | [], _ => []
  | _ :: es, x => let below := es.foldl (· * ·) 1; (x / below) :: unflatten es (x % below)

/-- The flat position of coordinates over extents. -/
def flatten (es xs : List Nat) : Nat := (es.zip xs).foldl (fun a e => a * e.1 + e.2) 0

/-- The input row that tap τ reads for output row r, if any (04 R82). -/
def tapRow (axes : List Axis) (r tau : Nat) : Option Nat :=
  let pos := unflatten (outPositions axes :: axes.map Axis.out) r
  let tap := unflatten (axes.map Axis.kern) tau
  let at' := unflatten (axes.map Axis.out) (r % outPositions axes)
  let reads := (axes.zip (at'.zip tap)).map fun e => e.1.input e.2.1 e.2.2
  if reads.any Option.isNone then none
  else some (pos.headD 0 * (axes.map Axis.size).foldl (· * ·) 1
    + flatten (axes.map Axis.size) (reads.map fun x => x.getD 0))

/-- The rows of its streamed tensor that array product or convolution o reads for output row r. -/
def inputRows (i : List Byte) (o r : Nat) : List Nat :=
  let rec' := opAt i o
  if rec'.kind = 2 || rec'.kind = 3 then
    let axes := convAxes (paramBytes i rec'.params 64)
    (List.range (taps axes)).filterMap fun tau => tapRow axes r tau
  else [r]

/-! Which rows Sounding samples (03 R55, R69). -/

/-- The row tile of each group that is sampled: the low bits of the draw choose it. -/
def sampledTiles (seed : Word64) (o draw m period : Nat) : List Nat :=
  let tiles := ceilDiv m 128
  (List.range (ceilDiv tiles period)).filterMap fun g =>
    let d := seedDraw seed (BitVec.ofNat 64 (o * 2 ^ 32 + g)) 4 (BitVec.ofNat 32 draw)
    let t := g * period + d.toNat % period
    if t < tiles then some t else none

/-- A row of a serving step is sampled. -/
def RowOwner.sampled (q : RowOwner) (o period : Nat) : Bool :=
  (seedDraw q.seed (BitVec.ofNat 64 (o * 2 ^ 32 + q.pos)) 4 0).toNat % period == 0

/-- The rows of a serving step of m rows that are sampled. -/
def Work.sampledRows (w : Work) (o m period : Nat) : List Nat :=
  (w.owners.take m).zipIdx.filterMap fun e => if e.1.sampled o period then some e.2 else none

/-- The output rows of execution n of operation o that are sampled. -/
def Work.sampledOf (w : Work) (o n : Nat) : List Nat :=
  let r := opAt w.pl.image o
  let period := (ecAt w.pl.image o).period
  if period = 0 then []
  else if w.j.serving then w.sampledRows o r.m period
  else (sampledTiles w.j.seed o n r.m period).flatMap fun t => (List.range (min 128 (r.m - 128 * t))).map (128 * t + ·)

/-- The operation asks for BF16 copies of its streamed input: a fidelity comparison may follow (R58, R59). -/
def copiesInput (i : List Byte) (o : Nat) : Bool :=
  within (opAt i o).kind 1 3 && (ecAt i o).master && (ecAt i o).inputCopy && (ecAt i o).period != 0

/-- The executions of operation o whose input one write of it can be: of a producer outside the loop, all that are to come. -/
def readsAhead (i : List Byte) (j : Job) (producer : Option Nat) (o : Nat) : List Nat :=
  let n := j.doneOf o
  match producer with
  | some q => if inLoop i o && !inLoop i q then (List.range (runsOf i o - n)).map (n + ·) else [n]
  | none => (List.range (runsOf i o - n)).map (n + ·)

/-- The rows of tensor t of which copies are written (R59): those the sampled rows of its consumers read. -/
def Work.copyRows (w : Work) (t : Nat) (producer : Option Nat) : List Nat :=
  let i := w.pl.image
  ((List.range (hOps i)).flatMap fun o =>
    if (opAt i o).streamed == t && copiesInput i o then
      (readsAhead i w.j producer o).flatMap fun n => (w.sampledOf o n).flatMap (inputRows i o)
    else []).eraseDups

/-- The BF16 copy of row r of tensor t (R59), rounded by 02 R39. -/
def Work.putCopy (w : Work) (t r : Nat) (xs : List Word32) : Work :=
  (w.put t (copyBase + 2 * (r * 2 ^ 32)) (xs.flatMap fun x => toLe 2 (toBf16 x))).put t (copyTagBase + r) [1]

/-- Element k of the copy of row r. -/
def Work.copyAt (w : Work) (t r k : Nat) : XR :=
  let at' := copyBase + 2 * (r * 2 ^ 32 + k)
  bf16.decode (leNat [w.byte t at', w.byte t (at' + 1)])

/-- Copies of the rows among some results of which copies are written. -/
def Work.putCopies (w : Work) (t : Nat) (producer : Option Nat) (rows : List (List Word32)) : Work :=
  let want := w.copyRows t producer
  rows.zipIdx.foldl (fun (w : Work) (e : List Word32 × Nat) => if want.contains e.2 then w.putCopy t e.2 e.1 else w) w

/-! Rows. -/

/-- One row of a tensor as a consumer reads it: its group size (R42), element values, block scales by element, FP32 values, static
channels' BF16 values, the outliers beside it, and whether its slot's tag is corrupt (R70). -/
structure RowView where
  group : Nat
  val : Nat → XR
  scl : Nat → XR
  deq : Nat → Word32
  stat : Nat → XR
  outs : List (Nat × XR)
  badTag : Bool

/-- The dynamic outliers of a row: side lists of 32 bytes per segment from an offset (R70). -/
def Work.sideList (w : Work) (t off segs : Nat) : List (Nat × XR) :=
  (List.range segs).flatMap fun g =>
    let at' := off + 32 * g
    (List.range (min (w.byte t at').toNat 8)).map fun k =>
      (128 * g + bitsOf (w.byte t (at' + 1 + k)).toNat 0 7,
        bf16.decode (leNat [w.byte t (at' + 16 + 2 * k), w.byte t (at' + 17 + 2 * k)]))

/-- Channels that some operation declares static on tensor t (R63). -/
def staticsOf (i : List Byte) (t : Nat) : List Nat :=
  ((List.range (hOps i)).flatMap fun o => if (opAt i o).streamed == t then staticList i o else []).eraseDups

/-- The BF16 value of static channel k of row r. -/
def Work.staticBits (w : Work) (t r k : Nat) : Nat :=
  let at' := staticBase + 2 * (r * 2 ^ 32 + k)
  leNat [w.byte t at', w.byte t (at' + 1)]

/-- A row view over element and scale codes in format f with tensor scale t. -/
def rowView (f : Format) (t : Word32) (code scale : Nat → Nat) (stat : List Nat) (statBits : Nat → Nat) (outs : List (Nat × XR))
    (bad : Bool) : RowView :=
  { group := f.group
    val := fun c => if bad then XR.nat 0 else f.value (code c)
    scl := fun c => if bad then XR.nat 0 else scaleValue f.scale (scale c)
    deq := fun c =>
      match outs.find? fun e => e.1 == c with
      | some e => rne32 e.2
      | none =>
        if stat.contains c then rne32 (bf16.decode (statBits c))
        else if bad then fzero else dequant f (tensorScale t) (scale c) (code c)
    stat := fun c => bf16.decode (statBits c)
    outs := outs
    badTag := bad }

/-- Element c from base on of packed elements at byte offset off of tensor t. -/
def Work.codeAt (w : Work) (t : Nat) (f : Format) (off base c : Nat) : Nat := unpackElem f.width (fun b => w.byte t (off + b)) (base + c)

/-- The scale of element c in a scale array at byte offset off, the row's first scale at base. -/
def Work.scaleAt (w : Work) (t : Nat) (f : Format) (off base c : Nat) : Nat :=
  let k := base + c / max 1 f.block
  if f.scaleBytes = 2 then leNat [w.byte t (off + 2 * k), w.byte t (off + 2 * k + 1)] else (w.byte t (off + k)).toNat

/-- A row view over stored elements and scales. -/
def Work.view (w : Work) (t r : Nat) (f : Format) (elemOff elem0 scaleOff scale0 : Nat) (outs : List (Nat × XR))
    (bad : Bool) : RowView :=
  rowView f (tensorAt w.pl.image t).scale (w.codeAt t f elemOff elem0) (w.scaleAt t f scaleOff scale0)
    (staticsOf w.pl.image t) (w.staticBits t r) outs bad

/-- Elements of a row padded to whole N8 blocks (R70). -/
def n8Cols (cols : Nat) : Nat := ceilDiv cols 32 * 32

/-- Offset of the scales of a tensor's N8 form outside its arrays. -/
def wideScales (rows cols : Nat) : Nat := wideBase + ceilDiv (rows * n8Cols cols) 4096 * 4096

/-- Row r of tensor t stands in its N8 form outside the tensor's arrays (R60). -/
def Work.isWide (w : Work) (t r : Nat) : Bool := (w.byte t (wideTagBase + r)) == 1

/-- The tensor is a serving step's input: the plan's own, streamed, and written by none of its operations. The spec does not say
how a token reaches it (log 8). -/
def stepInput (i : List Byte) (t : Nat) : Bool :=
  hKind i == 1 && (tensorAt i t).source == 0 && !(List.range (hOps i)).any fun o => (targetsOf i o).contains t

/-- Row r of a slotted tensor (R70). -/
def Work.slotRow (w : Work) (t r : Nat) : RowView :=
  let i := w.pl.image
  let d := tensorAt i t
  let segs := segments d.cols
  let serving := hKind i == 1
  let tag := (w.byte t (tileMapOffset d.rows d.cols + (if serving then r else r / 128))).toNat
  let base := r / 128 * slotBytes d.cols
  let rr := r % 128
  let nr := if serving then 1 else min 128 (d.rows - r / 128 * 128)
  let off := if serving then base + 132 * segs * rr else base
  let k := if serving then 0 else rr
  if tag = 0x13 then
    let c8 := n8Cols d.cols
    w.view t r fmtN8 off (k * c8) (off + nr * c8) (k * (c8 / 32)) (w.sideList t (sideBase + 32 * segs * r) segs) false
  else
    let so := off + nr * d.cols / 2
    let lo := so + nr * (d.cols / 16)
    let bad := tag != 0x10 && tag != 0
    w.view t r fmtN4 off (k * d.cols) so (k * (d.cols / 16)) (if bad then [] else w.sideList t (lo + 32 * segs * k) segs) bad

/-- Row r of tensor t. -/
def Work.row (w : Work) (t r : Nat) : RowView :=
  let i := w.pl.image
  let d := tensorAt i t
  let f := tensorFmt i t
  let segs := segments d.cols
  let lists := sideBase + 32 * segs * r
  if stepInput i t then
    match w.owner r with
    | some q => rowView f d.scale (fun c => Config.tokenCode i t q.token q.pos c % 2 ^ f.width)
        (fun c => Config.tokenScale i t q.token q.pos (c / max 1 f.block) % 2 ^ (8 * f.scaleBytes)) [] (fun _ => 0) [] false
    | none => w.view t r f 0 (r * d.cols) (scaleOffset f d.rows d.cols) (r * (d.cols / max 1 f.block)) [] false
  else if slotted i t then w.slotRow t r
  else if w.isWide t r then
    let c8 := n8Cols d.cols
    w.view t r fmtN8 wideBase (r * c8) (wideScales d.rows d.cols) (r * (c8 / 32)) (w.sideList t lists segs) false
  else
    w.view t r f 0 (r * d.cols) (scaleOffset f d.rows d.cols) (r * (d.cols / max 1 f.block))
      (if f.isFloat then [] else w.sideList t lists segs) false

/-- Row r of tensor t as n FP32 values (R88). -/
def Work.rowValues (w : Work) (t r n : Nat) : List Word32 := let v := w.row t r; (List.range n).map v.deq

/-- Element k of a tensor that holds a vector. -/
def Work.vec (w : Work) (t k : Nat) : Word32 :=
  let d := tensorAt w.pl.image t
  (w.row t (k / max 1 d.cols)).deq (k % max 1 d.cols)

/-! Draws (02 R38, 09 R213, 03 R69). -/

/-- Earlier writes of tensor t in the job. -/
def Work.writes (w : Work) (t : Nat) : Nat := Tab.get w.j.writes t 0

/-- The draw of element (r, c) of tensor t on a stream: keyed by the job with the flat index and a draw number, or by the
request that owns the row with its position and the tensor's index (R69). -/
def Work.draw (w : Work) (t r c stream n : Nat) : BitVec 128 :=
  match w.owner r with
  | some q => seedDraw q.seed (BitVec.ofNat 64 (q.pos * 2 ^ 32 + c)) (BitVec.ofNat 32 stream) (BitVec.ofNat 32 t)
  | none => seedDraw w.j.seed (BitVec.ofNat 64 (r * (tensorAt w.pl.image t).cols + c)) (BitVec.ofNat 32 stream) (BitVec.ofNat 32 n)

/-- The rounding of element (r, c) of tensor t: by the mode of its descriptor. -/
def Work.rnd (w : Work) (t r c : Nat) : Rnd :=
  if (tensorAt w.pl.image t).stochastic then .dither (topBits (w.draw t r c 0 (w.writes t)) 24) else .near

/-! Counters of a basin's NUM window (03 R73). -/

/-- A NUM counter counts: COUNT_EN is 1 and FREEZE is 0. -/
def countNum (s : State) (b : Nat) (f : Num → Num) : State :=
  if (s.basin b).num.countEn && !(s.basin b).num.freeze then s.setBasin b { s.basin b with num := f (s.basin b).num } else s

/-! Quantising rows. -/

/-- The core or unit that ran the epilogue of an element, by row and column. -/
abbrev CoreOf := Nat → Nat → Nat

/-- What the quantiser made of an output; spillFault: the first overflow that ends the job, as row × 2^32 + segment (R67, R68). -/
structure Written where
  w : Work
  spillFault : Option Nat := none

/-- One write after another; the first overflow counts. -/
def Written.then' (a : Written) (f : Work → Written) : Written :=
  let b := f a.w
  { w := b.w, spillFault := a.spillFault.orElse fun _ => b.spillFault }

/-- An event of operation o from core or unit source. -/
def opEvent (s : State) (code source p o : Nat) (detail : List Byte) : State := raiseEvent s code source p (toLe 4 o ++ detail)

/-- A list of values cut into pieces of n; fuel bounds the pieces. -/
def chunksN {α : Type} : Nat → Nat → List α → List (List α)
  | 0, _, _ => []
  | k + 1, n, xs => if xs.isEmpty then [] else xs.take n :: chunksN k n (xs.drop n)

@[inherit_doc chunksN]
def chunks {α : Type} (n : Nat) (xs : List α) : List (List α) := chunksN (xs.length + 1) (max 1 n) xs

/-- The blocks of one row in format f: values, the rounding of each, θ; static channels are out of the main array. -/
def quantRow (f : Format) (t theta : Word32) (xs : List Word32) (mds : List Rnd) : List QBlock :=
  let b := if f.block = 0 then max 1 xs.length else f.block
  ((chunks b xs).zip (chunks b mds)).map fun e => quantBlock f t theta e.1 e.2

/-- The dynamic outliers of a row by element position. -/
def rowOuts (f : Format) (bs : List QBlock) : List (Nat × Nat) :=
  bs.zipIdx.flatMap fun e => e.1.outs.map fun o => (e.2 * max 1 f.block + o.1, o.2)

/-- The first element of each block of a row that holds a value that is not finite (R40). -/
def badBlocks (f : Format) (bs : List QBlock) : List Nat :=
  bs.zipIdx.filterMap fun e => if e.1.bad then some (e.2 * max 1 f.block) else none

/-- Outliers of segment g. -/
def segOuts (outs : List (Nat × Nat)) (g : Nat) : List (Nat × Nat) := outs.filter fun o => o.1 / 128 == g

/-- A 32-byte side list (R70). -/
def sideBytes (outs : List (Nat × Nat)) : List Byte :=
  let o := outs.take 8
  toLe 1 o.length ++ slice (o.map fun e => BitVec.ofNat 8 (e.1 % 128)) 0 8 ++ List.replicate 7 0
    ++ slice (o.flatMap fun e => toLe 2 e.2) 0 16

/-- The side lists of one row. -/
def rowLists (segs : Nat) (f : Format) (bs : List QBlock) : List Byte :=
  (List.range segs).flatMap fun g => sideBytes (segOuts (rowOuts f bs) g)

/-- Element bytes of some blocks. -/
def blockElems (bs : List QBlock) : List Nat := bs.flatMap QBlock.codes

/-- Scale bytes of some blocks. -/
def blockScales (f : Format) (bs : List QBlock) : List Byte := bs.flatMap fun b => toLe f.scaleBytes b.scale

/-- Zero for the static channels of a row. -/
def maskStatics (st : List Nat) (xs : List Word32) : List Word32 :=
  xs.zipIdx.map fun e => if st.contains e.2 then fzero else e.1

/-- The BF16 values of a row's static channels go to the Spillway (R63). -/
def Work.putStatics (w : Work) (t r : Nat) (st : List Nat) (xs : List Word32) : Work :=
  st.foldl (fun w k => w.put t (staticBase + 2 * (r * 2 ^ 32 + k)) (toLe 2 (toBf16 (xs.getD k fzero)))) w

/-- The basin of an event's source: a core's, or the basin itself. -/
def unitBasin (source : Nat) : Nat := if 0x600 ≤ source then source - 0x600 else coreBasin source

/-- Non-finite blocks are counted and reported (R40), each by the core that ran its epilogue. -/
def Work.reportBad (w : Work) (o : Nat) (cores : List Nat) : Work :=
  { w with s := cores.foldl (fun s core =>
      countNum (opEvent s evNonfiniteQuant core w.p o []) (unitBasin core) fun v => { v with nonfinite := satAdd v.nonfinite 1 }) w.s }

/-- Dynamic outliers written to side lists are counted, each where its block was computed. -/
def Work.countOuts (w : Work) (cores : List Nat) : Work :=
  { w with s := cores.foldl (fun s core =>
      countNum s (unitBasin core) fun v => { v with spillDynamic := satAdd v.spillDynamic 1 }) w.s }

/-- An overflow is counted and reported (R67). FREEZE and COUNT_EN hold SPILL_LAST with the counter (log 162). -/
def Work.reportOverflow (w : Work) (o core tile seg : Nat) : Work :=
  let s1 := opEvent w.s evSpillOverflow core w.p o (toLe 4 tile ++ toLe 4 seg)
  let f := fun (v : Num) =>
    { v with spillOverflow := satAdd v.spillOverflow 1, spillLast := BitVec.ofNat 64 (tile + o * 2 ^ 32) }
  { w with s := countNum s1 (unitBasin core) f }

/-- Rows of a tile in N4 or N8 laid out in a slot (R70): elements, scales, and for N4 the side lists. -/
def slotImage (segs : Nat) (promoted : Bool) (rows : List (List QBlock)) : List Byte :=
  let f := if promoted then fmtN8 else fmtN4
  packElems f.width (rows.flatMap blockElems) ++ rows.flatMap (blockScales f)
    ++ (if promoted then [] else rows.flatMap (rowLists segs f))

/-- A row tile's verdict (R67, R68): the first (row, segment) over capacity. -/
def firstOver (cap cols : Nat) (rows : List (List QBlock)) (f : Format) : Option (Nat × Nat) :=
  (rows.zipIdx.flatMap fun bs => (List.range (segments cols)).map fun g =>
    ((bs.2, g), (segOuts (rowOuts f bs.1) g).length)).findSome? fun e => if cap < e.2 then some e.1 else none

/-- One row of values with its roundings. -/
abbrev Row := List (Word32 × Rnd)

/-- A row padded with zero elements to n (02 R34). -/
def padRow (n : Nat) (r : Row) : Row := r ++ List.replicate (n - r.length) (fzero, .near)

/-- A padded row quantised. -/
def quantPadded (f : Format) (t theta : Word32) (n : Nat) (r : Row) : List QBlock :=
  let q := padRow n r
  quantRow f t theta (q.map Prod.fst) (q.map Prod.snd)

/-- The reports of quantised rows from row number first on: non-finite blocks, and outliers. -/
def Work.reportRows (w : Work) (o first : Nat) (coreOf : CoreOf) (f : Format) (rows : List (List QBlock)) : Work :=
  let bad := rows.zipIdx.flatMap fun r => (badBlocks f r.1).map fun c => coreOf (first + r.2) c
  let outs := rows.zipIdx.flatMap fun r => (rowOuts f r.1).map fun e => coreOf (first + r.2) e.1
  (w.reportBad o bad).countOuts outs

/-- A row tile (in a serving plan a row) of a slotted tensor is written (R67, R68, R70). forced: the tile is written in N8
because a consumer is escalated (R60). The side lists of an N8 form lie outside the slot, which has no room for them. -/
def Work.putSlot (w : Work) (o t : Nat) (coreOf : CoreOf) (first : Nat) (e : EcRec) (forced : Bool) (rows : List Row) : Written :=
  let i := w.pl.image
  let d := tensorAt i t
  let ts := tensorScale d.scale
  let segs := segments d.cols
  let serving := hKind i == 1
  let n4 := rows.map (quantPadded fmtN4 ts e.theta d.cols)
  let tooMany := if forced then none else firstOver e.capacity d.cols n4 fmtN4
  let n8 := rows.map (quantPadded fmtN8 ts 0 (n8Cols d.cols))
  let promoted := forced || tooMany.isSome
  let use := if promoted then n8 else n4
  let fmt := if promoted then fmtN8 else fmtN4
  let off := first / 128 * slotBytes d.cols + (if serving then 132 * segs * (first % 128) else 0)
  let w1 := match tooMany with
    | some x => if e.spillFault then w else w.reportOverflow o (coreOf (first + x.1) (128 * x.2)) (first / 128) x.2
    | none => w
  let w2 := w1.reportRows o first coreOf fmt use
  let size := if serving then 132 * segs else slotBytes d.cols
  let w3 := (w2.put t off (slice (slotImage segs promoted use) 0 size)).put t
    (tileMapOffset d.rows d.cols + (if serving then first else first / 128)) (toLe 1 (if promoted then 0x13 else 0x10))
  let w4 := if promoted then w3.put t (sideBase + 32 * segs * first) (n8.flatMap (rowLists segs fmtN8)) else w3
  let beyond := if promoted then firstOver 8 d.cols n8 fmtN8 else none
  { w := w4, spillFault := (if e.spillFault && tooMany.isSome then tooMany else beyond).map fun x => (first + x.1) * 2 ^ 32 + x.2 }

/-- One row of a tensor without slots is written in format f at these offsets of its elements and scales. -/
def Work.putPlain (w : Work) (o t r : Nat) (coreOf : CoreOf) (f : Format) (elemOff scaleOff cols : Nat) (row : Row) : Written :=
  let d := tensorAt w.pl.image t
  let row := padRow cols row
  match f.elem with
  | .float g =>
    { w := w.put t (elemOff + r * cols * f.width / 8) (packElems f.width (row.map fun e => quantFloat g e.2 e.1)) }
  | _ =>
    let bs := quantRow f (tensorScale d.scale) 0 (row.map Prod.fst) (row.map Prod.snd)
    let w1 := (w.put t (elemOff + r * cols * f.width / 8) (packElems f.width (blockElems bs))).put t
      (scaleOff + r * (cols / max 1 f.block) * f.scaleBytes) (if f.scaled then blockScales f bs else [])
    let w2 := w1.put t (sideBase + 32 * segments cols * r) (rowLists (segments cols) f bs)
    let w3 := if f.scaled then w2.reportRows o r (fun _ => coreOf r) f [bs]
      else (w2.reportBad o (row.zipIdx.filterMap fun e => if fbad e.1.1 then some (coreOf r e.2) else none)).countOuts
        ((rowOuts f bs).map fun e => coreOf r e.1)
    { w := w3, spillFault := (firstOver 8 cols [bs] f).map fun x => r * 2 ^ 32 + x.2 }

/-! Error feedback (03 R71). -/

/-- v := x + deq(e), elementwise. -/
def addResidual (xs es : List Word32) : List Word32 := List.zipWith fadd xs es

/-- The new residual of a row: v less what the output now holds, without non-finite values, in N4. What an outlier holds is its
Spillway value (log 161); an element of the residual beyond 7 × 448 × t becomes code 0, as it has no Spillway (log 160). -/
def Work.putResidual (w : Work) (e t r : Nat) (vs : List Word32) : Work :=
  let d := tensorAt w.pl.image e
  let now := w.rowValues t r vs.length
  let rs := (List.zipWith fsub vs now).map fun x => if fbad x then fzero else x
  let bs := quantPadded fmtN4 (tensorScale d.scale) 0 d.cols (rs.map fun x => (x, Rnd.near))
  (w.put e (r * d.cols / 2) (packElems 4 (blockElems bs))).put e
    (scaleOffset fmtN4 d.rows d.cols + r * (d.cols / 16)) (blockScales fmtN4 bs)

/-- Row r of tensor t is written in N8, because an operation that streams it is escalated for the row (R60, R69). -/
def Work.forced (w : Work) (t r : Nat) : Bool := (w.escalated r).any fun o => (opAt w.pl.image o).streamed == t

/-- One row of a tensor without slots, in its N8 form or its own (R60). -/
def Work.putRow (w : Work) (o t r : Nat) (coreOf : CoreOf) (row : Row) : Written :=
  let d := tensorAt w.pl.image t
  let f := tensorFmt w.pl.image t
  if w.forced t r && f.code != 0x13 then
    (w.put t (wideTagBase + r) [1]).putPlain o t r coreOf fmtN8 wideBase (wideScales d.rows d.cols) (n8Cols d.cols) row
  else
    (if w.isWide t r then w.put t (wideTagBase + r) [0] else w).putPlain o t r coreOf f 0 (scaleOffset f d.rows d.cols) d.cols row

/-- Zeros from the end of tensor t's arrays to the end of their tiles (08 R188), and after its tile map (03 R70). -/
def Work.zeroTails (w : Work) (t : Nat) : Work :=
  let d := tensorAt w.pl.image t
  let f := tensorFmt w.pl.image t
  if slotted w.pl.image t then
    w.zeroTail t (tileMapOffset d.rows d.cols + (if hKind w.pl.image = 1 then d.rows else ceilDiv d.rows 128))
  else
    let w1 := w.zeroTail t (elemBytes f d.rows d.cols)
    if f.scaled then w1.zeroTail t (plainBytes f d.rows d.cols) else w1

/-- The results of operation o are written to tensor t through its quantiser (R35 to R40, R59, R63, R67 to R71): rows of FP32
values, the core that ran each element's epilogue, the error-control record. -/
def Work.writeTensor (w : Work) (o t : Nat) (e : EcRec) (coreOf : CoreOf) (rows : List (List Word32)) : Written :=
  let i := w.pl.image
  let st := staticsOf i t
  let resid := if e.residual = noIndex || hTensors i ≤ e.residual then none else some e.residual
  let w0 := w.putCopies t (some o) rows
  let vs := rows.zipIdx.map fun r => match resid with
    | some k => addResidual r.1 (w.rowValues k r.2 r.1.length)
    | none => r.1
  let w1 := vs.zipIdx.foldl (fun (w : Work) (r : List Word32 × Nat) => w.putStatics t r.2 st r.1) w0
  let main : List Row := vs.zipIdx.map fun r => (maskStatics st r.1).zipIdx.map fun c => (c.1, w.rnd t r.2 c.2)
  let out :=
    if slotted i t then
      let per := if hKind i = 1 then 1 else 128
      (chunks per main).zipIdx.foldl (fun (acc : Written) (tl : List Row × Nat) =>
        acc.then' fun w => w.putSlot o t coreOf (tl.2 * per) e (w.forced t (tl.2 * per)) tl.1) { w := w1 }
    else
      main.zipIdx.foldl (fun (acc : Written) (r : Row × Nat) => acc.then' fun w => w.putRow o t r.2 coreOf r.1) { w := w1 }
  let w3 := match resid with
    | some k => (vs.zipIdx.foldl (fun (w : Work) (r : List Word32 × Nat) => w.putResidual k t r.2 r.1) out.w).zeroTails k
    | none => out.w
  { out with w := (w3.zeroTails t).wrote t }

end Sys2Proof.Machine
end

