-- ==== Sys2Proof/Machine/Pages.lean ====
section
/-! DEFINITION. Sys2Proof/Machine/Pages.lean: the keys and values in the pages of a serving plan (07 R149, R155, R156). -/

namespace Sys2Proof.Machine

/-! The layout of a page (R155). -/

/-- The key and value formats of a serving plan. -/
def pageKeyFmt (i : List Byte) : Format := (formatOf (vKeyFmt i)).getD fmtBf16
@[inherit_doc pageKeyFmt]
def pageValFmt (i : List Byte) : Format := (formatOf (vValFmt i)).getD fmtBf16

/-- Element bytes of one layer's keys or values: 64 positions of 128 elements for each head. -/
def pageElems (i : List Byte) (f : Format) : Nat := vHeads i * 64 * 128 * f.width / 8

/-- Scale bytes of one layer's keys or values; none for BF16. -/
def pageScales (i : List Byte) (f : Format) : Nat := if f.scaled then vHeads i * 64 * (128 / f.block) * f.scaleBytes else 0

/-- Tiles of the four regions of a layer, in order: key elements, value elements, key scales, value scales. -/
def pageRegions (i : List Byte) : List Nat :=
  [pageElems i (pageKeyFmt i), pageElems i (pageValFmt i), pageScales i (pageKeyFmt i), pageScales i (pageValFmt i)].map
    fun n => ceilDiv n 4096

/-- Tiles of a page: its header, then the regions of each layer. -/
def pageTiles (i : List Byte) : Nat := 1 + vLayers i * (pageRegions i).sum

/-- Byte offset of region k of a layer. -/
def regionOffset (i : List Byte) (layer k : Nat) : Nat :=
  4096 * (1 + layer * (pageRegions i).sum + ((pageRegions i).take k).sum)

/-- The element of column c (head, then dimension) of slot s of a page, counted in its region. -/
def pageElem (s c : Nat) : Nat := (c / 128 * 64 + s) * 128 + c % 128

/-! Reading and writing positions. -/

/-- A byte of a page. -/
def Page.byte (g : Page) (off : Nat) : Byte := Mem.read g.data off

/-- The page that holds a position of the request in a slot. -/
def Work.pageOf (w : Work) (slot pos : Nat) : Option (Nat × Page) :=
  match w.s.request w.p w.j.handle slot with
  | some r => (r.pages[pos / 64]?).bind fun n => (Tab.find w.pl.pages n).map fun g => (n, g)
  | none => none

/-- A key or value of a layer as a resident row of heads × 128 columns. -/
def pageRow (i : List Byte) (g : Page) (layer : Nat) (value : Bool) (s : Nat) : RowView :=
  let f := if value then pageValFmt i else pageKeyFmt i
  let eo := regionOffset i layer (if value then 1 else 0)
  let so := regionOffset i layer (if value then 3 else 2)
  rowView f fone (fun c => unpackElem f.width (fun b => g.byte (eo + b)) (pageElem s c))
    (fun c => (g.byte (so + pageElem s c / max 1 f.block)).toNat) [] (fun _ => 0) [] false

/-- The key or value of position pos of the request in a slot. A position without a page reads as zeros: no step has computed
it, and no row attends to it. -/
def Work.storedRow (w : Work) (slot layer : Nat) (value : Bool) (pos : Nat) : RowView :=
  match w.pageOf slot pos with
  | some e => pageRow w.pl.image e.2 layer value (pos % 64)
  | none => rowView fmtBf16 fone (fun _ => 0) (fun _ => 0) [] (fun _ => 0) [] false

/-- One token's key or value of a layer written to a page (R149, R156): head by head, quantised from its FP32 values with tensor
scale 1.0; the first column of each block that held a value that is not finite (R40). A page has no side lists: an element
beyond the largest scale is written as code 0 (log 168). -/
def Page.put (i : List Byte) (g : Page) (layer : Nat) (value : Bool) (s : Nat) (xs : List Word32) : Page × List Nat :=
  let f := if value then pageValFmt i else pageKeyFmt i
  let eo := regionOffset i layer (if value then 1 else 0)
  let so := regionOffset i layer (if value then 3 else 2)
  (List.range (vHeads i)).foldl (fun (acc : Page × List Nat) h =>
    let v := (List.range 128).map fun d => xs.getD (128 * h + d) fzero
    let at' := pageElem s (128 * h)
    let elems := eo + at' * f.width / 8
    let data := acc.1.data
    match f.elem with
    | .float e => ({ acc.1 with data := Mem.writeN data elems (packElems f.width (v.map fun x => quantFloat e .near x)) }, acc.2)
    | _ =>
      let bs := quantRow f fone 0 v (v.map fun _ => Rnd.near)
      let d1 := Mem.writeN data elems (packElems f.width (blockElems bs))
      ({ acc.1 with data := Mem.writeN d1 (so + at' / max 1 f.block) (blockScales f bs) },
        acc.2 ++ (badBlocks f bs).map (128 * h + ·))) (g, [])

/-- The ranges, offset and length, that one token's key or value of a layer is written to: for each head its elements, and its
scales where the format has them. -/
def pageWrites (i : List Byte) (layer : Nat) (value : Bool) (s : Nat) : List (Nat × Nat) :=
  let f := if value then pageValFmt i else pageKeyFmt i
  let eo := regionOffset i layer (if value then 1 else 0)
  let so := regionOffset i layer (if value then 3 else 2)
  (List.range (vHeads i)).flatMap fun h =>
    let at' := pageElem s (128 * h)
    (eo + at' * f.width / 8, 16 * f.width) ::
      (if f.scaled then [(so + at' / max 1 f.block, 128 / max 1 f.block * f.scaleBytes)] else [])

/-- The bytes of those writes are counted where the TM40 placed the page (08 R204). -/
def Work.countPage (w : Work) (page layer : Nat) (value : Bool) (s : Nat) : State :=
  (pageWrites w.pl.image layer value s).foldl
    (fun st e => countWritten st w.p (Config.pagePlace (planKey w.pl.part w.pl.handle) page + e.1) e.2) w.s

/-- The results of operation o for row r of the step enter the page of its position, where they are the keys or values of a layer. -/
def Work.putPosition (w : Work) (o r : Nat) (coreOf : CoreOf) (xs : List Word32) : Work :=
  match w.owner r with
  | none => w
  | some q =>
    (List.range (vLayers w.pl.image)).foldl (fun (w : Work) layer =>
      [false, true].foldl (fun (w : Work) value =>
        let ops := Config.pageOps w.pl.image layer
        if (if value then ops.2 else ops.1) != o then w
        else match w.pageOf q.slot q.pos with
          | some e =>
            let g := e.2.put w.pl.image layer value (q.pos % 64) xs
            let w1 : Work := { w with s := w.countPage e.1 layer value (q.pos % 64),
                                      pl := { w.pl with pages := Tab.put w.pl.pages e.1 g.1 } }
            w1.reportBad o (g.2.map (coreOf r))
          | none => w) w) w

/-- The rows of a serving step enter their pages. -/
def Work.putPages (w : Work) (o : Nat) (coreOf : CoreOf) (rows : List (List Word32)) : Work :=
  if w.j.serving then rows.zipIdx.foldl (fun (w : Work) (e : List Word32 × Nat) => w.putPosition o e.2 coreOf e.1) w else w

/-- The layer of the pages that a paged attention operation reads: its place among the plan's paged attention operations
(log 169). -/
def pagedLayer (i : List Byte) (o : Nat) : Nat :=
  ((List.range o).filter fun q => (opAt i q).kind == 4 && bitOf (leAt (paramBytes i (opAt i q).params 64) 0 1) 3).length

end Sys2Proof.Machine
end

