-- ==== Sys2Proof/Machine/Compute.lean ====
section
/-! DEFINITION. Sys2Proof/Machine/Compute.lean: what the strips of an operation compute: array products and convolutions (02
R42 to R46, 03 R63 to R66, 04 R75, R81 to R87), attention (05 R111, 07 R145 to R152, R171), pooling (04 R89), normalisation
(02 R51, 05 R113), softmax (05 R112), element-wise rules (09 R214, R215, R446), and the epilogue (05 R107 to R109,
R114). -/

namespace Sys2Proof.Machine

/-- The active table bank of a basin's cores (05 R117). -/
def Work.bank (w : Work) (b : Nat) : TableBank := ((w.s.basin b).sfu).bank

/-- The special-function unit of a basin in native or F2 mode. -/
def Work.sfu (w : Work) (b : Nat) (f2 : Bool) : SfUnit := { bank := w.bank b, f2 := f2 }

/-- An operation runs in F2 mode (05 R113, R115). -/
def f2Of (i : List Byte) (r : OpRec) : Bool := r.function != noIndex && (fnAt i r.function).f2

/-- The values of a row or of a strip, what the special-function unit delivered, and the blocks that met R40 on the way. -/
structure RowOut where
  values : List Word32
  tally : Tally := {}
  bad : Nat := 0
  deriving DecidableEq, Repr

/-- Rows one after another. -/
def RowOut.concat (rs : List RowOut) : RowOut :=
  { values := rs.flatMap RowOut.values, tally := (rs.map RowOut.tally).foldl Tally.add {}, bad := (rs.map RowOut.bad).sum }

/-! Array products. -/

/-- One tap of one output element: the streamed row, its first column, the resident column. -/
structure Tap where
  str : RowView
  base : Nat
  res : RowView

/-- The exact value of element k without its tensor scale: an outlier's own, else v × s (02 R43, 03 R65). -/
def RowView.exact (v : RowView) (k : Nat) : XR :=
  match v.outs.find? fun e => e.1 == k with
  | some e => e.2
  | none => (v.val k).mul (v.scl k)

/-- A resident operand's column under a tap: a row of the tensor, or where the operation is escalated for output row r its N8
form (03 R60). -/
def Work.weights (w : Work) (o r row : Nat) : RowView :=
  let rec' := opAt w.pl.image o
  if (w.escalated r).contains o then
    let d := tensorAt w.pl.image rec'.resident
    let xs := (List.range rec'.k).map fun k => (rne32 (bf16.decode (Config.masterWeight w.pl.image o row k).toNat), Rnd.near)
    let bs := quantPadded fmtN8 (tensorScale d.scale) 0 (n8Cols rec'.k) xs
    let outs := rowOuts fmtN8 bs
    rowView fmtN8 d.scale (fun k => (blockElems bs).getD k 0) (fun k => (bs.map QBlock.scale).getD (k / 32) 0) [] (fun _ => 0)
      (outs.map fun e => (e.1, bf16.decode e.2)) false
  else w.row rec'.resident row

/-- The taps of output element (r, c) in order; none where a tap takes no part. -/
def Work.tapsOf (w : Work) (o r c : Nat) : List (Option Tap) :=
  let rec' := opAt w.pl.image o
  if rec'.kind = 1 then [some { str := w.row rec'.streamed r, base := 0, res := w.weights o r c }]
  else
    let b := paramBytes w.pl.image rec'.params 64
    let axes := convAxes b
    let base := if rec'.kind = 3 then c / cWidth b * cWidth b else 0
    (List.range (taps axes)).map fun tau => (tapRow axes r tau).map fun q =>
      { str := w.row rec'.streamed q, base := base, res := w.weights o r (tau * rec'.n + c) }

/-- Static channels of operation o with the BF16 weight of each for column c (03 R63). -/
def staticWeights (i : List Byte) (o c : Nat) : List (Nat × XR) :=
  (staticList i o).zipIdx.map fun e =>
    (e.1, bf16.decode (leAt i (hDataOff i + (ecAt i o).weightOff + 2 * (e.2 * (opAt i o).n + c)) 2))

/-- The exact sum over one group of the products of two rows, outliers of either with them (02 R43, R44, 03 R65, R66):
elements s0 .. s0 + len − 1 of the streamed row and r0 .. of the resident. A NaN scale makes its block's products NaN (R29). -/
def groupSum (str res : RowView) (s0 r0 len : Nat) : XR :=
  (List.range len).foldl (fun a k => a.add ((str.exact (s0 + k)).mul (res.exact (r0 + k)))) (XR.nat 0)

/-- The exact term of one group of a tap, with its static channels (03 R66). -/
def groupTerm (t : Tap) (stat : List (Nat × XR)) (k0 len : Nat) : XR :=
  (stat.filter fun e => t.base + k0 ≤ e.1 && e.1 < t.base + k0 + len).foldl (fun a e => a.add ((t.str.stat e.1).mul e.2))
    (groupSum t.str t.res (t.base + k0) k0 len)

/-- The contraction of one tap in elements: the group's width in a grouped convolution. -/
def tapWidth (i : List Byte) (r : OpRec) : Nat := if r.kind = 3 then cWidth (paramBytes i r.params 64) else r.k

/-- The FP32 accumulator of part p of output element (r, c) (02 R44, R45, 04 R75): groups in ascending order of (tap, K). Every
tap counts its groups, K padded to whole ones, whether it takes part or not. -/
def Work.partValue (w : Work) (o r c p : Nat) : Word32 :=
  let rec' := opAt w.pl.image o
  let width := tapWidth w.pl.image rec'
  let ts := w.tapsOf o r c
  let stat := staticWeights w.pl.image o c
  let size := groupSize (tensorFmt w.pl.image rec'.streamed) (tensorFmt w.pl.image rec'.resident)
  let perTap := ceilDiv width size
  let per := ts.length * perTap / rec'.parts
  ts.zipIdx.foldl (fun acc e => match e.1 with
    | none => acc
    | some t =>
      let g := min t.str.group t.res.group
      (List.range (ceilDiv width g)).foldl (fun acc q =>
        let k0 := q * g
        let at' := e.2 * perTap + k0 / size
        if p * per ≤ at' && at' < (p + 1) * per then rne32 ((f32 acc).add (groupTerm t stat k0 (min g (width - k0))))
        else acc) acc) fzero

/-- The tensor scales of an array product (02 R44), of every format: R27 gives one to the block-scaled formats and INT8, the
procedure of R44 multiplies by both (log 156). -/
def Work.tensorScales (w : Work) (o : Nat) : Word32 :=
  let r := opAt w.pl.image o
  fmul (tensorScale (tensorAt w.pl.image r.streamed).scale) (tensorScale (tensorAt w.pl.image r.resident).scale)

/-- The second phase: parts by the tree, then the tensor scales. -/
def Work.combineParts (w : Work) (o : Nat) (parts : List Word32) : Word32 :=
  fmul (treeSum (opAt w.pl.image o).logParts parts) (w.tensorScales o)

/-! Attention. -/

def aMask (b : List Byte) : Nat := bitsOf (leAt b 0 1) 0 3
def aPaged (b : List Byte) : Bool := bitOf (leAt b 0 1) 3
def aScale (b : List Byte) : Word32 := let v := BitVec.ofNat 32 (leAt b 4 4); if zero32 v then 0x3DB504F3 else v
def aHeads (b : List Byte) : Nat := leAt b 8 2
def aKvHeads (b : List Byte) : Nat := leAt b 10 2
def aKeys (b : List Byte) : Nat := leAt b 40 4
def aValues (b : List Byte) : Nat := leAt b 44 4

/-- Distance of two numbers. -/
def dist (a b : Nat) : Nat := max a b - min a b

/-- The element mask keeps query i and key j (R150). -/
def maskKeeps (b : List Byte) (i j : Nat) : Bool :=
  match aMask b with
  | 1 => j ≤ i
  | 2 => i < j + leAt b 12 4 && j ≤ i
  | 3 =>
    let g := leAt b 28 4
    let fw := leAt b 16 2
    let fh := leAt b 18 2
    let pi := i - g
    let pj := j - g
    j < g || i < g || (dist (pi / (fw * fh)) (pj / (fw * fh)) ≤ leAt b 20 2
      && dist (pi / fw % fh) (pj / fw % fh) ≤ leAt b 22 2 && dist (pi % fw) (pj % fw) ≤ leAt b 24 2)
  | _ => true

/-- The key tiles that query tile q visits (R151), of m query rows and n keys. -/
def visited (img : List Byte) (r : OpRec) (b : List Byte) (q n : Nat) : List Nat :=
  let skip := leAt b 32 8
  if skip = 0 then
    (List.range (ceilDiv n 128)).filter fun t =>
      (List.range 128).any fun i => 128 * q + i < r.m
        && (List.range 128).any fun j => 128 * t + j < n && maskKeeps b (128 * q + i) (128 * t + j)
  else (List.range (ceilDiv n 128)).filter fun t =>
    (List.range (skipCount img skip q)).any fun k => let e := skipRange img skip q k; e.1 ≤ t && t ≤ e.2

/-- What one query row attends to: its position, the key length, its tiles in order, keys and values by position, their tensor
scales. -/
structure KeySource where
  pos : Nat
  count : Nat
  tiles : List Nat
  key : Nat → RowView
  value : Nat → RowView
  keyScale : Word32
  valueScale : Word32

/-- The keys of query row i: the named tensors; or, of a row of a serving step, its own sequence's through its position by the
causal mask (R171), in the tiles that hold a pair it keeps, so that no other row of the step has a part in them (R172). -/
def Work.keysOf (w : Work) (o i : Nat) : KeySource :=
  let img := w.pl.image
  let r := opAt img o
  let b := paramBytes img r.params 64
  match if aPaged b then w.owner i else none with
  | some q =>
    let l := pagedLayer img o
    let n := q.pos + 1
    { pos := q.pos, count := n, keyScale := fone, valueScale := fone
      tiles := (List.range (ceilDiv n 128)).filter fun t =>
        (List.range 128).any fun j => 128 * t + j < n && maskKeeps b q.pos (128 * t + j)
      key := w.storedRow q.slot l false, value := w.storedRow q.slot l true }
  | none =>
    let n := (tensorAt img (aKeys b)).rows
    { pos := i, count := n, tiles := visited img r b (i / 128) n, key := w.row (aKeys b), value := w.row (aValues b),
      keyScale := tensorScale (tensorAt img (aKeys b)).scale, valueScale := tensorScale (tensorAt img (aValues b)).scale }

/-- A key with a narrower format than the query, widened to BF16 (R148). -/
def widened (v : RowView) : RowView := { v with group := 1, val := fun c => (v.val c).mul (v.scl c), scl := fun _ => XR.nat 1 }

/-- The score of a query row and a key for query head h (R148), the Spillway products of R65 among its groups. -/
def Work.score (w : Work) (r : OpRec) (b : List Byte) (q k0 : RowView) (keyScale : Word32) (h : Nat) : Word32 :=
  let k := if q.group = 1 && k0.group != 1 then widened k0 else k0
  let g := min q.group k.group
  let kb := 128 * (h * aKvHeads b / aHeads b)
  let acc := (List.range (128 / g)).foldl (fun acc x =>
    rne32 ((f32 acc).add (groupSum q k (128 * h + x * g) (kb + x * g) g))) fzero
  let ts := fmul (tensorScale (tensorAt w.pl.image r.streamed).scale) keyScale
  fmul (fmul acc ts) (aScale b)

/-- The running state of one query row's online softmax (05 R111), with what the unit delivered and the blocks of pd that met
R40. -/
structure Online where
  m : Word32
  l : Word32
  o : List Word32
  tally : Tally := {}
  bad : Nat := 0
  deriving DecidableEq, Repr

/-- pd of a tile: exact values by position, the dequantised values, and the blocks that met R40. -/
def probs (wide : Bool) (ps : List Word32) : (Nat → XR) × List Word32 × Nat :=
  if wide then
    let bs := ps.map fun p => bf16.decode (quantFloat bf16 .near p)
    (fun k => bs.getD k (XR.nat 0), bs.map rne32, 0)
  else
    let bs := quantRow fmtN8 fone 0 ps (ps.map fun _ => Rnd.near)
    let cs := blockElems bs
    let ss := bs.map QBlock.scale
    (fun k => (fmtN8.value (cs.getD k 0)).mul (scaleValue .e4m3 (ss.getD (k / 32) 0)), bs.flatMap (dequantBlock fmtN8 fone),
      (bs.filter QBlock.bad).length)

/-- One key tile of the online softmax (R111, R149). -/
def Work.onlineTile (w : Work) (u : SfUnit) (r : OpRec) (b : List Byte) (q : RowView) (h : Nat) (ks : KeySource) (st : Online)
    (t : Nat) : Online :=
  let ss := (List.range 128).map fun j =>
    if 128 * t + j < ks.count && maskKeeps b ks.pos (128 * t + j) then w.score r b q (ks.key (128 * t + j)) ks.keyScale h
    else fninf
  let mn := ss.foldl fmax st.m
  if mn = fninf then st
  else
    let c := u.rescale st.m mn
    let wide := leAt b 3 1 == 0x02
    let ps := ss.map fun s => u.call 1 (fsub s mn)
    let pd := probs wide (ps.map Prod.fst)
    let g := if wide then 1 else 32
    let vb := 128 * (h * aKvHeads b / aHeads b)
    let vs := (List.range (min 128 (ks.count - 128 * t))).map fun j => ks.value (128 * t + j)
    let o := st.o.zipIdx.map fun e =>
      let acc := (List.range (128 / g)).foldl (fun acc x =>
        let s := (List.range g).foldl (fun a k => match vs[x * g + k]? with
          | some v => a.add ((pd.1 (x * g + k)).mul (v.exact (vb + e.2)))
          | none => a) (XR.nat 0)
        rne32 ((f32 acc).add s)) fzero
      fadd (fmul e.1 c.1) (fmul acc ks.valueScale)
    { m := mn, l := fadd (fmul st.l c.1) (rowSum pd.2.1), o := o, tally := (st.tally.add c.2).add (tallyOf ps),
      bad := st.bad + pd.2.2 }

/-- Head h of query row i (R111), by a core of basin bn. -/
def Work.attentionRow (w : Work) (bn o i h : Nat) : RowOut :=
  let r := opAt w.pl.image o
  let b := paramBytes w.pl.image r.params 64
  let u := w.sfu bn (f2Of w.pl.image r)
  let ks := w.keysOf o i
  let st := ks.tiles.foldl (w.onlineTile u r b (w.row r.streamed i) h ks) { m := fninf, l := fzero, o := List.replicate 128 fzero }
  if zero32 st.l then { values := st.o.map fun _ => fzero, tally := st.tally, bad := st.bad }
  else
    let e := u.call 5 st.l
    { values := st.o.map fun x => fmul x e.1, tally := st.tally.add (tallyOf [e]), bad := st.bad }

/-! Pooling, normalisation, softmax, element-wise rules. -/

/-- Output element (r, c) of a pooling operation (04 R89). -/
def Work.pool (w : Work) (o r c : Nat) : Word32 :=
  let rec' := opAt w.pl.image o
  let b := paramBytes w.pl.image rec'.params 48
  let axes := poolAxes b
  let xs := (List.range (taps axes)).filterMap fun tau => (tapRow axes r tau).map fun q => (w.row rec'.streamed q).deq c
  if bitOf (leAt b 0 1) 0 then
    let count := if bitOf (leAt b 0 1) 1 then taps axes else xs.length
    if count = 0 then fzero else fdiv (xs.foldl fadd fzero) (fnat count)
  else if xs.isEmpty then fzero else xs.foldl fmax fninf

/-- eps of a normalisation: 0 selects the default (02 R51). -/
def normEps (e : Word32) : Word32 := if zero32 e then 0x3727C5AC else e

/-- Row r of a normalisation by a core of basin bn (R51, R113): its statistics, then gain and bias by one FMA. -/
def Work.normRow (w : Work) (bn o r : Nat) : Normed :=
  let rec' := opAt w.pl.image o
  let c := Config.normChoice w.pl.image o
  let eps := normEps c.2.2.1
  let u := w.sfu bn (f2Of w.pl.image rec')
  let xs := w.rowValues rec'.streamed r rec'.n
  let t : Normed := match c.1 with
    | 0 => layerRow u eps xs
    | 1 => rmsRow u eps xs
    | _ =>
      let g := max 1 (rec'.n / max 1 c.2.1)
      let parts := (List.range (ceilDiv rec'.n g)).map fun k =>
        let all := (List.range rec'.m).flatMap fun p => slice' (w.rowValues rec'.streamed p rec'.n) (k * g) g
        let v := layerRow u eps all
        { v with values := slice' v.values (r * g) g }
      { values := (parts.flatMap Normed.values).take rec'.n, overflow := parts.any Normed.overflow,
        tally := (parts.map Normed.tally).foldl Tally.add {} }
  let gain := fun k => if c.2.2.2.1 < hTensors w.pl.image then w.vec c.2.2.2.1 k else fone
  let bias := fun k => if c.2.2.2.2 < hTensors w.pl.image then w.vec c.2.2.2.2 k else fzero
  { t with values := t.values.zipIdx.map fun e => ffma e.1 (gain e.2) (bias e.2) }
where
  /-- n values from position k. -/
  slice' (xs : List Word32) (k n : Nat) : List Word32 := (xs.drop k).take n

/-- Row r of a softmax (05 R112). -/
def Work.softRow (w : Work) (bn o r : Nat) : RowOut :=
  let rec' := opAt w.pl.image o
  let t := softmaxRow (w.sfu bn (f2Of w.pl.image rec')) (w.rowValues rec'.streamed r rec'.n)
  { values := t.1, tally := t.2 }

/-- Element (r, c) of an element-wise operation before its function record (09 R446). -/
def Work.elementwise (w : Work) (bn o r c : Nat) : Word32 :=
  let rec' := opAt w.pl.image o
  let b := paramBytes w.pl.image rec'.params 32
  let kind := bitsOf (leAt b 0 1) 0 3
  let p0 : Word32 := BitVec.ofNat 32 (leAt b 12 4)
  let p1 : Word32 := BitVec.ofNat 32 (leAt b 16 4)
  let stream := if leAt b 4 4 != 0 then leAt b 4 4 else if kind = 3 then 1 else 3
  let d := w.draw rec'.output r c stream (if stream = 3 then 0 else w.writes rec'.output)
  let r1 := topBits d 24
  let a := (w.row rec'.streamed r).deq c
  match kind with
  | 0 => a
  | 1 => fadd a ((w.row (leAt b 8 4) r).deq c)
  | 2 => fmul a ((w.row (leAt b 8 4) r).deq c)
  | 3 =>
    if ((XR.nat r1).lt (XR.int ((f32 p0).shift 24).floor)) then fzero
    else fmul a (BitVec.ofNat 32 (fp32.encode (divRound fp32 .near (XR.nat 1) ((XR.nat 1).sub (f32 p0)))))
  | 4 => rne32 ((f32 p0).add (f32 (rne32 (((f32 p1).sub (f32 p0)).mul (.fin false (2 * r1 + 1) (-25))))))
  | _ =>
    let u := w.sfu bn false
    let u1 := rne32 (.fin false (2 * r1 + 1) (-25))
    let u2 : XR := .fin false (bitsOf d.toNat 80 24) (-24)
    let z := fmul (u.fn 7 (rne32 ((XR.int (-2)).mul (f32 (u.fn 3 u1))))) (u.fn 0x0F (rne32 ((f32 0x40C90FDB).mul u2)))
    rne32 ((f32 p0).add (f32 (fmul p1 z)))

/-! Strips. -/

/-- The row block, column block and part of a strip index (06 R135). -/
def stripPlace (r : OpRec) (strip : Nat) : Nat × Nat × Nat :=
  (strip / r.parts / stripColBlocks r, strip / r.parts % stripColBlocks r, strip % r.parts)

/-- Rows of a row block. -/
def blockRows (r : OpRec) (rb : Nat) : List Nat :=
  (List.range (min r.stripRows (r.m - rb * r.stripRows))).map (rb * r.stripRows + ·)

/-- Columns of a column block; a normalisation or softmax strip has whole rows. -/
def blockCols (r : OpRec) (cb : Nat) : List Nat :=
  if r.kind = 6 || r.kind = 7 then List.range r.n else (List.range (min 128 (r.n - cb * 128))).map (cb * 128 + ·)

/-- One row of a strip before the epilogue (04 R75), by a core of basin bn. -/
def Work.stripRow (w : Work) (bn o r cb part : Nat) : RowOut :=
  let rec' := opAt w.pl.image o
  match rec'.kind with
  | 0x04 => w.attentionRow bn o r cb
  | 0x05 => { values := (blockCols rec' cb).map fun c => w.pool o r c }
  | 0x06 => let t := w.normRow bn o r; { values := t.values, tally := t.tally }
  | 0x07 => w.softRow bn o r
  | 0x09 => { values := (blockCols rec' cb).map fun c => w.elementwise bn o r c }
  | _ => { values := (blockCols rec' cb).map fun c =>
      let v := w.partValue o r c part
      if rec'.parts = 1 then w.combineParts o [v] else v }

/-- The rows of a strip that exist: in a serving plan those of the step. -/
def Work.stripRows (w : Work) (o strip : Nat) : List Nat :=
  let r := opAt w.pl.image o
  (blockRows r (stripPlace r strip).1).filter fun x => x < w.liveRows r.m

/-- The results of a strip in row order: values y of R44, or part values (06 R140). -/
def Work.strip (w : Work) (bn o strip : Nat) : RowOut :=
  let at' := stripPlace (opAt w.pl.image o) strip
  RowOut.concat ((w.stripRows o strip).map fun r => w.stripRow bn o r at'.2.1 at'.2.2)

/-! Invalid codes and tags (02 R31, 03 R70). -/

/-- The rows of tensors that a strip streams or reads beside its resident operand: tensor and row. -/
def Work.rowsRead (w : Work) (o strip : Nat) : List (Nat × Nat) :=
  let i := w.pl.image
  let r := opAt i o
  let b := paramBytes i r.params 64
  (w.stripRows o strip).flatMap fun q =>
    let rows := match r.kind with
      | 0x05 => (List.range (taps (poolAxes b))).filterMap fun tau => tapRow (poolAxes b) q tau
      | _ => inputRows i o q
    let keys := if r.kind = 4 && !aPaged b then
        (w.keysOf o q).tiles.flatMap fun t =>
          (List.range (min 128 ((tensorAt i (aKeys b)).rows - 128 * t))).flatMap fun j =>
            [(aKeys b, 128 * t + j), (aValues b, 128 * t + j)]
      else []
    let second := if r.kind = 9 && within (bitsOf (leAt b 0 1) 0 3) 1 2 then [(leAt b 8 4, q)] else []
    let gate := if r.function = noIndex then [] else [((fnAt i r.function).gate, q)]
    rows.map (fun x => (r.streamed, x)) ++ keys ++ second ++ gate

/-- The rows of the resident operand that a strip loads: the columns of its block under every tap that some row takes part in. -/
def Work.residentRows (w : Work) (o strip : Nat) : List Nat :=
  let i := w.pl.image
  let r := opAt i o
  let cols := blockCols r (stripPlace r strip).2.1
  if r.kind = 1 then cols
  else
    let axes := convAxes (paramBytes i r.params 64)
    (List.range (taps axes)).flatMap fun tau =>
      if (w.stripRows o strip).any fun q => (tapRow axes q tau).isSome then cols.map (tau * r.n + ·) else []

/-- A strip read an invalid N3 or N2T code in its resident operand, or a row under a corrupt tag. -/
def Work.stripBad (w : Work) (o strip : Nat) : Bool :=
  let i := w.pl.image
  let r := opAt i o
  let f := tensorFmt i r.resident
  let badRes := within r.kind 1 3 && r.resident < hTensors i && (f.code == 0x11 || f.code == 0x12)
    && (w.residentRows o strip).any fun c => (List.range (tapWidth i r)).any fun k =>
      f.badCode (w.codeAt r.resident f 0 (c * (tensorAt i r.resident).cols) k)
  let badTag := fun (e : Nat × Nat) => e.1 < hTensors i && (w.row e.1 e.2).badTag
  badRes || (w.rowsRead o strip).any badTag
    || (within r.kind 1 3 && r.resident < hTensors i && slotted i r.resident
      && (w.residentRows o strip).any fun c => badTag (r.resident, c))

/-- A normalisation strip reports R52. -/
def Work.stripNormOver (w : Work) (bn o strip : Nat) : Bool :=
  (opAt w.pl.image o).kind == 6 && (w.stripRows o strip).any fun q => (w.normRow bn o q).overflow

/-! The epilogue of a whole execution. -/

/-- The results of a strip of part 0 as combined (06 R140). -/
def Work.combined (w : Work) (e : Exec) (rec' : OpRec) (first : Nat) : List Word32 :=
  let ps := (List.range rec'.parts).map fun p => Tab.get e.parts (first + p) []
  (List.range ((ps.headD []).length)).map fun k => w.combineParts e.op (ps.map fun xs => xs.getD k fzero)

/-- Row r of the output from the strips' results. -/
def outRow (rec' : OpRec) (values : Tab (List Word32)) (r : Nat) : List Word32 :=
  let rb := r / rec'.stripRows
  (List.range (stripColBlocks rec')).flatMap fun cb =>
    let n := (blockCols rec' cb).length
    ((Tab.get values ((rb * stripColBlocks rec' + cb) * rec'.parts) []).drop ((r % rec'.stripRows) * n)).take n

/-- The core that ran the epilogue of element (r, c): that of the element's strip; ran names cores by physical + 65,536 × logical
number. A strip that another run of the job committed before a restore has none: the partition's first core stands for it
(log 170). -/
def cellCore (rec' : OpRec) (lead : Nat) (ran : Tab Nat) : CoreOf := fun r c =>
  let cb := min (c / 128) (stripColBlocks rec' - 1)
  Tab.get ran ((r / max 1 rec'.stripRows * stripColBlocks rec' + cb) * rec'.parts) (150 * lead) % 65536

/-- The function record applied to a row (05 R107 to R109): each element's value, whether it was flushed, whether R106 counts it. -/
def Work.applyRow (w : Work) (o r : Nat) (coreOf : CoreOf) (xs : List Word32) : List (Word32 × Bool × Bool) :=
  let i := w.pl.image
  let rec' := opAt i o
  if rec'.function = noIndex then xs.map fun x => (x, false, false)
  else
    let f := fnAt i rec'.function
    xs.zipIdx.map fun e =>
      let b := if f.bias < hTensors i then w.vec f.bias e.2 else fzero
      let s := if f.scale < hTensors i then w.vec f.scale e.2 else fone
      let g := if f.gate < hTensors i then (w.row f.gate r).deq e.2 else fone
      applyFn (w.bank (unitBasin (coreOf r e.2))) f (w.rnd rec'.output r e.2) e.1 b s g

/-- SFU counters of a basin (05 R122). -/
def countSfu (s : State) (b results flushed bad : Nat) : State :=
  let v := (s.basin b).sfu
  s.setBasin b { s.basin b with sfu := { v with results := satAdd v.results results, flushed := satAdd v.flushed flushed,
                                                nonfinite := satAdd v.nonfinite bad } }

/-- The results of some rows counted in the basins of the cores that delivered them. -/
def countApplied (s : State) (coreOf : CoreOf) (rows : List (List (Word32 × Bool × Bool))) : State :=
  let all := rows.zipIdx.flatMap fun r => r.1.zipIdx.map fun e => (unitBasin (coreOf r.2 e.2), e.1)
  (List.range 10).foldl (fun s b =>
    let here := all.filter fun e => e.1 == b
    if here.isEmpty then s
    else countSfu s b here.length (here.filter fun e => e.2.2.1).length (here.filter fun e => e.2.2.2).length) s

/-! Statistics of an output (05 R114). -/

/-- The statistics an epilogue may emit. -/
structure Stats where
  rowMax : List Word32
  rowMaxAbs : List Word32
  rowSums : List Word32
  rowSquares : List Word32
  colSums : List Word32
  colSquares : List Word32
  deriving DecidableEq, Repr

/-- The magnitude of an FP32 value; a NaN is canonical. -/
def fabs (x : Word32) : Word32 := if f32 x = .nan then fnan else x &&& 0x7FFFFFFF

/-- The statistics of rows of n values. -/
def statsOf (n : Nat) (rows : List (List Word32)) : Stats :=
  let sq := rows.map fun xs => xs.map fun x => fmul x x
  { rowMax := rows.map fun xs => xs.foldl fmax fninf
    rowMaxAbs := rows.map fun xs => (xs.map fabs).foldl fmax fzero
    rowSums := rows.map rowSum
    rowSquares := sq.map rowSum
    colSums := (List.range n).map fun c => rowSum (rows.map fun xs => xs.getD c fzero)
    colSquares := (List.range n).map fun c => rowSum (sq.map fun xs => xs.getD c fzero) }

/-- FP32 values written to a tensor as they are (02 R39). -/
def Work.putWords (w : Work) (t : Nat) (xs : List Word32) : Work :=
  ((w.put t 0 (xs.flatMap fun x => toLe 4 x.toNat)).zeroTails t).wrote t

/-- The row and column sums of squares that an update asks of the operation that writes its gradient (05 R114, 10 R220). No other
statistic has a field in a plan that asks for it. -/
def Work.putStats (w : Work) (t : Nat) (rows : List (List Word32)) : Work :=
  let i := w.pl.image
  (List.range (hOps i)).foldl (fun w u =>
    let r := opAt i u
    let b := paramBytes i r.params 64
    if r.kind = 0x0B && r.streamed == t && bitOf (leAt b 0 1) 0 then
      let st := statsOf r.n rows
      (w.putWords (leAt b 36 4) st.rowSquares).putWords (leAt b 40 4) st.colSquares
    else w) w

/-- The epilogue and the writes of rows already formed. -/
def Work.finishRows (w : Work) (o : Nat) (coreOf : CoreOf) (rows : List (List Word32)) : Written :=
  let i := w.pl.image
  let rec' := opAt i o
  let ys := rows.zipIdx.map fun e => w.applyRow o e.2 coreOf e.1
  let w1 : Work := { w with s := if rec'.function = noIndex then w.s else countApplied w.s coreOf ys }
  let vs := ys.map fun r => r.map Prod.fst
  ((w1.putStats rec'.output vs).putPages o coreOf vs).writeTensor o rec'.output (ecAt i o) coreOf vs

/-- A strip kind's execution is written out. -/
def Work.finishStrips (w : Work) (e : Exec) : Written :=
  let rec' := opAt w.pl.image e.op
  w.finishRows e.op (cellCore rec' ((leadBasin w.s w.p).getD 0) e.ranBy)
    ((List.range (w.liveRows rec'.m)).map (outRow rec' e.values))

/-- A copy operation: the bits of its streamed tensor (06 R125), with what lies beside its arrays. -/
def Work.copyTensor (w : Work) (o : Nat) : Work :=
  let i := w.pl.image
  let r := opAt i o
  let n := tensorSize i r.streamed
  let w1 := w.put r.output 0 ((List.range n).map fun k => w.byte r.streamed k)
  let beside := w.pl.mem.filter fun e => memTensor e.1 == r.streamed && sideBase ≤ memOffset e.1
  ((beside.foldl (fun w e => w.put r.output (memOffset e.1) [e.2]) w1).zeroTails r.output).wrote r.output

end Sys2Proof.Machine
end

