-- ==== Sys2Proof/Machine/Update.lean ====
section
/-! DEFINITION. Sys2Proof/Machine/Update.lean: the parameter update engine and its schedule engine (10 R218 to R229). -/

namespace Sys2Proof.Machine

/-! The schedule engine (R228, R229). -/

/-- The schedule program of an update block. -/
def scheduleBytes (i b : List Byte) : List Byte := paramBytes i (leAt b 52 8) 48

/-- The cycle that step s lies in: its start and length. Fuel bounds the cycles. -/
def cycleOf : Nat → Nat → Nat → Nat → Nat → Nat × Nat
  | 0, _, start, len, _ => (start, len)
  | n + 1, s, start, len, mult => if start + len < s then cycleOf n s (start + len) (len * mult) mult else (start, len)

/-- A fraction and a power of two of it: base × exp2(e). -/
def scaledExp (u : SfUnit) (base e : Word32) : Word32 := fmul base (u.fn 2 e)

/-- schedule(t) (R229), special functions in native mode. -/
def scheduleAt (u : SfUnit) (b : List Byte) (t : Nat) : Word32 :=
  let w := fun k : Nat => (BitVec.ofNat 32 (leAt b k 4) : Word32)
  let decay := bitsOf (leAt b 0 1) 1 3
  let base := w 4
  let floor := w 8
  let warm := leAt b 12 4
  let total := leAt b 16 4
  let period := leAt b 20 4
  let mult := max 1 (leAt b 24 2)
  let stepLen := max 1 (leAt b 26 2)
  let f0 : Word32 := if zero32 (w 32) then 0x3C23D70A else w 32
  if total = 0 then base
  else if total < t then (if decay = 0 then base else floor)
  else if t ≤ warm then
    let r := fdiv (fnat t) (fnat warm)
    if !bitOf (leAt b 0 1) 0 then fmul base r else scaledExp u base (fmul (fsub fone r) (u.fn 4 f0))
  else
    let s := t - warm
    let cyc := if period = 0 then (0, total - warm) else cycleOf s s 0 period mult
    let k := s - cyc.1
    let p := fdiv (fnat k) (fnat cyc.2)
    let d := fsub base floor
    match decay with
    | 0 => base
    | 1 => fadd floor (fmul d (fsub fone p))
    | 2 => fadd floor (fmul (fmul d 0x3F000000) (fadd fone (u.fn 0x0F (fmul 0x40490FDB p))))
    | 3 => fmax floor (fmul base (u.fn 6 (fadd fone (fdiv (fnat k) (fnat (max warm 1))))))
    | _ => fmax floor (scaledExp u base (fmul (fnat (k / stepLen)) (u.fn 4 (w 28))))

/-! The rule (R221 to R223). -/

/-- A field of the update block, or its default where it is 0. -/
def orDefault (v d : Word32) : Word32 := if zero32 v then d else v

/-- What phase 1 finds: t, η, κ, the sum of squares, and the factors of phase 2. -/
structure UpdScalars where
  t : Nat
  eta : Word32
  kappa : Word32
  sum : Word32
  beta1 : Word32
  beta2 : Word32
  w1 : Word32
  w2 : Word32
  bc2 : Word32
  c1 : Word32
  dk : Word32

/-- Row sums of squares R, or the squares of the gradient where the second moment is full. -/
def Work.gradSquares (w : Work) (r : OpRec) (b : List Byte) : List Word32 :=
  if bitOf (leAt b 0 1) 0 then (List.range r.m).map fun i => w.vec (leAt b 36 4) i
  else (List.range r.m).flatMap fun i => (w.rowValues r.streamed i r.n).map fun g => fmul g g

/-- The scalars of execution e of update operation o. -/
def Work.updScalars (w : Work) (o e : Nat) : UpdScalars :=
  let r := opAt w.pl.image o
  let b := paramBytes w.pl.image r.params 64
  let u := w.sfu ((leadBasin w.s w.p).getD 0) false
  let f := fun k : Nat => (BitVec.ofNat 32 (leAt b k 4) : Word32)
  let beta1 := orDefault (f 4) 0x3F666666
  let beta2 := orDefault (f 8) 0x3F7FBE77
  let clip := orDefault (f 16) fone
  let t := leAt b 24 4 + e + 1
  let tf := fnat t
  let eta := scheduleAt u (scheduleBytes w.pl.image b) t
  let bc := fun beta => fsub fone (u.fn 2 (fmul tf (u.fn 4 beta)))
  let bc1 := if bitOf (leAt b 0 1) 1 then bc beta1 else fone
  let sum := rowSum (w.gradSquares r b)
  let rms := u.fn 7 (fdiv sum (fnat (r.m * r.n)))
  { t := t, eta := eta, kappa := if (f32 rms).le (f32 clip) then fone else fdiv clip rms, sum := sum, beta1 := beta1,
    beta2 := beta2, w1 := fsub fone beta1, w2 := fsub fone beta2, bc2 := bc beta2, c1 := fdiv eta bc1,
    dk := fsub fone (fmul eta (f 20)) }

/-- A second-moment value moved by a mean square: rne32(rne32(β2·v) + rne32(w2·rne32(x + ε1))). -/
def moment (k : UpdScalars) (eps v x : Word32) : Word32 := fadd (fmul k.beta2 v) (fmul k.w2 (fadd x eps))

/-- The error-control record under which an update's tensors are written: no outlier detection, the residual of the block. -/
def updEc (e : EcRec) (residual : Nat) : EcRec := { e with spillFault := false, capacity := 8, theta := 0, residual := residual }

/-- Phase 2 of one row (R221, R222): the new momentum and weight of each element, given u of each clipped gradient. -/
def updRow (k : UpdScalars) (mom : Bool) (gs ms ws us : List Word32) : List Word32 × List Word32 :=
  let mm := gs.zipIdx.map fun g =>
    let u := us.getD g.2 fzero
    if mom then fadd (fmul k.beta1 (ms.getD g.2 fzero)) (fmul k.w1 u) else u
  let wn := mm.zipIdx.map fun x =>
    rne32 (((f32 (ws.getD x.2 fzero)).mul (f32 k.dk)).sub (f32 (fmul k.c1 x.1)))
  (mm, wn)

/-- The whole update of execution e, written through the quantisers; source is the lead basin. -/
def Work.update (w : Work) (o : Nat) (k : UpdScalars) (source : Nat) : Written :=
  let i := w.pl.image
  let r := opAt i o
  let b := paramBytes i r.params 64
  let u := w.sfu ((leadBasin w.s w.p).getD 0) false
  let eps := orDefault (BitVec.ofNat 32 (leAt b 12 4)) 0x0DA24260
  let fac := bitOf (leAt b 0 1) 0
  let mom := bitOf (leAt b 0 1) 1
  let vr := leAt b 44 4
  let vc := leAt b 48 4
  let clipped := fun row => (w.rowValues r.streamed row r.n).map fun g => fmul k.kappa g
  let vrow := if fac then (List.range r.m).map fun j =>
      moment k eps (w.vec vr j) (fdiv (w.vec (leAt b 36 4) j) (fnat r.n))
    else (List.range r.m).flatMap fun row => (clipped row).zipIdx.map fun g =>
      moment k eps (w.vec vr (row * r.n + g.2)) (fmul g.1 g.1)
  let vcol := if fac then (List.range r.n).map fun j => moment k eps (w.vec vc j) (fdiv (w.vec (leAt b 40 4) j) (fnat r.m)) else []
  let sum := fdiv (rowSum vrow) (fnat r.m)
  let us := fun row => (clipped row).zipIdx.map fun g =>
    let d := if fac then fmul (fdiv (fdiv (vrow.getD row fzero) sum) k.bc2) (vcol.getD g.2 fzero)
      else fdiv (vrow.getD (row * r.n + g.2) fzero) k.bc2
    fmul g.1 (u.fn 6 d)
  let rows := (List.range r.m).map fun row =>
    updRow k mom (clipped row) (if mom then w.rowValues (leAt b 28 4) row r.n else []) (w.rowValues r.resident row r.n) (us row)
  let w1 := w.putWords vr vrow
  let w2 := if fac then w1.putWords vc vcol else w1
  let ec := ecAt i o
  let m1 : Written := if mom then w2.writeTensor o (leAt b 28 4) (updEc ec noIndex) (fun _ _ => source) (rows.map Prod.fst)
    else { w := w2 }
  let m2 := m1.w.writeTensor o r.resident (updEc ec (leAt b 32 4)) (fun _ _ => source) (rows.map Prod.snd)
  { w := m2.w, spillFault := m1.spillFault.orElse fun _ => m2.spillFault }

/-- Counters of an update engine. -/
def onUpd (s : State) (b : Nat) (f : Upd → Upd) : State := s.setBasin b { s.basin b with upd := f (s.basin b).upd }

/-- An update operation opens (R230): the lead basin shows t, η and κ. -/
def Work.openUpdate (w : Work) (o e : Nat) : State :=
  let k := w.updScalars o e
  let s1 := (liveBasins w.s w.p).foldl (fun s b => onUpd s b fun u => { u with busy := true }) w.s
  match leadBasin w.s w.p with
  | some b => onUpd s1 b fun u => { u with step := BitVec.ofNat 64 k.t, lr := k.eta, kappa := k.kappa }
  | none => s1

/-- The counters after an update completes (R230); rows are divided among the engines in a way R225 does not state. -/
def countUpdate (s : State) (p : Nat) (r : OpRec) (k : UpdScalars) (skipped last : Bool) : State :=
  let bs := liveBasins s p
  let s1 := if skipped then s else (List.range r.m).foldl (fun t row =>
    match bs[Config.workShare s.free row % bs.length]? with
    | some b => onUpd t b fun u => { u with elements := satAdd u.elements r.n }
    | none => t) s
  let s2 := bs.foldl (fun t b => onUpd t b fun u => { u with ops := satAdd u.ops 1, busy := !last }) s1
  match leadBasin s p with
  | some b => (onUpd s2 b fun u => { u with skipped := satAdd u.skipped (b2n skipped),
                                            clipped := satAdd u.clipped (b2n (!skipped && (f32 k.kappa).lt (XR.nat 1))) }).drawFree
  | none => s2.drawFree

/-- Execution e of update operation o completes (R221 to R223); last: no other update is open. -/
def Work.runUpdate (w : Work) (o e : Nat) (last : Bool) : Written :=
  let r := opAt w.pl.image o
  let k := w.updScalars o e
  let source := leadSource w.s w.p
  if fbad k.sum then
    { w := { w with s := countUpdate (opEvent w.s evUpdSkipped source w.p o []) w.p r k true last } }
  else
    let n := w.update o k source
    { n with w := { n.w with s := countUpdate n.w.s w.p r k false last } }

end Sys2Proof.Machine
end

