-- ==== Sys2Proof/Machine/Agree.lean ====
section
/-! DEFINITION. Sys2Proof/Machine/Agree.lean: the running job of a partition at work, and how the chunks of a collective start by
agreement (12 R276, R277, R281). -/

namespace Sys2Proof.Machine

/-! A partition's running job. -/

/-- The running job of partition p at work on its plan. -/
def workOf (s : State) (p : Nat) : Option Work :=
  match (s.partRun p).job with
  | some j => (s.plan p j.handle).map fun pl => { s := s, p := p, pl := pl, j := j }
  | none => none

/-- The machine after the work: plan and job as they stand. -/
def Work.state (w : Work) : State :=
  let s1 := w.s.setPlan w.p w.j.handle w.pl
  s1.setRun w.p { s1.partRun w.p with job := some w.j }

/-- Fetches return NONE and no operation opens: in a halt, but a serving step that runs is let finish before a pre-emption (15
R338 step 2, log 57). -/
def PartRun.stopped (r : PartRun) : Bool :=
  match r.halt with
  | .none => false
  | .preempt _ => r.step.isNone
  | _ => true

/-- The open execution of operation o. -/
def Job.exec (j : Job) (o : Nat) : Option Exec := j.execs.find? fun e => e.op == o

/-- An execution changed. -/
def Job.setExec (j : Job) (e : Exec) : Job := { j with execs := j.execs.map fun d => if d.op = e.op then e else d }

/-- The strips of execution e that cover bytes lo to hi of its output are DONE (06 R139). -/
def coveredBy (i : List Byte) (e : Exec) (lo hi : Nat) : Bool :=
  let r := opAt i e.op
  let row := max 1 ((tensorAt i r.output).cols * (tensorFmt i r.output).width / 8)
  let per := max 1 r.stripRows
  !stripKind r.kind || (List.range e.total).all fun n =>
    let rb := (stripPlace r n).1
    (rb + 1) * per * row ≤ lo || hi ≤ rb * per * row || Tab.find e.board n == some Board.done

/-! The collective block (12 R276). -/

/-- The block of a collective operation. -/
def collBlock (i : List Byte) (o : Nat) : List Byte := paramBytes i (opAt i o).params 64
def kKind (b : List Byte) : Nat := bitsOf (leAt b 0 1) 0 3
def kUnordered (b : List Byte) : Bool := bitOf (leAt b 0 1) 3
def kFollow (b : List Byte) : Bool := bitOf (leAt b 0 1) 4
def kFree (b : List Byte) : Bool := bitOf (leAt b 0 1) 5
def kFormat (b : List Byte) : Format := (formatOf (leAt b 1 1)).getD fmtFp32
def kChunks (b : List Byte) : Nat := if leAt b 4 4 = 0 then 1 else leAt b 4 4
def kCount (b : List Byte) : Nat := leAt b 8 8
def kInput (b : List Byte) : Nat := leAt b 16 4
def kOutput (b : List Byte) : Nat := leAt b 20 4
def kRoot (b : List Byte) : Nat := leAt b 24 2
def kSlot (b : List Byte) : Nat := leAt b 28 4
def kLead (b : List Byte) : Nat := if leAt b 32 4 = 0 then 50000 else leAt b 32 4
def kGrid (b : List Byte) : Nat := if leAt b 36 4 = 0 then 1000 else leAt b 36 4

/-- Elements of a chunk of one part. -/
def kPer (b : List Byte) : Nat := kCount b / kChunks b

/-- The rank table of a collective operation (R277). -/
def ranksOf (j : Job) (b : List Byte) : Option Ranks := j.ranks.find? fun r => r.slot == kSlot b

/-- The rank of a device. -/
def rankOf (r : Ranks) (dev : Nat) : Nat := (r.devices.findIdx? (· == dev)).getD 0

/-- First elements, in the input, of the ranges that chunk c takes (R278): one, or one for each rank. -/
def chunkStarts (b : List Byte) (ranks c : Nat) : List Nat :=
  if kKind b = 5 then []
  else if kKind b = 1 || kKind b = 3 then (List.range ranks).map fun q => q * kCount b + c * kPer b
  else [c * kPer b]

/-! Ready marks and the start (R281). -/

/-- This rank's input for chunk c is in place: with follow, once the strips that cover it are DONE. -/
def chunkReady (w : Work) (b : List Byte) (ranks c : Nat) : Bool :=
  !kFollow b || w.j.execs.all fun e =>
    (opAt w.pl.image e.op).output != kInput b || (chunkStarts b ranks c).all fun k =>
      let f := tensorFmt w.pl.image (kInput b)
      coveredBy w.pl.image e (k * f.width / 8) ((k + kPer b) * f.width / 8)

/-- A control flit of a collective, with one 8-byte number. -/
def controlFlit (s : State) (mjob dst op exec chunk part v : Nat) : Flit :=
  { seq := 0, ack := 0, epoch := 0, dst := dst, src := devnum s, cls := 1, dateline := false, mjob := mjob, op := op,
    exec := exec, chunk := chunk, part := part, payload := toLe 8 v }

/-- The agreed start from the last ready time, at the time the last mark is there. -/
def agreedStart (b : List Byte) (times : List Nat) (now : Nat) : Nat :=
  if kFree b then now else ceilDiv (times.foldl max 0 + kLead b) (kGrid b) * kGrid b

/-- Rank 0 with every mark of a chunk sets S and sends it to the other ranks. -/
def tryAgree (s : State) (p op chunk : Nat) (b : List Byte) (r : Ranks) : State :=
  match (workOf s p).bind fun w => w.j.exec op with
  | some e =>
    let c := Tab.get e.chunks chunk ({} : Chunk)
    if c.start.isNone && (List.range r.devices.length).all fun k => c.marks.any fun m => m.1 == k then
      let t := agreedStart b (c.marks.map Prod.snd) s.now
      let s1 := onExec s p op fun d => { d with chunks := Tab.put d.chunks chunk { c with start := some t } }
      r.devices.zipIdx.foldl (fun s d =>
        if d.1 = devnum s then s else sendFlit s (controlFlit s r.mjob d.1 op e.index chunk d.2 t)) s1
    else s
  | none => s

/-- Rank 0 has a ready mark: for the open execution that lacks it, or kept for the next one. -/
def takeMark (s : State) (p : Nat) (m : Mark) (b : List Byte) (r : Ranks) : State :=
  let run := s.partRun p
  match run.job with
  | some j =>
    let wants := match j.exec m.op with
      | some e => let c := Tab.get e.chunks m.chunk ({} : Chunk); c.start.isNone && !(c.marks.any fun x => x.1 == m.rank)
      | none => false
    if wants then
      tryAgree (onExec s p m.op fun e => { e with chunks := Tab.mod e.chunks m.chunk ({} : Chunk) fun c =>
        { c with marks := c.marks ++ [(m.rank, m.time)] } }) p m.op m.chunk b r
    else s.setRun p { run with job := some { j with marks := j.marks ++ [m] } }
  | none => s

/-- This rank's input for a chunk is in place: its mark goes to rank 0. -/
def markChunk (s : State) (p op index chunk : Nat) (b : List Byte) (r : Ranks) : State :=
  let s1 := onExec s p op fun e => { e with chunks := Tab.mod e.chunks chunk ({} : Chunk) fun c => { c with ready := true } }
  if rankOf r (devnum s) = 0 then takeMark s1 p { op := op, chunk := chunk, rank := 0, time := s.now } b r
  else sendFlit s1 (controlFlit s r.mjob (r.devices.getD 0 0) op index chunk (rankOf r (devnum s)) s.now)

/-- The chunks of one open collective whose input has come into place are marked. -/
def pollExec (s : State) (p op : Nat) : State :=
  match workOf s p with
  | none => s
  | some w =>
    match w.j.exec op, ranksOf w.j (collBlock w.pl.image op) with
    | some e, some r =>
      let b := collBlock w.pl.image op
      ((List.range (kChunks b)).filter fun c =>
        !(Tab.get e.chunks c ({} : Chunk)).ready && chunkReady w b r.devices.length c).foldl
          (fun s c => markChunk s p op e.index c b r) s
    | _, _ => s

/-- The open collectives of partition p are looked at. -/
def pollReady (s : State) (p : Nat) : State :=
  match workOf s p with
  | some w => ((w.j.execs.map Exec.op).filter fun o => (opAt w.pl.image o).kind == 0x0C).foldl (fun s o => pollExec s p o) s
  | none => s

/-- Marks that came before the execution opened are taken again. -/
def earlyMarks (s : State) (p op : Nat) : State :=
  let run := s.partRun p
  match workOf s p with
  | none => s
  | some w =>
    match ranksOf w.j (collBlock w.pl.image op) with
    | some r =>
      let mine := w.j.marks.filter fun m => m.op == op
      let s1 := s.setRun p { run with job := some { w.j with marks := w.j.marks.filter fun m => m.op != op } }
      mine.foldl (fun s m => takeMark s p m (collBlock w.pl.image op) r) s1
    | none => s

end Sys2Proof.Machine
end

