-- ==== Sys2Proof/Machine/Strips.lean ====
section
/-! DEFINITION. Sys2Proof/Machine/Strips.lean: operations open (06 R126), cores fetch, compute and commit strips (R136 to R140),
and what Sounding checks (03 R55 to R62, R69). -/

namespace Sys2Proof.Machine

/-! Order of operations (R126). -/

/-- Predecessor q of operation o has completed in the same pass; from outside the loop, in every pass. -/
def predDone (i : List Byte) (j : Job) (o q : Nat) : Bool :=
  if inLoop i o && inLoop i q then j.doneOf o + 1 ≤ j.doneOf q else runsOf i q ≤ j.doneOf q

/-- The operation may start as soon as its predecessor opens (11 R252, 12 R276). -/
def follows (i : List Byte) (o : Nat) : Bool :=
  let r := opAt i o
  (r.kind == 0x0A && bitOf (leAt (paramBytes i r.params 96) 1 1) 3)
    || (r.kind == 0x0C && bitOf (leAt (paramBytes i r.params 64) 0 1) 4)

/-- Operation o has an execution left, and every loop operation has completed the passes before it. -/
def hasRun (i : List Byte) (j : Job) (o : Nat) : Bool :=
  j.doneOf o < runsOf i o && (!inLoop i o || (List.range (hOps i)).all fun q => !inLoop i q || j.doneOf o ≤ j.doneOf q)

/-- Operation o may open (R126); none does once a verdict is to end the job (03 R72). -/
def mayOpen (w : Work) (o : Nat) : Bool :=
  let i := w.pl.image
  let run := w.s.partRun w.p
  o < hOps i && w.j.execs.length < 64 && w.j.verdicts.isEmpty && (w.j.exec o).isNone && !run.stopped && (!w.j.serving || run.step.isSome)
    && hasRun i w.j o && (opAt i o).preds.all fun q => predDone i w.j o q || (follows i o && (w.j.exec q).isSome)

/-! What Sounding checks (03 R54 to R56, R69). -/

/-- The portions of the rows lo to hi under every column block (R56). -/
def portionsOf (r : OpRec) (lo hi tile : Nat) : List Portion :=
  (List.range (stripColBlocks r)).flatMap fun cb =>
    ((List.range (stripRowBlocks r)).filter fun rb => rb * r.stripRows ≤ hi && lo < (rb + 1) * r.stripRows).map fun rb =>
      { strip := (rb * stripColBlocks r + cb) * r.parts, tile := tile, verdict := .pending }

/-- What an execution checks: array products and attention only (R54). -/
def portionsFor (w : Work) (o draw : Nat) : List Portion :=
  let r := opAt w.pl.image o
  let period := (ecAt w.pl.image o).period
  if !within r.kind 1 4 || period == 0 then []
  else if w.j.serving then
    (w.sampledRows o r.m period).flatMap fun row => portionsOf r row row row
  else (sampledTiles w.j.seed o draw r.m period).flatMap fun t =>
    portionsOf r (128 * t) (min (128 * t + 127) (r.m - 1)) t

/-! Opening. -/

/-- The engine of a codec operation (11 R252). -/
def codecOf (i : List Byte) (o : Nat) : Nat := bitsOf (leAt (paramBytes i (opAt i o).params 96) 1 1) 0 2

/-- Work joins the queue of a codec engine, or starts at once on an idle one (11 R232). -/
def joinCodec (s : State) (c tag : Nat) (work : EngineWork) : State :=
  let r := s.codec c
  if r.current.isNone && r.queue.isEmpty then
    s.setCodec c { r with current := some work, busy := true, curTag := BitVec.ofNat 32 tag, curFrame := 0, pipe := [] }
  else s.setCodec c { r with queue := r.queue ++ [work] }

/-- What the engines show when an operation opens. -/
def engineOpen (w : Work) (o : Nat) : State :=
  match (opAt w.pl.image o).kind with
  | 0x0B => w.openUpdate o (w.j.doneOf o)
  | 0x08 => setResampling w.s w.p ((w.s.partRun w.p).resampling ++ [.op w.p o])
  | 0x0A => joinCodec w.s (codecOf w.pl.image o) o (.op w.p o)
  | _ => w.s

/-- Operation o opens. -/
def openOp (w : Work) (o : Nat) : State :=
  let i := w.pl.image
  let n := w.j.doneOf o
  let e : Exec := { op := o, pass := if inLoop i o then n else 0, index := n, total := stripTotal (opAt i o),
                    portions := portionsFor w o n }
  let s1 := ({ w with s := engineOpen w o, j := { w.j with execs := w.j.execs ++ [e] } } : Work).state
  if (opAt i o).kind = 0x0C then pollReady (earlyMarks s1 w.p o) w.p else s1

/-- OPERATION_OPEN (06 R126). -/
def execOperationOpen (p op : Nat) (s : State) : Host.Outcome State Fault Refusal :=
  .next (match workOf s p with
    | some w => if works s && mayOpen w op then openOp w op else s
    | none => s)

/-! Fetches (R136). -/

/-- The counter a strip belongs to: one for each basin where the resident operand has home 1. -/
def counterOf (s : State) (p : Nat) (i : List Byte) (o strip : Nat) : Nat :=
  let r := opAt i o
  let bs := liveBasins s p
  if r.resident < hTensors i && (tensorAt i r.resident).home == 1 then bs.getD ((stripPlace r strip).2.1 % bs.length) 0 else 0

/-- The counter that core c asks. -/
def askedCounter (i : List Byte) (o core : Nat) : Nat :=
  let r := opAt i o
  if r.resident < hTensors i && (tensorAt i r.resident).home == 1 then coreBasin core else 0

/-- The least strip of a reissue list for one counter. -/
def leastReissue (k : Nat) : List (Nat × Nat × Bool) → Option (Nat × Bool)
  | [] => none
  | e :: es => match leastReissue k es with
    | some d => if e.1 = k && e.2.1 < d.1 then some e.2 else some d
    | none => if e.1 = k then some e.2 else none

/-- The next index of a counter: not handed out, of this counter, and not done in a restored job. -/
def nextStrip (s : State) (p : Nat) (i : List Byte) (e : Exec) (k : Nat) : Option Nat :=
  let from' := Tab.get e.counters k 0
  ((List.range (e.total - from')).map (from' + ·)).find? fun n =>
    counterOf s p i e.op n == k && Tab.find e.board n != some Board.done

/-- A strip is taken from the reissue list, else from the counter: the strip, its combine mark, the execution after it. -/
def takeStrip (s : State) (p : Nat) (i : List Byte) (e : Exec) (k : Nat) : Option ((Nat × Bool) × Exec) :=
  match leastReissue k e.reissue with
  | some t => some (t, { e with reissue := e.reissue.erase (k, t.1, t.2) })
  | none => (nextStrip s p i e k).map fun n => ((n, false), { e with counters := Tab.put e.counters k (n + 1) })

/-- A core begins a strip. -/
def Core.run (c : Core) (t : Strip) : Core :=
  { c with running := some t, curOp := BitVec.ofNat 32 t.op, curStrip := BitVec.ofNat 32 t.strip }

/-- A counter of a basin's WRK window. -/
def onWrk (s : State) (b : Nat) (f : Wrk → Wrk) : State := s.setBasin b { s.basin b with wrk := f (s.basin b).wrk }

/-- A counter of the lead basin's WRK window. -/
def onLead (s : State) (p : Nat) (f : Wrk → Wrk) : State :=
  match leadBasin s p with
  | some b => onWrk s b f
  | none => s

/-- The strip that a fetch of core c gets; none where it is answered NONE. -/
def fetched (s : State) (core op epoch : Nat) : Option (Work × (Nat × Bool) × Exec) :=
  let p := basinPart s (coreBasin core)
  let c := s.core core
  if c.role != 0 || c.quiesce || (s.partRun p).stopped || epoch != (s.partRun p).epoch.toNat then none
  else match workOf s p with
    | none => none
    | some w => match w.j.exec op with
      | none => none
      | some e => (takeStrip s p w.pl.image e (askedCounter w.pl.image op core)).map fun t => (w, t)

/-! Beats (04 R77, 03 R63, R67). -/

/-- Beats per row and the fill of the shadow in units of 128 beats, by operand pair (R77). -/
def pairBeats (res str : Nat) : Nat × Nat :=
  let str4 := str == 0x10 || str == 0x20
  if res = 0x02 || res = 0x03 then (16, 4)
  else if res = 0x12 then (1, 1)
  else if wide8 res then (if str4 then (2, 2) else (4, 2))
  else if str4 then (1, 1) else (2, 1)

/-- What a row of an array product needs: the format of its resident operand, that of the streamed one, beats, fill. A promoted
tile and an escalated operation run at the N8 × N8 rate (03 R60, R67). -/
structure RowCost where
  res : Nat
  str : Nat
  beats : Nat
  fill : Nat
  deriving DecidableEq, Repr

/-- The cost of a row of operation o. -/
def rowCost (w : Work) (o row : Nat) : RowCost :=
  let i := w.pl.image
  let r := opAt i o
  let d := tensorAt i r.streamed
  let res := (tensorAt i r.resident).format
  let promoted := slotted i r.streamed
    && w.byte r.streamed (tileMapOffset d.rows d.cols + (if hKind i = 1 then row else row / 128)) == 0x13
  if (w.escalated row).contains o then { res := 0x13, str := 0x13, beats := 4, fill := 2 }
  else if promoted then { res := res, str := 0x13, beats := 4, fill := 2 }
  else
    let str := if w.isWide r.streamed row then 0x13 else d.format
    let p := pairBeats res str
    { res := res, str := str, beats := p.1, fill := p.2 }

/-- The cost of one K block for the rows that take part. -/
def blockCost (rows : List RowCost) : Nat :=
  if rows.isEmpty then 0 else max (rows.map RowCost.beats).sum (128 * (rows.map RowCost.fill).foldl max 1)

/-- Elements of K in the blocks of a strip: where its rows differ, the least of their pairs (log 171). -/
def stripKBlock (rows : List RowCost) : Nat := (rows.map fun c => kBlock c.res c.str).foldl min 256

/-- Bytes of a weight block with its scales (04 R80); an N3 block takes those of an N4 block. -/
def blockBytes (res kb : Nat) : Nat :=
  if res = 0x11 then 9216 else 128 * rowBlockBytes ((formatOf res).getD fmtN4) kb

/-- K blocks of a tap that lie in part p of the contraction. -/
def tapBlocks (r : OpRec) (kb taps tau p : Nat) : Nat :=
  let per := taps * r.k / r.parts
  let lo := max (tau * r.k) (p * per)
  let hi := min ((tau + 1) * r.k) ((p + 1) * per)
  if hi ≤ lo then 0 else ceilDiv (hi - tau * r.k) kb - (lo - tau * r.k) / kb

/-- The array blocks of a product or convolution strip in the order of R75: the rows that take part in each. -/
def productBlocks (w : Work) (o strip : Nat) : List (List RowCost) :=
  let i := w.pl.image
  let r := opAt i o
  let axes := convAxes (paramBytes i r.params 64)
  let n := if r.kind = 1 then 1 else taps axes
  let rows := w.stripRows o strip
  let kb := stripKBlock (rows.map (rowCost w o))
  (List.range n).flatMap fun tau =>
    let here := (rows.filter fun x => r.kind == 1 || (tapRow axes x tau).isSome).map (rowCost w o)
    if here.isEmpty then [] else List.replicate (tapBlocks r kb n tau (stripPlace r strip).2.2) here

/-- A depthwise convolution on the vector unit (04 R86) loads no array block. -/
def onVector (i : List Byte) (r : OpRec) : Bool := r.kind == 3 && bitOf (leAt (paramBytes i r.params 64) 18 1) 5

/-- The array blocks of an attention strip: for each key tile that a row visits, the score's keys and the values; each with its
bytes and its cost. -/
def attentionBlocks (w : Work) (o strip : Nat) : List (Nat × Nat) :=
  let i := w.pl.image
  let r := opAt i o
  let b := paramBytes i r.params 64
  let rows := w.stripRows o strip
  let srcs := rows.map fun x => (w.keysOf o x).tiles
  let sc := if leAt b 1 1 = 0x02 then (16, 4) else pairBeats (leAt b 2 1) (leAt b 1 1)
  let vl := if leAt b 3 1 = 0x02 then (16, 4) else (4, 2)
  let cost := fun (pair : Nat × Nat) (n : Nat) => max (n * pair.1) (128 * pair.2)
  (srcs.flatMap id).eraseDups.flatMap fun t =>
    let n := (srcs.filter fun ts => ts.contains t).length
    [(blockBytes (leAt b 2 1) 128, cost sc n), (blockBytes (leAt b 3 1) 128, cost vl n)]

/-- Array beats of a strip. A serving plan's attention may run on the vector unit (07 R171): an open value. -/
def stripBeats (w : Work) (t : Strip) : Nat :=
  let r := opAt w.pl.image t.op
  if t.combine then 0
  else if r.kind = 4 then
    if w.j.serving then Config.workShare w.s.free t.strip else ((attentionBlocks w t.op t.strip).map Prod.snd).sum
  else if within r.kind 1 3 then
    (if onVector w.pl.image r then 0
     else ((productBlocks w t.op t.strip).map blockCost).sum
      + (w.stripRows t.op t.strip).length * ceilDiv (ecAt w.pl.image t.op).statics 16)
  else 0

/-! The resident-operand buffer (04 R80). -/

/-- The bytes of the weight blocks of a strip, in the order in which R75 uses them. -/
def stripBlocks (w : Work) (t : Strip) : List Nat :=
  let r := opAt w.pl.image t.op
  if t.combine then []
  else if r.kind = 4 then (attentionBlocks w t.op t.strip).map Prod.fst
  else if within r.kind 1 3 && !onVector w.pl.image r then
    let kb := stripKBlock ((w.stripRows t.op t.strip).map (rowCost w t.op))
    (productBlocks w t.op t.strip).map fun rows => (rows.map fun c => blockBytes c.res kb).foldl max 0
  else []

/-- Bytes of the resident-operand buffer (04 R74). -/
def bufferBytes : Nat := 262144

/-- Blocks fetched into a buffer while they fit: the strip's blocks that are left, the buffer, how many were fetched, the bytes. -/
def prefetch (t : Strip) : List Nat → List WeightBlock → Nat → Nat → List WeightBlock × Nat × Nat
  | [], buf, k, n => (buf, k, n)
  | b :: bs, buf, k, n =>
    if (buf.map WeightBlock.bytes).sum + b ≤ bufferBytes then
      prefetch t bs (buf ++ [{ op := t.op, strip := t.strip, place := k, bytes := b }]) (k + 1) (n + b)
    else (buf, k, n)

/-- A strip with its next blocks in the buffer: the strip, the buffer, the bytes read from Mere. -/
def takeBlocks (w : Work) (t : Strip) (buf : List WeightBlock) : Strip × List WeightBlock × Nat :=
  let r := prefetch t ((stripBlocks w t).drop t.taken) buf t.taken 0
  ({ t with taken := r.2.1 }, r.1, r.2.2)

/-- The core's address generator fetches as far ahead as the buffer allows: the running strip's blocks, then those of the strip
fetched ahead once the running strip has all of its own. The core, and the bytes read. -/
def Core.fill (w : Work) (c : Core) : Core × Nat :=
  match c.running with
  | none => (c, 0)
  | some t =>
    let a := if t.computed then (t, c.buffer, 0) else takeBlocks w t c.buffer
    let c1 := { c with running := some a.1, buffer := a.2.1 }
    match c.ahead with
    | some u =>
      if t.computed || (stripBlocks w t).length ≤ a.1.taken then
        let b := takeBlocks w u a.2.1
        ({ c1 with ahead := some b.1, buffer := b.2.1 }, a.2.2 + b.2.2)
      else (c1, a.2.2)
    | none => (c1, a.2.2)

/-- The running strip is computed: the blocks it lacked were fetched, each once, and all of its blocks are used up. -/
def Core.useBlocks (w : Work) (c : Core) : Core × Nat :=
  match c.running with
  | none => (c, 0)
  | some t =>
    let left := (stripBlocks w t).drop t.taken
    ({ c with running := some { t with taken := t.taken + left.length }
              buffer := c.buffer.filter fun b => !(b.op == t.op && b.strip == t.strip) }, left.sum)

/-- Bytes that cores read from the Mere of a basin are counted. -/
def countRead (s : State) (b n : Nat) : State := onMere s b fun v => { v with readBytes := satAdd v.readBytes n }

/-- Core n prefetches, and the Mere counts what it reads: that of the basin that holds the column block (08 R181), or the core's
own, whose stream cache holds an operand from the stacks (R182). -/
def fillCore (w : Work) (n : Nat) (s : State) : State :=
  let r := (s.core n).fill w
  let home := match (s.core n).running with
    | some t => if t.op < hOps w.pl.image && (tensorAt w.pl.image (opAt w.pl.image t.op).resident).home == 1
        then counterOf s w.p w.pl.image t.op t.strip else coreBasin n
    | none => coreBasin n
  countRead (s.setCore n r.1) home r.2

/-- STRIP_FETCH (06 R136, R137). A core that runs one strip and holds another does not fetch. -/
def execStripFetch (core op epoch : Nat) (s : State) : Host.Outcome State Fault Refusal :=
  .next (
    let p := basinPart s (coreBasin core)
    let c := s.core core
    if !(works s && core < 1500 && p < 10 && c.ahead.isNone) then s
    else match fetched s core op epoch with
      | none => onLead s p fun v => { v with fetches := satAdd v.fetches 1 }
      | some (w, t, e) =>
        let strip : Strip := { part := p, op := op, strip := t.1, epoch := (s.partRun p).epoch, combine := t.2 }
        let e' := { e with claims := e.claims ++ [{ strip := t.1, core := c.logical.toNat, phys := core, combine := t.2 }] }
        let s1 := ({ w with j := w.j.setExec e' } : Work).state
        let s2 := s1.setCore core (if c.running.isNone then c.run strip else { c with ahead := some strip })
        onLead (fillCore w core s2) p fun v => { v with fetches := satAdd v.fetches 1 })

/-! Computing (06 R140). -/

/-- The results of a strip by a core of basin bn: part values, results, or for a combine task the combined ones. -/
def stripValues (w : Work) (bn : Nat) (e : Exec) (t : Strip) : RowOut :=
  if t.combine then { values := w.combined e (opAt w.pl.image t.op) t.strip } else w.strip bn t.op t.strip

/-- What computing a strip reports (02 R31, R40, R52, 05 R106): the unit's results are counted, then the events. -/
def reportStrip (w : Work) (core : Nat) (t : Strip) (r : RowOut) (s : State) : State :=
  let bn := coreBasin core
  let detail := toLe 4 t.strip
  let s1 := countSfu s bn r.tally.results 0 r.tally.bad
  let s2 := ({ w with s := s1 } : Work).reportBad t.op (List.replicate r.bad core)
  let s3 := if !t.combine && w.stripBad t.op t.strip then opEvent s2.s evBadCode core t.part t.op detail else s2.s
  if !t.combine && w.stripNormOver bn t.op t.strip then opEvent s3 evNormOverflow core t.part t.op detail else s3

/-- STRIP_COMPUTE_DONE: the running strip's results are there. -/
def execStripComputeDone (core : Nat) (s : State) : Host.Outcome State Fault Refusal :=
  .next (
    let c := s.core core
    match c.running with
    | none => s
    | some t =>
      match workOf s t.part with
      | none => s
      | some w =>
        match w.j.exec t.op with
        | none => s
        | some e =>
          if !(works s && core < 1500 && !t.computed && t.epoch == (s.partRun t.part).epoch) then s
          else
            let v := stripValues w (coreBasin core) e t
            let u := c.useBlocks w
            let t' := { t with computed := true, values := v.values, taken := t.taken + (stripBlocks w t).length }
            let s1 := s.setCore core { u.1 with running := some t', beats := satAdd c.beats (stripBeats w t) }
            let s2 := fillCore w core (countRead s1 (coreBasin core) u.2).drawFree
            reportStrip w core t v s2)

/-! The commit scoreboard (R139). -/

/-- The scoreboard's key of a strip; a combine task has a mark. -/
def boardKey (strip : Nat) (combine : Bool) : Nat := strip + (if combine then 2 ^ 32 else 0)

/-- A message the scoreboard does not act on (R139). -/
def dupCommit (s : State) (p core op strip : Nat) : State :=
  match leadBasin s p with
  | some b =>
    opEvent (onWrk s b fun v => { v with dupCommits := satAdd v.dupCommits 1 }) evDupCommit (srcBasin b) p op
      (toLe 4 strip ++ toLe 2 core)
  | none => s

/-- Grants that a core holds are OPEN again. -/
def Exec.ungrant (e : Exec) (core : Nat) : Exec := { e with board := e.board.filter fun x => x.2 != .granted core }

/-- The strip a core is at work on, if it is this one. -/
def holds (c : Core) (p op strip : Nat) : Option Strip :=
  match c.running with
  | some t => if t.part = p && t.op = op && t.strip = strip then some t else none
  | none => none

/-- The scoreboard's answer to a request: the work with the grant, or none where it is discarded. -/
def granted (s : State) (core p op strip epoch : Nat) : Option Work :=
  match workOf s p, holds (s.core core) p op strip with
  | some w, some t =>
    match w.j.exec op with
    | some e =>
      if (s.core core).role = 0 && epoch = (s.partRun p).epoch.toNat
          && (Tab.find e.board (boardKey strip t.combine)).isNone then
        some { w with j := w.j.setExec { e with board := Tab.put e.board (boardKey strip t.combine) (.granted core) } }
      else none
    | none => none
  | _, _ => none

/-- A strip's request comes from a core that has computed it. -/
def asksCommit (s : State) (core p op strip : Nat) : Bool :=
  match holds (s.core core) p op strip with
  | some t => t.computed
  | none => true

/-- The requester is dead or its epoch is not current: the grants it holds are OPEN again (R139). -/
def discardCommit (s : State) (core p op epoch : Nat) : State :=
  if (s.core core).role != 0 || epoch != (s.partRun p).epoch.toNat then onExec s p op fun e => e.ungrant core else s

/-- COMMIT_REQUEST (06 R139). -/
def execCommitRequest (core p op strip epoch : Nat) (s : State) : Host.Outcome State Fault Refusal :=
  .next (
    if !(works s && core < 1500 && p < 10 && asksCommit s core p op strip) then s
    else match granted s core p op strip epoch with
      | some w => w.state
      | none => dupCommit (discardCommit s core p op epoch) p core op strip)

/-- A committed strip enters its execution: its values, its core, and a combine task once all parts of its block are DONE. -/
def commitStrip (w : Work) (e : Exec) (t : Strip) (core logical : Nat) (counter : Nat) : Exec :=
  let r := opAt w.pl.image t.op
  let values := if t.computed then t.values else (stripValues w (coreBasin core) e t).values
  let first := t.strip / r.parts * r.parts
  let e1 := { e with board := Tab.put e.board (boardKey t.strip t.combine) .done
                     claims := e.claims.filter fun c => !(c.strip == t.strip && c.combine == t.combine) }
  if r.parts = 1 then { e1 with values := Tab.put e1.values t.strip values
                                ranBy := Tab.put e1.ranBy t.strip (core + 65536 * logical) }
  else if t.combine then
    { e1 with values := Tab.put e1.values t.strip values, combined := t.strip :: e1.combined
              ranBy := Tab.put e1.ranBy t.strip (core + 65536 * logical) }
  else
    let e2 := { e1 with parts := Tab.put e1.parts t.strip values }
    if (List.range r.parts).all fun p => Tab.find e2.board (first + p) == some Board.done then
      { e2 with reissue := e2.reissue ++ [(counter, first, true)] }
    else e2

/-- The core after its strip is committed: it goes on with the one it fetched ahead. -/
def Core.committed (c : Core) (t : Strip) : Core :=
  let c1 := { c with strips := satAdd c.strips (b2n !t.combine), running := none, ahead := none, curOp := 0xFFFFFFFF,
                     buffer := c.buffer.filter fun b => !(b.op == t.op && b.strip == t.strip), curStrip := 0xFFFFFFFF }
  match c.ahead with
  | some a => c1.run a
  | none => c1

/-- The execution and grant that a completion is about: the work, the execution, the combine mark. -/
def committing (s : State) (core p op strip epoch : Nat) : Option (Work × Exec × Bool) :=
  match workOf s p with
  | some w => match w.j.exec op with
    | some e =>
      if epoch != (s.partRun p).epoch.toNat then none
      else if Tab.find e.board (boardKey strip true) == some (Board.granted core) then some (w, e, true)
      else if Tab.find e.board (boardKey strip false) == some (Board.granted core) then some (w, e, false)
      else none
    | none => none
  | none => none

/-- STRIP_COMMIT_DONE (06 R139, R140). -/
def execStripCommitDone (core p op strip epoch : Nat) (s : State) : Host.Outcome State Fault Refusal :=
  .next (
    if !(works s && core < 1500 && p < 10) then s
    else match committing s core p op strip epoch with
      | none => dupCommit s p core op strip
      | some (w, e, combine) =>
        let c := s.core core
        let held := match holds c p op strip with | some t => t.combine == combine | none => false
        let t := match holds c p op strip with
          | some t => if t.combine = combine then t
            else { part := p, op := op, strip := strip, epoch := (s.partRun p).epoch, combine := combine }
          | none => { part := p, op := op, strip := strip, epoch := (s.partRun p).epoch, combine := combine }
        let k := counterOf s p w.pl.image op strip
        let s1 := ({ w with j := w.j.setExec (commitStrip w e t core c.logical.toNat k) } : Work).state
        let s2 := if held then fillCore w core (s1.setCore core (c.committed t)) else s1
        pollReady (onLead s2 p fun v => { v with commits := satAdd v.commits (b2n !combine) }) p)

/-! Reissue (R137). -/

/-- The strips a dead core claimed go to the reissue lists of their counters, its grants are OPEN; with the counters of the strips,
which combine tasks are not (R140). -/
def reissueExec (s : State) (p : Nat) (i : List Byte) (core : Nat) (e : Exec) : Exec × List Nat :=
  let mine := e.claims.filter fun c => c.phys == core
  let back := mine.map fun c => (counterOf s p i e.op c.strip, c.strip, c.combine)
  ({ e.ungrant core with claims := e.claims.filter fun c => c.phys != core, reissue := e.reissue ++ back },
    (back.filter fun b => !b.2.2).map Prod.fst)

/-- The source of a counter's event: the basin that holds it. -/
def counterSource (s : State) (p : Nat) (i : List Byte) (o k : Nat) : Nat :=
  let r := opAt i o
  if r.resident < hTensors i && (tensorAt i r.resident).home == 1 then srcBasin k else leadSource s p

/-- EV_STRIP_REISSUED for each counter that got strips. -/
def reissueEvents (s : State) (p : Nat) (i : List Byte) (o : Nat) (ks : List Nat) : State :=
  ks.eraseDups.foldl (fun s k =>
    opEvent s evStripReissued (counterSource s p i o k) p o (toLe 4 (ks.filter (· == k)).length)) s

/-- The work of a dead core is reissued. -/
def reissueWork (w : Work) (core : Nat) : State :=
  let i := w.pl.image
  let rs := w.j.execs.map fun e => (e.op, reissueExec w.s w.p i core e)
  let s1 := ({ w with j := { w.j with execs := rs.map fun r => r.2.1 } } : Work).state
  let s2 := onLead s1 w.p fun v => { v with reissued := satAdd v.reissued (rs.map fun r => r.2.2.length).sum }
  rs.foldl (fun s r => reissueEvents s w.p i r.1 r.2.2) s2

/-- STRIP_REISSUE (06 R137): the port of a dead core has drained. Nothing is reissued while a job fault's restart is due. -/
def execStripReissue (core : Nat) (s : State) : Host.Outcome State Fault Refusal :=
  .next (
    let p := basinPart s (coreBasin core)
    if !(works s && core < 1500 && (s.core core).role == 2 && !(s.partRun p).halt.isRestart) then s
    else match workOf s p with
      | some w => reissueWork w core
      | none => s)

/-! Sounding (03 R56 to R62, R69). -/

/-- The physical core that serves a logical number: one of its die. -/
def coreServing (s : State) (n : Nat) : Option Nat :=
  ((List.range 50).map (50 * (n / 48) + ·)).find? fun p => (s.core p).role == 0 && (s.core p).logical.toNat == n

/-- The k-th checker of what logical core n computed (R56). -/
def checkerOf (s : State) (n k : Nat) : Option Nat :=
  coreServing s (n / 144 * 144 + (n / 48 + k) % 3 * 48 + n % 48)

/-- Strip and column block of a portion belong to one strip-tile with another. -/
def sameTile (r : OpRec) (a b : Portion) : Bool := a.tile == b.tile && (stripPlace r a.strip).2.1 == (stripPlace r b.strip).2.1

/-- A portion with another verdict. -/
def Exec.settle (e : Exec) (strip tile : Nat) (v : Verdict) : Exec :=
  { e with portions := e.portions.map fun q => if q.strip = strip && q.tile = tile then { q with verdict := v } else q }

/-- A portion of an execution that waits with this verdict, whose strip is committed and combined. -/
def portionAt (w : Work) (op strip tile : Nat) (v : Verdict) : Option (Exec × Portion) :=
  match w.j.exec op with
  | some e =>
    match e.portions.find? fun q => q.strip == strip && q.tile == tile with
    | some q =>
      let ready := if (opAt w.pl.image op).parts = 1 then Tab.find e.board strip == some Board.done
        else e.combined.contains strip
      if ready && q.verdict = v then some (e, q) else none
    | none => none
  | none => none

/-- The input of operation o has a BF16 copy (R59), so that the fidelity comparison runs (R58). -/
def fidelity (i : List Byte) (o : Nat) : Bool :=
  let r := opAt i o
  let e := ecAt i o
  let d := tensorAt i r.streamed
  within r.kind 1 3 && e.master && e.inputCopy
    && ((List.range (hOps i)).any (fun q => (opAt i q).output == r.streamed && quantises i (opAt i q))
      || (d.source == 1 && (d.format == 0x01 || d.format == 0x02)))

/-- Both operands are 8 bits wide: ESCALATE acts as LOG (R59). -/
def bothEight (i : List Byte) (o : Nat) : Bool :=
  (tensorFmt i (opAt i o).resident).width == 8 && (tensorFmt i (opAt i o).streamed).width == 8

/-- The largest relative error: NaN once seen stays (R73). -/
def worstError (old e : Word32) : Word32 :=
  if f32 old = .nan then old else if f32 e = .nan || (f32 old).lt (f32 e) then e else old

/-- The tile is over budget (R58). -/
def overBudget (e : EcRec) (x : Word32) : Bool :=
  let budget : Word32 := if zero32 e.budget then 0x3D4CCCCD else e.budget
  f32 x == .nan || (f32 budget).lt (f32 x)

/-- An escalation is reported: the event, and the counter of the basin. -/
def reportEscalated (s : State) (core p op : Nat) : State :=
  countNum (opEvent s evEscalated core p op []) (coreBasin core) fun v => { v with escalated := satAdd v.escalated 1 }

/-- The request of a row is escalated for operation op when the step ends (R69), unless it is already. -/
def escalateRow (w : Work) (core op row : Nat) : State :=
  let s := w.state
  let run := s.partRun w.p
  match w.owner row, run.step with
  | some q, some st =>
    if st.ended.contains (q.slot, 65536 + op) || q.escalation.contains op then s
    else reportEscalated (s.setRun w.p { run with step := some { st with ended := st.ended ++ [(q.slot, 65536 + op)] } }) core w.p op
  | _, _ => s

/-- Sounding counts of a job (R62). -/
def Job.counted (j : Job) (op : Nat) : Job := { j with checks := Tab.put j.checks op (Tab.get j.checks op 0 + 1) }
@[inherit_doc Job.counted]
def Job.over (j : Job) (op : Nat) : Job := { j with overs := Tab.put j.overs op (Tab.get j.overs op 0 + 1) }

/-- The fidelity verdict e_rel = x on a strip-tile or a row (R58, R60): counted and reported, and the policy of the operation acted
on. -/
def fidelityVerdict (w : Work) (e : Exec) (q : Portion) (core : Nat) (x : Word32) : State :=
  let ec := ecAt w.pl.image e.op
  let tile := if w.j.serving then q.tile / 128 else q.tile
  let s1 := countNum w.s (coreBasin core) fun v => { v with errMax := worstError v.errMax x }
  if !overBudget ec x then ({ w with s := s1 } : Work).state
  else
    let s2 := countNum (opEvent s1 evSoundingOver core w.p e.op (toLe 4 tile ++ toLe 4 x.toNat)) (coreBasin core)
      fun v => { v with overs := satAdd v.overs 1 }
    let w2 : Work := { w with s := s2, j := w.j.over e.op }
    match if ec.policy = 1 && bothEight w.pl.image e.op then 0 else ec.policy with
    | 0 => w2.state
    | 1 =>
      if w.j.serving then escalateRow w2 core e.op q.tile
      else if e.escalated || w.j.escalation.contains e.op then w2.state
      else reportEscalated (onExec w2.state w.p e.op fun d => { d with escalated := true }) core w.p e.op
    | _ => onExec w2.state w.p e.op fun d =>
      { d with policy := some (match d.policy with | some k => min k q.strip | none => q.strip) }

/-- The wide reference of output element (r, c) (R58): BF16 input × BF16 master weight over ascending (tap, K), each step an FMA. -/
def Work.wideValue (w : Work) (o r c : Nat) : Word32 :=
  let i := w.pl.image
  let rec' := opAt i o
  let b := paramBytes i rec'.params 64
  let axes := convAxes b
  let width := tapWidth i rec'
  let base := if rec'.kind = 3 then c / cWidth b * cWidth b else 0
  (List.range (if rec'.kind = 1 then 1 else taps axes)).foldl (fun acc tau =>
    match if rec'.kind = 1 then some r else tapRow axes r tau with
    | none => acc
    | some q => (List.range width).foldl (fun acc k =>
        rne32 ((f32 acc).add ((w.copyAt rec'.streamed q (base + k)).mul
          (bf16.decode (Config.masterWeight i o (tau * rec'.n + c) k).toNat)))) acc) fzero

/-- e_rel from the values y and yw in order (R58), each root and the quotient rounded once. -/
def relError (ys ws : List Word32) : Word32 :=
  let num := rowSum ((List.zipWith fsub ys ws).map fun d => fmul d d)
  let den := rowSum (ws.map fun x => fmul x x)
  if zero32 den then (if zero32 num then fzero else finf) else fdiv (fsqrt num) (fsqrt den)

/-- The value y of output element (r, c) before the epilogue. -/
def Exec.valueAt (rec' : OpRec) (e : Exec) (r c : Nat) : Word32 :=
  let cb := c / 128
  let n := (blockCols rec' cb).length
  (Tab.get e.values ((r / rec'.stripRows * stripColBlocks rec' + cb) * rec'.parts) []).getD
    (r % rec'.stripRows * n + c % 128) fzero

/-- e_rel of a strip-tile: 128 columns of its rows, those beyond N zero; of a row of a serving step: its N values (R69). -/
def Work.tileError (w : Work) (e : Exec) (q : Portion) : Word32 :=
  let r := opAt w.pl.image e.op
  let cb := (stripPlace r q.strip).2.1
  let at' := if w.j.serving then (List.range r.n).map fun c => (q.tile, c)
    else (List.range (min 128 (r.m - 128 * q.tile))).flatMap fun k => (List.range 128).map fun c => (128 * q.tile + k, 128 * cb + c)
  let within' := fun (x : Nat × Nat) (v : Word32) => if x.2 < r.n then v else fzero
  relError (at'.map fun x => within' x (e.valueAt r x.1 x.2)) (at'.map fun x => within' x (w.wideValue e.op x.1 x.2))

/-- The first of some portions. -/
def firstPortion (q : Portion) (qs : List Portion) : Portion := qs.foldl (fun a b => if b.strip < a.strip then b else a) q

/-- The portion agrees: it is settled; its strip-tile is checked once all its portions are, and compared for fidelity by the
checker of its first portion (R56, R58); of a serving step's row, once the portions of the row are (R69). -/
def agreeing (w : Work) (e : Exec) (q : Portion) : State :=
  let r := opAt w.pl.image e.op
  let e1 := e.settle q.strip q.tile .settled
  let done := fun (qs : List Portion) => qs.all fun d => d.verdict == .settled
  let coreOf := fun (d : Portion) => Tab.get e.ranBy d.strip 0 % 65536
  let same := e1.portions.filter (sameTile r q)
  let group := if w.j.serving then e1.portions.filter fun d => d.tile == q.tile else same
  let j1 := w.j.setExec e1
  let core := coreOf (firstPortion q same)
  let w1 : Work := { w with
    s := if done same then countNum w.s (coreBasin core) fun v => { v with checked := satAdd v.checked 1 } else w.s
    j := if done same then j1.counted e.op else j1 }
  let f := firstPortion q group
  if done group && fidelity w.pl.image e.op then fidelityVerdict w1 e1 f (coreOf f) (w1.tileError e1 f) else w1.state

/-- A mismatch: counted, and the portion waits for arbitration (R57). -/
def mismatching (w : Work) (e : Exec) (q : Portion) (core : Nat) : State :=
  let s1 := countNum w.s (coreBasin core) fun v => { v with mismatch := satAdd v.mismatch 1 }
  let b := coreBasin core
  let s2 := s1.setBasin b { s1.basin b with num := { (s1.basin b).num with status := (s1.basin b).num.status ||| 1 } }
  ({ w with s := s2, j := w.j.setExec (e.settle q.strip q.tile .mismatch) } : Work).state

/-- SOUNDING_CHECK (03 R56 to R60): what the first checker finds. -/
def execSoundingCheck (p op strip tile : Nat) (agree : Bool) (s : State) : Host.Outcome State Fault Refusal :=
  .next (
    if !works s || (s.partRun p).halt.isRestart then s
    else match workOf s p with
      | none => s
      | some w =>
        match portionAt w op strip tile .pending with
        | none => s
        | some (e, q) =>
          if agree then agreeing w e q else mismatching w e q (Tab.get e.ranBy strip 0 % 65536))

/-- A core that a verdict names, or none. -/
def namedCore (c : Option Nat) : List Byte := toLe 2 (c.getD 0xFFFF)

/-- The cores that arbitration declares dead (R57): the one that computed, the first checker. -/
def blamed (core : Nat) (checker : Option Nat) : Arbiter → List Nat
  | .array => checker.toList
  | .first => [core]
  | .neither => core :: checker.toList

/-- SOUNDING_ARBITRATION (03 R57): cores are declared dead and the job ends as a hardware fault. -/
def execSoundingArbitration (p op strip tile : Nat) (second : Arbiter) (s : State) : Host.Outcome State Fault Refusal :=
  .next (
    if !works s || (s.partRun p).halt.isRestart then s
    else match workOf s p with
      | none => s
      | some w =>
        match portionAt w op strip tile .mismatch with
        | none => s
        | some (e, q) =>
          let ran := Tab.get e.ranBy strip 0
          let core := ran % 65536
          let dead := blamed core (checkerOf s (ran / 65536) 1) second
          let row := if w.j.serving then q.tile / 128 else q.tile
          let s1 := opEvent s evSoundingMismatch core p op (toLe 4 row
            ++ toLe 2 (stripPlace (opAt w.pl.image op) strip).2.1 ++ namedCore dead[0]? ++ namedCore dead[1]?)
          jobFault (dead.foldl (fun s d => declareDead s d 2) s1) p)

end Sys2Proof.Machine
end

