-- ==== Sys2Proof/Machine/Codec.lean ====
section
/-! DEFINITION. Sys2Proof/Machine/Codec.lean: the codec engines (11 R231 to R258): CODEC_ENCODE, CODEC_DECODE, their queues, and
the encode of a plan's codec operation (R252). -/

namespace Sys2Proof.Machine

/-! Encoding. -/

/-- A sample as the encoder reads it (R235): its integer, and whether the clamp changed it. -/
def readSample (depth w : Nat) : Nat × Bool :=
  let top : Nat := 2 ^ depth - 1
  match fp16.decode w with
  | .nan => (0, true)
  | .inf neg => (if neg then 0 else top, true)
  | .fin neg m e =>
    let n := roundUnits .near m 1 (-e)
    if neg && n != 0 then (0, true) else if top < n then (top, true) else (n, false)

/-- Bit depth of an encode. -/
def ceDepth (d : List Byte) : Nat := if ceDeep d then 10 else 8

/-- The samples of frame i in display order as the encoder reads them; rd reads the source by byte. -/
def readFrame (d : List Byte) (rd : Nat → Byte) (i : Nat) : List (Nat × Bool) :=
  let w := ceWidth d
  let h := ceHeight d
  (List.range (w * h + w * h / 2)).map fun k =>
    let a := i * frameStride w h + 2 * k
    readSample (ceDepth d) (leNat [rd a, rd (a + 1)])

/-- The clip of an encode: rd reads its frames, hint its hint tensor, by byte. -/
def clipOf (d : List Byte) (rd hint : Nat → Byte) : Config.Clip :=
  ⟨ceSettings d, (List.range (ceFrames d)).map fun i => (readFrame d rd i).map (·.1),
    if ceHints d then (List.range (ceFrames d * hintStride (ceWidth d) (ceHeight d))).map hint else []⟩

/-- A picture as coded: its number in coding order, its access unit or temporal unit, the filler after it, its rows, the choices of its
rows and of all before, its quantiser, what the search found, and the buffer after its removal in bits × fps_num. -/
structure CodedPicture where
  number : Nat
  unit : List Byte
  filler : List Byte
  rows : List CodedRow
  choices : List (List Nat)
  q : Nat
  found : List Found
  after : Nat
  deriving DecidableEq, Repr

/-- Its bytes in the stream, its re-codes and its rows by fallback. -/
def CodedPicture.bytes (p : CodedPicture) : List Byte := p.unit ++ p.filler
@[inherit_doc CodedPicture.bytes]
def CodedPicture.recoded (p : CodedPicture) : Nat := (p.rows.map CodedRow.recodes).sum
@[inherit_doc CodedPicture.bytes]
def CodedPicture.skipped (p : CodedPicture) : Nat := (p.rows.filter CodedRow.fallback).length

/-- Coded picture k as the search reads it. -/
def sourceOf (d : List Byte) (clip : Config.Clip) (k : Nat) : Plane :=
  ⟨ceAv1 d, clip.frames.getD (displayAt d k) [], ceWidth d, ceHeight d⟩

/-- The references of coded picture k as reconstructed. -/
def refPlanes (d : List Byte) (clip : Config.Clip) (hist : List (List Nat)) (k : Nat) : List Plane :=
  (referencesOf d k).map fun q => ⟨ceAv1 d, Config.recon clip hist q, ceWidth d, ceHeight d⟩

/-- Coded picture k (R240 to R248): before holds the pictures coded before it, full the buffer before its removal in bits ×
fps_num. -/
def codePicture (d : List Byte) (clip : Config.Clip) (before : List CodedPicture) (full k : Nat) : CodedPicture :=
  let hist := before.map fun p => p.rows.map CodedRow.choice
  let q := pictureQ d clip hist k
  let old := ((nearestRef d k (referencesOf d k)).bind fun r => before[r]?.map CodedPicture.found).getD []
  let found := if intraAt d (displayAt d k) then [] else
    searchPicture d clip.hints k (Config.lambda clip.settings q) (sourceOf d clip k) (refPlanes d clip hist k) old
  let vectors := found.map fun f => f.vectors.zipIdx.filterMap fun v => v.1.map fun x => (v.2, x.1, x.2)
  let rows := codeRows (buffered d) (ceFpsNum d) full (rowReserve (ceWidth d))
    (fun done t => Config.rowCode clip (hist ++ [done]) vectors (recodeQ d q t))
    (fun done => Config.fallbackCode clip (hist ++ [done])) (headersOf d k) 0 [] (ceRows d)
  let unit := rows.flatMap CodedRow.code
  let after := full - 8 * unit.length * ceFpsNum d
  let fill := fillerOf d after (ceMax d * 1000 * ceFpsDen d)
  { number := k, unit := unit, filler := fill, rows := rows, choices := hist ++ [rows.map CodedRow.choice], q := q, found := found,
    after := after - 8 * fill.length * ceFpsNum d }

/-- The buffer before the picture after p is removed (R246). -/
def nextFullness (d : List Byte) (p : CodedPicture) : Nat :=
  min (ceCpb d * 1000 * ceFpsNum d) (p.after + ceMax d * 1000 * ceFpsDen d)

/-- The first n pictures of an encode in coding order. -/
def codePictures (d : List Byte) (clip : Config.Clip) : Nat → List CodedPicture
  | 0 => []
  | n + 1 =>
    let before := codePictures d clip n
    let full := match before.getLast? with | some p => nextFullness d p | none => firstFullness d
    before ++ [codePicture d clip before full n]

/-- Hint entries of a coded picture that are ignored; an intra picture counts none (R243). -/
def CodedPicture.ignored (d : List Byte) (clip : Config.Clip) (p : CodedPicture) : Nat :=
  if intraAt d (displayAt d p.number) then 0
  else hintsIgnored d clip.hints p.number (referencesOf d p.number).length

/-! Statistics (R244, R245). -/

/-- What the statistics say of one 16×16 block. -/
structure BlockStat where
  vec : Vec := (0, 0)
  ref : Nat := 255
  mode : Nat
  q : Nat
  sad : Nat := 0
  inter : Option Nat := none
  intra : Nat
  bits : Nat

/-- The statistics of block b of a coded picture: the vector is that found for the 64×64 block that holds it. -/
def blockStat (d : List Byte) (clip : Config.Clip) (p : CodedPicture) (b : Nat) : BlockStat :=
  let blk := blockAt (ceWidth d) (ceHeight d) 16 b
  let o := Config.blockCoded clip p.choices b
  let row := p.rows.getD (blk.y / 64) ⟨[], 0, false⟩
  let s : BlockStat := { mode := min 2 o.2.1, q := recodeQ d p.q row.recodes, intra := o.1, bits := o.2.2 }
  match (p.found.getD (blk.y / 64 * ceCols d + blk.x / 64) Found.none).best with
  | some (r, v) =>
    let src := sourceOf d clip p.number
    let ref := (refPlanes d clip p.choices p.number).getD r src
    { s with vec := v, ref := r, sad := sad src ref blk v, inter := some (satd src ref blk v) }
  | none => s

/-- A vector in quarter samples: two bytes; an odd eighth of AV1 goes down (log 178). -/
def quarterBytes (v : Int) : List Byte := toLe 2 (BitVec.ofInt 16 (v / 2)).toNat

/-- A block's record (R244). -/
def BlockStat.record (s : BlockStat) : List Byte :=
  quarterBytes s.vec.1 ++ quarterBytes s.vec.2 ++ toLe 1 s.ref ++ toLe 1 s.mode ++ toLe 2 s.q ++ toLe 4 s.sad
    ++ toLe 4 (s.inter.getD 0) ++ toLe 4 s.intra ++ toLe 4 s.bits ++ List.replicate 8 0

/-- What the block adds to `complexity`. -/
def BlockStat.cost (s : BlockStat) : Nat := match s.inter with | some n => min s.intra n | none => s.intra

/-- `type` of a picture (R245). -/
def typeOf (d : List Byte) (f : Nat) : Nat :=
  if intraAt d f then 0 else if ceAv1 d then 3
  else if ceGop d = 3 then (if Config.codedAsP (ceSettings d) f then 1 else 2) else ceGop d

/-- Mean q × 16 (R245). -/
def meanQ (qs : List Nat) : Nat :=
  16 * qs.sum / qs.length + b2n (16 * qs.sum % qs.length != 0 && Config.meanUp qs.sum qs.length)

/-- The statistics of one picture (R244, R245). -/
def statBytes (d : List Byte) (clip : Config.Clip) (p : CodedPicture) : List Byte :=
  let f := displayAt d p.number
  let bs := (List.range (blocksIn (ceWidth d) (ceHeight d) 16)).map (blockStat d clip p)
  toLe 4 f ++ toLe 1 (typeOf d f) ++ toLe 1 (layerOf d f) ++ toLe 2 (meanQ (bs.map BlockStat.q)) ++ toLe 4 (8 * p.unit.length)
    ++ toLe 4 p.recoded ++ toLe 4 p.skipped ++ toLe 8 (bs.map BlockStat.sad).sum ++ toLe 8 (bs.map fun s => s.inter.getD 0).sum
    ++ toLe 8 (bs.map BlockStat.intra).sum
    ++ toLe 4 (fp32.encode (fp32.roundRat .near false (bs.map BlockStat.cost).sum (ceWidth d * ceHeight d)))
    ++ toLe 4 (if buffered d then p.after / ceFpsNum d else 0) ++ toLe 2 (ceWidth d) ++ toLe 2 (ceHeight d) ++ List.replicate 8 0
    ++ bs.flatMap BlockStat.record

/-- What an encode wrote: whole units, by coding order; stopped: the next did not fit. -/
structure Encoded where
  pics : List CodedPicture
  stopped : Bool

/-- Units taken while the destination has room for their sum (R251). -/
def takeUnits (room : Nat → Bool) : Nat → List CodedPicture → Encoded
  | _, [] => ⟨[], false⟩
  | used, p :: ps =>
    if room (used + p.bytes.length) then
      let e := takeUnits room (used + p.bytes.length) ps
      ⟨p :: e.pics, e.stopped⟩
    else ⟨[], true⟩

/-- A whole encode of a clip, and the room at the destination. -/
def encode (d : List Byte) (clip : Config.Clip) (room : Nat → Bool) : Encoded :=
  takeUnits room 0 (codePictures d clip (ceFrames d))

def Encoded.stream (e : Encoded) : List Byte := e.pics.flatMap CodedPicture.bytes
def Encoded.recoded (e : Encoded) : Nat := (e.pics.map CodedPicture.recoded).sum
def Encoded.skipped (e : Encoded) : Nat := (e.pics.map CodedPicture.skipped).sum

/-- Samples clamped in the frames encoded. -/
def Encoded.clamped (e : Encoded) (d : List Byte) (rd : Nat → Byte) : Nat :=
  (e.pics.map fun p => ((readFrame d rd (displayAt d p.number)).filter (·.2)).length).sum

/-- The statistics of the pictures encoded, each with its offset. -/
def Encoded.stats (e : Encoded) (d : List Byte) (clip : Config.Clip) : List (Nat × List Byte) :=
  e.pics.map fun p => (displayAt d p.number * statStride (ceWidth d) (ceHeight d), statBytes d clip p)

/-- The encode report (R251). -/
def Encoded.report (e : Encoded) (clamped : Nat) : List Byte :=
  toLe 8 e.stream.length ++ toLe 4 e.pics.length ++ toLe 4 e.recoded ++ toLe 4 e.skipped ++ toLe 8 clamped ++ [0, 0, 0, 0]

/-- The engine's counters after an encode, its pictures passed through the stages, and EV_RC_SKIP once (R239, R247, R259). -/
def countEncode (s : State) (c p tag : Nat) (e : Encoded) (d : List Byte) (clip : Config.Clip) (clamped : Nat) : State :=
  let r := s.codec c
  let ignored := (e.pics.map fun x => x.ignored d clip).sum
  let s1 := s.setCodec c { r with
    framesEnc := satAdd r.framesEnc e.pics.length, bytesOut := satAdd r.bytesOut e.stream.length
    rowsRecoded := satAdd r.rowsRecoded e.recoded, rowsSkipped := satAdd r.rowsSkipped e.skipped
    clamped := satAdd r.clamped clamped, hintsIgnored := satAdd r.hintsIgnored ignored
    pipe := e.pics.map fun x => .passed encodeOrder x.number (ceRows d) (ceCols d) }
  match e.pics.find? fun x => x.skipped != 0 with
  | some x => raiseEvent s1 evRcSkip (srcCodec c) p (toLe 4 tag ++ toLe 4 (displayAt d x.number))
  | none => s1

/-! CODEC_ENCODE. -/

/-- The engine is held by a plan of the partition (R231). -/
def engineHeld (s : State) (c p : Nat) : Bool := (s.codec c).holder != 0 && (s.codec c).holderPart.toNat == p

/-- Ranges do not overlap one another. -/
def apart : List (Nat × Nat) → Bool
  | [] => true
  | r :: rs => rs.all (fun q => !overlapping r q) && apart rs
where
  /-- Two ranges (start, length) overlap. -/
  overlapping (a b : Nat × Nat) : Bool := a.2 != 0 && b.2 != 0 && a.1 < b.1 + b.2 && b.1 < a.1 + a.2

/-- The checks of R250. -/
def encodeStatus (s : State) (c : Cmd) : Option Nat :=
  let d := c.desc
  let p := dPart d
  let n := ceFrames d
  let w := ceWidth d
  let h := ceHeight d
  let src := (ceSrc d, n * frameStride w h)
  let stats := (ceStatsAddr d, if ceStats d then n * statStride w h else 0)
  let hints := (ceHintAddr d, if ceHints d then n * hintStride w h else 0)
  let dst := (ceDst d, if ceObject d then 0 else ceCapacity d)
  let rep := (ceReport d, if ceReport d = 0 then 0 else 32)
  if n = 0 then some stOk
  else if !engineHeld s (ceEngine d) p then some stDenied
  else if !encodeFields d || ceFollow d || ceSrc d % 4096 != 0 || ceStatsAddr d % 4096 != 0 || ceHintAddr d % 4096 != 0
      || (!ceObject d && ceDst d % 64 != 0) then some stBadDesc
  else if !([src, stats, hints].all fun r => inQuota s p r.1 r.2) || !([dst, rep].all fun r => inWindows s c.fn r.1 r.2) then
    some stDenied
  else if !apart [src, stats] || !apart [dst, rep] then some stBadDesc
  else if ceObject d then newObjectStatus s c.fn (ceDst d)
  else none

/-- The destination has room for a stream of n bytes (R251). -/
def encodeRoom (s : State) (c : Cmd) (n : Nat) : Bool :=
  if ceObject c.desc then !storeFull s c.fn n false else n ≤ ceCapacity c.desc

/-- The output ranges of an encode hold unspecified values (13 R298). -/
def encodeJunk (s : State) (d : List Byte) : State :=
  let a := if ceObject d then s else let g := openBytes s (ceCapacity d); hostWrite g.2 (ceDst d) g.1
  if ceStats d then
    let g := openBytes a (ceFrames d * statStride (ceWidth d) (ceHeight d))
    hbmPut g.2 (dPart d) (ceStatsAddr d) g.1
  else a

/-- The encode itself, once its engine takes it. An access outside the windows as they stand then ends it (14 R306). -/
def encodeNow (s : State) (c : Cmd) (env : Env) : State :=
  let d := c.desc
  let p := dPart d
  let t := chargeCmd s c env.charge
  let r := tierStatus t.1 p env.tier
  match r.2 with
  | some st => finish r.1 t.2 st
  | none =>
    if env.fault then finish (unitFault (encodeJunk r.1 d) p (srcCodec (ceEngine d)) env.tests) t.2 stJobFault
    else
      let n := ceFrames d * frameStride (ceWidth d) (ceHeight d)
      let hs := if ceHints d then ceFrames d * hintStride (ceWidth d) (ceHeight d) else 0
      let g := hbmGet (hbmGet r.1 p (ceSrc d) n).2 p (ceHintAddr d) hs
      let rd := fun k => partByte g.2 p (ceSrc d + k)
      let clip := clipOf d rd fun k => partByte g.2 p (ceHintAddr d + k)
      let e := encode d clip (encodeRoom g.2 c)
      let clamped := e.clamped d rd
      if !ceObject d && !inWindows g.2 c.fn (ceDst d) e.stream.length then finish g.2 t.2 stDenied else
      let s1 := if ceObject d then appendHidden (wearOut g.2 env.wear) (ceDst d) e.stream else hostWrite g.2 (ceDst d) e.stream
      let s2 := if ceStats d then (e.stats d clip).foldl (fun s x => hbmPut s p (ceStatsAddr d + x.1) x.2) s1 else s1
      if ceReport d != 0 && !inWindows s2 c.fn (ceReport d) 32 then finish s2 t.2 stDenied else
      let s3 := if ceReport d = 0 then s2 else hostWrite s2 (ceReport d) (e.report clamped)
      let s4 := countEncode s3 (ceEngine d) p (dTag d) e d clip clamped
      finish s4 t.2 (if !e.stopped then stOk else if ceObject d then stStoreFull else stBadDesc)

/-! CODEC_DECODE. -/

def cdObject (d : List Byte) : Bool := bitOf (leAt d 32 1) 1
def cdStats (d : List Byte) : Bool := bitOf (leAt d 32 1) 2
def cdEngine (d : List Byte) : Nat := bitsOf (leAt d 33 1) 0 2
def cdWidth (d : List Byte) : Nat := leAt d 34 2
def cdHeight (d : List Byte) : Nat := leAt d 36 2
def cdFrames (d : List Byte) : Nat := leAt d 38 2
def cdSrc (d : List Byte) : Nat := leAt d 40 8
def cdLength (d : List Byte) : Nat := leAt d 48 8
def cdDst (d : List Byte) : Nat := leAt d 56 8
def cdDpb (d : List Byte) : Nat := leAt d 64 8
def cdDamage (d : List Byte) : Nat := leAt d 72 8
def cdStatsAddr (d : List Byte) : Nat := leAt d 80 8
def cdReport (d : List Byte) : Nat := leAt d 88 8

/-- Frame stride and damage-map stride of a decode. -/
def cdStride (d : List Byte) : Nat := frameStride (cdWidth d) (cdHeight d)
@[inherit_doc cdStride]
def cdMapStride (d : List Byte) : Nat := ceilDiv (blocksIn (cdWidth d) (cdHeight d) 64) 4096 * 4096

/-- The four buffers that the engine writes through (R254): start and length. -/
def decodeBuffers (d : List Byte) : List (Nat × Nat) :=
  [(cdDst d, cdFrames d * cdStride d), (cdDpb d, 17 * cdStride d), (cdDamage d, cdFrames d * cdMapStride d),
   (cdStatsAddr d, if cdStats d then cdFrames d * statStride (cdWidth d) (cdHeight d) else 0)]

/-- The checks before any read (R253). -/
def decodeStatus (s : State) (c : Cmd) : Option Nat :=
  let d := c.desc
  let p := dPart d
  let w := cdWidth d
  let h := cdHeight d
  if cdFrames d = 0 || cdLength d = 0 then some stOk
  else if !engineHeld s (cdEngine d) p then some stDenied
  else if !(64 ≤ w && w ≤ 8192 && w % 2 == 0 && 64 ≤ h && h ≤ 4352 && h % 2 == 0)
      || !(decodeBuffers d).all (fun r => r.1 % 4096 == 0) || (!cdStats d && cdStatsAddr d != 0) || cdReport d % 32 != 0 then
    some stBadDesc
  else if !(decodeBuffers d).all (fun r => inQuota s p r.1 r.2) || (!cdObject d && !inWindows s c.fn (cdSrc d) (cdLength d))
      || (cdReport d != 0 && !inWindows s c.fn (cdReport d) 32) then some stDenied
  else if !apart (decodeBuffers d) then some stBadDesc
  else none

/-- The 64×64 block of sample k of a picture (Y, Cb, Cr in raster order). -/
def sampleBlock (w h k : Nat) : Nat :=
  if k < w * h then k / w / 64 * ceilDiv w 64 + k % w / 64
  else let j := (k - w * h) % (w * h / 4); j / (w / 2) / 32 * ceilDiv w 64 + j % (w / 2) / 32

/-- A picture of a decode is within R236 and R238 and the maxima (R256). -/
def pictureFits (d : List Byte) (p : Config.Picture) : Bool :=
  64 ≤ p.width && p.width ≤ cdWidth d && p.width % 2 == 0 && 64 ≤ p.height && p.height ≤ cdHeight d && p.height % 2 == 0
    && (p.depth == 8 || p.depth == 10)

/-- The picture as the engine holds it: one sample of its depth for each place, one damage code (0 to 3) for each block. -/
def shapePicture (p : Config.Picture) : Config.Picture :=
  { p with
    samples := (List.range (p.width * p.height + p.width * p.height / 2)).map fun k => p.samples.getD k 0 % 2 ^ p.depth
    damage := (List.range (blocksIn p.width p.height 64)).map fun b => p.damage.getD b 1 % 4 }

/-- What a decode makes of a stream (R236, R256): its pictures up to the first header that is refused, whether one was, and the stream
bytes consumed. -/
structure Decoding where
  pics : List Config.Picture
  refused : Bool
  used : Nat

/-- A stream decoded. -/
def decodeOf (d : List Byte) (stream : List Byte) : Decoding :=
  let av1 := bitOf (leAt d 32 1) 0
  let all := Config.decoded av1 stream
  let some' := match Config.refusedAt av1 stream with | some r => all.take r.1 | none => all
  let ps := some'.takeWhile (pictureFits d)
  let n := stream.length
  { pics := ps.map shapePicture
    refused := ps.length < some'.length || (Config.refusedAt av1 stream).isSome
    used := if ps.length < some'.length then min n (Config.sizeAt av1 stream ps.length)
      else match Config.refusedAt av1 stream with | some r => min n r.2 | none => n }

/-- A picture with its blocks of damage code 1 concealed (R255): from the picture output before it, of the same size, or
2^(d−1) in every plane. -/
def conceal (prev : Option Config.Picture) (p : Config.Picture) : Config.Picture :=
  { p with samples := p.samples.zipIdx.map fun e =>
      if p.damage.getD (sampleBlock p.width p.height e.2) 0 = 1 then
        match prev with
        | some q => if q.width = p.width && q.height = p.height then q.samples.getD e.2 0 else 2 ^ (p.depth - 1)
        | none => 2 ^ (p.depth - 1)
      else e.1 }

/-- Every picture concealed from the one before. -/
def concealAll : Option Config.Picture → List Config.Picture → List Config.Picture
  | _, [] => []
  | prev, p :: ps => let q := conceal prev p; q :: concealAll (some q) ps

/-- The picture holds a damage code other than 0. -/
def damaged (p : Config.Picture) : Bool := p.damage.any (· != 0)

/-- A frame as FP16 values (R235). -/
def frameBytes (p : Config.Picture) : List Byte := p.samples.flatMap fun v => toLe 2 (fp16.encode (XR.nat v))

/-- The statistics of a decoded picture (R244): what only an encoder has is 0; op gives what the stream says. -/
def decodeStat (op : Nat → Byte) (k : Nat) (p : Config.Picture) : List Byte :=
  toLe 4 k ++ (List.range 8).map op ++ List.replicate 40 0 ++ toLe 2 p.width ++ toLe 2 p.height ++ List.replicate 8 0
    ++ (List.range (blocksIn p.width p.height 16)).flatMap fun b =>
      let o := fun j => op (64 + 32 * b + j)
      (List.range 5).map o ++ [o 5 &&& 3] ++ [o 6, o 7] ++ List.replicate 12 0 ++ (List.range 4).map (fun j => o (8 + j))
        ++ List.replicate 8 0

/-- A write through a buffer descriptor (R254): outside the buffer it is suppressed and counts in CDC.BOUNDS. -/
def boundedPut (s : State) (d : List Byte) (buffer : Nat × Nat) (at' : Nat) (bytes : List Byte) : State :=
  if at' + bytes.length ≤ buffer.2 then hbmPut s (dPart d) (buffer.1 + at') bytes
  else
    let r := s.codec (cdEngine d)
    s.setCodec (cdEngine d) { r with bounds := satAdd r.bounds 1 }

/-- One output frame with its damage map and statistics; op gives the statistics' bytes. -/
def putFrame (s : State) (d : List Byte) (op : Nat → Byte) (k : Nat) (q : Config.Picture) : State :=
  let buf := fun j => (decodeBuffers d).getD j (0, 0)
  let s1 := boundedPut s d (buf 0) (k * cdStride d) (frameBytes q)
  let s2 := boundedPut s1 d (buf 2) (k * cdMapStride d) (q.damage.map (BitVec.ofNat 8))
  if cdStats d then boundedPut s2 d (buf 3) (k * statStride (cdWidth d) (cdHeight d)) (decodeStat op k q) else s2

/-- Blocks with code 1 or 2. -/
def concealedBlocks (ps : List Config.Picture) : Nat :=
  (ps.map fun p => (p.damage.filter fun x => x == 1 || x == 2).length).sum

/-- The decode report (R257). -/
def decodeReport (used : Nat) (out beyond : List Config.Picture) : List Byte :=
  let last : Config.Picture := out.getLastD ⟨0, 0, 0, [], []⟩
  toLe 8 used ++ toLe 4 out.length ++ toLe 4 (out.filter damaged).length ++ toLe 4 beyond.length ++ toLe 2 last.width
    ++ toLe 2 last.height ++ toLe 1 last.depth ++ List.replicate 7 0

/-- The engine's counters after a decode, its pictures passed through the stages (R239, R259). -/
def countDecode (s : State) (c : Nat) (e : Decoding) (out beyond : List Config.Picture) : State :=
  let r := s.codec c
  s.setCodec c { r with
    framesDec := satAdd r.framesDec (out.length + beyond.length), bytesIn := satAdd r.bytesIn e.used
    picsDamaged := satAdd r.picsDamaged (out.filter damaged).length
    blocksConcealed := satAdd r.blocksConcealed (concealedBlocks out)
    unsupported := satAdd r.unsupported (b2n e.refused)
    pipe := (out ++ beyond).zipIdx.map fun p =>
      .passed decodeOrder p.2 (ceilDiv p.1.height 64) (ceilDiv p.1.width 64) }

/-- The decode of a stream that was read (R254 to R257): all that it writes and reports is a function of the stream and the
descriptor (R47). -/
def decodeStream (s : State) (c : Cmd) (stream : List Byte) : State :=
  let d := c.desc
  let p := dPart d
  let av1 := bitOf (leAt d 32 1) 0
  let e := decodeOf d stream
  let all := concealAll none e.pics
  let out := all.take (cdFrames d)
  let beyond := all.drop (cdFrames d)
  let dpb := (List.range (17 * cdStride d)).map (Config.dpbByte av1 stream)
  let s1 := out.zipIdx.foldl (fun t q => putFrame t d (Config.decodedStat av1 stream q.2) q.2 q.1)
    (boundedPut s d (cdDpb d, 17 * cdStride d) 0 dpb)
  if cdReport d != 0 && !inWindows s1 c.fn (cdReport d) 32 then finish s1 c stDenied else
  let s2 := if cdReport d = 0 then s1 else hostWrite s1 (cdReport d) (decodeReport e.used out beyond)
  let s3 := countDecode s2 (cdEngine d) e out beyond
  let bad := (out.filter damaged).length
  if e.refused then finish s3 c stStreamUnsupported
  else if bad = 0 then finish s3 c stOk
  else finish (raiseEvent s3 evStreamDamaged (srcCodec (cdEngine d)) p (toLe 4 (dTag d) ++ toLe 4 bad)) c stStreamDamaged

/-- The buffers of a decode hold unspecified values (13 R298). -/
def decodeJunk (s : State) (d : List Byte) : State :=
  (decodeBuffers d).foldl (fun s r => let g := openBytes s r.2; hbmPut g.2 (dPart d) r.1 g.1) s

/-- The decode itself, once its engine takes it. An access outside the windows as they stand then ends it (14 R306). -/
def decodeNow (s : State) (c : Cmd) (env : Env) : State :=
  let d := c.desc
  let p := dPart d
  let t := chargeCmd s c env.charge
  if env.fault then finish (unitFault (decodeJunk t.1 d) p (srcCodec (cdEngine d)) env.tests) t.2 stJobFault
  else
    let read : State × (Nat ⊕ List Byte) := if cdObject d then
        let r := wholeObject t.1 c.fn (cdSrc d) env
        match r.2 with
        | .inl st => (r.1, .inl st)
        | .inr bs => (r.1, if bs.length < cdLength d then .inl stBadDesc else .inr (bs.take (cdLength d)))
      else if !inWindows t.1 c.fn (cdSrc d) (cdLength d) then (t.1, .inl stDenied)
      else if env.hostOk then let g := hostRead t.1 (cdSrc d) (cdLength d); (g.2, .inr g.1)
      else (raiseHostRead t.1 c.fn (dTag d) p, .inl stEndedData)
    match read.2 with
    | .inl st => finish read.1 t.2 st
    | .inr stream =>
      let r := tierStatus read.1 p env.tier
      match r.2 with
      | some st => finish r.1 t.2 st
      | none => decodeStream r.1 t.2 stream

/-! Queues (R232). -/

/-- The engine a codec command names. -/
def codecEngine (d : List Byte) : Nat := if dOpcode d = 0x0060 then ceEngine d else cdEngine d

/-- A codec command whose engine takes it. -/
def codecNow (s : State) (c : Cmd) (env : Env) : State :=
  if dOpcode c.desc = 0x0060 then encodeNow s c env else decodeNow s c env

/-- A codec command starts: on an idle engine it runs to its end, else it joins the queue; an object it writes is created now
(16 R358). -/
def startCodec (s : State) (c : Cmd) (env : Env) : State :=
  let k := codecEngine c.desc
  let s1 := match objectWritten c.desc with | some o => createHidden s c o | none => s
  if (s1.codec k).current.isNone && (s1.codec k).queue.isEmpty then codecNow s1 c env
  else joinCodec (s1.setCmd { c with state := .queued }) k (dTag c.desc) (.cmd c.id)

/-- CODEC_ENCODE (R249 to R251). -/
def runCodecEncode (s : State) (c : Cmd) (env : Env) : State :=
  match encodeStatus s c with
  | some st => finish s c st
  | none => startCodec s c env

/-- CODEC_ENCODE. -/
def execCodecEncode (f q : Nat) (env : Env) (s : State) : Host.Outcome State Fault Refusal :=
  .next (takeRow 0x0060 f q env noEarly runCodecEncode s)

/-- CODEC_DECODE (R253 to R257). -/
def runCodecDecode (s : State) (c : Cmd) (env : Env) : State :=
  match decodeStatus s c with
  | some st => finish s c st
  | none => startCodec s c env

/-- CODEC_DECODE. -/
def execCodecDecode (f q : Nat) (env : Env) (s : State) : Host.Outcome State Fault Refusal :=
  .next (takeRow 0x0061 f q env noEarly runCodecDecode s)

/-- An idle engine takes the next of its queue: a command runs to its end, an operation holds the engine until it
completes. -/
def nextWork (s : State) (k : Nat) (env : Env) : State :=
  let r := s.codec k
  match r.current, r.queue with
  | none, .cmd id :: ws =>
    let s1 := s.setCodec k { r with queue := ws }
    match s1.cmd id with
    | some c => codecNow (s1.setCmd { c with state := .running }) { c with state := .running } env
    | none => s1
  | none, .op p o :: ws =>
    s.setCodec k { r with queue := ws, current := some (.op p o), busy := true, curTag := BitVec.ofNat 32 o, curFrame := 0, pipe := [] }
  | _, _ => s

/-- CODEC_WORK_START (R232). -/
def execCodecWorkStart (c : Nat) (env : Env) (s : State) : Host.Outcome State Fault Refusal :=
  .next (if works s && c < 4 then nextWork s c env else s)

/-! A plan's codec operation (R252). -/

/-- The operation that works on an engine. -/
def Codec.work (r : Codec) : Option (Nat × Nat) :=
  match r.current with
  | some (.op p o) => some (p, o)
  | _ => none

/-- Frame f (in display order) of a codec operation may enter its engine: the strips of open executions that write it, its references or
its hints are DONE (R252), and its references have entered (R240). -/
def frameReady (w : Work) (o f : Nat) : Bool :=
  let i := w.pl.image
  let d := asDesc i (opAt i o)
  let n := frameStride (ceWidth d) (ceHeight d)
  let hs := hintStride (ceWidth d) (ceHeight d)
  let k := codedAt d f
  let refs := referencesOf d k
  (refs.all fun q => (w.s.codec (ceEngine d)).pipe.any fun p => p.frame == q)
    && w.j.execs.all fun e =>
      (if (opAt i e.op).output = ceSrc d then
        (f :: refs.map (displayAt d)).all fun g => coveredBy i e (g * n) ((g + 1) * n) else true)
        && (if ceHints d && (opAt i e.op).output = ceHintAddr d then coveredBy i e (k * hs) ((k + 1) * hs) else true)

/-- CODEC_FRAME_START (R239, R240, R252): the frame enters stage 1 of its engine. -/
def execCodecFrameStart (c frame : Nat) (s : State) : Host.Outcome State Fault Refusal :=
  .next (
    match (s.codec c).work with
    | some (p, o) =>
      match workOf s p with
      | some w =>
        let d := asDesc w.pl.image (opAt w.pl.image o)
        if works s && c < 4 && frame < ceFrames d && frameReady w o frame then
          (onExec s p o fun e => { e with frames := if e.frames.contains frame then e.frames else frame :: e.frames }).setCodec c
            { s.codec c with
              curFrame := BitVec.ofNat 32 frame, pipe := enterPipe d (s.codec c).pipe (codedAt d frame) }
        else s
      | none => s
    | none => s)

/-- The engine is idle again. -/
def leaveCodec (s : State) (c : Nat) : State :=
  s.setCodec c { s.codec c with current := none, busy := false, curTag := 0xFFFFFFFF, curFrame := 0xFFFFFFFF }

/-- The owner of a partition, for whom its plans write objects and reports. -/
def partOwner (s : State) (p : Nat) : Nat := match Tab.find s.parts p with | some r => r.owner | none => 0

/-- Room in the store for a plan's encode of n bytes. -/
def objectRoom (s : State) (f n : Nat) : Bool := !storeFull s f n true

/-- A plan's codec operation completes: what it wrote, and the status that ends the job where the object cannot be written (log
54). -/
def encodeOp (w : Work) (o : Nat) (env : Env) : Work × Option Nat :=
  let d := asDesc w.pl.image (opAt w.pl.image o)
  let f := partOwner w.s w.p
  let c := ceEngine d
  match newObjectStatus w.s f (ceDst d) with
  | some st => ({ w with s := leaveCodec w.s c }, some st)
  | none =>
    let rd := fun k => w.byte (ceSrc d) k
    let clip := clipOf d rd fun k => w.byte (ceHintAddr d) k
    let e := encode d clip (objectRoom w.s f)
    let clamped := e.clamped d rd
    let b : Obj := { bytes := e.stream, owner := f, serial := w.s.medium.nextSerial, isSealed := true }
    let s1 := wearOut { w.s with
      medium := { w.s.medium with objects := Tab.put w.s.medium.objects (ceDst d) b, nextSerial := w.s.medium.nextSerial + 1 }
      fls := { w.s.fls with writeBytes := satAdd w.s.fls.writeBytes e.stream.length } } env.wear
    let w1 : Work := { w with s := s1 }
    let w2 := if ceStats d then (e.stats d clip).foldl (fun (w : Work) x => w.put (ceStatsAddr d) x.1 x.2) w1 else w1
    let s3 := if ceReport d != 0 && inWindows w2.s f (ceReport d) 32 then hostWrite w2.s (ceReport d) (e.report clamped)
      else w2.s
    let s4 := countEncode (leaveCodec s3 c) c w.p o e d clip clamped
    ({ w2 with s := s4 }, if ceReport d != 0 && !inWindows w2.s f (ceReport d) 32 then some stDenied
      else if e.stopped then some stStoreFull else none)

end Sys2Proof.Machine
end

