-- ==== Sys2Proof/Machine/Links.lean ====
section
/-! DEFINITION. Sys2Proof/Machine/Links.lean: light, links and lost peers (12 R262 to R267, R282), the census (R271,
R272) and machine time (R273, R274). -/

namespace Sys2Proof.Machine

/-! Lost peers (12 R267, R282). -/

/-- The multi-device job of partition p ends because a peer is lost: the abort goes to every rank. -/
def peerLoss (s : State) (p : Nat) : State := if multiJob s p then endJob (sendAborts s p) p stPeerLost else s

/-- The link epoch after it, wrapping from 0xFF to 1. -/
def nextEpoch (e : BitVec 8) : BitVec 8 := if e == 0xFF then 1 else e + 1

/-- The peer of port q is marked lost: retained flits are discarded, numbering starts again, the epoch advances, and the
job whose plan holds the port ends. -/
def markLost (s : State) (q : Nat) : State :=
  let r := s.port q
  let s1 := s.setPort q { r with peerLost := true, epoch := nextEpoch r.epoch, retained := [], nextSeq := 0,
                                 lastIn := none, replays := 0, downAt := none }
  let p := r.holderPart.toNat
  match (s1.partRun p).job with
  | some j => if r.holder != 0 && j.handle == r.holder.toNat then peerLoss s1 p else s1
  | none => s1

/-- OPT_FENCE (12 R267). -/
def execOptFence (q : Nat) (s : State) : Host.Outcome State Fault Refusal :=
  .next (if writable s && q < 16 && !(s.basin (q / 2 + 1)).withdrawn then markLost s q else s)

/-- RETRAIN_TIMEOUT (12 R267): the link has been down for longer than RETRAIN_MS. -/
def execRetrainTimeout (q : Nat) (s : State) : Host.Outcome State Fault Refusal :=
  .next (
    match (s.port q).downAt with
    | some t =>
      if staged s && q < 16 && !(s.port q).linkUp && t + zeroSelects s.mtc.retrainMs 200 * 1000000 < s.now then markLost s q else s
    | none => s)

/-! Links (12 R262, R265, R284). -/

/-- The link of port q goes down and the port retrains. -/
def downLink (s : State) (q : Nat) : State :=
  let r := s.port q
  raiseEvent (s.setPort q { r with linkUp := false, downAt := some s.now, replays := 0, retrains := satAdd r.retrains 1 })
    evLinkDown (srcPort q) 0xF (toLe 1 r.epoch.toNat)

/-- LINK_DOWN (12 R265). -/
def execLinkDown (q : Nat) (s : State) : Host.Outcome State Fault Refusal :=
  .next (if staged s && q < 16 && (s.port q).linkUp then downLink s q else s)

/-- OPT_RETRAIN (12 R284). -/
def execOptRetrain (q : Nat) (s : State) : Host.Outcome State Fault Refusal :=
  .next (
    if writable s && q < 16 && !(s.basin (q / 2 + 1)).withdrawn then
      let r := s.port q
      s.setPort q { r with linkUp := false, retrains := satAdd r.retrains 1,
                           downAt := if r.linkUp then some s.now else r.downAt }
    else s)

/-- OPT_ENABLE (12 R284). -/
def execOptEnable (q : Nat) (on : Bool) (s : State) : Host.Outcome State Fault Refusal :=
  .next (
    if writable s && q < 16 && !(s.basin (q / 2 + 1)).withdrawn then
      let r := s.port q
      s.setPort q { r with enable := on, linkUp := r.linkUp && on,
                           downAt := if r.linkUp && !on then some s.now else r.downAt }
    else s)

/-- The laser power of a wavelength as read. -/
def setLaser (r : Port) (w power : Nat) : List (BitVec 16) := r.laserPower.set w (BitVec.ofNat 16 power)

/-- LASER_LIGHT_LOW (12 R262). -/
def execLaserLightLow (q w : Nat) (power : Nat) (s : State) : Host.Outcome State Fault Refusal :=
  .next (
    if alive s && q < 16 && w < 8 then
      let r := s.port q
      raiseEvent (s.setPort q { r with lightOk := r.lightOk &&& ~~~ BitVec.ofNat 8 (2 ^ w), laserPower := setLaser r w power })
        evLaserLow (srcPort q) 0xF (toLe 1 (2 ^ w))
    else s)

/-- LASER_LIGHT_RESTORED (12 R262). -/
def execLaserLightRestored (q w : Nat) (power : Nat) (s : State) : Host.Outcome State Fault Refusal :=
  .next (
    if alive s && q < 16 && w < 8 then
      let r := s.port q
      s.setPort q { r with lightOk := r.lightOk ||| BitVec.ofNat 8 (2 ^ w), laserPower := setLaser r w power }
    else s)

/-! Acknowledgement, replay, credits (12 R265, R266). -/

/-- An ack of value a: every retained flit up to and including the one numbered a is acknowledged. -/
def ackPort (p : Port) (a : Nat) : Port :=
  match p.retained.findIdx? fun f => f.seq == a with
  | some i => { p with retained := p.retained.drop (i + 1), replays := 0 }
  | none => p

/-- ACK_FLIT_RECEIVE (12 R265). -/
def execAckFlitReceive (q ack : Nat) (s : State) : Host.Outcome State Fault Refusal :=
  .next (if staged s && q < 16 && (s.port q).linkUp then pump (s.setPort q (ackPort (s.port q) ack)) q else s)

/-- CREDIT_FLIT_RECEIVE (12 R266). -/
def execCreditFlitReceive (q cls dateline n : Nat) (s : State) : Host.Outcome State Fault Refusal :=
  .next (
    if staged s && q < 16 && cls < 4 && (s.port q).linkUp then
      let k := creditKey cls (dateline == 1)
      pump (s.setPort q { s.port q with credits := Tab.put (s.port q).credits k (Tab.get (s.port q).credits k 0 + n) }) q
    else s)

/-- NAK_RECEIVE (12 R265): what the nak names is acknowledged and the rest replayed; after 8 replays of one flit
without success the link goes down. -/
def execNakReceive (q ack : Nat) (s : State) : Host.Outcome State Fault Refusal :=
  .next (
    if staged s && q < 16 && (s.port q).linkUp then
      let p := ackPort (s.port q) ack
      if p.retained.isEmpty then pump (s.setPort q p) q
      else if 8 ≤ p.replays then downLink (s.setPort q p) q
      else s.setPort q { p with replays := p.replays + 1 }
    else s)

/-! Data flits (12 R264 to R267, R277). -/

/-- One bit more of a CRC-64 (R264): the register shifts towards its top, and the polynomial is added where a one leaves it. -/
def crcBit (r : Word64) (bit : Bool) : Word64 :=
  if r.msb != bit then (r <<< 1) ^^^ 0x42F0E1EBA9EA3693 else r <<< 1

/-- CRC-64 of bytes, each from its top bit (log 181). -/
def crc64 (bs : List Byte) : Word64 :=
  bs.foldl (fun r b => (List.range 8).foldl (fun r k => crcBit r (b.getLsbD (7 - k))) r) 0

/-- The header of a flit (R264). -/
def flitHeader (type : Nat) (f : Flit) : List Byte :=
  toLe 8 (regWord [(0, f.seq % 4096), (12, f.ack % 4096), (24, type % 16), (28, f.epoch % 256), (36, f.dst % 4096),
    (48, f.src % 4096), (60, f.cls % 4), (62, b2n f.dateline)]).toNat

/-- The CRC that a flit must carry: over its header and payload. -/
def flitCrc (type : Nat) (f : Flit) : Word64 :=
  crc64 (flitHeader type f ++ Config.flitPayload f.mjob f.op f.exec f.chunk f.part f.payload)

/-- What the receiver finds of a flit. -/
inductive FlitCheck where
  | good | badCrc | uncorrectable
  deriving DecidableEq, Repr

/-- The checks of a flit (R264, R265): an uncorrectable codeword; a CRC that is not that of its bytes, or an unused type. -/
def checkFlit (f : Flit) (a : Arrival) : FlitCheck :=
  if a.uncorrectable then .uncorrectable
  else if 6 < a.type || a.crc != (flitCrc a.type f).toNat then .badCrc
  else .good

/-- A flit of another epoch is dropped, and reported at most once a millisecond a port. -/
def fencedFlit (s : State) (q : Nat) : State :=
  let r := s.port q
  let r1 := { r with fencedTalk := satAdd r.fencedTalk 1, fencedSince := r.fencedSince + 1 }
  if talkDue s.now r.fencedAt then
    raiseEvent (s.setPort q { r1 with fencedSince := 0, fencedAt := some s.now }) evFencedTalk (srcPort q) 0xF
      (toLe 4 (satNat 32 r1.fencedSince))
  else s.setPort q r1

/-- A flit that must come again: a nak is sent. -/
def nakFlit (s : State) (q : Nat) (check : FlitCheck) : State :=
  let r := s.port q
  s.setPort q { r with
    retries := satAdd r.retries 1
    crcErr := if check = .badCrc then satAdd r.crcErr 1 else r.crcErr
    fecUncorr := if check = .uncorrectable then satAdd r.fecUncorr 1 else r.fecUncorr }

/-- Collective data arrives for this device: kept by chunk and source rank where the port is one of its plan's (R270), or dropped as
stale. -/
def deliverFlit (s : State) (q : Nat) (f : Flit) : State :=
  match mjobPart s f.mjob with
  | none => let r := s.port q; s.setPort q { r with stale := satAdd r.stale 1 }
  | some p =>
    if !planHolds s f.mjob q then s
    else onExec s p f.op fun e =>
      if e.index != f.exec then e
      else
        let got := fun (c : Chunk) => c.take f.part f.payload
        { e with chunks := Tab.mod e.chunks f.chunk ({} : Chunk) got }

/-- A flit for another device leaves by its route (12 R269); the dateline follows the dimension (R266). -/
def forwardFlit (s : State) (q : Nat) (f : Flit) : State :=
  match routePort s f.src f.dst, routeDir s f.dst with
  | some o, some d =>
    let s1 := s.setPort q { s.port q with transit := satAdd (s.port q).transit 1 }
    sendOn s1 o { f with dateline := (f.dateline && q / 4 == d / 2) || crossesWrap s d }
  | _, _ => s

/-- The data flit a port waits for. -/
def expectedSeq (r : Port) : Nat := match r.lastIn with | some a => (a.toNat + 1) % 4096 | none => 0

/-- A data flit that passed the link's checks (R265, R267, R277). -/
def takeFlit (s : State) (q : Nat) (flit : Flit) : State :=
  let r := s.port q
  if flit.epoch != r.epoch.toNat then fencedFlit s q
  else if flit.seq != expectedSeq r then nakFlit s q .good
  else
    let s1 := s.setPort q (ackPort { r with lastIn := some (BitVec.ofNat 12 flit.seq), rx := satAdd r.rx 1 } flit.ack)
    let s2 := pump s1 q
    if flit.dst != devnum s then forwardFlit s2 q flit
    else if flit.cls == 0 then deliverFlit s2 q flit
    else s2

/-- DATA_FLIT_RECEIVE (12 R261, R264, R265): corrected codewords count; a flit that is of another type moves no data. -/
def execDataFlitReceive (q : Nat) (flit : Flit) (arrival : Arrival) (s : State) : Host.Outcome State Fault Refusal :=
  .next (
    if !(staged s && q < 16 && (s.port q).linkUp) then s
    else
      let s1 := s.setPort q { s.port q with fecCorr := satAdd (s.port q).fecCorr arrival.corrected }
      match checkFlit flit arrival with
      | .good => if arrival.type = 1 then takeFlit s1 q flit else s1
      | check => nakFlit s1 q check)

/-! Hellos (12 R267, R272). -/

/-- The state of a device in the census (12 R271): 0 absent, 1 present, 2 isolated. -/
def censusState (s : State) (d : Nat) : Nat := (Tab.get s.census.states d 0).toNat

/-- A port trained with a peer that the closed census does not list as present: the root reopens the census. -/
def censusChange (s : State) (d : Nat) : State :=
  if s.mtc.census != 0 && censusState s d != 1 then
    { s with census := { s.census with changed := true }, mtc := { s.mtc with census := if s.mtc.root then 0 else s.mtc.census } }
  else s

/-- The peer is who the hello says. -/
def takePeer (r : Port) (h : Hello) : Port :=
  { r with peerDev := BitVec.ofNat 12 h.devnum, peerPort := BitVec.ofNat 4 h.port, peerValid := true,
           peerSession := h.session, peerLost := false, downAt := none }

/-- The hello of the peer as marked lost or not: another identity marks it lost, and a new session with a passed BIST
readmits it. -/
def helloPeer (s : State) (q : Nat) (h : Hello) : State :=
  let r := s.port q
  let same := r.peerDev.toNat == h.devnum && r.peerSession == h.session
  let late := match r.downAt with | some t => t + zeroSelects s.mtc.retrainMs 200 * 1000000 < s.now | none => false
  if !r.peerValid then s.setPort q (takePeer r h)
  else if !r.peerLost && same && !late then pump (s.setPort q { r with downAt := none }) q
  else
    let s1 := if r.peerLost then s else markLost s q
    if h.session != r.peerSession && h.bist then s1.setPort q (takePeer (s1.port q) h) else s1

/-- OPT_HELLO (12 R267): a hello comes over a trained link; a link that was down has trained again. -/
def execOptHello (q : Nat) (hello : Hello) (s : State) : Host.Outcome State Fault Refusal :=
  .next (
    if s.run.phase = .stage1 ∧ q < 16 ∧ canTrain (s.port q) then
      let s1 := if (s.port q).linkUp then s
        else if (s.port q).session == 0 then trainPort s q else s.setPort q { s.port q with linkUp := true }
      let s2 := helloPeer s1 q hello
      if (s2.port q).peerLost then s2 else censusChange s2 hello.devnum
    else s)

/-! The census (12 R271, R272). -/

/-- The peer position the strap rule gives port q of a device at a position: the place along its axis (12 R268). -/
def facingPos (d q : Nat) : Nat :=
  let k := q / 4
  let x := devPos d k
  let y := if q / 2 % 2 = 0 then (x + 1) % 4 else (x + 3) % 4
  d % 64 - x * 4 ^ k + y * 4 ^ k

/-- Port q of device d leaves the block. -/
def leavesBlock (d q : Nat) : Bool := if q / 2 % 2 = 0 then devPos d (q / 4) == 3 else devPos d (q / 4) == 0

/-- The strap rule accepts a reported peer: torus ports reach the facing place, in the block itself unless they leave
it; express ports follow no rule. -/
def peerFits (d : Nat) (e : Nat × Nat) : Bool :=
  12 ≤ e.1 || (e.2 % 64 == facingPos d e.1 && (leavesBlock d e.1 || e.2 / 64 == d / 64))

/-- A device is isolated: its neighbours hold their ports to it down, and the root reports it. -/
def isolate (s : State) (d : Nat) : State :=
  let s1 := { s with
    census := { s.census with states := Tab.put s.census.states d 2 }
    mtc := { s.mtc with isolated := s.mtc.isolated || d == devnum s }
    ports := Tab.map s.ports fun r =>
      if r.peerValid && r.peerDev.toNat == d then { r with isolated := true, linkUp := false } else r }
  if s1.mtc.root then raiseEvent s1 evCensusMismatch srcMgt 0xF (toLe 2 d) else s1

/-- CENSUS_REPORT (12 R271): a block root checks a report of its block, the root one of any block. A second, different
report under one number shows two devices that bear it. -/
def execCensusReport (dev : Nat) (peers : List (Nat × Nat)) (s : State) : Host.Outcome State Fault Refusal :=
  .next (
    if staged s && s.mtc.census == 0 && dev < 4096 && (s.mtc.root || (devnum s % 64 == 0 && dev / 64 == devnum s / 64)) then
      let twice := match Tab.find s.census.reports dev with | some r => r != peers | none => false
      let bad := peers.filter fun e => !peerFits dev e
      let s1 := { s with census := { s.census with
        reports := Tab.put s.census.reports dev peers
        states := if censusState s dev == 2 then s.census.states else Tab.put s.census.states dev 1 } }
      let gone := (if twice || !bad.isEmpty then [dev] else []) ++ bad.map Prod.snd
      gone.foldl (fun s d => if censusState s d == 2 then s else isolate s d) s1
    else s)

/-- Blocks named in a report or a hello. -/
def namedBlocks (s : State) : List Nat :=
  let ds := (Tab.keys s.census.reports ++ (Tab.vals s.census.reports).flatMap (fun r => r.map Prod.snd)
    ++ ((Tab.vals s.ports).filter Port.peerValid).map (fun r => r.peerDev.toNat)).map (· / 64)
  (List.range 64).filter ds.contains

/-- Every device of every named block is present or isolated. -/
def censusComplete (s : State) : Bool :=
  (namedBlocks s).all fun b => (List.range 64).all fun i => censusState s (64 * b + i) != 0

/-- Neighbouring blocks by the inter-block links: (block, axis, next block in the + direction). -/
def blockLinks (s : State) : List (Nat × Nat × Nat) :=
  s.census.reports.flatMap fun e =>
    (e.2.filter fun l => l.1 < 12 && l.1 / 2 % 2 == 0 && leavesBlock e.1 l.1 && l.2 / 64 != e.1 / 64).map
      fun l => (e.1 / 64, l.1 / 4, l.2 / 64)

/-- Block positions spread along the links from those known; fuel bounds the rounds. -/
def spreadBlocks (links : List (Nat × Nat × Nat)) : Nat → Tab (BitVec 6) → Tab (BitVec 6)
  | 0, t => t
  | n + 1, t => spreadBlocks links n (links.foldl (fun t l =>
      match Tab.find t l.1, Tab.find t l.2.2 with
      | some p, none => if bitsOf p.toNat (2 * l.2.1) 2 < 3 then Tab.put t l.2.2 (p + BitVec.ofNat 6 (4 ^ l.2.1)) else t
      | _, _ => t) t)

/-- The extent of the machine on axis k. -/
def extent (t : Tab (BitVec 6)) (k : Nat) : Nat := (Tab.vals t).foldl (fun m p => max m (bitsOf p.toNat (2 * k) 2 + 1)) 1

/-- Devices a census lists as present. -/
def presentCount (t : Tab (BitVec 2)) : Nat := ((Tab.vals t).filter (· == 1)).length

/-- This device is root, or acts as root: no device of block 0 at (0, 0, 0) is present and none lower than this one. -/
def actsRoot (s : State) : Bool :=
  s.mtc.root || (censusState s 0 != 1 && s.census.states.all fun e => e.2 != 1 || devnum s ≤ e.1)

/-- A closed census enters the registers. -/
def closeCensus (s : State) (states : Tab (BitVec 2)) (blocks : Tab (BitVec 6)) (mx my mz : Nat) (byTime : Bool) : State :=
  { s with
    census := { s.census with states := states, blocks := blocks, changed := false }
    mtc := { s.mtc with census := if byTime then 2 else 1, mx := BitVec.ofNat 3 mx, my := BitVec.ofNat 3 my,
                        mz := BitVec.ofNat 3 mz, devices := BitVec.ofNat 13 (presentCount states),
                        standalone := false, isolated := Tab.get states (devnum s) 0 == 2 }
    ports := Tab.map s.ports fun r =>
      let out := r.peerValid && Tab.get states r.peerDev.toNat 0 == 2
      { r with isolated := out, linkUp := r.linkUp && !out } }

/-- CENSUS_CLOSE (12 R271, R272): at the root, when complete or 18 s after power-good. -/
def execCensusClose (byTime : Bool) (s : State) : Host.Outcome State Fault Refusal :=
  .next (
    if staged s && s.mtc.census == 0 && actsRoot s && (if byTime then 18000000000 ≤ s.now else censusComplete s) then
      let own := if censusState s (devnum s) == 2 then s.census.states else Tab.put s.census.states (devnum s) 1
      let blocks := spreadBlocks (blockLinks s) 64 [(devnum s / 64, 0)]
      closeCensus { s with mtc := { s.mtc with root := true } } own blocks (extent blocks 0) (extent blocks 1)
        (extent blocks 2) byTime
    else s)

/-- CENSUS_RECEIVE (12 R272). -/
def execCensusReceive (states : List (Nat × Nat)) (mx my mz : Nat) (blocks : List (Nat × Nat)) (byTime : Bool)
    (s : State) : Host.Outcome State Fault Refusal :=
  .next (
    if staged s && !s.mtc.root then
      closeCensus s (states.foldl (fun t e => Tab.put t e.1 (BitVec.ofNat 2 e.2)) [])
        (blocks.foldl (fun t e => Tab.put t e.1 (BitVec.ofNat 6 e.2)) []) mx my mz byTime
    else s)

/-! Machine time (12 R273, R274). -/

/-- TIME_WAVE_SEND (12 R274): the root, every SYNC_PERIOD. -/
def execTimeWaveSend (s : State) : Host.Outcome State Fault Refusal :=
  .next (
    if staged s && s.mtc.root && s.census.waveDue ≤ s.now then
      { s with census := { s.census with waveDue := s.now + zeroSelects s.mtc.syncPeriod 1000 * 1000 } }
    else s)

/-- The root's device number: 0, or the lowest present device where that is absent. -/
def rootDevice (s : State) : Nat :=
  if censusState s 0 == 1 then 0
  else (leastOf ((s.census.states.filter fun e => e.2 == 1).map Prod.fst)).getD 0

/-- The port to the parent: the lowest that is up in the direction of the route to the root. -/
def parentOf (s : State) : Option Nat :=
  match routeDir s (rootDevice s) with
  | some d => [2 * d, 2 * d + 1].find? fun q => (s.port q).linkUp
  | none => none

/-- A signed number in 32 bits. -/
def signed32 (x : Int) : Word32 := BitVec.ofInt 32 x

/-- The MTC steps by −offset, whole ticks. -/
def stepMtc (s : State) (offset : Int) : State :=
  { s with mtc := { s.mtc with now := BitVec.ofInt 64 ((s.now : Int) - offset / 256), sync := true, resync := false } }

/-- The device loses synchronism: its multi-device jobs end as a lost peer (12 R274, R282). -/
def unsync (s : State) (offset : Int) : State :=
  let s1 := raiseEvent { s with mtc := { s.mtc with sync := false, unsync := true } } evMtcUnsync
    (Config.unsyncSource s.free).toNat 0xF (toLe 8 (BitVec.ofInt 64 offset).toNat)
  (List.range 10).foldl peerLoss s1.drawFree

/-- The rate trim within ±200 ppm (R273), in 2^−32. -/
def limitTrim (t : Word32) : Word32 := signed32 (max (-858993) (min 858993 t.toInt))

/-- A wave of known offset is applied: a step before the census closes, on a standalone device, after synchronism was
lost and on request once no multi-device job runs; a slew otherwise. -/
def applyWave (s : State) (offset : Int) : State :=
  let free := !(List.range 10).any (multiJob s)
  if s.mtc.census == 0 || s.mtc.standalone then stepMtc s offset
  else if (!s.mtc.sync || s.mtc.resync) && free then stepMtc s offset
  else if s.mtc.sync && (256000 < offset || offset < -256000) then unsync s offset
  else { s with mtc := { s.mtc with trim := limitTrim (Config.trimAfter s.mtc.trim offset) } }

/-- TIME_WAVE_RECEIVE (12 R274): timestamps in 1/256 ns; a wave counts only from the parent. -/
def execTimeWaveReceive (q : Nat) (t1 t2 t3 t4 : Int) (s : State) : Host.Outcome State Fault Refusal :=
  .next (
    if staged s && parentOf s == some q then
      let offset := ((t2 - t1) - (t4 - t3)) / 2
      let delay := ((t4 - t1) - (t3 - t2)) / 2
      let s1 := s.setPort q { s.port q with delay := signed32 delay }
      let s2 := applyWave s1 offset
      { s2 with mtc := { s2.mtc with offset := signed32 offset, waves := satAdd s2.mtc.waves 1,
                                     hops := BitVec.ofNat 8 (hopsTo s (rootDevice s)), parentPort := BitVec.ofNat 4 q } }
    else s)

/-- MTC_RESYNC (12 R283). -/
def execMtcResync (s : State) : Host.Outcome State Fault Refusal :=
  .next (if writable s then { s with mtc := { s.mtc with resync := true } } else s)

end Sys2Proof.Machine
end

