-- ==== Sys2Proof/Machine/Collective.lean ====
section
/-! DEFINITION. Sys2Proof/Machine/Collective.lean: the collectives (12 R276 to R282): ready marks, starts, the data sent and
received, and what each kind writes. -/

namespace Sys2Proof.Machine

/-! Elements as bits. -/

/-- Code and scale of element k of tensor t, in row order: none in a row tile promoted to N8 (log 55). -/
def Work.codeOf (w : Work) (t k : Nat) : Option (Nat × Nat) :=
  let i := w.pl.image
  let d := tensorAt i t
  let f := tensorFmt i t
  let c := k % max 1 d.cols
  let r := k / max 1 d.cols
  let rd := fun o j => unpackElem f.width (fun b => w.byte t (o + b)) j
  let sc := fun o j => if f.scaled then leNat ((List.range f.scaleBytes).map fun x => w.byte t (o + f.scaleBytes * j + x)) else 0
  if slotted i t then
    let serving := hKind i == 1
    let tag := (w.byte t (tileMapOffset d.rows d.cols + (if serving then r else r / 128))).toNat
    let base := r / 128 * slotBytes d.cols + (if serving then 132 * segments d.cols * (r % 128) else 0)
    let nr := if serving then 1 else min 128 (d.rows - r / 128 * 128)
    let n := if serving then 0 else r % 128
    if tag = 0x13 then none
    else some (rd base (n * d.cols + c), sc (base + nr * d.cols / 2) (n * (d.cols / 16) + c / 16))
  else if w.isWide t r then none
  else some (rd 0 k, sc (scaleOffset f d.rows d.cols) (k / max 1 f.block))

/-- The bits of n elements from element k: codes packed, then scales. An element without bits in the format has open ones. -/
def Work.rawBits (w : Work) (t k n : Nat) : List Byte :=
  let f := tensorFmt w.pl.image t
  let xs := (List.range n).map fun j =>
    (w.codeOf t (k + j)).getD ((Config.unspecifiedByte w.s.free (k + j)).toNat % 2 ^ f.width,
      (Config.unspecifiedByte w.s.free ((k + j) / max 1 f.block)).toNat)
  packElems f.width (xs.map Prod.fst)
    ++ (if f.scaled then (List.range (n / max 1 f.block)).flatMap fun j => toLe f.scaleBytes (xs.getD (j * f.block) (0, 0)).2 else [])

/-- The FP32 values of n elements from element k (R88). -/
def Work.plainValues (w : Work) (t k n : Nat) : List Word32 := (List.range n).map fun j => w.vec t (k + j)

/-! Parts and chunks. -/

/-- The kind reduces. -/
def kReduces (b : List Byte) : Bool := kKind b == 1 || kKind b == 2

/-- First input element that rank a sends rank q in chunk c; none where it sends nothing (R278). -/
def sentFrom (b : List Byte) (a q c : Nat) : Option Nat :=
  match kKind b with
  | 0 => some (c * kPer b)
  | 1 => some (q * kCount b + c * kPer b)
  | 2 => some (c * kPer b)
  | 3 => some (q * kCount b + c * kPer b)
  | 4 => if a = kRoot b then some (c * kPer b) else none
  | _ => none

/-- What a rank contributes: bits, or FP32 values for a reduction. -/
def Work.contribution (w : Work) (b : List Byte) (k : Nat) : List Byte :=
  if kReduces b then (w.plainValues (kInput b) k (kPer b)).flatMap fun x => toLe 4 x.toNat
  else w.rawBits (kInput b) k (kPer b)

/-- Bytes of a contribution. -/
def partLength (b : List Byte) : Nat :=
  let f := kFormat b
  if kReduces b then 4 * kPer b
  else kPer b * f.width / 8 + (if f.scaled then kPer b / max 1 f.block * f.scaleBytes else 0)

/-- The work with what open predecessors of a following collective have written so far. -/
def Work.provisional (w : Work) (b : List Byte) : Work :=
  if kFollow b then
    (w.j.execs.filter fun e => (opAt w.pl.image e.op).output == kInput b && stripKind (opAt w.pl.image e.op).kind).foldl
      (fun (v : Work) e => (v.finishStrips e).w) w
  else w

/-- The data flits of a contribution, 240 bytes each (R264). -/
def dataFlits (s : State) (mjob dst op exec chunk part : Nat) (bs : List Byte) : List Flit :=
  (chunks 240 bs).map fun x =>
    { seq := 0, ack := 0, epoch := 0, dst := dst, src := devnum s, cls := 0, dateline := false, mjob := mjob, op := op,
      exec := exec, chunk := chunk, part := part, payload := x }

/-- Chunk c starts on this rank: its own part is in place, and its data leaves for the ranks that need it. -/
def startChunk (s : State) (p op c : Nat) : State :=
  match workOf s p with
  | none => s
  | some w =>
    let b := collBlock w.pl.image op
    match w.j.exec op, ranksOf w.j b with
    | some e, some r =>
      let own := rankOf r (devnum s)
      let v := w.provisional b
      let mine := match sentFrom b own own c with | some k => v.contribution b k | none => []
      let s1 := onExec s p op fun d => { d with chunks := Tab.mod d.chunks c ({} : Chunk) fun x =>
        { ({ x with parts := Tab.del x.parts own } : Chunk).take own mine with started := true } }
      r.devices.zipIdx.foldl (fun s d =>
        if d.2 = own then s
        else match sentFrom b own d.2 c with
          | some k => (dataFlits s r.mjob d.1 op e.index c own (v.contribution b k)).foldl sendFlit s
          | none => s) s1
    | _, _ => s

/-- Every part that this rank needs of a chunk is there. -/
def chunkComplete (b : List Byte) (ranks own : Nat) (c : Chunk) : Bool :=
  c.started && (List.range ranks).all fun a =>
    (sentFrom b a own 0).isNone || partLength b ≤ (Tab.get c.parts a []).length

/-! The rows of R281 and R282. -/

/-- READY_MARK (R281): at rank 0. -/
def execReadyMark (mjob op chunk rank time : Nat) (s : State) : Host.Outcome State Fault Refusal :=
  .next (
    match (mjobPart s mjob).bind fun p => (workOf s p).map fun w => (p, w) with
    | none => s
    | some (p, w) =>
      let b := collBlock w.pl.image op
      match ranksOf w.j b with
      | none => s
      | some r =>
        if works s && op < hOps w.pl.image && (opAt w.pl.image op).kind == 0x0C && r.mjob == mjob && rankOf r (devnum s) == 0
            && chunk < kChunks b && rank < r.devices.length then
          takeMark s p { op := op, chunk := chunk, rank := rank, time := time } b r
        else s)

/-- A chunk of an open collective, with its block. -/
def chunkOf (s : State) (p op chunk : Nat) : Option (Work × Exec × Chunk) :=
  match workOf s p with
  | none => none
  | some w =>
    if (opAt w.pl.image op).kind == 0x0C && chunk < kChunks (collBlock w.pl.image op) then
      (w.j.exec op).map fun e => (w, e, Tab.get e.chunks chunk ({} : Chunk))
    else none

/-- START_TIME_RECEIVE (R281): a rank that learns S after S has passed starts at once and counts it. -/
def execStartTimeReceive (mjob op chunk start : Nat) (s : State) : Host.Outcome State Fault Refusal :=
  .next (
    match (mjobPart s mjob).bind fun p => (chunkOf s p op chunk).map fun c => (p, c.2.2) with
    | none => s
    | some (p, c) =>
      if !(works s && c.ready && c.start.isNone) then s
      else
        let s1 := onExec s p op fun e => { e with chunks := Tab.put e.chunks chunk { c with start := some start } }
        if start < s.now then
          startChunk { s1 with mtc := { s1.mtc with lateStarts := satAdd s1.mtc.lateStarts 1 } } p op chunk
        else s1)

/-- COLLECTIVE_CHUNK_START (R281): MTC has reached S. -/
def execCollectiveChunkStart (p op chunk : Nat) (s : State) : Host.Outcome State Fault Refusal :=
  .next (
    match chunkOf s p op chunk with
    | some (_, _, c) =>
      match c.start with
      | some t => if works s && t ≤ s.now && !c.started then startChunk s p op chunk else s
      | none => s
    | none => s)

/-- The chunk is complete on this rank. -/
def chunkDone (s : State) (w : Work) (op : Nat) (c : Chunk) : Bool :=
  let b := collBlock w.pl.image op
  match ranksOf w.j b with
  | some r => chunkComplete b r.devices.length (rankOf r (devnum s)) c
  | none => false

/-- COLLECTIVE_TIMEOUT (R282): the chunk has not completed within COLL_TIMEOUT_MS after S. -/
def execCollectiveTimeout (p op chunk : Nat) (s : State) : Host.Outcome State Fault Refusal :=
  .next (
    match chunkOf s p op chunk with
    | some (w, _, c) =>
      match c.start with
      | some t =>
        if works s && t + zeroSelects s.mtc.collMs 100 * 1000000 < s.now && !chunkDone s w op c then peerLoss s p else s
      | none => s
    | none => s)

/-- PEER_ABORT (R282): an abort for an mjob that no job runs is ignored. -/
def execPeerAbort (mjob : Nat) (s : State) : Host.Outcome State Fault Refusal :=
  .next (
    match mjobPart s mjob with
    | some p => if works s then endJob s p stPeerLost else s
    | none => s)

/-! Results (R278, R279). -/

/-- Element k of a chunk, reduced by the tree over the ranks (R279), or in unordered mode by adding the contributions in the
order in which their data came (R280, log 56). -/
def reduceAt (b : List Byte) (ranks : Nat) (c : Chunk) (k : Nat) : Word32 :=
  let v := fun a => (BitVec.ofNat 32 (leAt (Tab.get c.parts a []) (4 * k) 4) : Word32)
  if kUnordered b then
    match c.order with
    | a :: as => as.foldl (fun x q => fadd x (v q)) (v a)
    | [] => fzero
  else treeSum ranks ((List.range ranks).map v)

/-- The reduction of the whole execution, as FP32 values in element order. -/
def reduced (b : List Byte) (ranks : Nat) (e : Exec) : List Word32 :=
  (List.range (kChunks b)).flatMap fun c =>
    (List.range (kPer b)).map fun k => reduceAt b ranks (Tab.get e.chunks c ({} : Chunk)) k

/-- Bits of a contribution written to the output from element k on. -/
def Work.putBits (w : Work) (b : List Byte) (k : Nat) (bs : List Byte) : Work :=
  let t := kOutput b
  let d := tensorAt w.pl.image t
  let f := kFormat b
  let n := kPer b * f.width / 8
  let w1 := w.put t (k * f.width / 8) (bs.take n)
  if f.scaled then w1.put t (scaleOffset f d.rows d.cols + k / max 1 f.block * f.scaleBytes) (bs.drop n) else w1

/-- The output of a data kind: part a lies at a × count for gathers and all-to-all, at the start for a broadcast; one write of
the tensor (02 R38). -/
def Work.copyParts (w : Work) (b : List Byte) (ranks : Nat) (e : Exec) : Work :=
  (fun (v : Work) => (v.zeroTails (kOutput b)).wrote (kOutput b)) <| (List.range (kChunks b)).foldl (fun (w : Work) c =>
    let x := Tab.get e.chunks c ({} : Chunk)
    if kKind b = 4 then w.putBits b (c * kPer b) (Tab.get x.parts (kRoot b) [])
    else (List.range ranks).foldl (fun (w : Work) a => w.putBits b (a * kCount b + c * kPer b) (Tab.get x.parts a [])) w) w

/-- What a completed collective writes (R278). -/
def Work.finishCollective (w : Work) (e : Exec) : Written :=
  let b := collBlock w.pl.image e.op
  match ranksOf w.j b with
  | none => { w := w }
  | some r =>
    let n := r.devices.length
    if kKind b = 5 then { w := w }
    else if kReduces b then
      let rows := chunks (tensorAt w.pl.image (kOutput b)).cols (reduced b n e)
      (w.putStats (kOutput b) rows).writeTensor e.op (kOutput b) (ecAt w.pl.image e.op) (fun _ _ => leadSource w.s w.p) rows
    else { w := w.copyParts b n e }

/-- Every chunk of the execution is complete. -/
def collectiveDone (w : Work) (e : Exec) : Bool :=
  (List.range (kChunks (collBlock w.pl.image e.op))).all fun c =>
    chunkDone w.s w e.op (Tab.get e.chunks c ({} : Chunk))

end Sys2Proof.Machine
end

