-- ==== Sys2Proof/Machine/Resample.lean ====
section
/-! DEFINITION. Sys2Proof/Machine/Resample.lean: the resample unit (04 R91 to R100), for a RESAMPLE command and for an operation
of a plan, whose parameter block is the command's. -/

namespace Sys2Proof.Machine

def rsCrop (d : List Byte) : Bool := bitsOf (leAt d 32 1) 0 2 == 0
def rsMethod (d : List Byte) : Nat := bitsOf (leAt d 32 1) 2 2
def rsIn (d : List Byte) : Format := (formatOf (leAt d 33 1)).getD fmtFp32
def rsOut (d : List Byte) : Format := (formatOf (leAt d 34 1)).getD fmtFp32
def rsBoxes (d : List Byte) : Nat := leAt d 36 4
def rsSrc (d : List Byte) : Nat := leAt d 40 8
def rsDst (d : List Byte) : Nat := leAt d 48 8
def rsBoxAddr (d : List Byte) : Nat := leAt d 56 8
def rsSh (d : List Byte) : Nat := leAt d 64 2
def rsSw (d : List Byte) : Nat := leAt d 66 2
def rsDh (d : List Byte) : Nat := leAt d 68 2
def rsDw (d : List Byte) : Nat := leAt d 70 2
def rsChans (d : List Byte) : Nat := leAt d 72 2
def rsBatch (d : List Byte) : Nat := leAt d 74 2
def rsExtrap (d : List Byte) : Word32 := BitVec.ofNat 32 (leAt d 76 4)
def rsInScale (d : List Byte) : Word32 := BitVec.ofNat 32 (leAt d 80 4)
def rsOutScale (d : List Byte) : Word32 := BitVec.ofNat 32 (leAt d 84 4)

/-- The channel extent padded to whole blocks (02 R34). -/
def padCols (f : Format) (n : Nat) : Nat := if f.block = 0 then n else ceilDiv n f.block * f.block

/-- Output images: boxes, or the images of the batch. -/
def rsImages (d : List Byte) : Nat := if rsCrop d then rsBoxes d else rsBatch d

/-- Bytes of the source and of the output. -/
def rsInBytes (d : List Byte) : Nat := plainBytes (rsIn d) (rsBatch d * rsSh d * rsSw d) (padCols (rsIn d) (rsChans d))
@[inherit_doc rsInBytes]
def rsOutBytes (d : List Byte) : Nat := plainBytes (rsOut d) (rsImages d * rsDh d * rsDw d) (padCols (rsOut d) (rsChans d))

/-- Two address ranges overlap. -/
def overlaps (a n b m : Nat) : Bool := n != 0 && m != 0 && a < b + m && b < a + n

/-- The checks of R92 and R93 that need no box. -/
def resampleStatus (s : State) (p : Nat) (d : List Byte) : Option Nat :=
  firstOf [
    checkResample d, need (!(rsCrop d && rsBoxes d == 0)) stOk,
    need (rsSrc d % 4096 == 0 && rsDst d % 4096 == 0 && rsBoxAddr d % 4096 == 0) stBadDesc,
    need (inQuota s p (rsSrc d) (rsInBytes d) && inQuota s p (rsDst d) (rsOutBytes d)
      && (!rsCrop d || inQuota s p (rsBoxAddr d) (32 * rsBoxes d))) stDenied,
    need (!overlaps (rsDst d) (rsOutBytes d) (rsSrc d) (rsInBytes d)
      && !(rsCrop d && overlaps (rsDst d) (rsOutBytes d) (rsBoxAddr d) (32 * rsBoxes d))) stBadDesc]

/-- A box (R94). -/
structure Box where
  y1 : Word32
  x1 : Word32
  y2 : Word32
  x2 : Word32
  image : Nat
  clean : Bool
  deriving DecidableEq, Repr

/-- Box i of the list. -/
def boxAt (bs : List Byte) (i : Nat) : Box :=
  let w := fun k : Nat => (BitVec.ofNat 32 (leAt bs (32 * i + k) 4) : Word32)
  { y1 := w 0, x1 := w 4, y2 := w 8, x2 := w 12, image := leAt bs (32 * i + 16) 4, clean := allZero (slice bs (32 * i + 20) 12) }

/-- A corner is not finite (R96). -/
def Box.bad (b : Box) : Bool := fbad b.y1 || fbad b.x1 || fbad b.y2 || fbad b.x2

/-- The dequantised source value at image n, row y, column x, channel c (R95: by R88). -/
def srcValue (s : State) (p : Nat) (d : List Byte) (n y x c : Nat) : Word32 :=
  let f := rsIn d
  let cols := padCols f (rsChans d)
  let row := (n * rsSh d + y) * rsSw d + x
  let rd := fun o => partByte s p (rsSrc d + o)
  let so := scaleOffset f (rsBatch d * rsSh d * rsSw d) cols
  let k := row * (cols / max 1 f.block) + c / max 1 f.block
  let sc := if f.scaled then leNat ((List.range f.scaleBytes).map fun j => rd (so + k * f.scaleBytes + j)) else 0
  dequant f (tensorScale (rsInScale d)) sc (unpackElem f.width rd (row * cols + c))

/-- lerp(a, b, f). -/
def lerp (a b f : Word32) : Word32 := fadd a (fmul (fsub b a) f)

/-- coord(c1, c2, i, H, IH). -/
def cropCoord (c1 c2 : Word32) (i h ih : Nat) : Word32 :=
  if h = 1 then fmul (fmul (fadd c1 c2) (fnat (ih - 1))) 0x3F000000
  else fadd (fmul c1 (fnat (ih - 1))) (fmul (fnat i) (fdiv (fmul (fsub c2 c1) (fnat (ih - 1))) (fnat (h - 1))))

/-- The whole part of a coordinate that is not negative. -/
def wholeOf (x : Word32) : Nat := (f32 x).floor.toNat

/-- Bilinear interpolation at (iy, ix) inside the source. -/
def bilinear (src : Nat → Nat → Word32) (iy ix : Word32) : Word32 :=
  let ya := wholeOf iy
  let xa := wholeOf ix
  let yb := (f32 iy).ceil.toNat
  let xb := (f32 ix).ceil.toNat
  let fy := fsub iy (fnat ya)
  let fx := fsub ix (fnat xa)
  lerp (lerp (src ya xa) (src ya xb) fx) (lerp (src yb xa) (src yb xb) fx) fy

/-- A coordinate lies from 0 to n − 1; none: it is not a number. -/
def insideAxis (x : Word32) (n : Nat) : Option Bool :=
  if f32 x = .nan then none else some ((XR.nat 0).le (f32 x) && (f32 x).le (XR.nat (n - 1)))

/-- Two finite values are equal, whatever their encodings. -/
def sameValue (x y : Word32) : Bool := !(f32 x).lt (f32 y) && !(f32 y).lt (f32 x)

/-- Output value (i, j, c) of a box (R95). A coordinate that is not a number, of which R95 says nothing, gives the value `op`
(log 51). -/
def cropValue (s : State) (p : Nat) (d : List Byte) (b : Box) (op : Word32) (i j c : Nat) : Word32 :=
  let ev := rsExtrap d
  if b.bad || sameValue b.y1 b.y2 || sameValue b.x1 b.x2 then ev
  else
    let iy := cropCoord b.y1 b.y2 i (rsDh d) (rsSh d)
    let ix := cropCoord b.x1 b.x2 j (rsDw d) (rsSw d)
    match insideAxis iy (rsSh d), insideAxis ix (rsSw d) with
    | some true, some true =>
      let src := fun y x => srcValue s p d b.image y x c
      if rsMethod d = 1 then src (wholeOf (fadd iy 0x3F000000)) (wholeOf (fadd ix 0x3F000000)) else bilinear src iy ix
    | some false, _ => ev
    | _, some false => ev
    | _, _ => op

/-- A plain resize coordinate before clamping (R97). -/
def halfPixel (ih oh i : Nat) : Word32 := fmul (fadd (fnat i) 0x3F000000) (fdiv (fnat ih) (fnat oh))

/-- Output value (i, j, c) of image n of a plain resize (R97). -/
def plainValue (s : State) (p : Nat) (d : List Byte) (n i j c : Nat) : Word32 :=
  let src := fun y x => srcValue s p d n y x c
  match rsMethod d with
  | 0 =>
    let at' := fun ih oh k : Nat => fmin (fmax (fsub (halfPixel ih oh k) 0x3F000000) fzero) (fnat (ih - 1))
    bilinear src (at' (rsSh d) (rsDh d) i) (at' (rsSw d) (rsDw d) j)
  | 1 =>
    let at' := fun ih oh k : Nat => min (wholeOf (halfPixel ih oh k)) (ih - 1)
    src (at' (rsSh d) (rsDh d) i) (at' (rsSw d) (rsDw d) j)
  | _ =>
    let fy := rsSh d / rsDh d
    let fx := rsSw d / rsDw d
    let xs := (List.range fy).flatMap fun dy => (List.range fx).map fun dx => src (i * fy + dy) (j * fx + dx)
    fdiv (xs.foldl fadd fzero) (fnat (fy * fx))

/-- Output row of values (image n, row i, column j), by channel. -/
def rsRow (s : State) (p : Nat) (d : List Byte) (boxes : List Byte) (n i j : Nat) : List Word32 :=
  (List.range (rsChans d)).map fun c =>
    if rsCrop d then cropValue s p d (boxAt boxes n) (Config.cropOpen (slice d 32 56) (slice boxes (32 * n) 32) i j c) i j c
    else plainValue s p d n i j c

/-- What the quantiser makes of the output (R98, 02 R36, R40, 03 R68): the bytes to the end of their last tile (08 R188), the
blocks that were not finite, the outliers, the side lists by row, and the first segment with more outliers than a list holds. -/
structure RsOut where
  bytes : List Byte
  bad : Nat := 0
  outs : Nat := 0
  lists : List (List Byte) := []
  overflow : Option Nat := none
  deriving DecidableEq, Repr

/-- Bytes followed by zeros to the end of their last tile. -/
def toTile (bs : List Byte) : List Byte := slice bs 0 (ceilDiv bs.length 4096 * 4096)

/-- The output quantised. -/
def rsQuant (f : Format) (t : Word32) (rows : List (List Word32)) : RsOut :=
  let cols := padCols f ((rows.headD []).length)
  match f.elem with
  | .float g => { bytes := toTile (packElems f.width (rows.flatMap fun r => r.map fun x => quantFloat g .near x)) }
  | _ =>
    let bs := rows.map fun r => quantPadded f (tensorScale t) 0 cols (r.map fun x => (x, Rnd.near))
    { bytes := toTile (slice (packElems f.width (bs.flatMap blockElems)) 0 (scaleOffset f rows.length cols)
        ++ bs.flatMap (blockScales f))
      bad := (bs.flatten.filter QBlock.bad).length, outs := (bs.flatMap (rowOuts f)).length
      lists := bs.map (rowLists (segments cols) f)
      overflow := (firstOver 8 cols bs f).map fun x => x.1 * 2 ^ 32 + x.2 }

/-- The unit that takes box or output row k (R91: the division is not stated). -/
def rsUnit (s : State) (p k : Nat) : Option Nat :=
  let bs := liveBasins s p
  bs[Config.workShare s.free k % bs.length]?

/-- Counters of a resample unit. -/
def onRsm (s : State) (b : Nat) (f : Rsm → Rsm) : State := s.setBasin b { s.basin b with rsm := f (s.basin b).rsm }

/-- The counters of the units after the work (R102), and EV_BAD_BOX once (R96). Every live basin's unit counts the command, with a
share of it or not (log 163). -/
def rsCount (s : State) (p : Nat) (d boxes : List Byte) : State :=
  let items := if rsCrop d then rsBoxes d else rsBatch d * rsDh d
  let vals := if rsCrop d then rsDh d * rsDw d * rsChans d else rsDw d * rsChans d
  let s1 := (List.range items).foldl (fun t k =>
    match rsUnit s p k with
    | some b => onRsm t b fun r =>
      { r with values := satAdd r.values vals, boxes := satAdd r.boxes (b2n (rsCrop d)),
               badBoxes := satAdd r.badBoxes (b2n (rsCrop d && (boxAt boxes k).bad)) }
    | none => t) s
  let s2 := (liveBasins s p).foldl (fun t b => onRsm t b fun r => { r with commands := satAdd r.commands 1 }) s1
  match if rsCrop d then (List.range (rsBoxes d)).find? fun k => (boxAt boxes k).bad else none with
  | some k => raiseEvent s2 evBadBox (match rsUnit s p k with | some b => srcBasin b | none => leadSource s p) p (toLe 4 k)
  | none => s2

/-- The output of some work overlaps memory that an open operation of the partition's job reads or writes (R100). -/
def contested (s : State) (p o dst n : Nat) : Bool :=
  match (s.partRun p).job with
  | none => false
  | some j => match s.plan p j.handle with
    | none => false
    | some pl => j.execs.any fun e => e.op != o && (readsOf pl.image e.op ++ writesOf pl.image e.op).any fun t =>
        (tensorAt pl.image t).source == 1 && match bindingOf j (tensorAt pl.image t).locator with
          | some a => overlaps dst n a (tensorSize pl.image t)
          | none => false

/-- What a resample made: the machine, and what its quantiser made of the output. -/
structure Resampled where
  s : State
  out : RsOut

/-- The whole work once every check passed: reads counted, output written, counters and events. o names the operation in an
event; all ones for a command. The lead basin is the source of EV_NONFINITE_QUANT and counts its blocks and outliers (log 164).
An output in memory of other running work holds unspecified values (R100). -/
def resample (s : State) (p o : Nat) (d boxes : List Byte) : Resampled :=
  let rows := (List.range (rsImages d)).flatMap fun n => (List.range (rsDh d)).flatMap fun i =>
    (List.range (rsDw d)).map fun j => rsRow s p d boxes n i j
  let out := rsQuant (rsOut d) (rsOutScale d) rows
  let s1 := addRead s (tilesOnStack (tilesOf s p (rsSrc d) (rsInBytes d)))
  let g := if contested s p o (rsDst d) (rsOutBytes d) then openBytes s1 out.bytes.length else (out.bytes, s1)
  let s2 := rsCount (hbmPut g.2 p (rsDst d) g.1) p d boxes
  let lead := (leadBasin s p).getD 0
  let s3 := (List.range out.bad).foldl (fun s _ =>
    countNum (opEvent s evNonfiniteQuant (leadSource s p) p o []) lead fun v => { v with nonfinite := satAdd v.nonfinite 1 }) s2
  { s := (countNum s3 lead fun v => { v with spillDynamic := satAdd v.spillDynamic out.outs }).drawFree, out := out }

/-- Boxes name images of the batch and have clear reserved bytes (R93). -/
def boxesOk (d boxes : List Byte) : Bool :=
  !rsCrop d || (List.range (rsBoxes d)).all fun k => (boxAt boxes k).image < rsBatch d && (boxAt boxes k).clean

/-- The resample command c has come to the units of its partition. -/
def resampleTurn (s : State) (c : Cmd) : Bool := (s.partRun (dPart c.desc)).resampling.head? == some (.cmd c.id)

/-- Some work leaves the queue of the units. -/
def leaveResample (s : State) (p : Nat) (w : EngineWork) : State := setResampling s p ((s.partRun p).resampling.erase w)

/-- The units work on a command. Values beyond what a side list holds end it (03 R68, log 101). -/
def resampleNow (s : State) (c : Cmd) (env : Env) : State :=
  let d := c.desc
  let p := dPart d
  let t := chargeCmd (leaveResample s p (.cmd c.id)) c env.charge
  let r := tierStatus t.1 p env.tier
  match r.2 with
  | some st => finish r.1 t.2 st
  | none =>
    let g := if rsCrop d then hbmGet r.1 p (rsBoxAddr d) (32 * rsBoxes d) else ([], r.1)
    if !boxesOk d g.1 then finish (leaveResample s p (.cmd c.id)) c stBadDesc
    else if env.fault then
      let j := openBytes g.2 (rsOutBytes d)
      finish (unitFault (hbmPut j.2 p (rsDst d) j.1) p (leadSource s p) env.tests) t.2 stJobFault
    else
      let n := resample g.2 p 0xFFFFFFFF d g.1
      finish n.s t.2 (if n.out.overflow.isSome then stSpillFault else stOk)

/-- RESAMPLE (R91 to R100): on idle units it runs to its end, else it joins their queue. -/
def runResample (s : State) (c : Cmd) (env : Env) : State :=
  let p := dPart c.desc
  match resampleStatus s p c.desc with
  | some st => finish s c st
  | none =>
    if (s.partRun p).resampling.isEmpty then resampleNow s c env
    else setResampling (s.setCmd { c with state := .queued }) p ((s.partRun p).resampling ++ [.cmd c.id])

/-- RESAMPLE. -/
def execResample (f q : Nat) (env : Env) (s : State) : Host.Outcome State Fault Refusal :=
  .next (takeRow 0x0070 f q env noEarly runResample s)

end Sys2Proof.Machine
end

