-- ==== Sys2Proof/Machine/Complete.lean ====
section
/-! DEFINITION. Sys2Proof/Machine/Complete.lean: operations complete (06 R126), with the epilogue and the engine work of the kinds
that are not cut into strips, and the verdicts that end a job (03 R53, R72). -/

namespace Sys2Proof.Machine

/-! When an operation may complete (R126). -/

/-- Every strip is DONE, every part combined, every Sounding verdict settled. -/
def stripsDone (i : List Byte) (e : Exec) : Bool :=
  let r := opAt i e.op
  ((List.range e.total).all fun k => Tab.find e.board k == some Board.done)
    && (r.parts == 1 || (List.range (e.total / r.parts)).all fun k => e.combined.contains (k * r.parts))
    && e.portions.all fun q => q.verdict == .settled

/-- A codec operation has all of its frames through its stages (11 R239), and its predecessors have written them. -/
def framesIn (w : Work) (e : Exec) : Bool :=
  let i := w.pl.image
  let r := opAt i e.op
  (w.s.codec (codecOf i e.op)).work == some (w.p, e.op) && e.frames.length == ceFrames (asDesc i r)
    && pipePassed (asDesc i r) (w.s.codec (codecOf i e.op)).pipe
    && r.preds.all fun q => predDone i w.j e.op q

/-- Open execution e may complete. -/
def mayComplete (w : Work) (e : Exec) : Bool :=
  match (opAt w.pl.image e.op).kind with
  | 0x08 => (w.s.partRun w.p).resampling.head? == some (.op w.p e.op)
  | 0x0A => framesIn w e
  | 0x0B => true
  | 0x0C => collectiveDone w e
  | 0x0D => true
  | _ => stripsDone w.pl.image e

/-! What it writes. -/

/-- What completing an execution made: the work, a row and segment that ends the job, a status that ends it. -/
structure Made where
  w : Work
  spillFault : Option Nat := none
  status : Option Nat := none

/-- The side lists of a resample operation's output, beside a tensor bound at its address (log 101). -/
def Work.putLists (w : Work) (a : Nat) (lists : List (List Byte)) : Work :=
  let i := w.pl.image
  match (List.range (hTensors i)).find? fun t => (tensorAt i t).source == 1 && bindingOf w.j (tensorAt i t).locator == some a with
  | some t => w.put t sideBase lists.flatten
  | none => w

/-- A resample operation (04 R91 to R99), come to its units; a check of R92 or R93 that fails ends the job with its status (log
54). -/
def makeResample (w : Work) (o : Nat) : Made :=
  let d := asDesc w.pl.image (opAt w.pl.image o)
  let v : Work := { w with s := leaveResample w.s w.p (.op w.p o) }
  match resampleStatus w.s w.p d with
  | some st => { w := v, status := if st = stOk then none else some st }
  | none =>
    let g := if rsCrop d then hbmGet v.s v.p (rsBoxAddr d) (32 * rsBoxes d) else ([], v.s)
    if !boxesOk d g.1 then { w := v, status := some stBadDesc }
    else
      let n := resample g.2 v.p o d g.1
      { w := ({ v with s := n.s } : Work).putLists (rsDst d) n.out.lists, spillFault := n.out.overflow }

/-- An update operation; the engines go on while another is open. -/
def makeUpdate (w : Work) (e : Exec) : Made :=
  let last := !w.j.execs.any fun d => d.op != e.op && (opAt w.pl.image d.op).kind == 0x0B
  let n := w.runUpdate e.op e.index last
  { w := n.w, spillFault := n.spillFault }

/-- Bytes of one layer of a page. -/
def layerBytes (i : List Byte) : Nat := 4096 * (pageRegions i).sum

/-- A paged attention operation reads the tiles of every page that its step's rows use and the Mere page cache holds from there,
each once (07 R161, R171); other pages' tiles are tier reads (TIER_READ). -/
def Work.readCached (w : Work) (o : Nat) : Work :=
  let i := w.pl.image
  let a := opAt i o
  if w.j.serving && a.kind == 4 && bitOf (leAt (paramBytes i a.params 64) 0 1) 3 then
    let used := ((w.owners.map RowOwner.slot).eraseDups.flatMap fun k =>
      match w.s.request w.p w.j.handle k with | some r => r.pages | none => []).eraseDups
    let cached := used.filter fun k => ((Tab.find w.pl.pages k).bind Page.cachedAt).isSome
    { w with s := cached.foldl (fun s k =>
        match (liveBasins s w.p)[Config.cacheBasin (planKey w.pl.part w.pl.handle) k % (liveBasins s w.p).length]? with
        | some b => onMere s b fun m => { m with readBytes := satAdd m.readBytes (layerBytes i) }
        | none => s) w.s }
  else w

/-- What execution e writes. -/
def makeOp (w : Work) (e : Exec) (env : Env) : Made :=
  match (opAt w.pl.image e.op).kind with
  | 0x08 => makeResample w e.op
  | 0x0A => let n := encodeOp w e.op env; { w := n.1, status := n.2 }
  | 0x0B => makeUpdate w e
  | 0x0C => let n := w.finishCollective e; { w := n.w, spillFault := n.spillFault }
  | 0x0D => { w := w.copyTensor e.op }
  | _ => let n := (w.readCached e.op).finishStrips e; { w := n.w, spillFault := n.spillFault }

/-! Verdicts that end the job (03 R53, R72). -/

/-- One ending comes before another in (pass, layer, operation, strip). -/
def Ending.before (a b : Ending) : Bool :=
  if a.pass != b.pass then a.pass < b.pass
  else if a.layer != b.layer then a.layer < b.layer
  else if a.op != b.op then a.op < b.op
  else a.strip < b.strip

/-- The first ending of a list. -/
def firstEnding : List Ending → Option Ending
  | [] => none
  | e :: es => match firstEnding es with
    | some d => if d.before e then some d else some e
    | none => some e

/-- The strip that holds a row and segment of an output. -/
def stripAt (r : OpRec) (v : Nat) : Nat :=
  let cols := stripColBlocks r
  (v / 2 ^ 32 / max 1 r.stripRows * cols + min (v % 2 ^ 32) (cols - 1)) * r.parts

/-- The place of a strip of execution e in logical progress; a serving step has no passes. -/
def endingAt (w : Work) (e : Exec) (strip status : Nat) : Ending :=
  { pass := if w.j.serving then 0 else e.pass, layer := (opAt w.pl.image e.op).layer, op := e.op, strip := strip, status := status }

/-- The endings that execution e gives once it has completed: a Spillway overflow, and a tile over budget under FAULT. -/
def endingsOf (w : Work) (e : Exec) (spill : Option Nat) : List Ending :=
  (match spill with | some v => [endingAt w e (stripAt (opAt w.pl.image e.op) v) stSpillFault] | none => [])
    ++ (match ((w.j.exec e.op).getD e).policy with | some k => [endingAt w e k stSoundingFault] | none => [])

/-- The ending that takes effect: the first of those the job holds, once no open execution can give one before it and none waits
for an arbitration, whose mismatch takes precedence (R72). -/
def dueEnding (w : Work) : Option Ending :=
  match firstEnding w.j.verdicts with
  | none => none
  | some x =>
    let earlier := fun (e : Exec) => (endingAt w e 0 0).before { x with strip := x.strip + 1 }
    if w.j.execs.any fun e => earlier e || e.portions.any fun q => q.verdict == .mismatch then none else some x

/-- The lead basin's NUM.STATUS shows that a job ended by a verdict (03 R73). -/
def markEnding (s : State) (p status : Nat) : State :=
  match leadBasin s p with
  | some b =>
    let n := (s.basin b).num
    s.setBasin b { s.basin b with num := { n with status := n.status ||| (if status = stSoundingFault then 2 else 4) } }
  | none => s

/-! OPERATION_COMPLETE. -/

/-- The job after execution e. -/
def Job.completed (j : Job) (e : Exec) : Job :=
  { j with execs := j.execs.filter fun d => d.op != e.op
           done := Tab.put j.done e.op (j.doneOf e.op + 1)
           escalation := if e.escalated && !j.escalation.contains e.op then j.escalation ++ [e.op] else j.escalation }

/-- Every operation has run as often as the job runs it. -/
def allRun (i : List Byte) (j : Job) : Bool := (List.range (hOps i)).all fun o => runsOf i o ≤ j.doneOf o

/-- After the writes: a verdict ends the job, or the last operation does, or the job goes on. -/
def settleOp (m : Made) (e : Exec) : State :=
  match m.status with
  | some st => endJob m.w.state m.w.p st
  | none =>
    let j := m.w.j.completed e
    let w : Work := { m.w with j := { j with verdicts := j.verdicts ++ endingsOf m.w e m.spillFault } }
    match dueEnding w with
    | some x => endJob (markEnding w.state w.p x.status) w.p x.status
    | none => if !j.serving && allRun w.pl.image j then endJob w.state w.p stOk else pollReady w.state w.p

/-- The unit whose logic fault an operation's work meets. -/
def opUnit (w : Work) (o : Nat) : Nat :=
  if (opAt w.pl.image o).kind = 0x0A then srcCodec (codecOf w.pl.image o) else leadSource w.s w.p

/-- What the meters charged for a job's work goes to its command; a serving job's to its requests when the step ends (15 R342). -/
def chargeJob (s : State) (p : Nat) (ch : Charge) : State :=
  match (s.partRun p).job with
  | some j => if j.serving then s else match s.cmd j.cmd with
    | some c => (chargeCmd s c ch).1
    | none => s
  | none => s

/-- OPERATION_COMPLETE (06 R126). -/
def execOperationComplete (p op : Nat) (env : Env) (s : State) : Host.Outcome State Fault Refusal :=
  .next (
    match workOf s p with
    | none => s
    | some w =>
      match w.j.exec op with
      | none => s
      | some e =>
        if !(works s && !(s.partRun p).halt.isRestart && mayComplete w e) then s
        else
          let s1 := chargeJob s p env.charge
          if env.fault then faultFrom s1 (opUnit w op) p
          else
            let r := tierStatus s1 p env.tier
            match r.2 with
            | some st => dataError r.1 p st none
            | none => settleOp (makeOp { w with s := r.1 } e env) e)

end Sys2Proof.Machine
end

