-- ==== Sys2Proof/Machine/Image.lean ====
section
/-! DEFINITION. Sys2Proof/Machine/Image.lean: the context image of a job (06 R141): what it holds, and reading it back. The order of
its sections is R141's; the bytes of the sections after the header are the model's (log 58). -/

namespace Sys2Proof.Machine

/-! What an image holds of a tensor. -/

/-- The places of tensor t and their sizes: its arrays, then what lies beside them where the plan can use it. -/
def regionsOf (i : List Byte) (t : Nat) : List (Nat × Nat) :=
  let d := tensorAt i t
  let users := (List.range (hOps i)).filter fun o => (opAt i o).streamed == t
  let perRow := fun base => (List.range d.rows).map fun r => (base + 2 * (r * 2 ^ 32), 2 * d.cols)
  [(0, tensorSize i t)]
    ++ (if (tensorFmt i t).isFloat then [] else [(sideBase, 32 * segments d.cols * d.rows)])
    ++ (if (staticsOf i t).isEmpty then [] else perRow staticBase)
    ++ (if users.any fun o => (ecAt i o).policy == 1 then
        [(wideBase, wideScales d.rows d.cols - wideBase + d.rows * (n8Cols d.cols / 32)), (wideTagBase, d.rows)] else [])
    ++ (if users.any (copiesInput i) then (copyTagBase, d.rows) :: perRow copyBase else [])

/-- The tensors whose content an image of kind 0 (reference) or 1 (full) holds: every live one, or those at home in Mere; the data
area stays with the plan unless an operation writes it. -/
def contentTensors (i : List Byte) (kind : Nat) : List Nat :=
  (List.range (hTensors i)).filter fun t =>
    (kind == 1 || (tensorAt i t).home == 1)
      && ((tensorAt i t).source != 2 || (List.range (hOps i)).any fun o => (writesOf i o).contains t)

/-! Writing: the sections as numbers of 8 bytes. -/

/-- Numbers of n bits of flags. -/
def encBits (n : Nat) (f : Nat → Bool) : List Nat :=
  (List.range (ceilDiv n 64)).map fun w => (List.range 64).foldl (fun a k => a + b2n (64 * w + k < n && f (64 * w + k)) * 2 ^ k) 0

/-- Bytes as numbers of 8. -/
def encBytes (bs : List Byte) : List Nat := (chunks 8 bs).map leNat

/-- A list with its length before it. -/
def encList (xs : List Nat) : List Nat := xs.length :: xs

/-- A table of numbers. -/
def encTab (t : Tab Nat) : List Nat := t.length :: t.flatMap fun e => [e.1, e.2]

/-- Results of a strip: rows times columns. -/
def stripCells (r : OpRec) (k : Nat) : Nat := (blockRows r (stripPlace r k).1).length * (blockCols r (stripPlace r k).2.1).length

/-- The results that an execution holds of its strips, zeros where it has none. -/
def encResults (r : OpRec) (total : Nat) (t : Tab (List Word32)) : List Nat :=
  (List.range total).flatMap fun k =>
    encBytes (slice ((Tab.get t k []).flatMap fun x => toLe 4 x.toNat) 0 (4 * stripCells r k))

/-- An open execution: its number, its execution count, the bitmaps of DONE strips and of combined parts; then its verdicts, its
part area and the results it writes when it completes (log 45). -/
def encExec (i : List Byte) (e : Exec) : List Nat :=
  let r := opAt i e.op
  [e.op, e.index] ++ encBits e.total (fun k => Tab.find e.board k == some Board.done)
    ++ encBits e.total (fun k => e.combined.contains k)
    ++ [(match e.policy with | some k => k + 1 | none => 0), b2n e.escalated]
    ++ (if r.parts = 1 then [] else encResults r e.total e.parts) ++ encResults r e.total e.values

/-- A rank table. -/
def encRanks (r : Ranks) : List Nat := [r.slot, r.mjob] ++ encList r.devices

/-- The content of a tensor. -/
def encTensor (w : Work) (t : Nat) : List Nat :=
  t :: (regionsOf w.pl.image t).flatMap fun g => encBytes ((List.range g.2).map fun k => w.byte t (g.1 + k))

/-- The lowest open operation's pass, layer, number and strip. -/
def lowestNumbers (w : Work) : List Nat :=
  match lowestOpen w.s w.p with
  | some e => [e.pass, (opAt w.pl.image e.op).layer, e.op,
      ((List.range e.total).find? fun k => Tab.find e.board k != some Board.done).getD 0]
  | none => [0, 0, 0, 0]

/-- Partition addresses in a reference image: the bindings, and for each tensor of the plan's own where the TM40 placed it. -/
def encPlaces (w : Work) : List Nat :=
  let i := w.pl.image
  encTab w.j.bindings ++ ((List.range (hTensors i)).filter fun t => (tensorAt i t).source != 1 && (tensorAt i t).home == 0).flatMap
    fun t => [t, Config.tensorPlace (planKey w.p w.pl.handle) t]

/-- The numbers of a whole image of kind 0 (reference) or 1 (full), in the order of R141. -/
def imageNumbers (w : Work) (kind : Nat) : List Nat :=
  let j := w.j
  let i := w.pl.image
  [j.seed.toNat, j.restarts, hPasses i] ++ lowestNumbers w
    ++ (List.range (hOps i)).map j.doneOf ++ (List.range (hTensors i)).map (fun t => Tab.get j.writes t 0)
    ++ (j.execs.length :: j.execs.flatMap (encExec i))
    ++ encBits (hOps i) (fun o => j.escalation.contains o)
    ++ (List.range (hOps i)).map (fun o => Tab.get j.overs o 0) ++ (List.range (hOps i)).map (fun o => Tab.get j.checks o 0)
    ++ (j.ranks.length :: j.ranks.flatMap encRanks)
    ++ (if kind = 0 then encPlaces w else []) ++ (contentTensors i kind).flatMap (encTensor w)

/-- The digest of the active table bank (05 R121). -/
def tableDigest (s : State) (p : Nat) : List Byte := sfuDigest (s.basin ((leadBasin s p).getD 0)).sfu

/-- The 128-byte header: magic, version, length, kind, digest, model, table-bank digest, packed in this order but for a byte of zero
after the kind. -/
def imageHeader (s : State) (p : Nat) (i : List Byte) (kind len : Nat) : List Byte :=
  toLe 4 0x58544358 ++ toLe 2 1 ++ toLe 8 len ++ toLe 1 kind ++ [0] ++ hDigest i ++ hModel i ++ tableDigest s p

/-- The image of a job. -/
def contextImage (w : Work) (kind : Nat) : List Byte :=
  let body := (imageNumbers w kind).flatMap (toLe 8)
  imageHeader w.s w.p w.pl.image kind (128 + body.length) ++ body

/-- Length of the image of a job: it follows from the plan and from which operations are open, so that a save in progress, in which
none opens, only makes it shorter. -/
def imageLength (w : Work) (kind : Nat) : Nat := 128 + 8 * (imageNumbers w kind).length

/-! Reading. A reader takes numbers from the front and fails on a malformed image. -/

/-- n numbers. -/
def decN (n : Nat) (xs : List Nat) : Option (List Nat × List Nat) :=
  if xs.length < n then none else some (xs.take n, xs.drop n)

/-- A list with its length before it. -/
def decList : List Nat → Option (List Nat × List Nat)
  | [] => none
  | n :: xs => decN n xs

/-- Numbers two by two. -/
def pairsOf : List Nat → Tab Nat
  | a :: b :: xs => (a, b) :: pairsOf xs
  | _ => []

/-- A table of numbers. -/
def decTab : List Nat → Option (Tab Nat × List Nat)
  | [] => none
  | n :: xs => (decN (2 * n) xs).map fun r => (pairsOf r.1, r.2)

/-- n flags: those set; a set flag beyond the last is malformed. -/
def decBits (n : Nat) (xs : List Nat) : Option (List Nat × List Nat) :=
  (decN (ceilDiv n 64) xs).bind fun r =>
    let set := (List.range (64 * ceilDiv n 64)).filter fun k => bitOf (r.1.getD (k / 64) 0) (k % 64)
    if set.any fun k => n ≤ k then none else some (set, r.2)

/-- n bytes in numbers of 8. -/
def decBytes (n : Nat) (xs : List Nat) : Option (List Byte × List Nat) :=
  (decN (ceilDiv n 8) xs).map fun r => ((r.1.flatMap (toLe 8)).take n, r.2)

/-- FP32 values of bytes. -/
def wordsOf (bs : List Byte) : List Word32 := (chunks 4 bs).map fun b => BitVec.ofNat 32 (leNat b)

/-- The results of some strips, those in want kept. -/
def decResults (r : OpRec) (want : List Nat) : List Nat → List Nat → Option (Tab (List Word32) × List Nat)
  | [], xs => some ([], xs)
  | k :: ks, xs => (decBytes (4 * stripCells r k) xs).bind fun b => (decResults r want ks b.2).map fun q =>
      (if want.contains k then Tab.put q.1 k (wordsOf b.1) else q.1, q.2)

/-- The combine tasks of an execution whose parts are all DONE and not combined (R140). -/
def dueCombines (s : State) (p : Nat) (i : List Byte) (e : Exec) : List (Nat × Nat × Bool) :=
  let n := (opAt i e.op).parts
  if n = 1 then []
  else (((List.range (e.total / n)).map fun k => k * n).filter fun first =>
    !e.combined.contains first && (List.range n).all fun q => Tab.find e.board (first + q) == some Board.done).map fun first =>
      (counterOf s p i e.op first, first, true)

/-- An execution as restored: its checks are drawn again, and those of committed strips are settled (R142 step 3). -/
def restoredExec (w : Work) (e : Exec) (done : List Nat) : Exec :=
  let i := w.pl.image
  let r := opAt i e.op
  let ps := (portionsFor w e.op e.index).map fun (q : Portion) =>
    if (if r.parts = 1 then done.contains q.strip else e.combined.contains q.strip) then { q with verdict := Verdict.settled } else q
  let e1 := { e with board := done.foldl (fun t k => Tab.put t k Board.done) [], portions := ps }
  { e1 with reissue := dueCombines w.s w.p i e1 }

/-- One open execution. -/
def decExec (w : Work) (xs : List Nat) : Option (Exec × List Nat) :=
  (decN 2 xs).bind fun h =>
    let o := h.1.getD 0 0
    let n := h.1.getD 1 0
    let i := w.pl.image
    let r := opAt i o
    let total := stripTotal r
    if hOps i ≤ o || runsOf i o ≤ n then none
    else (decBits total h.2).bind fun done => (decBits total done.2).bind fun comb => (decN 2 comb.2).bind fun v =>
      (if r.parts = 1 then some ([], v.2) else decResults r done.1 (List.range total) v.2).bind fun parts =>
        (decResults r (if r.parts = 1 then done.1 else comb.1) (List.range total) parts.2).map fun vals =>
          let e : Exec := { op := o, pass := if inLoop i o then n else 0, index := n, total := total, combined := comb.1,
                            parts := parts.1, values := vals.1, escalated := v.1.getD 1 0 == 1,
                            policy := if v.1.getD 0 0 = 0 then none else some (v.1.getD 0 0 - 1) }
          (restoredExec w e done.1, vals.2)

/-- n executions. -/
def decExecs (w : Work) : Nat → List Nat → Option (List Exec × List Nat)
  | 0, xs => some ([], xs)
  | n + 1, xs => (decExec w xs).bind fun e => (decExecs w n e.2).map fun r => (e.1 :: r.1, r.2)

/-- n rank tables. -/
def decRanks : Nat → List Nat → Option (List Ranks × List Nat)
  | 0, xs => some ([], xs)
  | n + 1, xs => (decN 2 xs).bind fun h => (decList h.2).bind fun d => (decRanks n d.2).map fun r =>
      (({ slot := h.1.getD 0 0, mjob := h.1.getD 1 0, devices := d.1 } : Ranks) :: r.1, r.2)

/-- A count before entries read one by one. -/
def decCount {α : Type} (f : Nat → List Nat → Option (List α × List Nat)) : List Nat → Option (List α × List Nat)
  | [] => none
  | n :: xs => f n xs

/-- Bytes of tensor t put in a plan's memory from offset off; a place beside the arrays reads 0 where nothing is listed. -/
def listBytes (m : Tab Byte) (t off : Nat) (bs : List Byte) : Tab Byte :=
  bs.zipIdx.foldl (fun m e => if sideBase ≤ off && e.1 == 0 then Tab.del m (memKey t (off + e.2))
    else Tab.put m (memKey t (off + e.2)) e.1) m

/-- The regions of a tensor. -/
def decRegions (t : Nat) : List (Nat × Nat) → Tab Byte × List Nat → Option (Tab Byte × List Nat)
  | [], x => some x
  | g :: gs, x => (decBytes g.2 x.2).bind fun b => decRegions t gs (listBytes x.1 t g.1 b.1, b.2)

/-- The contents of some tensors, each after its index. -/
def decTensors (i : List Byte) : List Nat → Tab Byte × List Nat → Option (Tab Byte × List Nat)
  | [], x => some x
  | t :: ts, x => match x.2 with
    | [] => none
    | n :: xs => if n != t then none else (decRegions t (regionsOf i t) (x.1, xs)).bind (decTensors i ts)

/-- The places in a reference image: the bindings. -/
def decPlaces (i : List Byte) (xs : List Nat) : Option (Tab Nat × List Nat) :=
  (decTab xs).bind fun b =>
    (decN (2 * ((List.range (hTensors i)).filter fun t => (tensorAt i t).source != 1 && (tensorAt i t).home == 0).length) b.2).map
      fun r => (b.1, r.2)

/-- Numbers by place, zeros left out. -/
def tabOf (xs : List Nat) : Tab Nat := xs.zipIdx.filterMap fun e => if e.1 = 0 then none else some (e.2, e.1)

/-- The 8-byte numbers of bytes. Fuel bounds them. -/
def numbersOf : Nat → List Byte → List Nat
  | 0, _ => []
  | n + 1, bs => leNat (bs.take 8) :: numbersOf n (bs.drop 8)

/-- The job and the plan's memory that the numbers of an image tell; w has the plan and a fresh job. -/
def decImage (w : Work) (kind : Nat) (xs : List Nat) : Option (Job × Tab Byte) :=
  let i := w.pl.image
  (decN 7 xs).bind fun h => (decN (hOps i) h.2).bind fun done => (decN (hTensors i) done.2).bind fun writes =>
    let j0 := { w.j with seed := BitVec.ofNat 64 (h.1.getD 0 0), restarts := h.1.getD 1 0, done := tabOf done.1,
                         writes := tabOf writes.1 }
    (decCount (decExecs { w with j := j0 }) writes.2).bind fun execs => (decBits (hOps i) execs.2).bind fun esc =>
      (decN (hOps i) esc.2).bind fun overs => (decN (hOps i) overs.2).bind fun checks => (decCount decRanks checks.2).bind fun ranks =>
        (if kind = 0 then decPlaces i ranks.2 else some ([], ranks.2)).bind fun binds =>
          (decTensors i (contentTensors i kind) (w.pl.mem, binds.2)).bind fun mem =>
            if h.1.getD 2 0 != hPasses i || !mem.2.isEmpty then none
            else some ({ j0 with execs := execs.1, escalation := esc.1, overs := tabOf overs.1, checks := tabOf checks.1,
                                 ranks := ranks.1, bindings := binds.1 }, mem.1)

/-- An image of length len is one of this plan on this partition (R143): its kind; none: ST_BAD_FORMAT. -/
def imageKind (s : State) (p : Nat) (i img : List Byte) (len : Nat) : Option Nat :=
  let kind := leAt img 14 1
  if img.length = len && 128 ≤ len && len % 8 == 0 && leAt img 0 4 == 0x58544358 && leAt img 4 2 == 1 && kind ≤ 1
      && leAt img 6 8 == len && leAt img 15 1 == 0 && slice img 16 64 == hDigest i && slice img 80 16 == hModel i
      && slice img 96 32 == tableDigest s p then some kind
  else none

/-- Every bound tensor lies inside the quota (R133, R143). -/
def bindingsInQuota (s : State) (p : Nat) (i : List Byte) (bs : List (Nat × Nat)) : Bool :=
  (List.range (hTensors i)).all fun t =>
    (tensorAt i t).source != 1 || match bs.find? fun b => b.1 == (tensorAt i t).locator with
      | some b => inQuota s p b.2 (tensorSize i t)
      | none => true

/-- The plan's memory without the arrays of bound tensors, which a job reads at their bindings. -/
def unbound (pl : Plan) : Tab Byte :=
  pl.mem.filter fun e => !((tensorAt pl.image (memTensor e.1)).source == 1 && memOffset e.1 < sideBase)

/-- The work that an image restores, or the status that refuses it. A full image puts every tensor in the plan's own memory. -/
def restoreImage (w : Work) (img : List Byte) (len : Nat) : Nat ⊕ Work :=
  match imageKind w.s w.p w.pl.image img len with
  | none => .inl stBadFormat
  | some kind =>
    match decImage { w with pl := { w.pl with mem := unbound w.pl } } kind (numbersOf (img.length / 8 - 16) (img.drop 128)) with
    | none => .inl stBadFormat
    | some (j, mem) =>
      let v : Work := { w with j := if kind = 0 then { j with origin := .reference } else j, pl := { w.pl with mem := mem } }
      if kind = 0 && !bindingsInQuota w.s w.p w.pl.image j.bindings then .inl stDenied else .inr v

end Sys2Proof.Machine
end

