-- ==== Sys2Proof/Machine/Load.lean ====
section
/-! DEFINITION. Sys2Proof/Machine/Load.lean: loading and unloading plans: the fit check (06 R127 to R130), PLAN_LOAD (R131, R443)
and PLAN_UNLOAD (R132). -/

namespace Sys2Proof.Machine

def plHost (d : List Byte) : Bool := bitsOf (leAt d 32 1) 0 1 == 0
def plSrc (d : List Byte) : Nat := leAt d 40 8
def plLength (d : List Byte) : Nat := leAt d 48 8
def plArea (d : List Byte) : Nat := leAt d 56 8

/-! The fit check. -/

/-- Mere bytes that a plan asks of each basin in service (R128 code 0x02). -/
def mereAsked (s : State) (p : Nat) (i : List Byte) : List (Nat × Nat) :=
  let bs := liveBasins s p
  bs.map fun b => (b, fMereFixed i + ceilDiv (fMereShared i) bs.length + (if leadBasin s p == some b then fMereLead i else 0))

/-- How far a basin's available Mere lies above what is asked of it. -/
def mereSlack (s : State) (e : Nat × Nat) : Int := ((Config.planRegionBytes - heldIn s e.1 : Nat) : Int) - e.2

/-- The basin with the least slack, the lowest-numbered on ties. -/
def leastSlack (s : State) : List (Nat × Nat) → Option (Nat × Nat)
  | [] => none
  | e :: es => match leastSlack s es with
    | some d => if mereSlack s d < mereSlack s e then some d else some e
    | none => some e

/-- A record when more is asked than is available. -/
def fitRecord (code index holder asked available : Nat) : List (List Byte) :=
  if available < asked then [shortfall code index holder asked available] else []

/-- Largest Spillway channel count of a plan (R128 code 0x05). -/
def spillAsked (i : List Byte) : Nat := (List.range (hOps i)).foldl (fun m o => max m (ecAt i o).statics) (fSpill i)

/-- The records of an engine or port asked for: one where it is disabled or held. -/
def unitRecord (code k : Nat) (asked disabled : Bool) (holder : Nat) : List (List Byte) :=
  if asked && (disabled || holder != 0) then [shortfall code k (if disabled then 0 else holder) 1 0] else []

/-- HBM bytes of the plans loaded on a partition, and request entries of every plan of the device. -/
def hbmHeld (s : State) (p : Nat) : Nat := (((Tab.vals s.plans).filter fun q => q.part == p).map fun q => fHbm q.image).sum
@[inherit_doc hbmHeld]
def entriesHeld (s : State) : Nat := ((Tab.vals s.plans).map fun q => fEntries q.image).sum

/-- The shortfall records of a load, in code order (R128, R129). -/
def fitCheck (s : State) (p : Nat) (i : List Byte) : List (List Byte) :=
  let quota := match Tab.find s.parts p with | some r => r.quota | none => 0
  fitRecord 1 0 0 (fMinBasins i) (liveBasins s p).length
    ++ (match leastSlack s (mereAsked s p i) with
      | some e => fitRecord 2 e.1 0 e.2 (Config.planRegionBytes - heldIn s e.1)
      | none => [])
    ++ fitRecord 3 0 0 (fHbm i) (quota - hbmHeld s p)
    ++ fitRecord 4 0 0 (fEntries i) (Config.requestEntries - entriesHeld s)
    ++ fitRecord 5 0 0 (spillAsked i) 256
    ++ ((List.range 4).flatMap fun c =>
      unitRecord 6 c (bitOf (fCodecs i) c) (bitOf s.run.codecDisabled.toNat c) (s.codec c).holder.toNat)
    ++ ((List.range 16).flatMap fun q =>
      unitRecord 7 q (bitOf (fPorts i) q) (!(s.port q).enable) (s.port q).holder.toNat)
    ++ fitRecord 8 0 0 (fPeers i) (s.mtc.devices.toNat - 1)
    ++ fitRecord 9 0 0 ((planHandles s p).length + 1) 16

/-! PLAN_LOAD. -/

/-- The checks before the image is read (R443 steps 2 to 4). -/
def loadStatus (s : State) (c : Cmd) : Option Nat :=
  let d := c.desc
  firstOf [
    need (!(plHost d && plSrc d % 64 != 0) && plArea d % 64 == 0 && (s.plan (dPart d) (dHandle d)).isNone) stBadDesc,
    need (plLength d != 0) stOk, need (256 ≤ plLength d) stBadDesc,
    need ((!plHost d || inWindows s c.fn (plSrc d) (plLength d)) && (plArea d == 0 || inWindows s c.fn (plArea d) 256)) stDenied]

/-- Engines and ports of the plan's masks are held for it (01 R23). -/
def holdUnitsFor (s : State) (p h : Nat) (i : List Byte) : State :=
  let s1 := (List.range 4).foldl (fun s c => if bitOf (fCodecs i) c then
    s.setCodec c { s.codec c with holder := BitVec.ofNat 32 h, holderPart := BitVec.ofNat 4 p } else s) s
  (List.range 16).foldl (fun s q => if bitOf (fPorts i) q then
    s.setPort q { s.port q with holder := BitVec.ofNat 32 h, holderPart := BitVec.ofNat 4 p } else s) s1

/-- A plan that passed every check is loaded and measured (R131, 18 R396). -/
def loadPlan (s : State) (p h : Nat) (i : List Byte) : State :=
  let s1 := holdUnitsFor s p h i
  let s2 := s1.setPlan p h { part := p, handle := h, image := i, measure := sha3_512 i, loadedAt := s.now,
                             held := mereAsked s p i }
  if hKind i = 1 then s2.setRun p { s2.partRun p with served := [] } else s2

/-- The checks on the image and the fit check, then the load. -/
def loadImage (s : State) (c : Cmd) (i : List Byte) : State :=
  let d := c.desc
  let p := dPart d
  match checkImage i (plLength d) with
  | some st => refuse s c st
  | none =>
    let rs := fitCheck s p i
    if rs.isEmpty then finish (loadPlan s p (dHandle d) i) c stOk
    else refuse (writeShortfalls s (plArea d) rs) c stRefusedFit

/-- The image of an object: its first src_length bytes. -/
def objectImage (s : State) (f o len : Nat) (env : Env) : State × (Nat ⊕ List Byte) :=
  let r := wholeObject s f o env
  match r.2 with
  | .inr bs => if bs.length < len then (r.1, .inl stBadDesc) else (r.1, .inr (bs.take len))
  | .inl st => (r.1, .inl st)

/-- PLAN_LOAD (R131, R443). -/
def runPlanLoad (s : State) (c : Cmd) (env : Env) : State :=
  let d := c.desc
  match loadStatus s c with
  | some st => finish s c st
  | none =>
    let t := chargeCmd s c env.charge
    if plHost d then
      if !env.hostOk then hostReadFailed t.1 t.2
      else let g := hostRead t.1 (plSrc d) (plLength d); loadImage g.2 t.2 g.1
    else
      let r := objectImage t.1 c.fn (plSrc d) (plLength d) env
      match r.2 with
      | .inl st => refuse r.1 t.2 st
      | .inr i => loadImage r.1 t.2 i

/-- PLAN_LOAD. -/
def execPlanLoad (f q : Nat) (env : Env) (s : State) : Host.Outcome State Fault Refusal :=
  .next (takeRow 0x0010 f q env noEarly runPlanLoad s)

/-! PLAN_UNLOAD. -/

/-- The opcodes that begin a job. -/
def startsJob (d : List Byte) : Bool := dOpcode d == 0x0020 || dOpcode d == 0x0022 || dOpcode d == 0x0025

/-- A job of plan h is running, pre-empted or waiting to start, behind whatever it waits for (R133). -/
def planBusy (s : State) (p h : Nat) : Bool :=
  let run := s.partRun p
  (match run.job with | some j => j.handle == h | none => false)
    || (match run.preempted with | some j => j.handle == h | none => false)
    || s.cmds.any fun c => dPart c.desc == p && dHandle c.desc == h && startsJob c.desc

/-- Work is queued or running on an engine that the plan holds (11 R232). -/
def engineBusy (s : State) (p h : Nat) : Bool :=
  (Tab.vals s.codecs).any fun c =>
    c.holder.toNat == h && c.holderPart.toNat == p && (c.current.isSome || !c.queue.isEmpty)

/-- A request ends with its plan: its record is written even when its command has completed (R132). -/
def unloadRequest (s : State) (r : Request) : State := closeRequest (putProgress s r 0 6) r stCancelled

/-- The plan's requests end, its nodes go, its resources are free (R132); a halt of the partition for it ends (13 R297). -/
def unloadPlan (s : State) (p h : Nat) : State :=
  let s1 := dropPlan ((planRequests s p h).foldl unloadRequest s) p h
  let run := s1.partRun p
  if run.halted && run.haltPlan == h then s1.setRun p { run with halted := false, haltPlan := 0 } else s1

/-- PLAN_UNLOAD (R132). -/
def runPlanUnload (s : State) (c : Cmd) (env : Env) : State :=
  let p := dPart c.desc
  let h := dHandle c.desc
  if (s.plan p h).isNone then finish s c stNoPlan
  else if planBusy s p h || engineBusy s p h then finish s c stDenied
  else
    let t := chargeCmd s c env.charge
    finish (unloadPlan t.1 p h) t.2 stOk

/-- PLAN_UNLOAD. -/
def execPlanUnload (f q : Nat) (env : Env) (s : State) : Host.Outcome State Fault Refusal :=
  .next (takeRow 0x0011 f q env noEarly runPlanUnload s)

end Sys2Proof.Machine
end

