-- ==== Sys2Proof/Machine/Jobs.lean ====
section
/-! DEFINITION. Sys2Proof/Machine/Jobs.lean: the life of jobs: their start (06 R133, R134), pre-emption and resumption (14 R323, 15
R337 to R339), cancellation (14 R324), saving and restoring (06 R142, R143), and restart (13 R292 to R299). -/

namespace Sys2Proof.Machine

/-! JOB_START: the checks when it is taken (06 R133). -/

def jsSeed (d : List Byte) : Nat := leAt d 32 8
def jsBind (d : List Byte) : Nat := leAt d 40 8
def jsCount (d : List Byte) : Nat := leAt d 48 4
def jsReport (d : List Byte) : Nat := leAt d 56 8

/-- The first part of the checks. -/
def jobStartEarly (s : State) (c : Cmd) : Option Nat :=
  let d := c.desc
  match s.plan (dPart d) (dHandle d) with
  | none => some stNoPlan
  | some pl =>
    firstOf [
      need (!dRestart d || restartable pl.image) stBadDesc,
      need (jsCount d ≤ 65536 && jsBind d % 16 == 0 && jsReport d % 8 == 0) stBadDesc,
      need (inWindows s c.fn (jsBind d) (16 * jsCount d) && (jsReport d == 0 || inWindows s c.fn (jsReport d) 8)) stDenied]

/-- A command that begins a job waits for the partition (R134). -/
def queueJob (s : State) (c : Cmd) (_ : Env) : State := s.setCmd { c with state := .queued }

/-- JOB_START (R133, R134). -/
def execJobStart (f q : Nat) (env : Env) (s : State) : Host.Outcome State Fault Refusal :=
  .next (takeRow 0x0020 f q env jobStartEarly queueJob s)

/-! The beginning of a job. -/

/-- The entries of a binding table. -/
def bindEntries (bs : List Byte) (n : Nat) : List (Nat × Nat) :=
  (List.range n).map fun k => (leAt bs (16 * k) 4, leAt bs (16 * k + 8) 8)

/-- Binding slots that the plan uses: bound tensors and rank tables. -/
def slotsUsed (i : List Byte) : List Nat :=
  ((List.range (hTensors i)).filter fun t => (tensorAt i t).source == 1).map (fun t => (tensorAt i t).locator)
    ++ ((List.range (hOps i)).filter fun o => (opAt i o).kind == 0x0C).map fun o => kSlot (collBlock i o)

/-- Bytes 4–7 of every binding entry are 0 (00 R10). -/
def bindingsClean (bs : List Byte) (n : Nat) : Bool := (List.range n).all fun k => leAt bs (16 * k + 4) 4 == 0

/-- No slot is missing or named twice, and addresses are multiples of 4,096. -/
def bindingsOk (i : List Byte) (bs : List (Nat × Nat)) : Bool :=
  (slotsUsed i).all (fun k => bs.any fun b => b.1 == k) && (bs.map Prod.fst).eraseDups.length == bs.length
    && bs.all fun b => b.2 % 4096 == 0

/-- The slots of the plan's rank tables. -/
def rankSlots (i : List Byte) : List Nat :=
  (((List.range (hOps i)).filter fun o => (opAt i o).kind == 0x0C).map fun o => kSlot (collBlock i o)).eraseDups

/-- The rank table at a partition address (12 R277). -/
def rankTable (s : State) (p slot a : Nat) : Ranks :=
  let n := leNat (partRead s p a 2)
  { slot := slot, mjob := leNat (partRead s p (a + 8) 8),
    devices := (List.range (min n 4096)).map fun k => leNat (partRead s p (a + 16 + 2 * k) 2) % 4096 }

/-- The rank table's check (R277). -/
def rankStatus (s : State) (p a : Nat) (i : List Byte) (r : Ranks) : Option Nat :=
  let n := leNat (partRead s p a 2)
  firstOf [
    need (within n 1 4096 && n ≤ fPeers i + 1 && r.devices.eraseDups.length == r.devices.length && r.devices.contains (devnum s)
      && r.mjob != 0) stBadDesc,
    need (r.devices.all fun d => censusState s d == 1) stPeerLost]

/-- The rank tables of a job with their addresses. -/
def rankTables (s : State) (p : Nat) (i : List Byte) (bs : List (Nat × Nat)) : List (Nat × Ranks) :=
  (rankSlots i).filterMap fun k => (bs.find? fun b => b.1 == k).map fun b => (b.2, rankTable s p k b.2)

/-- A plan that no job may begin on (R133 second part, 1 to 3). -/
def planBars (s : State) (p : Nat) (pl : Plan) : Option Nat :=
  firstOf [
    need (!pl.damaged) stEndedData, need (!(hKind pl.image == 1 && (s.partRun p).halted)) stDenied, need (!pl.stale) stDenied]

/-- The epoch after this one (R134). -/
def epochAfter (e : Word32) : Word32 := if e = 0xFFFFFFFF then 1 else e + 1

/-- Residual tensors return to zero (13 R294, 03 R71). -/
def zeroResiduals (pl : Plan) : Plan :=
  { pl with mem := pl.mem.filter fun e => (tensorAt pl.image (memTensor e.1)).source != 3 }

/-- A bound FP32 or BF16 tensor that no operation of the plan writes: the tile movers copy its sampled rows at the start (03 R59). -/
def copiedAtStart (i : List Byte) (t : Nat) : Bool :=
  (tensorAt i t).source == 1 && formatIn i t [0x01, 0x02] && !(List.range (hOps i)).any fun o => (targetsOf i o).contains t

/-- The BF16 copies of sampled rows of such tensors. -/
def Work.startCopies (w : Work) : Work :=
  let i := w.pl.image
  ((List.range (hTensors i)).filter (copiedAtStart i)).foldl (fun (w : Work) t =>
    (w.copyRows t none).foldl (fun (w : Work) r => w.putCopy t r (w.rowValues t r (tensorAt i t).cols)) w) w

/-- What a plan's memory holds of bound tensors goes when a job starts on new bindings. -/
def rebind (pl : Plan) : Plan := { pl with mem := pl.mem.filter fun e => (tensorAt pl.image (memTensor e.1)).source != 1 }

/-- The stream caches of the partition's basins are invalid (08 R182). -/
def dropStreams (s : State) (p : Nat) : State :=
  (liveBasins s p).foldl (fun s b => onMere s b fun m => { m with stream := [] }) s

/-- The time of a tenant switch ends with the incoming job (15 R338, R344). -/
def endSwitch (s : State) (r : PartRun) : PartRun :=
  match r.switchAt with
  | some t => { r with switchAt := none, lastSwitchNs := BitVec.ofNat 32 (satNat 32 (s.now - t)) }
  | none => r

/-- The engines show the operations that a job brings along open. -/
def reopenEngines (s : State) (p : Nat) : State :=
  match workOf s p with
  | some w => w.j.execs.foldl (fun t e => engineOpen { w with s := t } e.op) s
  | none => s

/-- A job runs on the partition; a plan of no operations is complete at once (06 R126). -/
def enterJob (s : State) (p : Nat) (pl : Plan) (j : Job) : State :=
  let r := endSwitch s (s.partRun p)
  let s1 := (dropStreams s p).setPlan p j.handle pl
  let s2 := s1.setRun p { r with job := some j, step := none, halt := .none }
  let s3 := match s2.cmd j.cmd with | some c => s2.setCmd { c with state := .running } | none => s2
  let s4 := reopenEngines s3 p
  if hOps pl.image = 0 then endJob s4 p stOk else s4

/-- The seed of a job: its own, or the generator's; a serving plan needs none (09 R209). -/
def jobSeed (s : State) (pl : Plan) (d : List Byte) : Option (Word64 × State) :=
  if jsSeed d != 0 || hKind pl.image == 1 then some (BitVec.ofNat 64 (jsSeed d), s) else drawSeed s

/-- The start once its bindings are known: rank tables, seed, epoch (R133 second part, 5 to 8). -/
def startBound (s : State) (c : Cmd) (pl : Plan) (bs : List (Nat × Nat)) (env : Env) : State :=
  let d := c.desc
  let p := dPart d
  if !bindingsOk pl.image bs then finish s c stBadDesc
  else if !bindingsInQuota s p pl.image bs then finish s c stDenied
  else
    let ts := rankTables s p pl.image bs
    let t := if ts.isEmpty then (s, none) else tierStatus s p env.tier
    match t.2, ts.findSome? fun r => rankStatus s p r.1 pl.image r.2 with
    | some st, _ => finish t.1 c st
    | none, some st => finish s c st
    | none, none =>
      match jobSeed t.1 pl d with
      | none => finish t.1 c stDenied
      | some (seed, s1) =>
        if jsReport d != 0 && !inWindows s1 c.fn (jsReport d) 8 then finish s1 c stDenied else
        let s2 := if jsReport d = 0 then s1 else hostWrite s1 (jsReport d) (toLe 8 seed.toNat)
        let s3 := s2.setRun p { s2.partRun p with epoch := epochAfter (s2.partRun p).epoch }
        let j : Job := { handle := dHandle d, cmd := c.id, serving := hKind pl.image == 1, seed := seed, bindings := bs,
                         ranks := ts.map Prod.snd, restartAllowed := dRestart d, startedAt := s.now }
        let w := ({ s := s3, p := p, pl := zeroResiduals (rebind pl), j := j } : Work).startCopies
        enterJob w.s p w.pl w.j

/-- A JOB_START begins. The windows are met again when its table is read and its report written (14 R306). -/
def beginStart (s : State) (c : Cmd) (pl : Plan) (env : Env) : State :=
  let d := c.desc
  match planBars s (dPart d) pl with
  | some st => finish s c st
  | none =>
    let t := chargeCmd s c env.charge
    if !inWindows s c.fn (jsBind d) (16 * jsCount d) then finish t.1 t.2 stDenied
    else if jsCount d != 0 && !env.hostOk then hostReadFailed t.1 t.2
    else
      let g := hostRead t.1 (jsBind d) (16 * jsCount d)
      if !bindingsClean g.1 (jsCount d) then finish g.2 t.2 stBadDesc
      else startBound g.2 t.2 pl (bindEntries g.1 (jsCount d)) env

/-- A JOB_RESUME begins: the pre-empted job goes on under the same epoch, its command carrying the totals so far (14 R323). The
bars of a start hold for it too (log 59). -/
def beginResume (s : State) (c : Cmd) (pl : Plan) (env : Env) : State :=
  let p := dPart c.desc
  match (s.partRun p).preempted with
  | some j =>
    if j.handle != dHandle c.desc then finish s c stBadDesc
    else match planBars s p pl with
      | some st => finish s c st
      | none =>
        let c' := { c with engineNs := c.engineNs + j.carried.1, bytes := c.bytes + j.carried.2.1,
                           energyUj := c.energyUj + j.carried.2.2 }
        let s1 := (clearPreempted s p).setCmd c'
        let t := chargeCmd s1 c' env.charge
        enterJob t.1 p pl { j with cmd := c.id }
  | none => finish s c stBadDesc

/-! CTX_RESTORE (06 R143). -/

def xrObject (d : List Byte) : Bool := bitOf (leAt d 32 1) 0
def xrSrc (d : List Byte) : Nat := leAt d 40 8
def xrLength (d : List Byte) : Nat := leAt d 48 8

/-- The checks of R143 that need no image. -/
def restoreEarly (s : State) (c : Cmd) : Option Nat :=
  let d := c.desc
  match s.plan (dPart d) (dHandle d) with
  | none => some stNoPlan
  | some pl =>
    firstOf [
      need (hKind pl.image != 1) stBadDesc, need (!dRestart d || restartable pl.image) stBadDesc, need (xrLength d != 0) stOk,
      need (xrObject d || inWindows s c.fn (xrSrc d) (xrLength d)) stDenied]

/-- CTX_RESTORE. -/
def execCtxRestore (f q : Nat) (env : Env) (s : State) : Host.Outcome State Fault Refusal :=
  .next (takeRow 0x0025 f q env restoreEarly queueJob s)

/-- An image read from its source: the bytes, or the status of a failed read (14 R306 for one outside the windows). -/
def readImage (s : State) (f : Nat) (object : Bool) (src len : Nat) (env : Env) : State × (Nat ⊕ List Byte) :=
  if object then objectImage s f src len env
  else if !inWindows s f src len then (s, .inl stDenied)
  else if !env.hostOk then (s, .inl stEndedData)
  else let g := hostRead s src len; (g.2, .inr g.1)

/-- A CTX_RESTORE begins. -/
def beginRestore (s : State) (c : Cmd) (pl : Plan) (env : Env) : State :=
  let d := c.desc
  let p := dPart d
  match planBars s p pl with
  | some st => finish s c st
  | none =>
    let t := chargeCmd s c env.charge
    if !xrObject d && !env.hostOk then hostReadFailed t.1 t.2
    else
      let r := readImage t.1 c.fn (xrObject d) (xrSrc d) (xrLength d) env
      match r.2 with
      | .inl st => finish r.1 t.2 st
      | .inr img =>
        let j : Job := { handle := dHandle d, cmd := c.id, serving := false, seed := 0, bindings := [], ranks := [],
                         restartAllowed := dRestart d, origin := .full (xrObject d) (xrSrc d) (xrLength d), startedAt := s.now }
        match restoreImage { s := r.1, p := p, pl := pl, j := j } img (xrLength d) with
        | .inl st => finish r.1 t.2 st
        | .inr w => enterJob (r.1.setRun p { r.1.partRun p with epoch := epochAfter (r.1.partRun p).epoch }) p w.pl w.j

/-! JOB_BEGIN (06 R134). -/

/-- The first command that waits to begin a job of the partition. -/
def nextStart (s : State) (p : Nat) : Option Cmd :=
  s.cmds.find? fun c => c.state == .queued && dPart c.desc == p && startsJob c.desc

/-- JOB_BEGIN: the partition runs no job and no table load is pending (05 R120). -/
def execJobBegin (p : Nat) (env : Env) (s : State) : Host.Outcome State Fault Refusal :=
  .next (
    let run := s.partRun p
    if !(works s && run.job.isNone && !switchWaits s p) then s
    else match nextStart s p with
      | none => s
      | some c =>
        match s.plan p (dHandle c.desc) with
        | none => finish s c (if dOpcode c.desc = 0x0022 then stBadDesc else stNoPlan)
        | some pl =>
          if dOpcode c.desc = 0x0020 then beginStart s c pl env
          else if dOpcode c.desc = 0x0022 then beginResume s c pl env
          else beginRestore s c pl env)

/-! Pre-emption (14 R323, 15 R337 to R339). -/

/-- The strips fetched ahead and not started return to the reissue lists. -/
def returnAhead (w : Work) : State :=
  w.s.cores.foldl (fun s e =>
    match e.2.ahead with
    | some t =>
      if t.part = w.p then
        let k := counterOf s w.p w.pl.image t.op t.strip
        (onExec s w.p t.op fun x =>
          { x with claims := x.claims.filter fun c => !(c.strip == t.strip && c.combine == t.combine)
                   reissue := x.reissue ++ [(k, t.strip, t.combine)] }).setCore e.1 e.2.dropAhead
      else s
    | none => s) w.s

/-- The plan's job runs on the partition. -/
def runsPlan (s : State) (p h : Nat) : Option Work := (workOf s p).bind fun w => if w.j.handle = h then some w else none

/-- JOB_PREEMPT when it starts. Behind a save or another pre-emption it waits. -/
def runJobPreempt (s : State) (c : Cmd) (_ : Env) : State :=
  let p := dPart c.desc
  match runsPlan s p (dHandle c.desc) with
  | none => finish s c stBadDesc
  | some w =>
    let run := s.partRun p
    if run.preempted.isSome then finish s c stDenied
    else match run.halt with
      | .none =>
        let s1 := if w.j.serving then s else returnAhead w
        s1.setRun p { s1.partRun p with halt := .preempt c.id, switchAt := some s.now }
      | .restart none => s.setRun p { run with halt := .restart (some c.id), switchAt := some s.now }
      | _ => s.setCmd { c with state := .waiting }

/-- JOB_PREEMPT. -/
def execJobPreempt (f q : Nat) (env : Env) (s : State) : Host.Outcome State Fault Refusal :=
  .next (takeRow 0x0021 f q env noEarly runJobPreempt s)

/-- JOB_RESUME when it starts (14 R323). -/
def runJobResume (s : State) (c : Cmd) (env : Env) : State :=
  match (s.partRun (dPart c.desc)).preempted with
  | some j => if j.handle = dHandle c.desc then queueJob s c env else finish s c stBadDesc
  | none => finish s c stBadDesc

/-- JOB_RESUME. -/
def execJobResume (f q : Nat) (env : Env) (s : State) : Host.Outcome State Fault Refusal :=
  .next (takeRow 0x0022 f q env noEarly runJobResume s)

/-- No strip of the partition's job runs, no grant is open, every verdict of a committed strip is settled, no serving step
runs. -/
def drained (w : Work) : Bool :=
  let i := w.pl.image
  !(Tab.vals w.s.cores).any (fun c => match c.running with | some t => t.part == w.p | none => false)
    && (w.s.partRun w.p).step.isNone
    && w.j.execs.all fun e => e.board.all (fun x => x.2 == Board.done)
      && e.portions.all fun q => q.verdict == .settled
        || !(if (opAt i e.op).parts = 1 then Tab.find e.board q.strip == some Board.done else e.combined.contains q.strip)

/-! CTX_SAVE (06 R142). -/

def xsKind (d : List Byte) : Nat := bitsOf (leAt d 32 1) 0 1
def xsObject (d : List Byte) : Bool := bitOf (leAt d 32 1) 1
def xsStop (d : List Byte) : Bool := bitOf (leAt d 32 1) 2
def xsDst (d : List Byte) : Nat := leAt d 40 8
def xsCapacity (d : List Byte) : Nat := leAt d 48 8
def xsReport (d : List Byte) : Nat := leAt d 56 8

/-- The image and the report of a save lie in its function's windows. -/
def saveWindows (s : State) (c : Cmd) : Bool :=
  let d := c.desc
  (xsObject d || inWindows s c.fn (xsDst d) (xsCapacity d)) && (xsReport d == 0 || inWindows s c.fn (xsReport d) 8)

/-- The checks of a save. -/
def saveStatus (s : State) (c : Cmd) : Option Nat :=
  let d := c.desc
  firstOf [
    match runsPlan s (dPart d) (dHandle d) with | some w => need (!w.j.serving) stBadDesc | none => some stBadDesc,
    need (xsObject d || xsDst d % 64 == 0) stBadDesc,
    need (saveWindows s c) stDenied,
    if xsObject d then newObjectStatus s c.fn (xsDst d) else none]

/-- The image's length is shown and reported (step 1). -/
def reportLength (s : State) (p n : Nat) (d : List Byte) : State :=
  let s1 := onLead s p fun v => { v with ctxLen := BitVec.ofNat 64 n }
  if xsReport d = 0 then s1 else hostWrite s1 (xsReport d) (toLe 8 n)

/-- A save begins (step 1): too long an image ends it at once. -/
def beginSave (w : Work) (c : Cmd) : State :=
  let d := c.desc
  let n := imageLength w (xsKind d)
  let s1 := reportLength w.s w.p n d
  if !xsObject d && xsCapacity d < n then finish s1 c stBadDesc
  else
    let s2 := if xsObject d then createHidden s1 c (xsDst d) else s1
    let s3 := returnAhead { w with s := s2 }
    s3.setRun w.p { s3.partRun w.p with halt := .save c.id }

/-- CTX_SAVE when it starts. Behind another halt it waits. -/
def runCtxSave (s : State) (c : Cmd) (_ : Env) : State :=
  match saveStatus s c, runsPlan s (dPart c.desc) (dHandle c.desc) with
  | some st, _ => finish s c st
  | none, some w => if (s.partRun w.p).halt = .none then beginSave w c else s.setCmd { c with state := .waiting }
  | none, none => finish s c stBadDesc

/-- CTX_SAVE. -/
def execCtxSave (f q : Nat) (env : Env) (s : State) : Host.Outcome State Fault Refusal :=
  .next (takeRow 0x0024 f q env noEarly runCtxSave s)

/-- The image is written (steps 4 and 5): the machine after it, and the status of the save. -/
def putImage (w : Work) (c : Cmd) (env : Env) : State × Nat :=
  let d := c.desc
  let img := contextImage w (xsKind d)
  if !saveWindows w.s c then (w.s, stDenied) else
  let s1 := reportLength w.s w.p img.length d
  if xsObject d then
    if storeFull s1 c.fn img.length false then (wearOut s1 env.wear, stStoreFull)
    else (appendHidden (wearOut s1 env.wear) (xsDst d) img, stOk)
  else if xsCapacity d < img.length then (s1, stBadDesc)
  else (hostWrite s1 (xsDst d) img, stOk)

/-- The save in progress is done: it completes, and the job goes on or ends. -/
def finishSave (w : Work) (c : Cmd) (env : Env) : State :=
  let r := putImage w c env
  let s1 := finish (r.1.setRun w.p { r.1.partRun w.p with halt := .none }) c r.2
  if r.2 = stOk && xsStop c.desc then endJob s1 w.p stPreempted else s1

/-- CTX_SAVE_WRITE (R142 steps 2 to 5). -/
def execCtxSaveWrite (p : Nat) (env : Env) (s : State) : Host.Outcome State Fault Refusal :=
  .next (
    match (s.partRun p).halt, workOf s p with
    | .save id, some w =>
      match s.cmd id with
      | none => s
      | some c =>
        if !(works s && drained w) then s
        else if env.fault then faultFrom s (leadSource s p) p
        else
          let r := if xsKind c.desc = 1 then tierStatus s p env.tier else (s, none)
          match r.2 with
          | some st => dataError r.1 p st none
          | none =>
            let t := chargeCmd r.1 c env.charge
            finishSave { w with s := t.1 } t.2 env
    | _, _ => s)

/-- The saves that wait for a pre-emption (15 R339): those the ring lets start. -/
def waitingSaves (s : State) (p h : Nat) : List Cmd :=
  s.cmds.filter fun c => c.state == .waiting && dOpcode c.desc == 0x0024 && dPart c.desc == p && dHandle c.desc == h
    && !orderWaits s c && dNotBefore c.desc ≤ s.now

/-- One of them writes its image of the pre-empted state; whether a save that stops the job has been made. -/
def saveDrained (env : Env) (t : State × Bool) (c : Cmd) : State × Bool :=
  match saveStatus t.1 c, runsPlan t.1 (dPart c.desc) (dHandle c.desc) with
  | some st, _ => (finish t.1 c st, t.2)
  | none, some w =>
    let s1 := if xsObject c.desc then createHidden t.1 c (xsDst c.desc) else t.1
    let r := putImage { w with s := s1 } c env
    (finish r.1 c r.2, t.2 || (xsStop c.desc && r.2 == stOk))
  | none, none => t

/-- The job's own open work leaves the engines; a codec operation takes its frames again later. -/
def Job.parked (j : Job) : Job := { j with execs := j.execs.map fun e => { e with frames := [] } }

/-- The Mere page-cache copies of the partition's plans are dropped (15 R338 step 4). -/
def dropPageCache (s : State) (p : Nat) : State :=
  { s with plans := Tab.map s.plans fun q =>
      if q.part == p then { q with pages := Tab.map q.pages fun g => { g with cachedAt := none } } else q }

/-- The drained job leaves the partition (15 R338 step 4): the pre-emption completes, then the job's command. It is kept for a
JOB_RESUME unless a save has stopped it (06 R142). -/
def leavePartition (s : State) (p id : Nat) (j : Job) (stopped : Bool) : State :=
  let s1 := dropPageCache (dropStreams (clearJob s p) p) p
  let c := s1.cmd j.cmd
  let totals := match c with | some c => (c.engineNs, c.bytes, c.energyUj) | none => (0, 0, 0)
  let r := s1.partRun p
  let s2 := s1.setRun p { r with preempted := if stopped then none else some { j.parked with carried := totals }, switches := satAdd r.switches 1 }
  let s3 := finishId s2 id stOk
  match c with
  | some c =>
    finishWith s3 (if j.serving then { c with engineNs := 0, bytes := 0, energyUj := 0 } else c) stPreempted j.restarts
  | none => s3

/-- PREEMPT_DRAINED (15 R338 steps 2 to 4). -/
def execPreemptDrained (p : Nat) (env : Env) (s : State) : Host.Outcome State Fault Refusal :=
  .next (
    match (s.partRun p).halt, workOf s p with
    | .preempt id, some w =>
      if !(works s && drained w) then s
      else if env.fault then faultFrom s (leadSource s p) p
      else
        let t := (waitingSaves s p w.j.handle).foldl (saveDrained env) (chargeJob s p env.charge, false)
        leavePartition t.1 p id w.j t.2
    | _, _ => s)

/-! JOB_CANCEL (14 R324). -/

/-- The starts and restores of a plan that still wait, behind whatever they wait for, as planBusy counts them. -/
def waitingStarts (s : State) (p h : Nat) : List Cmd :=
  s.cmds.filter fun c => dPart c.desc == p && dHandle c.desc == h && (dOpcode c.desc == 0x0020 || dOpcode c.desc == 0x0025)
    && (c.state == .waiting || c.state == .queued)

/-- JOB_CANCEL. -/
def runJobCancel (s : State) (c : Cmd) (env : Env) : State :=
  let p := dPart c.desc
  let h := dHandle c.desc
  if (s.plan p h).isNone then finish s c stNoPlan
  else
    let t := chargeCmd s c env.charge
    let s1 := if (runsPlan t.1 p h).isSome then endJob t.1 p stCancelled else t.1
    let s2 := match (s1.partRun p).preempted with
      | some j => if j.handle = h then clearPreempted s1 p else s1
      | none => s1
    finish (finishIds s2 ((waitingStarts s2 p h).map Cmd.id) stCancelled) t.2 stOk

/-- JOB_CANCEL. -/
def execJobCancel (f q : Nat) (env : Env) (s : State) : Host.Outcome State Fault Refusal :=
  .next (takeRow 0x0023 f q env noEarly runJobCancel s)

/-! JOB_RESTART (13 R292 to R294). -/

/-- The job restarts (R292); the partition has lost no basin. -/
def mayRestart (j : Job) (pl : Plan) : Bool :=
  j.restartAllowed && !pl.stale && j.ranks.isEmpty && j.restarts < 3 && j.origin != .reference

/-- The plan's Mere-homed tensors and part areas are wiped and its residuals zero (R294 step 5). -/
def wipePlan (pl : Plan) : Plan :=
  let q := zeroResiduals pl
  { q with mem := q.mem.filter fun e => (tensorAt pl.image (memTensor e.1)).home != 1 }

/-- A job from its beginning, with the same seed, bindings and tables (R294 step 6). -/
def Job.afresh (j : Job) : Job :=
  { j with restarts := j.restarts + 1, pass := 0, done := [], execs := [], writes := [], escalation := [], overs := [],
           checks := [], verdicts := [] }

/-- The job as it runs again: from its beginning, or from the image it was restored from, read again; none: not readable. -/
def rerun (w : Work) (env : Env) : State × Option Work :=
  let w1 := ({ w with pl := wipePlan w.pl, j := w.j.afresh } : Work).startCopies
  match w.j.origin with
  | .full object src len =>
    let f := match w.s.cmd w.j.cmd with | some c => c.fn | none => 0
    let r := readImage w.s f object src len env
    match r.2 with
    | .inl _ => (r.1, none)
    | .inr img =>
      match restoreImage { w1 with s := r.1 } img len with
      | .inl _ => (r.1, none)
      | .inr v => (r.1, some { v with j := { v.j with restarts := w1.j.restarts, origin := w.j.origin } })
  | _ => (w1.s, some w1)

/-- What the halt becomes: a pre-emption that waited takes effect now (R296). -/
def haltAfter : Halt → Halt
  | .restart (some c) => .preempt c
  | _ => .none

/-- Step 5 and 6 of R294: the wipes, the new epoch, the run. -/
def runAgain (s : State) (w : Work) : State :=
  let run := s.partRun w.p
  let s1 := (dropStreams s w.p).setPlan w.p w.j.handle w.pl
  let s2 := s1.setRun w.p { run with job := some w.j, epoch := epochAfter run.epoch, halt := haltAfter run.halt,
                                     step := run.step.map fun t => { t with ended := t.ended.filter fun e => e.2 < 65536 } }
  reopenEngines s2 w.p

/-- The faulted job runs again or ends (R292, R294, R299); a serving step is replayed (R297). -/
def restartJob (w : Work) (env : Env) : State :=
  if w.j.serving then
    runAgain w.s { w with pl := wipePlan w.pl, j := { w.j.afresh with restarts := w.j.restarts } }
  else if !mayRestart w.j w.pl then endJob (sendAborts w.s w.p) w.p stJobFault
  else
    let r := rerun w env
    match r.2 with
    | some v => runAgain r.1 v
    | none => endJob r.1 w.p stJobFault

/-- JOB_RESTART: step 3 of R294, the quick BIST of the units that logic faults named, then the job. With no fault of a job only the
units are treated. -/
def execJobRestart (p : Nat) (tested : List Nat) (env : Env) (s : State) : Host.Outcome State Fault Refusal :=
  .next (
    if !works s then s
    else
      let s1 := (runTests s 0 0 tested env.tests).1
      if !(s1.partRun p).halt.isRestart then s1
      else match workOf (chargeJob s1 p env.charge) p with
        | some w => restartJob w env
        | none => s1)

end Sys2Proof.Machine
end

