-- ==== Sys2Proof/Machine/Pool.lean ====
section
/-! DEFINITION. Sys2Proof/Machine/Pool.lean: the page pool of a serving plan and the prefix directory (07 R155 to R161, R174). -/

namespace Sys2Proof.Machine

/-- An ATT window changed. -/
def onAtt (s : State) (b : Nat) (f : Att → Att) : State := s.setBasin b { s.basin b with att := f (s.basin b).att }

/-- Pages that hold n positions. -/
def pagesFor (n : Nat) : Nat := ceilDiv n 64

/-! Eviction (R161). -/

/-- One cached node goes before another: last reference, page number, partition. -/
def Node.older (a b : Node) : Bool :=
  if a.last != b.last then a.last < b.last else if a.page != b.page then a.page < b.page else a.part < b.part

/-- The oldest of some nodes. -/
def oldestNode : List Node → Option Node
  | [] => none
  | n :: ns => match oldestNode ns with
    | some m => if m.older n then some m else some n
    | none => some n

/-- A node is evicted: its page returns to the pool. -/
def evict (s : State) (n : Node) : State :=
  let s1 := onAtt (removeNode s n) (sliceOf n.key) fun a => { a with evicts := satAdd a.evicts 1 }
  dropPage s1 n.part n.plan n.page

/-- Pages that eviction can free: a node that no request uses has no descendant in use. -/
def evictable (s : State) (p h : Nat) : Nat := (s.nodes.filter fun n => n.part == p && n.plan == h && n.refs == 0).length

/-- Free and evictable pages of a pool (R174, R175). -/
def pagesLeft (s : State) (p h : Nat) : Nat :=
  match s.plan p h with
  | some pl => poolFree pl + evictable s p h
  | none => 0

/-- The lowest free page; the spec names no order. -/
def freePage (pl : Plan) : Option Nat := (List.range (vPool pl.image)).find? fun k => (Tab.find pl.pages k).isNone

/-- A page of a plan as its pool gives it. -/
def Page.blank (i : List Byte) : Page :=
  { tokens := [], nodeKey := List.replicate 32 0, parentKey := List.replicate 32 0, keyFormat := BitVec.ofNat 8 (vKeyFmt i),
    valueFormat := BitVec.ofNat 8 (vValFmt i), valid := 0, cachedAt := none }

/-- A free page is taken. -/
def claimPage (s : State) (p h : Nat) : Option (Nat × State) :=
  match s.plan p h with
  | some pl => (freePage pl).map fun k => (k, s.setPlan p h { pl with pages := Tab.put pl.pages k (Page.blank pl.image) })
  | none => none

/-- A page is taken: a free one, or one that evicting the partition's oldest cached nodes frees. Fuel: the nodes. -/
def takeFrom (p h : Nat) : Nat → State → Option (Nat × State)
  | 0, s => claimPage s p h
  | n + 1, s =>
    match claimPage s p h with
    | some r => some r
    | none => match oldestNode (s.nodes.filter fun n => n.part == p && n.cached) with
      | some v => takeFrom p h n (evict s v)
      | none => none

@[inherit_doc takeFrom]
def takePage (s : State) (p h : Nat) : Option (Nat × State) := takeFrom p h s.nodes.length s

/-- A request's page list grows to n pages. -/
def growPages (s : State) (r : Request) (n : Nat) : State :=
  let t := (List.range (n - r.pages.length)).foldl (fun (t : State × Request) _ =>
    match takePage t.1 r.part r.plan with
    | some (k, s') => (s', { t.2 with pages := t.2.pages ++ [k] })
    | none => t) (s, r)
  t.1.setRequest t.2

/-! Nodes (R157 to R160). -/

/-- The key of a node (R157). -/
def nodeKey (i : List Byte) (parent : List Byte) (toks : List Nat) : List Byte :=
  sha3_256 (hModel i ++ toLe 1 (vKeyFmt i) ++ toLe 1 (vValFmt i) ++ [0, 0] ++ parent ++ toks.flatMap (toLe 4))

/-- Block k of a token log. -/
def block (log : List Nat) (k : Nat) : List Nat := (log.drop (64 * k)).take 64

/-- The directory's entry of a key (R158). -/
def findNode (s : State) (p h : Nat) (key : List Byte) : Option Node :=
  s.nodes.find? fun n => n.part == p && n.plan == h && n.key == key

/-- The page header confirms a match (R159). -/
def confirmed (pl : Plan) (n : Node) (toks : List Nat) (parent : List Byte) : Bool :=
  match Tab.find pl.pages n.page with
  | some g => g.tokens == toks && g.parentKey == parent
  | none => false

/-- The page's copy enters the Mere page cache; where it has no room the oldest copy leaves (R161). -/
def cachePage (s : State) (p h k : Nat) : State :=
  match s.plan p h with
  | some pl =>
    if vMerePages pl.image = 0 || ((Tab.find pl.pages k).bind Page.cachedAt).isSome then s
    else
      let copies := pl.pages.filterMap fun e => e.2.cachedAt.map fun t => (t, e.1)
      let oldest := copies.foldl (fun (b : Option (Nat × Nat)) e =>
        match b with | some x => if e.1 < x.1 then some e else b | none => some e) none
      let out := if vMerePages pl.image ≤ copies.length then (oldest.map Prod.snd).toList else []
      s.setPlan p h { pl with pages := pl.pages.map fun e =>
        (e.1, { e.2 with cachedAt := if e.1 == k then some s.now else if e.1 ∈ out then none else e.2.cachedAt }) }
  | none => s

/-- A node gets one more reference. -/
def refNode (s : State) (n : Node) : State :=
  let s1 := { s with nodes := s.nodes.map fun m => if m == n then { m with refs := m.refs + 1, last := s.now } else m }
  if n.refs = 1 then cachePage s1 n.part n.plan n.page else s1

/-- A match that fails its confirmation (R159, R160). -/
def collide (s : State) (p : Nat) (key : List Byte) : State :=
  let b := sliceOf key
  raiseEvent (onAtt s b fun a => { a with collisions := satAdd a.collisions 1 }) evPrefixCollision (srcBasin b) p (key.take 8)

/-- A lookup is counted in its slice (R178). -/
def countLookup (s : State) (key : List Byte) : State :=
  onAtt s (sliceOf key) fun a => { a with lookups := satAdd a.lookups 1 }

/-- A confirmed hit: counted, and referenced. -/
def hitNode (s : State) (n : Node) : State :=
  refNode (onAtt s (sliceOf n.key) fun a => { a with hits := satAdd a.hits 1 }) n

/-- The walk of R159 from block k under a parent key. Fuel: the blocks to look up. -/
def lookupFrom (pl : Plan) : Nat → Nat → List Byte → State → Request → State × Request
  | 0, _, _, s, r => (s, r)
  | n + 1, k, parent, s, r =>
    let toks := block r.log k
    let key := nodeKey pl.image parent toks
    let s1 := countLookup s key
    match findNode s1 r.part r.plan key with
    | none => (s1, r)
    | some m =>
      if confirmed pl m toks parent then
        lookupFrom pl n (k + 1) key (hitNode s1 m) { r with pages := r.pages ++ [m.page], shared := k + 1 }
      else (collide s1 r.part key, r)

/-- A request without pages (R163) enters PREFILL (R159). One with an escalation set looks up nothing (03 R69). -/
def admitRequest (s : State) (pl : Plan) (r : Request) : State × Request :=
  let r1 := { r with state := .prefill, shared := 0 }
  let t := if r1.escalation.isEmpty then lookupFrom pl ((r1.log.length - 1) / 64) 0 (List.replicate 32 0) s r1 else (s, r1)
  let r2 := { t.2 with computed := 64 * t.2.shared }
  (t.1.setRequest r2, r2)

/-- The key of the last of a request's nodes; zero for none. -/
def lastKey (i : List Byte) (r : Request) : List Byte :=
  (List.range r.shared).foldl (fun parent k => nodeKey i parent (block r.log k)) (List.replicate 32 0)

/-- Room for one more node in a slice: the oldest cached node of the slice, or of the directory, is evicted where there is
none (R160, R161). -/
def makeRoom (s : State) (b : Nat) : Option State :=
  let inSlice := s.nodes.filter fun n => sliceOf n.key == b
  if Config.sliceNodes ≤ inSlice.length then (oldestNode (inSlice.filter Node.cached)).map (evict s)
  else if Config.directoryNodes ≤ s.nodes.length then (oldestNode (s.nodes.filter Node.cached)).map (evict s)
  else some s

/-- The header fields of a page change. -/
def onPage (s : State) (p h k : Nat) (f : Page → Page) : State :=
  match s.plan p h with
  | some pl => match Tab.find pl.pages k with
    | some g => s.setPlan p h { pl with pages := Tab.put pl.pages k (f g) }
    | none => s
  | none => s

/-- A page becomes a new node. -/
def insertNode (s : State) (r : Request) (key parent : List Byte) (k : Nat) : State :=
  let mine : Node → List Byte → Bool := fun m key' => m.part == r.part && m.plan == r.plan && m.key == key'
  let kids := (s.nodes.filter fun m => m.part == r.part && m.plan == r.plan && m.parent == key).length
  let n : Node := { part := r.part, plan := r.plan, key := key, parent := parent, page := k, refs := 1, children := kids,
                    last := s.now }
  let up := s.nodes.map fun m => if mine m parent then { m with children := m.children + 1 } else m
  let s1 := onPage { s with nodes := up ++ [n] } r.part r.plan k fun g => { g with nodeKey := key, parentKey := parent }
  onAtt s1 (sliceOf key) fun a => { a with inserts := satAdd a.inserts 1 }

/-- The request's own page k is replaced by a node's, and returns to the pool. -/
def swapPage (s : State) (r : Request) (k page : Nat) : State × Request :=
  let own := r.pages.getD k 0
  let r1 := { r with pages := r.pages.set k page, shared := k + 1 }
  (dropPage (s.setRequest r1) r.part r.plan own, r1)

/-- Page `shared` of a request is complete and all before it are nodes (R160). Fuel: the pages to treat. -/
def completePages (pl : Plan) : Nat → List Byte → State → Request → State × Request
  | 0, _, s, r => (s, r)
  | n + 1, parent, s, r =>
    let k := r.shared
    let toks := block r.log k
    let key := nodeKey pl.image parent toks
    let s1 := countLookup s key
    match findNode s1 r.part r.plan key with
    | some m =>
      if ((s1.plan r.part r.plan).map fun q => confirmed q m toks parent) = some true then
        let t := swapPage (hitNode s1 m) r k m.page
        completePages pl n key t.1 t.2
      else (collide s1 r.part key, r)
    | none => match makeRoom s1 (sliceOf key) with
      | none => (onAtt s1 (sliceOf key) fun a => { a with insertFull := satAdd a.insertFull 1 }, r)
      | some s2 =>
        let r1 := { r with shared := k + 1 }
        completePages pl n key ((insertNode s2 r key parent (r.pages.getD k 0)).setRequest r1) r1

/-- The headers of the pages that positions lo to hi − 1 were written to (R155, R156). -/
def writeHeaders (s : State) (r : Request) (lo hi : Nat) : State :=
  ((List.range (pagesFor hi)).filter fun k => lo < 64 * (k + 1)).foldl (fun s k =>
    match r.pages[k]? with
    | some g => onPage s r.part r.plan g fun v =>
        { v with tokens := (block r.log k).take (hi - 64 * k), valid := min 64 (hi - 64 * k) }
    | none => s) s

/-- What a step did to a request's pages: positions up to hi are in pages, and pages that it completed become nodes, as long as
every page before them is one (R160). A page that was complete before the step stays private. -/
def advancePages (s : State) (pl : Plan) (r : Request) (hi : Nat) : State × Request :=
  let s1 := writeHeaders s r r.computed hi
  let r1 := { r with computed := hi }
  let s2 := s1.setRequest r1
  if r1.escalation.isEmpty && r.computed / 64 ≤ r.shared then completePages pl (hi / 64 - r1.shared) (lastKey pl.image r1) s2 r1 else (s2, r1)

/-! Parking (R174). -/

/-- A request gives up its pages. -/
def Request.bare (r : Request) : Request := { r with pages := [], shared := 0, computed := 0 }

/-- A request is parked, or ends where it asked for that. -/
def parkRequest (s : State) (r : Request) : State :=
  let s1 := match leadBasin s r.part with
    | some b => onAtt s b fun a => { a with parks := satAdd a.parks 1 }
    | none => s
  if r.endOnPark then endRequest s1 r stParked 0
  else (releasePages s1 r).setRequest { r.bare with state := .parked, parkCount := (r.parkCount + 1) % 2 ^ 32 }

/-- Who is parked first: the lowest priority, then the highest admit_order. -/
def parksBefore (a b : Request) : Bool := if a.priority != b.priority then a.priority < b.priority else b.admitOrder < a.admitOrder

/-- The request of a plan to park next. -/
def victim (s : State) (p h : Nat) : Option Request :=
  ((planRequests s p h).filter fun r => r.state == .prefill || r.state == .decode).foldl
    (fun b r => match b with | some x => if parksBefore r x then some r else b | none => some r) none

end Sys2Proof.Machine
end

