-- ==== Sys2Proof/Machine/Serving.lean ====
section
/-! DEFINITION. Sys2Proof/Machine/Serving.lean: serving: the sequence commands (07 R164 to R170), sampling (R167), and the forming and
the end of steps (15 R334 to R336, R342). -/

namespace Sys2Proof.Machine

/-! Fair share (15 R336). -/

/-- The served count of a client. -/
def servedOf (s : State) (p c : Nat) : Nat := Tab.get (s.partRun p).served c 0

/-- The clients with a request of partition p in QUEUED, PREFILL, DECODE or PARKED. -/
def activeClients (s : State) (p : Nat) : List Nat :=
  (((Tab.vals s.requests).filter fun r => r.part == p && r.state != .done).map Request.client).eraseDups

/-- A client gets a request: one that had none banks no credit. -/
def joinIdle (s : State) (p c : Nat) : State :=
  let cs := activeClients s p
  if cs.contains c then s
  else match leastOf (cs.map (servedOf s p)) with
    | some m => s.setRun p { s.partRun p with served := Tab.put (s.partRun p).served c (max (servedOf s p c) m) }
    | none => s

/-! The sequence commands (07 R164 to R170). -/

def sqSlot (d : List Byte) : Nat := leAt d 32 4
def sqLen (d : List Byte) : Nat := leAt d 36 4
def sqAddr (d : List Byte) : Nat := leAt d 40 8
def sqOut (d : List Byte) : Nat := leAt d 48 8
def sqMax (d : List Byte) : Nat := leAt d 56 4
def sqTemp (d : List Byte) : Word32 := BitVec.ofNat 32 (leAt d 64 4)
def sqTopP (d : List Byte) : Word32 := BitVec.ofNat 32 (leAt d 68 4)
def sqSeed (d : List Byte) : Nat := leAt d 72 8
def sqProgress (d : List Byte) : Nat := leAt d 96 8
def saProgress (d : List Byte) : Nat := leAt d 64 8

/-- The temperature is 0.0 or positive and finite. -/
def temperatureOk (w : Word32) : Bool := zero32 w || (!w.msb && finite32 w)

/-- top_p is 0 or in (0, 1]. -/
def topPOk (w : Word32) : Bool := zero32 w || ((XR.nat 0).lt (f32 w) && (f32 w).le (XR.nat 1))

/-- The plan of a sequence command has the slot. -/
def hasSlot (pl : Plan) (d : List Byte) : Bool := hKind pl.image == 1 && sqSlot d < fEntries pl.image

/-- The host ranges of a sequence command lie in its function's windows: tokens in, tokens out, progress record. -/
def sqWindows (s : State) (f : Nat) (d : List Byte) (progress : Nat) : Bool :=
  inWindows s f (sqAddr d) (4 * sqLen d) && inWindows s f (sqOut d) (4 * sqMax d) && (progress == 0 || inWindows s f progress 16)

/-- The checks of SEQ_SUBMIT but for the tokens (R165). -/
def submitStatus (s : State) (c : Cmd) : Option Nat :=
  let d := c.desc
  if sqLen d = 0 && sqMax d = 0 then some stOk
  else match s.plan (dPart d) (dHandle d) with
  | none => some stNoPlan
  | some pl =>
    firstOf [
      need (!pl.damaged) stEndedData,
      need (hasSlot pl d && (s.request (dPart d) (dHandle d) (sqSlot d)).isNone && sqLen d != 0
        && sqLen d ≤ vContext pl.image && sqAddr d % 64 == 0 && sqOut d % 64 == 0 && sqProgress d % 16 == 0
        && temperatureOk (sqTemp d) && topPOk (sqTopP d)) stBadDesc,
      need (sqWindows s c.fn d (sqProgress d)) stDenied]

/-- The checks of SEQ_APPEND but for the tokens (R169). -/
def appendStatus (s : State) (c : Cmd) : Option Nat :=
  let d := c.desc
  if sqLen d = 0 && sqMax d = 0 then some stOk
  else match s.plan (dPart d) (dHandle d) with
  | none => some stNoPlan
  | some pl =>
    firstOf [
      need (!pl.damaged) stEndedData,
      need (hasSlot pl d && (s.request (dPart d) (dHandle d) (sqSlot d)).isSome && sqAddr d % 64 == 0 && sqOut d % 64 == 0
        && saProgress d % 16 == 0) stBadDesc,
      need (sqWindows s c.fn d (saProgress d)) stDenied]

/-- The tokens of a sequence command. -/
def tokensOf (bs : List Byte) (n : Nat) : List Nat := (List.range n).map fun k => leAt bs (4 * k) 4

/-- The tokens a command brings, once read; none: the read failed or a token is not below vocab, and the command has
completed. -/
def readTokens (s : State) (c : Cmd) (env : Env) : State × Option (List Nat) :=
  let d := c.desc
  if sqLen d != 0 && !env.hostOk then (hostReadFailed s c, none)
  else
    let g := hostRead s (sqAddr d) (4 * sqLen d)
    let toks := tokensOf g.1 (sqLen d)
    let vocab := match s.plan (dPart d) (dHandle d) with | some pl => vVocab pl.image | none => 0
    if toks.all fun t => t < vocab then (g.2, some toks) else (refuse g.2 c stBadDesc, none)

/-- A request enters QUEUED with the next admit_order; its client joins. -/
def enqueue (s : State) (r : Request) : State :=
  let s1 := joinIdle s r.part r.client
  let run := s1.partRun r.part
  (s1.setRun r.part { run with admitNext := (run.admitNext + 1) % 2 ^ 32 }).setRequest { r with state := .queued, admitOrder := run.admitNext }

/-- The request that a SEQ_SUBMIT makes. -/
def submitted (c : Cmd) (toks : List Nat) (seed : Word64) : Request :=
  let d := c.desc
  { state := .queued, priority := bitsOf (leAt d 60 1) 0 3, retain := bitOf (leAt d 60 1) 3, endOnPark := bitOf (leAt d 60 1) 4,
    part := dPart d, plan := dHandle d, slot := sqSlot d, log := toks, maxNew := sqMax d, seed := seed, outAddr := sqOut d,
    progressAddr := sqProgress d, admitOrder := 0, client := dClient d, fn := c.fn, cmd := some c.id, topK := leAt d 62 2,
    temperature := sqTemp d, topP := sqTopP d, stop := (List.range 4).map fun k => leAt d (80 + 4 * k) 4 }

/-- The command is accepted as far as fences go (14 R314). -/
def acceptCmd (s : State) (c : Cmd) : State := s.setCmd { c with state := .accepted }

/-- SEQ_SUBMIT when it starts. -/
def runSeqSubmit (s : State) (c : Cmd) (env : Env) : State :=
  match submitStatus s c with
  | some st => finish s c st
  | none =>
    let t := chargeCmd s c env.charge
    let r := readTokens t.1 t.2 env
    match r.2 with
    | none => r.1
    | some toks =>
      match (if sqSeed c.desc = 0 then drawSeed r.1 else some (BitVec.ofNat 64 (sqSeed c.desc), r.1)) with
      | none => finish r.1 t.2 stDenied
      | some (seed, s1) => enqueue (acceptCmd s1 t.2) (submitted c toks seed)

/-- SEQ_SUBMIT (07 R164, R165). -/
def execSeqSubmit (f q : Nat) (env : Env) (s : State) : Host.Outcome State Fault Refusal :=
  .next (takeRow 0x0030 f q env noEarly runSeqSubmit s)

/-- The request as an append that applies leaves it: in QUEUED it holds no page (R163), and its admission looks its whole log up
(R159). -/
def Request.appended (r : Request) (c : Cmd) (toks : List Nat) (held : List (Nat × List Nat)) : Request :=
  let d := c.desc
  let log := r.log ++ toks
  let bare := r.bare
  { bare with log := log, generated := 0, maxNew := sqMax d, outAddr := sqOut d, progressAddr := saProgress d,
              client := dClient d, fn := c.fn, cmd := some c.id, held := held }

/-- The most tokens of a request's plan. -/
def contextOf (s : State) (r : Request) : Nat :=
  match s.plan r.part r.plan with | some pl => vContext pl.image | none => 0

/-- The held appends of a DONE request apply in order, until one does; one that is too long is refused. -/
def applyHeld : List (Nat × List Nat) → State → Request → State
  | [], s, r => s.setRequest { r with held := [] }
  | (id, toks) :: t, s, r =>
    match s.cmd id with
    | none => applyHeld t s r
    | some c =>
      if contextOf s r < r.log.length + toks.length then applyHeld t (finish s c stBadDesc) r
      else enqueue (releasePages s r) (r.appended c toks t)

/-- SEQ_APPEND when it starts. -/
def runSeqAppend (s : State) (c : Cmd) (env : Env) : State :=
  match appendStatus s c with
  | some st => finish s c st
  | none =>
    let t := chargeCmd s c env.charge
    let g := readTokens t.1 t.2 env
    match g.2, s.request (dPart c.desc) (dHandle c.desc) (sqSlot c.desc) with
    | some toks, some r =>
      let s1 := acceptCmd g.1 t.2
      if r.state = .done && r.held.isEmpty then applyHeld [(c.id, toks)] s1 r
      else s1.setRequest { r with held := r.held ++ [(c.id, toks)] }
    | _, _ => g.1

/-- SEQ_APPEND (07 R169). -/
def execSeqAppend (f q : Nat) (env : Env) (s : State) : Host.Outcome State Fault Refusal :=
  .next (takeRow 0x0031 f q env noEarly runSeqAppend s)

/-- SEQ_RELEASE when it starts. -/
def runSeqRelease (s : State) (c : Cmd) (env : Env) : State :=
  let d := c.desc
  match s.plan (dPart d) (dHandle d) with
  | none => finish s c stNoPlan
  | some pl =>
    if !hasSlot pl d then finish s c stBadDesc
    else
      let t := chargeCmd s c env.charge
      match t.1.request (dPart d) (dHandle d) (sqSlot d) with
      | none => finish t.1 t.2 stOk
      | some r =>
        if inStep t.1 r then t.1.setRequest { r with releases := r.releases ++ [c.id] }
        else finishId (endRequest t.1 r stCancelled 6) c.id stOk

/-- SEQ_RELEASE (07 R170). -/
def execSeqRelease (f q : Nat) (env : Env) (s : State) : Host.Outcome State Fault Refusal :=
  .next (takeRow 0x0032 f q env noEarly runSeqRelease s)

/-! Forming a step (15 R335). -/

/-- A step being formed: the machine, room left, parts in row order, slots considered in the round, whether the round took a
chunk, whether pages were found short. -/
structure Forming where
  s : State
  p : Nat
  h : Nat
  room : Nat
  parts : List StepPart := []
  seen : List Nat := []
  took : Bool := false
  short : Bool := false

/-- The requests of the plan. -/
def Forming.requests (f : Forming) : List Request := planRequests f.s f.p f.h

/-- Tokens taken for a client so far. -/
def Forming.taken (f : Forming) (c : Nat) : Nat := ((f.parts.filter fun q => q.client == c).map StepPart.count).sum

/-- Positions of a request taken as chunks so far. -/
def Forming.given (f : Forming) (r : Request) : Nat := ((f.parts.filter fun q => q.slot == r.slot).map StepPart.count).sum

/-- Client c is served before client d (R336). -/
def Forming.fairer (f : Forming) (c d : Nat) : Bool :=
  let a := (servedOf f.s f.p c + f.taken c) * clientWeight f.s d
  let b := (servedOf f.s f.p d + f.taken d) * clientWeight f.s c
  a < b || (a == b && c < d)

/-- The client of some requests whose turn it is. -/
def Forming.fairNext (f : Forming) (rs : List Request) : Option Nat :=
  rs.foldl (fun b r => match b with
    | some c => if f.fairer r.client c then some r.client else b
    | none => some r.client) none

/-- The request of a client that comes first by an order. -/
def firstBy (before : Request → Request → Bool) (c : Nat) (rs : List Request) : Option Request :=
  (rs.filter fun r => r.client == c).foldl (fun b r => match b with
    | some x => if before r x then some r else b
    | none => some r) none

/-- Served least recently, then lowest admit_order. -/
def servedBefore (a b : Request) : Bool := if a.lastStep != b.lastStep then a.lastStep < b.lastStep else a.admitOrder < b.admitOrder

/-- Lowest admit_order. -/
def admittedBefore (a b : Request) : Bool := a.admitOrder < b.admitOrder

/-- DECODE requests without a row. -/
def Forming.decoding (f : Forming) : List Request :=
  f.requests.filter fun r => r.state == .decode && f.given r == 0

/-- Decode rows at one priority. Fuel: the requests. -/
def takeDecode (pr : Nat) : Nat → Forming → Forming
  | 0, f => f
  | n + 1, f =>
    let rs := f.decoding.filter fun r => r.priority == pr
    match f.room, f.fairNext rs with
    | room + 1, some c =>
      match firstBy servedBefore c rs with
      | some r =>
        let q : StepPart := { slot := r.slot, client := c, first := r.computed, count := 1, decode := true }
        takeDecode pr n { f with room := room, parts := f.parts ++ [q] }
      | none => f
    | _, _ => f

/-- Priorities, highest first. -/
def priorities : List Nat := (List.range 8).reverse

/-- The requests of the step. -/
def Forming.rows (f : Forming) : List Request := f.requests.filter fun r => f.parts.any fun q => q.slot == r.slot

/-- New pages that the step's requests need. -/
def Forming.needs (f : Forming) : Nat := (f.rows.map fun r => pagesFor (r.computed + f.given r) - r.pages.length).sum

/-- The requests of the step get their pages. -/
def Forming.grow (f : Forming) : Forming :=
  { f with s := f.rows.foldl (fun s r => match s.request f.p f.h r.slot with
      | some r' => growPages s r' (pagesFor (r.computed + f.given r))
      | none => s) f.s }

/-- Requests are parked until the decode rows have their pages (07 R174). Fuel: the requests. -/
def parkForRows : Nat → Forming → Forming
  | 0, f => f
  | n + 1, f =>
    if f.needs ≤ pagesLeft f.s f.p f.h then f
    else match victim f.s f.p f.h with
      | some r => parkForRows n { f with s := parkRequest f.s r, parts := f.parts.filter fun q => q.slot != r.slot, short := true }
      | none => f

/-- Requests with positions left to compute that the round has not considered. -/
def Forming.candidates (f : Forming) (pr : Nat) : List Request :=
  f.requests.filter fun r => r.priority == pr && r.state != .decode && r.state != .done && !f.seen.contains r.slot
    && r.computed + f.given r < r.log.length

/-- The next chunk of a request: first position and count. -/
def Forming.chunk (f : Forming) (r : Request) : Nat × Nat :=
  let a := r.computed + f.given r
  (a, min 256 (r.log.length - a))

/-- A chunk is taken where it fits the room left and its pages can be found; else it is left out (R335, 07 R174). -/
def Forming.addChunk (f : Forming) (r : Request) (tight : Bool) : Forming :=
  let c := f.chunk r
  let more := pagesFor (c.1 + c.2) - r.pages.length
  if f.room < c.2 then f
  else if pagesLeft f.s f.p f.h < more || (tight && more != 0) then { f with short := true }
  else
    let q : StepPart := { slot := r.slot, client := r.client, first := c.1, count := c.2, decode := false }
    { f with s := growPages f.s r (pagesFor (c.1 + c.2)), room := f.room - c.2, parts := f.parts ++ [q], took := true }

/-- The pages of a request's next chunk can be found (R335, 07 R174, R175), before any lookup. -/
def Forming.findsPages (f : Forming) (r : Request) (tight : Bool) : Bool :=
  let c := f.chunk r
  let left := pagesLeft f.s f.p f.h
  let more := pagesFor (c.1 + c.2) - r.pages.length
  if r.state = .parked then !tight && pagesFor (r.log.length + 1) ≤ left else more ≤ left && (more == 0 || !tight)

/-- One request is considered in a round. -/
def Forming.consider (f : Forming) (pl : Plan) (r : Request) (tight : Bool) : Forming :=
  let g := { f with seen := r.slot :: f.seen }
  if f.room < (f.chunk r).2 then g
  else if !f.findsPages r tight then { g with short := true }
  else if r.state = .prefill then g.addChunk r tight
  else
    let t := admitRequest f.s ((f.s.plan f.p f.h).getD pl) r
    { g with s := t.1 }.addChunk t.2 tight

/-- The candidates of one priority in one round. Fuel: the requests. -/
def considerAll (pl : Plan) (tight : Bool) (pr : Nat) : Nat → Forming → Forming
  | 0, f => f
  | n + 1, f =>
    let rs := f.candidates pr
    match f.fairNext rs with
    | some c => match firstBy admittedBefore c rs with
      | some r => considerAll pl tight pr n (f.consider pl r tight)
      | none => f
    | none => f

/-- Rounds of chunks until a round takes none or the room is used. Fuel: the room. -/
def chunkRounds (pl : Plan) (tight : Bool) : Nat → Forming → Forming
  | 0, f => f
  | n + 1, f =>
    let g := priorities.foldl (fun f pr => considerAll pl tight pr f.requests.length f) { f with seen := [], took := false }
    if !g.took || g.room = 0 then g else chunkRounds pl tight n g

/-- A step formed once. -/
def formOnce (s : State) (p h : Nat) (pl : Plan) (budget : Nat) : Forming :=
  let f0 : Forming := { s := s, p := p, h := h, room := budget }
  let f1 := priorities.foldl (fun f pr => takeDecode pr f.requests.length f) f0
  let left := !f1.decoding.isEmpty
  let f2 := (parkForRows f1.requests.length f1).grow
  if left then f2 else chunkRounds pl f2.short budget f2

/-- A step is formed; where no request finds its pages, one is parked and the forming begins anew (07 R174). Fuel: the
requests. -/
def formStep (p h : Nat) (pl : Plan) (budget : Nat) : Nat → State → Forming
  | 0, s => formOnce s p h pl budget
  | n + 1, s =>
    let f := formOnce s p h pl budget
    if f.parts.isEmpty && f.short then
      match victim f.s p h with
      | some r => formStep p h pl budget n (parkRequest f.s r)
      | none => f
    else f

/-- A job's operations are all to run again (R334). -/
def Job.stepAfresh (j : Job) : Job := { j with done := [], execs := [], marks := [] }

/-- The formed step runs. -/
def beginStep (f : Forming) : State :=
  let run := f.s.partRun f.p
  if f.parts.isEmpty then f.s
  else f.s.setRun f.p { run with job := run.job.map Job.stepAfresh,
                                 step := some { parts := f.parts, startedAt := f.s.now } }

/-- The token budget of a partition (R331). -/
def tokenBudget (s : State) (p : Nat) : Nat := match Tab.find s.parts p with | some q => q.budget | none => 8192

/-- SERVING_STEP_FORM (15 R334, R335). -/
def execServingStepForm (p : Nat) (s : State) : Host.Outcome State Fault Refusal :=
  .next (
    let run := s.partRun p
    match workOf s p with
    | none => s
    | some w =>
      if works s && w.j.serving && run.step.isNone && !switchWaits s p && run.halt == .none && !run.halted && !w.pl.damaged then
        beginStep (formStep p w.j.handle w.pl (tokenBudget s p) (planRequests s p w.j.handle).length s)
      else s)

/-! Sampling (07 R167). -/

/-- A value, NaN counting as −∞. -/
def asLogit (w : Word32) : XR := match f32 w with | .nan => .inf true | x => x

/-- The lowest identifier with the largest value. -/
def greatest (z : List XR) : Nat :=
  (z.zipIdx.foldl (fun (b : Option (XR × Nat)) e => match b with
    | some x => if x.1.lt e.1 then some e else b
    | none => some e) none).elim 0 Prod.snd

/-- An identifier takes its place in a list by value descending, before those of the same value. -/
def placeDown (v : Nat × Word32) : List (Nat × Word32) → List (Nat × Word32)
  | [] => [v]
  | w :: t => if (asLogit v.2).lt (asLogit w.2) then w :: placeDown v t else v :: w :: t

/-- Identifiers by value descending, the lower identifier first on ties. -/
def orderDown (xs : List Word32) : List (Nat × Word32) := (xs.zipIdx.map fun e => (e.2, e.1)).foldr placeDown []

/-- Running sums, each rounded. -/
def runningSums : Word32 → List Word32 → List Word32
  | _, [] => []
  | c, p :: ps => let c' := fadd c p; c' :: runningSums c' ps

/-- The place of the first element that holds, plus one; all of them if none. -/
def cutAt (ok : Word32 → Bool) (xs : List Word32) : Nat := match xs.findIdx? ok with | some k => k + 1 | none => xs.length

/-- A token drawn from candidates in order, with their probabilities; d is the lane draw. -/
def drawToken (order : List Nat) (ps : List Word32) (topP : Word32) (d : BitVec 128) : Nat :=
  let limit : Word32 := if zero32 topP then 0x3F800000 else topP
  let cut := cutAt (fun c => (f32 limit).le (f32 c)) (runningSums fzero ps)
  let cum := runningSums fzero (ps.take cut)
  let target := rne32 ((XR.fin false (topBits d 24) (-24)).mul (f32 (cum.getLastD fzero)))
  order.getD (match cum.findIdx? fun c => (f32 target).lt (f32 c) with | some k => k | none => cut - 1) 0

/-- The token chosen from logits z for position n of a request, none where every logit is −∞ or NaN, and what the special-function
unit delivered for it. -/
def sampleToken (u : SfUnit) (r : Request) (z : List Word32) (n : Nat) : Option Nat × Tally :=
  let v := z.map asLogit
  if v.all fun x => x == .inf true then (none, {})
  else if r.temperature &&& 0x7F800000 = 0 then (some (greatest v), {})
  else
    let rt := u.call 5 r.temperature
    let x := z.map fun w => let y := fmul (if f32 w == .nan then fninf else w) rt.1; if f32 y == .nan then fninf else y
    if x.any fun w => f32 w == .inf false then (some (greatest v), tallyOf [rt])
    else
      let order := orderDown x
      let kept := if r.topK = 0 then order else order.take r.topK
      let d := seedDraw r.seed (BitVec.ofNat 64 n) 2 0
      let p := softmaxRow u (kept.map Prod.snd)
      (some (drawToken (kept.map Prod.fst) p.1 r.topP d), (tallyOf [rt]).add p.2)

/-- The row of the step that holds the last position of a request. -/
def Work.lastRow (w : Work) (r : Request) : Nat :=
  (w.owners.findIdx? fun q => q.slot == r.slot && q.pos + 1 == r.log.length).getD 0

/-- The logits of a request's next token: its last row of the results that are the vocabulary's logits (R167, log 8). -/
def logitsOf (w : Work) (r : Request) : List Word32 :=
  w.rowValues (opAt w.pl.image (Config.logitOp w.pl.image)).output (w.lastRow r) (vVocab w.pl.image)

/-! The end of a step. -/

/-- A request reaches DONE (07 R163, R166, R168): its record, its completion; a retained one keeps its pages and takes the next
held append. -/
def completeRequest (s : State) (r : Request) (reason : Nat) : State :=
  let s1 := writeProgress s r 5 reason
  if progressBarred s r then endRequest s r stDenied 0
  else if r.retain then
    let r1 := { r with state := .done, cmd := none }
    let s2 := s1.setRequest r1
    applyHeld r.held (match r.cmd with | some id => finishId s2 id stOk | none => s2) r1
  else closeRequest s1 r stOk

/-- Why a request with this newest token is DONE (R168), if it is. -/
def stopReason (context : Nat) (r : Request) (tok : Nat) : Option Nat :=
  if r.stop.contains tok then some 2
  else if r.generated = r.maxNew then some 1
  else if r.log.length = context then some 3
  else none

/-- A token is reported (R166): the token, then the record. A write outside the windows ends the command (14 R306). -/
def reportToken (s : State) (r : Request) (tok context : Nat) : State :=
  let a := r.outAddr + 4 * (r.generated - 1)
  if r.cmd.isSome && !inWindows s r.fn a 4 then endRequest s r stDenied 0
  else
    let s1 := if r.cmd.isSome then hostWrite s a (toLe 4 tok) else s
    match stopReason context r tok with
    | some reason => completeRequest s1 r reason
    | none =>
      if progressBarred s1 r then endRequest s1 r stDenied 0
      else (writeProgress s1 r 3 0).setRequest { r with state := .decode }

/-- A request whose every position is in pages goes on: it is DONE without a token, or its next token is sampled from its logits
z with the tables of basin b. The token log has room for max_context tokens (R154); a token beyond it is reported and not kept
(log 83). -/
def produce (s : State) (pl : Plan) (b : Nat) (z : List Word32) (r : Request) : State :=
  if r.maxNew = 0 then completeRequest s r 4
  else
    let t := sampleToken { bank := (s.basin b).sfu.bank, f2 := false } r z r.log.length
    let s1 := countSfu s b t.2.results 0 t.2.bad
    match t.1 with
    | some tok =>
      reportToken s1 { r with log := (r.log ++ [tok]).take (vContext pl.image), generated := r.generated + 1 } tok
        (vContext pl.image)
    | none =>
      endRequest (raiseEvent s1 evSampleNonfinite srcSched r.part (toLe 4 r.plan ++ toLe 4 r.slot ++ toLe 4 r.log.length)) r
        stEndedData 5

/-- The slots of a step in row order. -/
def ServeStep.slots (t : ServeStep) : List Nat := (t.parts.map StepPart.slot).eraseDups

/-- Tokens of a slot in a step. -/
def ServeStep.tokens (t : ServeStep) (slot : Nat) : Nat := ((t.parts.filter fun q => q.slot == slot).map StepPart.count).sum

/-- The request of a slot ended during the step. -/
def ServeStep.isOver (t : ServeStep) (slot : Nat) : Bool := t.ended.any fun e => e.1 == slot && e.2 < 65536

/-- Operations that escalated for a slot in the step (03 R69). -/
def ServeStep.escalated (t : ServeStep) (slot : Nat) : List Nat :=
  t.ended.filterMap fun e => if e.1 == slot && 65536 ≤ e.2 then some (e.2 - 65536) else none

/-- A request escalates: its set grows, it gives up its pages and waits in PARKED; its token is not reported. -/
def escalateRequest (s : State) (r : Request) (ops : List Nat) : State :=
  (releasePages s r).setRequest { r.bare with state := .parked, escalation := r.escalation ++ ops }

/-- What a completed step, whose work is w, does for the request of one slot. -/
def endSlot (w : Work) (t : ServeStep) (s : State) (slot : Nat) : State :=
  if t.isOver slot then s
  else match s.request w.p w.pl.handle slot with
    | none => s
    | some r =>
      let r1 := { r with lastStep := (s.partRun w.p).steps.toNat + 1 }
      let ops := t.escalated slot
      if !ops.isEmpty then escalateRequest s r1 ops
      else
        let a := advancePages s w.pl r1 (r.computed + t.tokens slot)
        if a.2.computed = a.2.log.length then produce a.1 w.pl ((leadBasin a.1 w.p).getD 0) (logitsOf w r) a.2 else a.1

/-- A share of a charge, rounded down. -/
def shareOf (c : Charge) (n total : Nat) : Charge :=
  { engine := c.engine.map fun v => v * n / total, bytes := c.bytes.map fun v => v * n / total, energy := c.energy * n / total }

/-- One charge less others. -/
def restOf (c : Charge) (cs : List Charge) : Charge :=
  { engine := c.engine.zipIdx.map fun e => e.1 - (cs.map fun d => d.engine.getD e.2 0).sum
    bytes := c.bytes.zipIdx.map fun e => e.1 - (cs.map fun d => d.bytes.getD e.2 0).sum
    energy := c.energy - (cs.map Charge.energy).sum }

/-- The slot with the most tokens in the step, lowest on ties. -/
def ServeStep.top (t : ServeStep) : Nat :=
  (t.slots.foldl (fun b k => match b with
    | some x => if t.tokens x < t.tokens k || (t.tokens x == t.tokens k && k < x) then some k else b
    | none => some k) none).getD 0

/-- A slot's share of the step's cost goes to its client, and to its open command (R342). -/
def chargeSlot (t : ServeStep) (p h : Nat) (s : State) (slot : Nat) (ch : Charge) : State :=
  let r := if t.isOver slot then none else s.request p h slot
  match r.bind fun q => q.cmd.bind s.cmd with
  | some c => (chargeCmd s c ch).1
  | none => match t.parts.find? fun q => q.slot == slot with
    | some q => chargeClient s q.client ch
    | none => s

/-- The step's cost is divided among its requests (R342). -/
def chargeStep (t : ServeStep) (p h : Nat) (ch : Charge) (s : State) : State :=
  let total := max 1 ((t.parts.map StepPart.count).sum)
  let shares := t.slots.map fun k => (k, shareOf ch (t.tokens k) total)
  let s1 := shares.foldl (fun s e => chargeSlot t p h s e.1 e.2) s
  chargeSlot t p h s1 t.top (restOf ch (shares.map Prod.snd))

/-- Served counts rise by what the step took for each client (R336). -/
def serveClients (t : ServeStep) (served : Tab Nat) : Tab Nat :=
  t.parts.foldl (fun m q => Tab.put m q.client (Tab.get m q.client 0 + q.count)) served

/-- The partition's counters after a step (R344); the job's operations are to run again. -/
def PartRun.stepped (r : PartRun) (t : ServeStep) (now : Nat) : PartRun :=
  let rows := (t.parts.filter StepPart.decode).length
  { r with step := none, job := r.job.map Job.stepAfresh, served := serveClients t r.served, steps := satAdd r.steps 1,
           decodeTokens := satAdd r.decodeTokens rows,
           prefillTokens := satAdd r.prefillTokens ((t.parts.map StepPart.count).sum - rows),
           lastStepNs := BitVec.ofNat 32 (satNat 32 (now - t.startedAt)) }

/-- A step completes: charges, tokens, counts, and the releases that waited (07 R170). -/
def endStep (w : Work) (t : ServeStep) (ch : Charge) : State :=
  let h := w.j.handle
  let s1 := chargeStep t w.p h ch w.s
  let s2 := t.slots.foldl (endSlot w t) s1
  settleReleases (s2.setRun w.p ((s2.partRun w.p).stepped t s2.now)) w.p h

/-- SERVING_STEP_END (07 R166, 15 R335, R336, R342): every operation of the plan has run once. -/
def execServingStepEnd (p : Nat) (env : Env) (s : State) : Host.Outcome State Fault Refusal :=
  .next (
    match workOf s p, (s.partRun p).step with
    | some w, some t =>
      if !(works s && w.j.serving && !(s.partRun p).halt.isRestart && w.j.execs.isEmpty && allRun w.pl.image w.j) then s
      else if env.fault then faultFrom s (leadSource s p) p
      else
        let r := tierStatus s p env.tier
        match r.2 with
        | some st => dataError r.1 p st none
        | none => endStep { w with s := r.1 } t env.charge
    | _, _ => s)

end Sys2Proof.Machine
end

