-- ==== Sys2Proof/Machine/Tables.lean ====
section
/-! DEFINITION. Sys2Proof/Machine/Tables.lean: loading a table bank and switching to it (05 R117 to R121). -/

namespace Sys2Proof.Machine

def tlBank (d : List Byte) : Nat := bitsOf (leAt d 32 1) 0 2
def tlHbm (d : List Byte) : Bool := bitOf (leAt d 32 1) 2
def tlMask (d : List Byte) : Nat := leAt d 34 2
def tlSrc (d : List Byte) : Nat := leAt d 40 8
def tlDigest (d : List Byte) : List Byte := slice d 48 32

/-- The checks of R119 that need no source data. -/
def tableStatus (s : State) (c : Cmd) : Option Nat :=
  let d := c.desc
  if tlBank d = 3 then some stBadDesc
  else if tlMask d = 0 then some stOk
  else if (tlBank d != 2 && (liveBasins s (dPart d)).any fun b => (s.basin b).sfu.active == (tlBank d == 1))
      || tlSrc d % 4096 != 0 then some stBadDesc
  else if (if tlHbm d then !inQuota s (dPart d) (tlSrc d) 32768 else !inWindows s c.fn (tlSrc d) 32768) then some stDenied
  else none

/-- The words of a bank after the load: the image's in the slots chosen, the active bank's in the others. -/
def newBank (mask : Nat) (image : List Byte) (active : TableBank) : List Word32 :=
  (List.range 8192).map fun i =>
    if bitOf mask (i / 512) then BitVec.ofNat 32 (leAt image (4 * i) 4) else bankWord active i

/-- A loaded slot holds a NaN or an infinity. -/
def badTable (mask : Nat) (image : List Byte) : Bool :=
  (List.range 8192).any fun i => bitOf mask (i / 512) && bitsOf (leAt image (4 * i) 4) 23 8 == 0xFF

/-- The inactive bank of a basin is being written (R120 step 1). -/
def writeBank (mask : Nat) (image : List Byte) (r : Sfu) : Sfu :=
  let t := TableBank.loaded (newBank mask image r.bank)
  if r.active then { r with bank0 := t, loadBusy := true } else { r with bank1 := t, loadBusy := true }

/-- A TABLE_LOAD has completed with ST_OK for a basin (R122). -/
def countLoad (r : Sfu) : Sfu := { r with loads := satAdd r.loads 1 }

/-- The SFU window of every live basin of a partition changes. -/
def onSfus (s : State) (p : Nat) (f : Sfu → Sfu) : State :=
  (liveBasins s p).foldl (fun s b => s.setBasin b { s.basin b with sfu := f (s.basin b).sfu }) s

/-- The checks on the image, then the inactive banks written. -/
def loadTables (s : State) (c : Cmd) (image : List Byte) : State :=
  let d := c.desc
  let p := dPart d
  let bs := liveBasins s p
  if badTable (tlMask d) image then refuse s c stBadFormat
  else if !allZero (tlDigest d)
      && bs.any fun b => sha3_256 (bankBytes (.loaded (newBank (tlMask d) image (s.basin b).sfu.bank))) != tlDigest d then
    finish s c stEndedData
  else
    let s1 := onSfus s p (writeBank (tlMask d) image)
    s1.setRun p { s1.partRun p with tableLoad := some c.id }

/-- TABLE_LOAD (R118 to R120): a second load of the partition waits for the first. -/
def runTableLoad (s : State) (c : Cmd) (env : Env) : State :=
  let d := c.desc
  let p := dPart d
  if (s.partRun p).tableLoad.isSome then s.setCmd { c with state := .waiting }
  else match tableStatus s c with
  | some st => finish (if st = stOk then onSfus s p countLoad else s) c st
  | none =>
    let t := chargeCmd s c env.charge
    if env.fault then finish (unitFault t.1 p (leadSource s p) env.tests) t.2 stJobFault
    else if tlHbm d then
      let r := tierStatus t.1 p env.tier
      match r.2 with
      | some st => finish r.1 t.2 st
      | none => let g := hbmGet r.1 p (tlSrc d) 32768; loadTables g.2 t.2 g.1
    else if !env.hostOk then hostReadFailed t.1 t.2
    else let g := hostRead t.1 (tlSrc d) 32768; loadTables g.2 t.2 g.1

/-- TABLE_LOAD. -/
def execTableLoad (f q : Nat) (env : Env) (s : State) : Host.Outcome State Fault Refusal :=
  .next (takeRow 0x0050 f q env noEarly runTableLoad s)

/-- A generation number after g (R117). -/
def nextGen (g : Word32) : Word32 := if g = 0xFFFFFFFF then 1 else g + 1

/-- The inactive bank is written (R120 step 2). -/
def Sfu.written (r : Sfu) : Sfu := if r.loadBusy then { r with loadBusy := false, switchPending := true } else r

/-- A basin's cores switch banks (R120 steps 3 and 4). -/
def switchBank (r : Sfu) : Sfu :=
  if r.switchPending then
    countLoad { r with active := !r.active, switchPending := false,
                       gen0 := if r.active then nextGen r.gen1 else r.gen0,
                       gen1 := if r.active then r.gen1 else nextGen r.gen0 }
  else r

/-- Partition p is at a job boundary (R120): no job, or a serving job between steps. -/
def atBoundary (s : State) (p : Nat) : Bool :=
  match (s.partRun p).job with
  | some j => j.serving && (s.partRun p).step.isNone
  | none => true

/-- TABLE_BANK_SWITCH (R120): the write that was going on is complete, and at a job boundary the cores switch. -/
def execTableBankSwitch (p : Nat) (s : State) : Host.Outcome State Fault Refusal :=
  .next (
    match (s.partRun p).tableLoad with
    | some id =>
      if works s && p < 10 then
        let s1 := onSfus s p Sfu.written
        if atBoundary s p then
          finishId ((onSfus s1 p switchBank).setRun p { (onSfus s1 p switchBank).partRun p with tableLoad := none }) id stOk
        else s1
      else s
    | none => s)

end Sys2Proof.Machine
end

