-- ==== Sys2Proof/Machine/Deferred.lean ====
section
/-! DEFINITION. Sys2Proof/Machine/Deferred.lean: commands that were taken earlier start (14 R314). -/

namespace Sys2Proof.Machine

/-- What an opcode does when its command starts (14 R320). -/
def runOf (o : Nat) : State → Cmd → Env → State :=
  match o with
  | 0x0010 => runPlanLoad
  | 0x0011 => runPlanUnload
  | 0x0020 => queueJob
  | 0x0021 => runJobPreempt
  | 0x0022 => runJobResume
  | 0x0023 => runJobCancel
  | 0x0024 => runCtxSave
  | 0x0025 => queueJob
  | 0x0030 => runSeqSubmit
  | 0x0031 => runSeqAppend
  | 0x0032 => runSeqRelease
  | 0x0040 => runCopy
  | 0x0050 => runTableLoad
  | 0x0060 => runCodecEncode
  | 0x0061 => runCodecDecode
  | 0x0070 => runResample
  | 0x0080 => runStoreRead
  | 0x0081 => runStoreWrite
  | 0x0082 => runStoreDelete
  | 0x0083 => runStoreList
  | 0x0090 => runBist
  | 0x0091 => runSnapshot
  | 0x00A0 => runAcctRead
  | 0x00B0 => runPartitionSet
  | _ => runNop

/-- DEFERRED_COMMAND_START (14 R314): the fence, the chain, the time and the commands it runs after let a waiting command start; a
resample command that waits for its units runs when they come to it (04 R91). -/
def execDeferredCommandStart (id : Nat) (env : Env) (s : State) : Host.Outcome State Fault Refusal :=
  .next (
    match s.cmd id with
    | some c =>
      if takesDescriptors s && c.state == .waiting && !orderWaits s c && !serialWaits s c then
        startCmd s c env (runOf (dOpcode c.desc))
      else if works s && c.state == .queued && resampleTurn s c then resampleNow s { c with state := .running } env
      else s
    | none => s)

end Sys2Proof.Machine
end

