-- ==== Sys2Proof/Machine/Dispatch.lean ====
section
/-! DEFINITION. Sys2Proof/Machine/Dispatch.lean: one arm per command, each one call of its meaning. -/

namespace Sys2Proof.Machine

/-- The effect of a command on everything but the queue. -/
def exec (i : Instr) (s : State) : Host.Outcome State Fault Refusal :=
  match i with
  | .nop f q env => Sys2Proof.Machine.execNop f q env s
  | .planLoad f q env => Sys2Proof.Machine.execPlanLoad f q env s
  | .planUnload f q env => Sys2Proof.Machine.execPlanUnload f q env s
  | .jobStart f q env => Sys2Proof.Machine.execJobStart f q env s
  | .jobBegin p env => Sys2Proof.Machine.execJobBegin p env s
  | .jobPreempt f q env => Sys2Proof.Machine.execJobPreempt f q env s
  | .jobResume f q env => Sys2Proof.Machine.execJobResume f q env s
  | .jobCancel f q env => Sys2Proof.Machine.execJobCancel f q env s
  | .ctxSave f q env => Sys2Proof.Machine.execCtxSave f q env s
  | .ctxRestore f q env => Sys2Proof.Machine.execCtxRestore f q env s
  | .seqSubmit f q env => Sys2Proof.Machine.execSeqSubmit f q env s
  | .seqAppend f q env => Sys2Proof.Machine.execSeqAppend f q env s
  | .seqRelease f q env => Sys2Proof.Machine.execSeqRelease f q env s
  | .copy f q env => Sys2Proof.Machine.execCopy f q env s
  | .tableLoad f q env => Sys2Proof.Machine.execTableLoad f q env s
  | .codecEncode f q env => Sys2Proof.Machine.execCodecEncode f q env s
  | .codecDecode f q env => Sys2Proof.Machine.execCodecDecode f q env s
  | .resample f q env => Sys2Proof.Machine.execResample f q env s
  | .storeRead f q env => Sys2Proof.Machine.execStoreRead f q env s
  | .storeWrite f q env => Sys2Proof.Machine.execStoreWrite f q env s
  | .storeDelete f q env => Sys2Proof.Machine.execStoreDelete f q env s
  | .storeList f q env => Sys2Proof.Machine.execStoreList f q env s
  | .bistRun f q env => Sys2Proof.Machine.execBistRun f q env s
  | .snapshot f q env => Sys2Proof.Machine.execSnapshot f q env s
  | .acctRead f q env => Sys2Proof.Machine.execAcctRead f q env s
  | .partitionSet f q env => Sys2Proof.Machine.execPartitionSet f q env s
  | .deferredCommandStart id env => Sys2Proof.Machine.execDeferredCommandStart id env s
  | .descriptorReadFail f q => Sys2Proof.Machine.execDescriptorReadFail f q s
  | .sqTailDoorbell f q v => Sys2Proof.Machine.execSqTailDoorbell f q v s
  | .cqHeadDoorbell f q v => Sys2Proof.Machine.execCqHeadDoorbell f q v s
  | .sqCfgWrite f q acc v => Sys2Proof.Machine.execSqCfgWrite f q acc v s
  | .cqCfgWrite f q acc v => Sys2Proof.Machine.execCqCfgWrite f q acc v s
  | .irqHoldoffEnd f q ev => Sys2Proof.Machine.execIrqHoldoffEnd f q ev s
  | .evtCfgWrite f acc v => Sys2Proof.Machine.execEvtCfgWrite f acc v s
  | .evtHeadWrite f v => Sys2Proof.Machine.execEvtHeadWrite f v s
  | .eventWrite => Sys2Proof.Machine.execEventWrite s
  | .registerWrite f off acc v => Sys2Proof.Machine.execRegisterWrite f off acc v s
  | .halfReadLatch f off => Sys2Proof.Machine.execHalfReadLatch f off s
  | .acctDataRead f => Sys2Proof.Machine.execAcctDataRead f s
  | .bistMemRead f ue => Sys2Proof.Machine.execBistMemRead f ue s
  | .foreignRequest requester posted => Sys2Proof.Machine.execForeignRequest requester posted s
  | .pcieFlr f => Sys2Proof.Machine.execPcieFlr f s
  | .pcieHotReset => Sys2Proof.Machine.execPcieHotReset s
  | .pcieLinkLoss => Sys2Proof.Machine.execPcieLinkLoss s
  | .perstNAssert => Sys2Proof.Machine.execPerstNAssert s
  | .pwrGoodFall ns => Sys2Proof.Machine.execPwrGoodFall ns s
  | .resetRelease => Sys2Proof.Machine.execResetRelease s
  | .stage0Complete straps speed width flit => Sys2Proof.Machine.execStage0Complete straps speed width flit s
  | .stage1Complete media raw => Sys2Proof.Machine.execStage1Complete media raw s
  | .stage2Complete stacksOk logic memory => Sys2Proof.Machine.execStage2Complete stacksOk logic memory s
  | .stage3Complete trained => Sys2Proof.Machine.execStage3Complete trained s
  | .telWarmReset => Sys2Proof.Machine.execTelWarmReset s
  | .throttleAssert => Sys2Proof.Machine.execThrottleAssert s
  | .throttleRelease => Sys2Proof.Machine.execThrottleRelease s
  | .sysrefLoss ns => Sys2Proof.Machine.execSysrefLoss ns s
  | .powerSample mw rails => Sys2Proof.Machine.execPowerSample mw rails s
  | .powerRaise => Sys2Proof.Machine.execPowerRaise s
  | .thermalSample dies rates => Sys2Proof.Machine.execThermalSample dies rates s
  | .thermAlertAssert => Sys2Proof.Machine.execThermAlertAssert s
  | .mbRead path => Sys2Proof.Machine.execMbRead path s
  | .mbWrite path ok => Sys2Proof.Machine.execMbWrite path ok s
  | .mbTrainStack path ok => Sys2Proof.Machine.execMbTrainStack path ok s
  | .mbVersions path => Sys2Proof.Machine.execMbVersions path s
  | .jtagPinInstruction code => Sys2Proof.Machine.execJtagPinInstruction code s
  | .jtagPinRelease trst => Sys2Proof.Machine.execJtagPinRelease trst s
  | .jtagReadback off => Sys2Proof.Machine.execJtagReadback off s
  | .lcRequest v fuseOk => Sys2Proof.Machine.execLcRequest v fuseOk s
  | .bistGo v tests => Sys2Proof.Machine.execBistGo v tests s
  | .coreQuiesce p on => Sys2Proof.Machine.execCoreQuiesce p on s
  | .hbmTrain stack ok => Sys2Proof.Machine.execHbmTrain stack ok s
  | .hbmTgStart ch v => Sys2Proof.Machine.execHbmTgStart ch v s
  | .hbmTgStop ch => Sys2Proof.Machine.execHbmTgStop ch s
  | .hbmTgRunEnd ch faults lat => Sys2Proof.Machine.execHbmTgRunEnd ch faults lat s
  | .rngRetest raw => Sys2Proof.Machine.execRngRetest raw s
  | .laneTest v => Sys2Proof.Machine.execLaneTest v s
  | .mtcResync => Sys2Proof.Machine.execMtcResync s
  | .optEnable q on => Sys2Proof.Machine.execOptEnable q on s
  | .optRetrain q => Sys2Proof.Machine.execOptRetrain q s
  | .optFence q => Sys2Proof.Machine.execOptFence q s
  | .numClear b => Sys2Proof.Machine.execNumClear b s
  | .rsmClear b => Sys2Proof.Machine.execRsmClear b s
  | .sfuClear b => Sys2Proof.Machine.execSfuClear b s
  | .wrkClear b => Sys2Proof.Machine.execWrkClear b s
  | .attClear b => Sys2Proof.Machine.execAttClear b s
  | .mereClear b => Sys2Proof.Machine.execMereClear b s
  | .updClear b => Sys2Proof.Machine.execUpdClear b s
  | .cdcClear c => Sys2Proof.Machine.execCdcClear c s
  | .hifClear => Sys2Proof.Machine.execHifClear s
  | .schedClear => Sys2Proof.Machine.execSchedClear s
  | .acctClearAll => Sys2Proof.Machine.execAcctClearAll s
  | .flsClear => Sys2Proof.Machine.execFlsClear s
  | .telClear => Sys2Proof.Machine.execTelClear s
  | .secClear => Sys2Proof.Machine.execSecClear s
  | .rngClear => Sys2Proof.Machine.execRngClear s
  | .recoveryGo mode storeOk => Sys2Proof.Machine.execRecoveryGo mode storeOk s
  | .attestationGo kind hostOk => Sys2Proof.Machine.execAttestationGo kind hostOk s
  | .mctpAttestReport nonce => Sys2Proof.Machine.execMctpAttestReport nonce s
  | .mctpPublicKey => Sys2Proof.Machine.execMctpPublicKey s
  | .lcsTransition target hostOk fuseOk => Sys2Proof.Machine.execLcsTransition target hostOk fuseOk s
  | .lcsSlotFuse slot fuseOk => Sys2Proof.Machine.execLcsSlotFuse slot fuseOk s
  | .lcsSlotRevoke slot hostOk fuseOk => Sys2Proof.Machine.execLcsSlotRevoke slot hostOk fuseOk s
  | .operationOpen p op => Sys2Proof.Machine.execOperationOpen p op s
  | .stripFetch core op epoch => Sys2Proof.Machine.execStripFetch core op epoch s
  | .stripComputeDone core => Sys2Proof.Machine.execStripComputeDone core s
  | .commitRequest core p op strip epoch => Sys2Proof.Machine.execCommitRequest core p op strip epoch s
  | .stripCommitDone core p op strip epoch => Sys2Proof.Machine.execStripCommitDone core p op strip epoch s
  | .soundingCheck p op strip tile agree => Sys2Proof.Machine.execSoundingCheck p op strip tile agree s
  | .soundingArbitration p op strip tile second => Sys2Proof.Machine.execSoundingArbitration p op strip tile second s
  | .operationComplete p op env => Sys2Proof.Machine.execOperationComplete p op env s
  | .coreHeartbeat core => Sys2Proof.Machine.execCoreHeartbeat core s
  | .heartbeatTimeout core => Sys2Proof.Machine.execHeartbeatTimeout core s
  | .stripReissue core => Sys2Proof.Machine.execStripReissue core s
  | .deadCoreMessage core => Sys2Proof.Machine.execDeadCoreMessage core s
  | .logicFault unit => Sys2Proof.Machine.execLogicFault unit s
  | .fabricError source p => Sys2Proof.Machine.execFabricError source p s
  | .jobRestart p tested env => Sys2Proof.Machine.execJobRestart p tested env s
  | .servingStepForm p => Sys2Proof.Machine.execServingStepForm p s
  | .servingStepEnd p env => Sys2Proof.Machine.execServingStepEnd p env s
  | .preemptDrained p env => Sys2Proof.Machine.execPreemptDrained p env s
  | .ctxSaveWrite p env => Sys2Proof.Machine.execCtxSaveWrite p env s
  | .tableBankSwitch p => Sys2Proof.Machine.execTableBankSwitch p s
  | .codecWorkStart c env => Sys2Proof.Machine.execCodecWorkStart c env s
  | .codecFrameStart c frame => Sys2Proof.Machine.execCodecFrameStart c frame s
  | .tierRead p tile issued joined reads page => Sys2Proof.Machine.execTierRead p tile issued joined reads page s
  | .tierReadLate p tile atom issued page => Sys2Proof.Machine.execTierReadLate p tile atom issued page s
  | .mereScrub b addr byRead found => Sys2Proof.Machine.execMereScrub b addr byRead found s
  | .hbmPatrol stack reads onDie retries passDone => Sys2Proof.Machine.execHbmPatrol stack reads onDie retries passDone s
  | .hbmChannelTimeout stack ch => Sys2Proof.Machine.execHbmChannelTimeout stack ch s
  | .stackLost stack cause ch => Sys2Proof.Machine.execStackLost stack cause ch s
  | .laserLightLow q w power => Sys2Proof.Machine.execLaserLightLow q w power s
  | .optHello q hello => Sys2Proof.Machine.execOptHello q hello s
  | .linkDown q => Sys2Proof.Machine.execLinkDown q s
  | .retrainTimeout q => Sys2Proof.Machine.execRetrainTimeout q s
  | .dataFlitReceive q flit arrival => Sys2Proof.Machine.execDataFlitReceive q flit arrival s
  | .nakReceive q ack => Sys2Proof.Machine.execNakReceive q ack s
  | .censusReport dev peers => Sys2Proof.Machine.execCensusReport dev peers s
  | .censusClose byTime => Sys2Proof.Machine.execCensusClose byTime s
  | .censusReceive states mx my mz blocks byTime => Sys2Proof.Machine.execCensusReceive states mx my mz blocks byTime s
  | .timeWaveSend => Sys2Proof.Machine.execTimeWaveSend s
  | .timeWaveReceive q t1 t2 t3 t4 => Sys2Proof.Machine.execTimeWaveReceive q t1 t2 t3 t4 s
  | .readyMark mjob op chunk rank time => Sys2Proof.Machine.execReadyMark mjob op chunk rank time s
  | .startTimeReceive mjob op chunk start => Sys2Proof.Machine.execStartTimeReceive mjob op chunk start s
  | .collectiveChunkStart p op chunk => Sys2Proof.Machine.execCollectiveChunkStart p op chunk s
  | .collectiveTimeout p op chunk => Sys2Proof.Machine.execCollectiveTimeout p op chunk s
  | .peerAbort mjob => Sys2Proof.Machine.execPeerAbort mjob s
  | .springBlock raw => Sys2Proof.Machine.execSpringBlock raw s
  | .springRetry raw => Sys2Proof.Machine.execSpringRetry raw s
  | .journalProgram => Sys2Proof.Machine.execJournalProgram s
  | .flashPatrol reads refreshed wear passDone => Sys2Proof.Machine.execFlashPatrol reads refreshed wear passDone s
  | .accountUpdate shares unattributed total => Sys2Proof.Machine.execAccountUpdate shares unattributed total s
  | .pcieConfigWrite requester f vfEnable => Sys2Proof.Machine.execPcieConfigWrite requester f vfEnable s
  | .laserLightRestored q w power => Sys2Proof.Machine.execLaserLightRestored q w power s
  | .ackFlitReceive q ack => Sys2Proof.Machine.execAckFlitReceive q ack s
  | .creditFlitReceive q cls dateline n => Sys2Proof.Machine.execCreditFlitReceive q cls dateline n s
  | .sysrefRestored => Sys2Proof.Machine.execSysrefRestored s

end Sys2Proof.Machine
end

