-- ==== Sys2Proof/Safety.lean ====
section
/-! DEFINITION. Sys2Proof/Safety.lean: the terms in which claims about the TM40 are made: the invariant of its state, when a
descriptor command starts at once, and what it is for one to complete. -/

namespace Sys2Proof.Machine

/-- The numbers of open commands, and of those they and their rings are chained behind, have been given out: a new command has a
number of its own. -/
structure Numbered (s : State) : Prop where
  cmds : ∀ c ∈ s.cmds, c.id < s.nextId ∧ ∀ i, c.pred = some i → i < s.nextId
  rings : ∀ e ∈ s.sqs, ∀ i, e.2.chain = .after i → i < s.nextId

/-- The invariant: the host's memory, the stacked memory and the recovery window are in canonical form, the event log
keeps at most 1,024 events (19 R418), command numbers are in order, and there are four key slots (18 R387). -/
structure State.Inv (s : State) : Prop where
  host : Memory.wf s.host = true
  hbm : Memory.wf s.hbm = true
  window : Memory.wf s.sec.window = true
  log : s.evt.log.length ≤ 1024
  numbered : Numbered s
  slots : s.fuses.slots.length = 4

/-- The command that taking descriptor d at HEAD of ring q of function f makes. -/
def takenCmd (s : State) (f q : Nat) (d : List Byte) : Cmd := (takeHead s f q d).2

/-- That command once it runs. -/
def runningCmd (s : State) (f q : Nat) (d : List Byte) : Cmd := { takenCmd s f q d with state := .running }

/-- The machine when that command starts: its descriptor taken, the command running. -/
def startedState (s : State) (f q : Nat) (d : List Byte) : State := (takeHead s f q d).1.setCmd (runningCmd s f q d)

/-- Descriptor d, of this opcode, lies at HEAD of ring q of function f, and its command starts as soon as it is taken: it
passes the checks of the header (14 R319), no fence, chain (R314) or serial command (06 R130, 15 R333) holds it, and its time has come. -/
structure StartsNow (opcode : Nat) (s : State) (f q : Nat) (d : List Byte) : Prop where
  found : lookAt s f q = .found d
  opcode_eq : dOpcode d = opcode
  unbroken : (s.sq f q).chain ≠ .broken
  header : headerVerdict (takeHead s f q d).1 f d s.now = none
  order : orderWaits (takeHead s f q d).1 (takenCmd s f q d) = false
  serial : serialWaits (takeHead s f q d).1 (takenCmd s f q d) = false
  time : dNotBefore d ≤ s.now

/-- Where the next entry of the completion ring linked to ring q of function f goes (14 R315). -/
def nextEntry (s : State) (f q : Nat) : Nat :=
  let r := s.cq f (s.sq f q).cq.toNat
  r.base.toNat * 4096 + r.tail.toNat * 32

/-- The entry of the command of ring q's descriptor d can be written (14 R306). -/
def EntryFits (s : State) (f q : Nat) : Prop := inWindows s f (nextEntry s f q) 32 = true

/-- Address x is not among the 32 bytes of the next entry. -/
def NotInEntry (s : State) (f q x : Nat) : Prop := x < nextEntry s f q ∨ nextEntry s f q + 32 ≤ x

/-- In t the command of descriptor d, at HEAD of ring q of function f in s, is over with this status: the next place of its
completion ring holds an entry with its tag and the status (14 R325), and it is no longer open. -/
def CompletesWith (s t : State) (f q : Nat) (d : List Byte) (status : Nat) : Prop :=
  leNat (Mem.readN t.host (nextEntry s f q) 4) = dTag d
    ∧ leNat (Mem.readN t.host (nextEntry s f q + 4) 2) = status
    ∧ t.cmd s.nextId = none

/-- The device is in service: full function has been reached and it has not failed (17 R373). -/
def InService (s : State) : Prop := fullFunction s = true

/-- The EV_RING_ERROR of a submission ring (14 R311, R317, 19 R419). -/
def ringErrorEvent (s : State) (f q cause : Nat) : Event :=
  { mtc := s.now, source := srcPcie, code := evRingError, part := 0xF,
    detail := toLe 1 f ++ toLe 1 q ++ toLe 1 0 ++ toLe 1 cause, fn := some f }

/-- Everything that neither the command path nor the accounts hold is the same in t as in s. -/
structure Untouched (s t : State) : Prop where
  pending : t.pending = s.pending
  run : t.run = s.run
  hbm : t.hbm = s.hbm
  tel : t.tel = s.tel
  mtc : t.mtc = s.mtc
  census : t.census = s.census
  ports : t.ports = s.ports
  cores : t.cores = s.cores
  basins : t.basins = s.basins
  hbmStacks : t.hbmStacks = s.hbmStacks
  tgs : t.tgs = s.tgs
  parts : t.parts = s.parts
  runs : t.runs = s.runs
  plans : t.plans = s.plans
  requests : t.requests = s.requests
  nodes : t.nodes = s.nodes
  codecs : t.codecs = s.codecs
  rng : t.rng = s.rng
  fls : t.fls = s.fls
  medium : t.medium = s.medium
  sec : t.sec = s.sec
  fuses : t.fuses = s.fuses
  bist : t.bist = s.bist
  evt : t.evt = s.evt
  mgt : t.mgt = s.mgt
  jtag : t.jtag = s.jtag

/-- The machine as a cold or warm reset leaves it before the reset's own marks: every field at its reset value but for the
fuses, the flash medium, the host's memory, the JTAG port, THROTTLE_N and the model's own counters (17 R376). -/
def keptByReset (s : State) : State :=
  { State.reset with
    pending := s.pending, free := s.free, nextId := s.nextId, host := s.host, medium := settleMedium s,
    fuses := s.fuses, jtag := s.jtag, run := { State.reset.run with throttleIn := s.run.throttleIn } }

/-- The machine a warm reset of this cause leaves (17 R376 to R378): straps, HBM.STATUS and FAILED stay too, and the start
runs from step 1. -/
def afterWarm (s : State) (cause : BitVec 3) : State :=
  { keptByReset s with
    hbmStacks := keepStacks s.hbmStacks
    run := { (keptByReset s).run with
      phase := .boot, lastCause := cause, pwrGood := s.run.pwrGood, perst := s.run.perst, straps := s.run.straps,
      warmStart := true, failed := s.run.failed } }

/-- The machine held by a cold reset of this cause (17 R376, 21 R434). -/
def afterCold (s : State) (cause : BitVec 3) (pwrGood perst : Bool) : State :=
  { keptByReset s with run := { (keptByReset s).run with lastCause := cause, pwrGood := pwrGood, perst := perst } }

/-- The outside lets a command do its work: host reads are answered, tier and flash reads delivered, no unit faults. What the
meters charge is free. -/
structure CleanEnv (env : Env) : Prop where
  host : env.hostOk = true
  tier : env.tier = []
  flash : env.flash = []
  fault : env.fault = false

/-- Descriptor d of this opcode starts at once in a machine that has the invariant, and its completion entry can be written. -/
structure Runs (opcode : Nat) (s : State) (f q : Nat) (d : List Byte) : Prop extends StartsNow opcode s f q d where
  fits : EntryFits s f q
  inv : s.Inv

/-- The n bytes from host address a lie apart from the next completion entry of ring q of function f. -/
def ApartFromEntry (s : State) (f q a n : Nat) : Prop := a + n ≤ nextEntry s f q ∨ nextEntry s f q + 32 ≤ a

/-- n bytes of partition memory from x lie in extents of the partition, each byte at a device address of its own (08 R187). -/
def Backed (ext : List (Nat × Nat)) (x n : Nat) : Prop :=
  (∀ i < n, (mapAddr ext (x + i)).isSome = true)
    ∧ ∀ i < n, ∀ j < n, mapAddr ext (x + i) = mapAddr ext (x + j) → i = j

/-- In t partition p runs job j, and memory, commands, partitions, fuses and machine time are as in s. -/
structure RunsJob (s t : State) (p : Nat) (j : Job) : Prop where
  job : (t.partRun p).job = some j
  host : t.host = s.host
  hbm : t.hbm = s.hbm
  cmds : t.cmds = s.cmds
  parts : t.parts = s.parts
  fuses : t.fuses = s.fuses
  mtc : t.mtc = s.mtc

end Sys2Proof.Machine
end

