-- ==== Sys2Proof/Certificates/Slice0/Obligations.lean ====
section
/-! DEFINITION. Sys2Proof/Certificates/Slice0/Obligations.lean: the statements about the TM40 model. exec c s is the effect of
command c on the machine s. -/

open Sys2Proof Sys2Proof.Machine

/-! The queue of commands. -/

/-- A step runs the command at the front of the queue, with the rest of the queue left in it. -/
def Obligations.StepRunsFrontCommand : Prop :=
  ∀ (c : Instr) (rest : List Instr) (s : State), s.pending = c :: rest → step s = exec c { s with pending := rest }

/-- On an empty queue a step is one tick of the MTC (12 R273), which runs only while the device is neither held in reset nor
off; nothing but the MTC and the TEL time counters changes. That time passes here and nowhere else is the model's choice
(log 4). -/
def Obligations.EmptyQueueTicks : Prop :=
  ∀ s : State, s.pending = [] →
    ∃ t, step s = .next t ∧ t.mtc.now = (if alive s then s.mtc.now + 1 else s.mtc.now)
      ∧ t = { s with mtc := { s.mtc with now := t.mtc.now },
                     tel := { s.tel with capNs := t.tel.capNs, thermNs := t.tel.thermNs, throttleNs := t.tel.throttleNs } }

/-! Reset and the invariant. -/

/-- The invariant holds in the reset state. -/
def Obligations.ResetHasInvariant : Prop := State.reset.Inv

/-- Every step keeps the invariant: host memory, stacked memory and the recovery window stay in canonical form, so that equal
contents are equal data, the event log never grows past 1,024 events (19 R418), the numbers of open commands and of those they are
chained behind have been given out, and there are four key slots (18 R387). -/
def Obligations.EveryStepKeepsInvariant : Prop :=
  ∀ s t : State, s.Inv → step s = .next t → t.Inv

/-- What reset leaves in the registers of every group whose reset value the register tables give (14 R328, R329, 12 R283, R284,
06 R144, 08 R203, R204, 15 R345, 17 R385, 19 R421, 20 R426). -/
def Obligations.ResetRegisterValues : Prop :=
  let s := State.reset
  s.tel.limitW = 3200 ∧ s.tel.targetMv = 750 ∧ s.tel.throttleMv = 600 ∧ s.tel.targetC = 100 ∧ s.tel.hbmTargetC = 95
    ∧ s.mtc.syncPeriod = 1000 ∧ s.mtc.retrainMs = 200 ∧ s.mtc.collMs = 100 ∧ s.mtc.now = 0
    ∧ (∀ f q, (s.cq f q).phase = true ∧ (s.sq f q).log2 = 0 ∧ (s.cq f q).log2 = 0 ∧ (s.sq f q).error = false)
    ∧ (∀ f, (s.evtRing f).phase = true ∧ (s.evtRing f).log2 = 0)
    ∧ (∀ b, (s.basin b).wrk.timeoutUs = 100 ∧ (s.basin b).mere.scrubEn = true ∧ (s.basin b).num.countEn = true)
    ∧ (∀ q, (s.port q).epoch = 1 ∧ (s.port q).linkUp = false)
    ∧ (∀ c, (s.tg c).seed = 0x7FFFFFFF ∧ (s.tg c).share = 16)
    ∧ (∀ k, (s.stack k).patrolEn = true) ∧ s.fls.patrolEn = true
    ∧ fnEnabled s 0 = true ∧ (∀ f, 0 < f → fnEnabled s f = false)
    ∧ (s.fn 0).clientBase = 0 ∧ (s.fn 0).clientCount = 4096

/-! CLEAR bits. -/

/-- In the window of a basin in service, CLEAR zeroes every counter of the window and nothing else: NUM (03 R73), RSM (04 R102),
SFU (05 R122), WRK (06 R144), ATT (07 R178), MERE (08 R203), UPD (10 R230). -/
def Obligations.BasinCountersCleared : Prop :=
  ∀ (s : State) (b : Nat), writable s = true → b < 10 → (s.basin b).withdrawn = false →
    let r := s.basin b
    exec (.numClear b) s = .next (s.setBasin b { r with num := { r.num with
        checked := 0, mismatch := 0, overs := 0, escalated := 0, spillDynamic := 0, spillOverflow := 0, nonfinite := 0,
        errMax := 0 } })
    ∧ exec (.rsmClear b) s = .next (s.setBasin b { r with rsm := { r.rsm with boxes := 0, badBoxes := 0, values := 0, commands := 0 } })
    ∧ exec (.sfuClear b) s = .next (s.setBasin b { r with sfu := { r.sfu with results := 0, flushed := 0, nonfinite := 0, loads := 0 } })
    ∧ exec (.wrkClear b) s = .next (s.setBasin b { r with wrk := { r.wrk with fetches := 0, commits := 0, dupCommits := 0, reissued := 0 } })
    ∧ exec (.attClear b) s = .next (s.setBasin b { r with att := { r.att with
        lookups := 0, hits := 0, inserts := 0, evicts := 0, collisions := 0, insertFull := 0, parks := 0 } })
    ∧ exec (.mereClear b) s = .next (s.setBasin b { r with mere := { r.mere with
        readBytes := 0, writeBytes := 0, hits := 0, misses := 0, merges := 0, ce := 0, ue := 0, passes := 0 } })
    ∧ exec (.updClear b) s = .next (s.setBasin b { r with upd := { r.upd with elements := 0, ops := 0, clipped := 0, skipped := 0 } })

/-- The CLEAR bits of the device's own windows: CDC (11 R259), HIF (14 R328), SCHED (15 R344), ACCT (15 R345), FLS (16 R365), TEL
(17 R385), SEC (18 R402), RNG (09 R217). Those of HIF, ACCT, TEL and SEC act in state FAILED too (20 R425). -/
def Obligations.DeviceCountersCleared : Prop :=
  ∀ (s : State) (c : Nat), staged s = true →
    (writable s = true → c < 4 → (s.basin (c + 6)).withdrawn = false →
      exec (.cdcClear c) s = .next (s.setCodec c { s.codec c with
        framesEnc := 0, framesDec := 0, bytesOut := 0, bytesIn := 0, rowsRecoded := 0, rowsSkipped := 0, picsDamaged := 0,
        blocksConcealed := 0, clamped := 0, hintsIgnored := 0, unsupported := 0, bounds := 0 }))
    ∧ exec .hifClear s = .next { s with hif := { s.hif with
        rdBytes := 0, wrBytes := 0, hostRdErr := 0, p2pReject := 0,
        fns := s.hif.fns.map fun e => (e.1, { e.2 with cmds := 0, badDesc := 0 }) } }
    ∧ (writable s = true → exec .schedClear s = .next { s with runs := s.runs.map fun e => (e.1, { e.2 with
        steps := 0, decodeTokens := 0, prefillTokens := 0, lastStepNs := 0, switches := 0, lastSwitchNs := 0 }) })
    ∧ exec .acctClearAll s = .next { s with acct := { s.acct with accounts := [], unattrUj := 0 } }
    ∧ (writable s = true → exec .flsClear s = .next { s with fls := { s.fls with
        readBytes := 0, writeBytes := 0, cwCorrected := 0, retryReads := 0, softDecodes := 0, ue := 0, refreshed := 0, patrol := 0 } })
    ∧ exec .telClear s = .next { s with tel := { s.tel with capNs := 0, thermNs := 0, throttleNs := 0 } }
    ∧ exec .secClear s = .next { s with sec := { s.sec with recovFails := 0, reports := 0 } }
    ∧ (writable s = true → exec .rngClear s = .next { s with rng := { s.rng with
        rawBits := 0, rctFails := 0, aptFails := 0, seeds := 0, reseeds := 0 } })

/-- Writes to the registers of a withdrawn basin are ignored, and in state FAILED so are those outside HIF, RING, EVT, TEL, MGT, SEC,
LCS and ACCT (20 R425): the CLEAR bits of such a basin, or of such a block in FAILED, change nothing. -/
def Obligations.IgnoredClears : Prop :=
  ∀ (s : State) (b : Nat), (s.basin b).withdrawn = true ∨ s.run.failed = true →
    ∀ c ∈ [Instr.numClear b, .rsmClear b, .sfuClear b, .wrkClear b, .attClear b, .mereClear b, .updClear b], exec c s = .next s

/-! Doorbells and rings. -/

/-- A tail or head doorbell of an enabled ring with a value below its size moves TAIL or HEAD there; a larger value leaves it, sets
ERROR with cause 1 and raises EV_RING_ERROR (14 R311). The doorbell keeps the value written (00 R7), and nothing but the ring and the
event changes. -/
def Obligations.DoorbellsMoveRings : Prop :=
  ∀ (s : State) (f q v : Nat), reaches s f = true → q < 64 → v < 65536 →
    ((s.sq f q).log2 ≠ 0 → v < 2 ^ (s.sq f q).log2.toNat →
      exec (.sqTailDoorbell f q v) s
        = .next (s.setSq f q { s.sq f q with bell := BitVec.ofNat 16 v, tail := BitVec.ofNat 16 v }))
    ∧ ((s.sq f q).log2 ≠ 0 → 2 ^ (s.sq f q).log2.toNat ≤ v →
      exec (.sqTailDoorbell f q v) s = .next (raiseRingError
        (s.setSq f q { s.sq f q with bell := BitVec.ofNat 16 v, error := true, cause := 1 }) f q false 1))
    ∧ ((s.cq f q).log2 ≠ 0 → v < 2 ^ (s.cq f q).log2.toNat →
      exec (.cqHeadDoorbell f q v) s
        = .next (s.setCq f q { s.cq f q with bell := BitVec.ofNat 16 v, head := BitVec.ofNat 16 v }))
    ∧ ((s.cq f q).log2 ≠ 0 → 2 ^ (s.cq f q).log2.toNat ≤ v →
      exec (.cqHeadDoorbell f q v) s = .next (raiseRingError
        (s.setCq f q { s.cq f q with bell := BitVec.ofNat 16 v, error := true, cause := 1 }) f q true 1))

/-- An 8-byte write that enables a disabled ring of 16 to 65,536 entries inside the function's windows (14 R309, R310): the ring
starts with HEAD and TAIL 0 and no error, a completion ring with PHASE 1; a submission ring needs its completion ring enabled.
An event ring is enabled in the same way (19 R421). A LOG2_SIZE of 0 disables a submission ring; an enabled one ignores any other
write (R310). -/
def Obligations.RingsAreEnabled : Prop :=
  ∀ (s : State) (f q n base k : Nat), reaches s f = true → q < 64 → k < 64 → n < 32 → base < 2 ^ 52 →
    let word : Word64 := BitVec.ofNat 64 (n + k * 32 + base * 4096)
    (4 ≤ n → n ≤ 16 → (s.sq f q).log2 = 0 → inWindows s f (base * 4096) (128 * 2 ^ n) = true → (s.cq f k).log2 ≠ 0 →
      exec (.sqCfgWrite f q .full word) s
        = .next (s.setSq f q { s.sq f q with
            log2 := BitVec.ofNat 5 n, cq := BitVec.ofNat 6 k, base := BitVec.ofNat 52 base, head := 0, tail := 0, error := false,
            cause := 0, chain := .free }))
    ∧ ((s.sq f q).log2 ≠ 0 → exec (.sqCfgWrite f q .full word) s = .next (if n = 0 then
          s.setSq f q { s.sq f q with log2 := 0, cq := BitVec.ofNat 6 k, base := BitVec.ofNat 52 base } else s))
    ∧ (4 ≤ n → n ≤ 16 → (s.cq f q).log2 = 0 → inWindows s f (base * 4096) (32 * 2 ^ n) = true →
      exec (.cqCfgWrite f q .full (BitVec.ofNat 64 (n + base * 4096))) s
        = .next (s.setCq f q { s.cq f q with
            log2 := BitVec.ofNat 5 n, base := BitVec.ofNat 52 base, head := 0, tail := 0, phase := true, error := false, cause := 0,
            lastVector := none, held := false }))
    ∧ (4 ≤ n → n ≤ 16 → (s.evtRing f).log2 = 0 →
      exec (.evtCfgWrite f .full (BitVec.ofNat 64 (n + base * 4096))) s
        = .next (s.setEvtRing f { s.evtRing f with
            log2 := BitVec.ofNat 5 n, base := BitVec.ofNat 52 base, head := 0, tail := 0, phase := true, lost := none,
            lastVector := none, held := false }))

/-- A descriptor that cannot be read sets the ring's ERROR with cause 2 and raises EV_RING_ERROR (14 R317); the ring then takes
nothing while it stays in that state, and the commands already taken are as they were. -/
def Obligations.DescriptorReadFailure : Prop :=
  ∀ (s : State) (f q : Nat) (d : List Byte), lookAt s f q = .found d →
    ∃ t, exec (.descriptorReadFail f q) s = .next t
      ∧ t.sq f q = { s.sq f q with error := true, cause := 2 }
      ∧ t.evt.raised = s.evt.raised ++ [ringErrorEvent s f q 2]
      ∧ t.cmds = s.cmds ∧ t.host = s.host ∧ t.hbm = s.hbm
      ∧ (∀ u : State, (u.sq f q).error = true → lookAt u f q = .nothing)

/-! Interrupts and events. -/

/-- When a holdoff ends, the vector held back is raised once (14 R316, 19 R421); HEAD of an event ring moves to a value below
the ring's size and ignores any other (19 R421). -/
def Obligations.HoldoffAndEventHead : Prop :=
  ∀ (s : State) (f q v : Nat),
    ((s.cq f q).held = true → vectorDue s.now (s.cq f q).holdoff.toNat (s.cq f q).lastVector = true →
      exec (.irqHoldoffEnd f q false) s = .next (raiseVector
        (s.setCq f q { s.cq f q with held := false, lastVector := some s.now }) f (s.cq f q).vector.toNat))
    ∧ ((s.evtRing f).held = true → vectorDue s.now (s.evtRing f).holdoff.toNat (s.evtRing f).lastVector = true →
      exec (.irqHoldoffEnd f q true) s = .next (raiseVector
        (s.setEvtRing f { s.evtRing f with held := false, lastVector := some s.now }) f (s.evtRing f).vector.toNat))
    ∧ (reaches s f = true → v < 65536 → exec (.evtHeadWrite f v) s = .next (if v < 2 ^ (s.evtRing f).log2.toNat then
        s.setEvtRing f { s.evtRing f with head := BitVec.ofNat 16 v } else s))

/-- Events are written in ascending (mtc, source) order, 20 µs after they were raised at the earliest (19 R417). With only the
physical function's ring receiving it, not full and with no overflow to report, the next event's entry goes to TAIL, and no
other byte of the host's memory changes. -/
def Obligations.EventReachesRing : Prop :=
  ∀ (s : State) (e : Event), nextEvent s.evt.raised = some e → e.mtc + 20000 ≤ s.now → s.hif.vfEnable = false →
    let r := s.evtRing 0
    let a := r.base.toNat * 4096 + r.tail.toNat * 32
    r.log2 ≠ 0 → r.lost = none → evtFull s 0 = false → inWindows s 0 a 32 = true → Memory.wf s.host = true →
    ∃ t, exec .eventWrite s = .next t
      ∧ Mem.readN t.host a 32 = eventBytes s e r.phase
      ∧ (∀ x, x < a ∨ a + 32 ≤ x → Mem.read t.host x = Mem.read s.host x)
      ∧ t.evt.raised = s.evt.raised.erase e ∧ t.evt.log = s.evt.log ∧ t.hbm = s.hbm
      ∧ (t.evtRing 0).tail = BitVec.ofNat 16 ((r.tail.toNat + 1) % 2 ^ r.log2.toNat)

/-! Registers. -/

/-- Register writes (20 R423, R425, 00 R7, R8): a ranged field keeps its value when a value outside the range is written, a
write-one-to-clear bit is cleared by a 1, a 4-byte access writes its half; an offset that is no multiple of 8 names no register, a
virtual function does not reach the blocks of the physical function's view, and a unit in FAILED ignores the write. Any access of
a function ends its half-read latch (R424). -/
def Obligations.RegisterWritesAct : Prop :=
  ∀ (s : State) (f off n : Nat) (acc : RegAcc) (v : Word64), reaches s f = true → n < 4096 →
    (off % 8 ≠ 0 → exec (.registerWrite f off acc v) s = .next s)
    ∧ (f ≠ 0 → exec (.registerWrite f 0x70010 acc v) s = .next (touch s f))
    ∧ (f = 0 →
      exec (.registerWrite 0 0x70010 .full (BitVec.ofNat 64 n)) s = .next (if n = 0 ∨ 500 ≤ n ∧ n ≤ 3200 then
        { touch s 0 with tel := { s.tel with limitW := BitVec.ofNat 12 n } } else touch s 0)
      ∧ (s.run.failed = true → exec (.registerWrite 0 0x80010 acc v) s = .next (touch s 0))
      ∧ (s.run.failed = false →
        exec (.registerWrite 0 0x80010 .full v) s
          = .next { touch s 0 with mtc := { s.mtc with unsync := s.mtc.unsync && !v.getLsbD 6 } }
        ∧ exec (.registerWrite 0 0x680040 .full v) s = .next { touch s 0 with rng := { s.rng with ltKey0 := v } }
        ∧ exec (.registerWrite 0 0x680040 .lo v) s = .next { touch s 0 with rng := { s.rng with
            ltKey0 := (s.rng.ltKey0 &&& 0xFFFFFFFF00000000) ||| (v &&& 0x00000000FFFFFFFF) } }
        ∧ exec (.registerWrite 0 0x680040 .hi v) s = .next { touch s 0 with rng := { s.rng with
            ltKey0 := (s.rng.ltKey0 &&& 0x00000000FFFFFFFF) ||| (v &&& 0xFFFFFFFF00000000) } }))

/-- The reads that latch: a 4-byte read of bits [31:0] latches bits [63:32] of the same register (20 R424); ACCT.DATA0 latches the
selected account's record (15 R345); BIST.MEM_DATA0 takes 64 bytes of Mere at one instant (19 R413). Nothing else changes, but for
the model's counter of free values (log 1). -/
def Obligations.LatchedReads : Prop :=
  ∀ (s : State) (f off : Nat) (ue : Bool), reaches s f = true →
    (off % 8 = 0 → off ≠ acctData0 → off ≠ memData0 →
      exec (.halfReadLatch f off) s = .next (s.setLatch f { s.latch f with
        half := some (off, BitVec.ofNat 32 ((regRead s f off).toNat / 2 ^ 32)) }))
    ∧ (f = 0 →
      exec (.acctDataRead 0) s = .next ((touch s 0).setLatch 0 { (touch s 0).latch 0 with
        acct := some (accountBytes (touch s 0) s.acct.sel.toNat) })
      ∧ ∃ bs : List Byte, bs.length = 64
        ∧ exec (.bistMemRead 0 ue) s = .next { (touch s 0).setLatch 0 { (touch s 0).latch 0 with mem := some bs } with
            bist := { s.bist with memUe := ue }, free := s.free + 1 }
        ∧ ((∀ i < 64, mereEmpty (touch s 0) s.bist.memBasin.toNat (s.bist.memAddr.toNat * 64 + i) = true) →
            bs = List.replicate 64 0))

/-- A configuration write of an enabled function records its requester, and creates the virtual functions where it sets VF Enable
(14 R302, R304); a request of any other requester, or before any configuration write, changes only the counters of what was
rejected and logged. -/
def Obligations.RequestersRecordedOrRejected : Prop :=
  ∀ (s : State) (r f : Nat) (posted : Bool), staged s = true → s.run.pcieUp = true →
    (fnEnabled s f = true → exec (.pcieConfigWrite r f none) s = .next { s with hif := { s.hif with requester := some r } })
    ∧ exec (.pcieConfigWrite r 0 (some true)) s = .next { s with hif := { s.hif with requester := some r, vfEnable := true } }
    ∧ (s.hif.vfEnable = false →
        exec (.pcieConfigWrite r 0 (some false)) s = .next { s with hif := { s.hif with requester := some r } })
    ∧ exec (.foreignRequest r posted) s = .next (if s.hif.requester = some r then s else
        { s with hif := { s.hif with
          p2pReject := satAdd s.hif.p2pReject 1, aerLogged := s.hif.aerLogged + if posted then 1 else 0 } })

/-! Resets. -/

/-- The warm resets (17 R376, R377): a hot reset, the loss of the link, TEL's warm reset. Everything but straps, HBM.STATUS,
FAILED and what every reset keeps returns to its reset value. -/
def Obligations.WarmResetsRestart : Prop :=
  ∀ s : State, alive s = true →
    (s.run.pcieUp = true → exec .pcieHotReset s = .next (afterWarm s 2) ∧ exec .pcieLinkLoss s = .next (afterWarm s 3))
    ∧ (staged s = true → exec .telWarmReset s = .next (afterWarm s 4))

/-- Resets keep every object of the flash store that is visible and that no write in progress names; an object still being
written is gone (16 R352, R358, 17 R376). -/
def Obligations.ResetsKeepDurableObjects : Prop :=
  ∀ (s t : State) (o : Nat), exec .perstNAssert s = .next t →
    (∀ b, Tab.find s.medium.objects o = some b → b.visible = true → (∀ w ∈ s.fls.pending, w.object ≠ o) →
      Tab.find t.medium.objects o = some b)
    ∧ (∀ e ∈ t.medium.objects, e.2.visible = true)
    ∧ t.medium.nextSerial = s.medium.nextSerial ∧ t.medium.storeKey = s.medium.storeKey ∧ t.fls = {}

/-- Cold resets (21 R434): PERST_N, and PWR_GOOD low for 1 µs or longer, hold the device with everything but fuses, medium and
host memory at its reset value; a shorter pulse is ignored. From a hold the release starts the device. At 115 °C on a logic die
the rails go off with THERM_ALERT_N asserted (17 R384). -/
def Obligations.ColdResetsHold : Prop :=
  ∀ (s : State) (ns : Nat) (dies rates : List Nat),
    exec .perstNAssert s = .next (afterCold s 1 s.run.pwrGood true)
    ∧ exec (.pwrGoodFall ns) s = .next (if 1000 ≤ ns then afterCold s 0 false s.run.perst else s)
    ∧ (s.run.phase = .held →
      exec .resetRelease s = .next { s with run := { s.run with phase := .boot, pwrGood := true, perst := false } })
    ∧ (alive s = true → (∃ d ∈ dies.take 40, 115 ≤ d) →
      exec (.thermalSample dies rates) s = .next { keptByReset s with
        run := { (keptByReset s).run with phase := .off, thermAlert := true } })

/-- A function-level reset (14 R308). Of a virtual function: its commands are gone without an entry, its rings, its event ring,
its latched reads and its pending vectors return to their reset values, and those of other functions stay. Of the physical
function: VF Enable is cleared, and every function that was enabled is reset so. From full function on the partitions a reset
function owns run no job and their HBM reads as zero; before it (17 R378) memory, plans and jobs stay. The functions' HIF registers, the
partitions, host memory, fuses and machine time stay. -/
def Obligations.FunctionResetWipesFunction : Prop :=
  ∀ (s : State) (f : Nat), staged s = true → s.run.pcieUp = true → fnEnabled s f = true →
    let reset := fun g => g = f ∨ f = 0 ∧ fnEnabled s g = true
    ∃ t, exec (.pcieFlr f) s = .next t
      ∧ (∀ g, reset g → (∀ c ∈ t.cmds, c.fn ≠ g) ∧ (∀ q < 64, t.sq g q = {} ∧ t.cq g q = {}) ∧ t.evtRing g = {}
          ∧ t.latch g = {} ∧ ∀ v, (g, v) ∉ t.hif.pba)
      ∧ (∀ g, ¬ reset g → (∀ c, c.fn = g → (c ∈ t.cmds ↔ c ∈ s.cmds))
          ∧ (∀ q < 64, t.sq g q = s.sq g q ∧ t.cq g q = s.cq g q) ∧ t.evtRing g = s.evtRing g ∧ t.latch g = s.latch g
          ∧ ∀ v, (g, v) ∈ t.hif.pba ↔ (g, v) ∈ s.hif.pba)
      ∧ (s.run.stage2 = true → s.run.stage3 = true → ∀ g, reset g → ∀ p < 10, bitOf (s.fn g).owned.toNat p = true →
          (t.partRun p).job = none ∧ (t.partRun p).preempted = none
          ∧ ∀ r, Tab.find s.parts p = some r → ∀ e ∈ r.extents, ∀ x,
              e.1 * Config.granuleBytes ≤ x → x < (e.1 + e.2) * Config.granuleBytes → Mem.read t.hbm x = 0)
      ∧ (s.run.stage2 = false ∨ s.run.stage3 = false →
          t.hbm = s.hbm ∧ t.plans = s.plans ∧ t.requests = s.requests ∧ ∀ p, (t.partRun p).job = (s.partRun p).job)
      ∧ t.hif.vfEnable = (s.hif.vfEnable && decide (f ≠ 0)) ∧ t.hif.fns = s.hif.fns ∧ t.parts = s.parts ∧ t.host = s.host
      ∧ t.fuses = s.fuses ∧ t.mtc = s.mtc ∧ t.tel = s.tel ∧ t.run = s.run ∧ t.acct = s.acct ∧ t.rng = s.rng

/-! The staged start. -/

/-- The start's stages 0 and 3 (17 R373 steps 2 and 5): the link comes up with its figures shown unless JTAG holds the pins (19 R410),
straps are captured only after a cold reset (21 R433); with no port trained the device is standalone, alone in its census
(12 R271). -/
def Obligations.StagesZeroAndThree : Prop :=
  ∀ (s : State) (straps speed width : Nat) (flit : Bool),
    (s.run.phase = .boot →
      exec (.stage0Complete straps speed width flit) s = .next { s with
        run := { s.run with
          phase := .stage0, pcieUp := !s.jtag.pins, straps := if s.run.warmStart then s.run.straps else BitVec.ofNat 12 straps }
        hif := { s.hif with
          speed := if s.jtag.pins then 0 else BitVec.ofNat 3 speed, width := if s.jtag.pins then 0 else BitVec.ofNat 4 width
          flit := flit && !s.jtag.pins } })
    ∧ (s.run.phase = .stage1 → s.run.stage2 = false → s.run.stage3 = false → s.run.failed = false →
      exec (.stage3Complete []) s = .next { s with
        run := { s.run with stage3 := true }
        mtc := { s.mtc with standalone := true, root := true, census := 1, devices := 1, mx := 1, my := 1, mz := 1 }
        census := { s.census with states := [(devnum s, 1)], blocks := [] } })

/-- Stage 1 (17 R373 step 3, R374): it is complete exactly when verified firmware runs and Spring has passed; else the device stays
in stage 0. With a recovery image running and Spring in service it completes, and the seeding generator is instantiated. -/
def Obligations.StageOneNeedsFirmwareAndSpring : Prop :=
  ∀ (s : State) (m : BootMedia) (raw : List (List Bool)), s.run.phase = .stage0 →
    (∃ t, exec (.stage1Complete m raw) s = .next t
      ∧ (t.run.phase = .stage1 ↔ (t.sec.imageOk = true ∧ t.rng.springOk = true))
      ∧ (t.run.phase = .stage1 ∨ t.run.phase = .stage0)
      ∧ t.host = s.host ∧ t.hbm = s.hbm ∧ t.cmds = s.cmds ∧ t.mtc = s.mtc ∧ t.fuses = s.fuses)
    ∧ (s.sec.imageOk = true → s.rng.springOk = true → ∃ t, exec (.stage1Complete m []) s = .next t
      ∧ t.run.phase = .stage1 ∧ t.rng.instantiated = true)

/-- Stage 2 (17 R373 step 4). When everything passes, stacked memory is wiped, every stack is in service, on every die the first 48
cores serve under consecutive logical numbers and two are spares (13 R290), the result of each unit's quick test is recorded (19
R408), and the default tables are bank 0 of generation 1 (05 R104). A stack that does not train is lost and the device fails (08
R185, R200). -/
def Obligations.StageTwoBringsUnitsUp : Prop :=
  ∀ s : State, s.run.phase = .stage1 → s.run.stage2 = false → s.run.failed = false →
    (∃ t, exec (.stage2Complete [] [] []) s = .next t
      ∧ t.run.stage2 = true ∧ t.hbm = [] ∧ (∀ k < 20, (t.stack k).trained = true ∧ (t.stack k).inService = true)
      ∧ (∀ die < 30, ∀ i < 50, (t.core (50 * die + i)).role = (if i < 48 then 0 else 1)
          ∧ (t.core (50 * die + i)).logical = (if i < 48 then BitVec.ofNat 11 (48 * die + i) else 0x7FF))
      ∧ (∀ u, u < 1500 ∨ 0x600 ≤ u ∧ u < 0x60A ∨ 0x900 ≤ u ∧ u < 0x904 → (Tab.find t.bist.results u).isSome = true)
      ∧ (∀ b < 10, (t.basin b).sfu.bank0 = .defaults ∧ (t.basin b).sfu.gen0 = 1 ∧ (t.basin b).sfu.active = false)
      ∧ t.host = s.host ∧ t.cmds = s.cmds ∧ t.sec = s.sec ∧ t.rng = s.rng)
    ∧ ∀ (logic memory : List TestResult), ∃ t, exec (.stage2Complete [false] logic memory) s = .next t
      ∧ t.run.failed = true ∧ t.run.stage2 = false ∧ (t.stack 0).failed = true ∧ (t.stack 0).failCause = 1
      ∧ (t.stack 0).inService = false ∧ t.fuses = s.fuses

/-- The rollback counter (18 R389): when an image first brings the device to full function it rises to the image's version, and
an image of a lower version fails the checks, with code 7 where every earlier check passes. -/
def Obligations.RollbackCounterRises : Prop :=
  ∀ (s : State) (trained : List Bool) (r : List Byte),
    (s.run.phase = .stage1 → s.run.stage2 = true → s.run.stage3 = false → s.run.failed = false →
      s.fuses.rollback ≤ s.sec.svn.toNat → s.sec.svn.toNat ≤ 128 →
      ∃ t, exec (.stage3Complete trained) s = .next t ∧ fullFunction t = true ∧ t.fuses.rollback = s.sec.svn.toNat
        ∧ t.fuses.rollback ≤ 128)
    ∧ (leAt r 16 1 < s.fuses.rollback → checkRecord s 1 r ≠ 0
      ∧ (checkRecord { s with fuses := { s.fuses with rollback := 0 } } 1 r = 0 → checkRecord s 1 r = 7))

/-! Power, temperature, clocks, JTAG. -/

/-- The VDD_TAP in force is the lowest of the targets of TARGET_MV, the power loop, thermal protection and THROTTLE_N, and never
below 500 mV (17 R382); TEL.TAP shows it. THROTTLE_N acts at once, and its release leaves the power loop to raise from where VDD_TAP
stands (R381). -/
def Obligations.VddTapIsLowestTarget : Prop :=
  ∀ s : State,
    vtapNow s = max 500 (min (min (min s.targetMv s.tel.powerMv) s.tel.thermalMv)
      (if s.run.throttleIn then zeroSelects s.tel.throttleMv 600 else s.tel.thermalMv))
    ∧ (vtapNow s < 1024 → bitsOf (regRead s 0 0x70018).toNat 16 10 = vtapNow s)
    ∧ exec .throttleAssert s = .next { s with run := { s.run with throttleIn := true } }
    ∧ (s.run.throttleIn = true → exec .throttleRelease s = .next { s with
        run := { s.run with throttleIn := false }, tel := { s.tel with powerMv := min s.tel.powerMv (vtapNow s) } })

/-- The power loop (17 R380): the mean of the latest ten samples; above the limit VDD_TAP's target falls by 5 mV, not below 500 mV;
a raise below 98 % of the limit lifts it by 5 mV, up to TARGET_MV, where the loop holds nothing down. -/
def Obligations.PowerLoopSteps : Prop :=
  ∀ (s : State) (mw : Nat) (rails : List Nat), alive s = true →
    let xs := (mw :: s.tel.samples).take 10
    let mean := xs.sum / xs.length
    let limit := zeroSelects s.tel.limitW 3200 * 1000
    let cur := min s.tel.powerMv s.targetMv
    (mean < 2 ^ 32 → exec (.powerSample mw rails) s = .next { s with tel := { s.tel with
      samples := xs, rails := rails, pwrNow := BitVec.ofNat 32 mean,
      powerMv := if limit < mean then max 500 (cur - 5) else s.tel.powerMv,
      unreachable := decide (limit < mean) && decide (cur ≤ 500) } })
    ∧ (s.tel.pwrNow.toNat * 100 < limit * 98 → ∃ n, exec .powerRaise s = .next { s with tel := { s.tel with powerMv := n } }
        ∧ (cur + 5 < s.targetMv → n = cur + 5) ∧ (s.targetMv ≤ cur + 5 → min n s.targetMv = s.targetMv ∨ 800 < s.targetMv))

/-- Thermal protection (17 R383): from the threshold on the target falls by 10 mV every 100 µs; with logic and stacks 5 °C below
it is given back to the power loop; the alert is asserted once its condition has held for 1 ms at 500 mV and released when logic is
below 100 °C and stacks below 90 °C. A sample below 115 °C changes nothing but readings and targets. -/
def Obligations.ThermalProtectionSteps : Prop :=
  ∀ (s : State) (dies rates : List Nat), alive s = true → (∀ d ∈ dies, d < 115) →
    ∃ t, exec (.thermalSample dies rates) s = .next t
      ∧ t.tel.hottestC = BitVec.ofNat 8 ((dies.take 60).foldl max 0)
      ∧ (s.tel.targetC.toNat ≤ logicMax dies ∨ s.tel.hbmTargetC.toNat ≤ stackMax dies →
          (match s.tel.lastThermalStep with | some u => u + 100000 ≤ s.now | none => True) →
          t.tel.thermalMv = max 500 (min s.tel.thermalMv s.targetMv - 10))
      ∧ (logicMax dies + 5 ≤ s.tel.targetC.toNat → stackMax dies + 5 ≤ s.tel.hbmTargetC.toNat → s.tel.thermalMv < 800 →
          t.tel.thermalMv = 800 ∧ t.tel.powerMv = min s.tel.powerMv s.tel.thermalMv)
      ∧ t.run.thermAlert = (s.run.thermAlert && !(decide (logicMax dies < 100) && decide (stackMax dies < 90)))
      ∧ t.host = s.host ∧ t.hbm = s.hbm ∧ t.cmds = s.cmds ∧ t.basins = s.basins ∧ t.cores = s.cores ∧ t.fuses = s.fuses
      ∧ (∀ u, s.tel.hotSince = some u → u + 1000000 ≤ s.now → vtapNow s = 500 →
          exec .thermAlertAssert s = .next { s with run := { s.run with thermAlert := true } })

/-- SYSREF's loss of more than 10 µs and its return (21 R436); JTAG instructions (19 R410): one that takes the pins ends the link,
IDCODE captures the identity 0x1A4009C7 (00 R1) and leaves all else, a code without a meaning selects BYPASS, READBACK reads a register
where DEBUG allows, and the release of pins that were taken resets the device; which cause that reset has is open (log 28), and
that TRST_N selects IDCODE is the model's choice (log 29). -/
def Obligations.SysrefAndJtag : Prop :=
  ∀ (s : State) (ns off : Nat) (trst : Bool),
    exec (.sysrefLoss ns) s = .next (if 10000 < ns then { s with run := { s.run with holdover := true } } else s)
    ∧ exec .sysrefRestored s = .next { s with run := { s.run with holdover := false } }
    ∧ (∀ code ∈ [0x00, 0x03, 0x04, 0x09, 0x0A], exec (.jtagPinInstruction code) s = .next { s with
        jtag := { s.jtag with instr := BitVec.ofNat 8 code, pins := true }, run := { s.run with pcieUp := false }
        hif := { s.hif with speed := 0, flit := false, width := 0 } })
    ∧ exec (.jtagPinInstruction 0x01) s = .next { s with jtag := { s.jtag with instr := 0x01, data := 0x1A4009C7 } }
    ∧ (s.jtag.pins = false → exec (.jtagPinInstruction 0x55) s = .next { s with jtag := { s.jtag with instr := 0xFF, pins := false } })
    ∧ (let released := { s with jtag := if trst then { instr := 0x01, pins := false, data := 0x1A4009C7 } else
          { s.jtag with instr := 0xFF, pins := false } }
       (s.jtag.pins = false → exec (.jtagPinRelease trst) s = .next released)
       ∧ (alive s = true → s.jtag.pins = true →
          exec (.jtagPinRelease trst) s = .next (afterWarm released Config.jtagResetCause)))
    ∧ (debugAllowed s.fuses = true → staged s = true →
        exec (.jtagReadback off) s = .next { s with jtag := { s.jtag with instr := 0x21, data := regRead s 0 off } })

/-! The management mailbox. -/

/-- The mailbox (20 R427), by its registers or over MCTP with the operands of the message: a read answers the register's 8 bytes, a write acts on TEL and
HBM registers only, its write-one-to-set bits too (00 R7), and is refused with result 3 elsewhere; an address out of range ends with
result 2; a stack trains in stage 0 only; the versions are answered. By registers DONE is set, over MCTP the answer goes back on the
bus; a refused command changes nothing but the mailbox. -/
def Obligations.MailboxAnswers : Prop :=
  ∀ (s : State) (path : MbPath) (ok : Bool), staged s = true →
    let arg := mbArgs s path
    let a := arg.1.toNat
    let asked := fun (o : BitVec 8) => match path with
      | .regs => { s with mgt := { s.mgt with opcode := o } }
      | .mctp _ _ => s
    let answered := fun (u : State) (r : BitVec 3) (w : Option Word64) => match path with
      | .regs => { u with mgt := { u.mgt with done := true, result := r, resp0 := w.getD u.mgt.resp0 } }
      | .mctp _ _ => { u with mgt := { u.mgt with
          mctpResult := r, mctpResp := match w with | some x => toLe 8 x.toNat | none => u.mgt.mctpResp } }
    ((a % 8 ≠ 0 ∨ 0x4000000 ≤ a) →
      exec (.mbRead path) s = .next (answered (asked 1) 2 none) ∧ exec (.mbWrite path ok) s = .next (answered (asked 2) 2 none))
    ∧ (a % 8 = 0 → a < 0x4000000 → exec (.mbRead path) s = .next (answered (asked 1) 0 (some (regRead s 0 a))))
    ∧ (a % 8 = 0 → a < 0x4000000 → mbWritable a = false → exec (.mbWrite path ok) s = .next (answered (asked 2) 3 none))
    ∧ (a = 0x70028 → ∀ c h : Nat, arg.2 = BitVec.ofNat 64 (c + 256 * h) → 70 ≤ c → c ≤ 105 → 70 ≤ h → h ≤ 95 →
        exec (.mbWrite path ok) s = .next (answered { asked 2 with tel := { s.tel with
          targetC := BitVec.ofNat 8 c, hbmTargetC := BitVec.ofNat 8 h } } 0 none))
    ∧ (a = 0x70000 → arg.2 = 1 → exec (.mbWrite path ok) s = .next (answered { asked 2 with tel := { s.tel with
          capNs := 0, thermNs := 0, throttleNs := 0 } } 0 none))
    ∧ (a = 0x70058 → arg.2 = 1 → exec (.mbWrite path ok) s = .next (afterWarm s 4))
    ∧ (20 ≤ a → exec (.mbTrainStack path ok) s = .next (answered (asked 3) 2 none))
    ∧ (a < 20 → s.run.phase = .stage1 → exec (.mbTrainStack path ok) s = .next (answered (asked 3) 3 none))
    ∧ (a < 20 → s.run.phase = .stage0 → s.run.failed = false → ∃ t, exec (.mbTrainStack path ok) s = .next (answered t 0 none)
        ∧ t = (asked 3).setStack a (t.stack a) ∧ t.stack a = { s.stack a with trained := ok, info := (t.stack a).info })
    ∧ exec (.mbVersions path) s
        = .next (answered (asked 4) 0 (some (BitVec.ofNat 64 (Config.bootRomVersion.toNat + s.sec.svn.toNat * 65536))))

/-! Trust: life cycle, key slots, recovery, attestation. -/

/-- Life-cycle requests (18 R399, R400, 19 R410): a target that is not the next state is refused with result 1, a token without an
address with result 2, one that fails its checks with result 3 and the code of the check; a transition that may be made blows the
state's fuses and resets the device, or ends with result 4 where the fuses fail; the entry into RETURN destroys the store key.
LC_REQUEST shows the request's register and, in BLANK, makes a transition over JTAG; in other states it acts as BYPASS. -/
def Obligations.LifeCycleTransitions : Prop :=
  ∀ (s : State) (n v : Nat) (hostOk : Bool), staged s = true → n < 8 →
    let refused := fun (r d : Nat) => { s with sec := { s.sec with
      lcTarget := BitVec.ofNat 3 n, lcDone := true, lcResult := BitVec.ofNat 4 r, lcDetail := BitVec.ofNat 4 d } }
    ((n ≠ s.fuses.lcs.toNat + 1 ∨ 5 < n) → ∀ fuseOk, exec (.lcsTransition n hostOk fuseOk) s = .next (refused 1 0))
    ∧ (s.run.failed = false → n = s.fuses.lcs.toNat + 1 → n ∈ [2, 4, 5] →
        (s.sec.recordAddr = 0 → ∀ fuseOk, exec (.lcsTransition n hostOk fuseOk) s = .next (refused 2 0))
        ∧ (s.sec.recordAddr ≠ 0 → tokenCode s n hostOk ≠ 0 →
            ∀ fuseOk, exec (.lcsTransition n hostOk fuseOk) s = .next (refused 3 (tokenCode s n hostOk))))
    ∧ (s.run.failed = false → n = s.fuses.lcs.toNat + 1 → n ∈ [1, 3] →
        exec (.lcsTransition n hostOk true) s
            = .next (afterWarm { s with fuses := { s.fuses with lcs := BitVec.ofNat 3 n } } 5)
          ∧ exec (.lcsTransition n hostOk false) s = .next (refused 4 0))
    ∧ (s.fuses.lcs = 3 → s.sec.recordAddr ≠ 0 → tokenCode s 4 hostOk = 0 →
        ∃ t, exec (.lcsTransition 4 hostOk true) s = .next t
          ∧ t.fuses = { s.fuses with lcs := 4, storeEpoch := s.fuses.storeEpoch + 1 } ∧ t.medium.keyErased = true
          ∧ t.run.phase = .boot ∧ t.host = s.host)
    ∧ (let shown := { s with jtag := { s.jtag with instr := 0x22, data := lcsReqWord s.sec } }
       (s.fuses.lcs = 0 → bitOf v 3 = false → ∀ fuseOk, exec (.lcRequest v fuseOk) s = .next shown)
       ∧ (s.fuses.lcs = 0 → bitOf v 3 = true → v % 8 = 1 → s.run.failed = false →
          exec (.lcRequest v true) s = .next (afterWarm { shown with fuses := { s.fuses with lcs := 1 } } 5))
       ∧ (s.fuses.lcs ≠ 0 → s.jtag.pins = false → ∀ fuseOk,
          exec (.lcRequest v fuseOk) s = .next { s with jtag := { s.jtag with instr := 0xFF } }))

/-- Key slots (18 R387, R393, R403): in PROVISIONED an empty slot 2 or 3 takes the digest of LCS.SLOT_HASH, any other slot or state
ends with result 12, a failing fuse with 14; a revocation that passes its checks marks its slot and no other. The other fuses
never change. -/
def Obligations.KeySlotsFusedAndRevoked : Prop :=
  ∀ (s : State) (k : Nat) (hostOk : Bool), staged s = true → k < 4 → s.fuses.slots.length = 4 →
    let ended := fun (u : State) (r : Nat) => { u with sec := { u.sec with
      slotSel := BitVec.ofNat 2 k, slotDone := true, slotResult := BitVec.ofNat 4 r } }
    (s.fuses.lcs = 2 → 2 ≤ k → (s.fuses.slots.getD k {}).state = 0 →
      (∃ t, exec (.lcsSlotFuse k true) s = .next (ended t 0)
        ∧ t = { s with fuses := { s.fuses with slots := t.fuses.slots } }
        ∧ t.fuses.slots.getD k {} = { state := 1, digest := s.sec.slotHash.flatMap fun w => toLe 8 w.toNat }
        ∧ ∀ j, j ≠ k → t.fuses.slots.getD j {} = s.fuses.slots.getD j {})
      ∧ exec (.lcsSlotFuse k false) s = .next (ended s 14))
    ∧ ((s.fuses.lcs ≠ 2 ∨ k < 2 ∨ (s.fuses.slots.getD k {}).state ≠ 0) →
        ∀ fuseOk, exec (.lcsSlotFuse k fuseOk) s = .next (ended s 12))
    ∧ (∀ fuseOk, (revokeResult s k hostOk fuseOk = 0 →
        ∃ t, exec (.lcsSlotRevoke k hostOk fuseOk) s = .next (ended t 0)
          ∧ t = { s with fuses := { s.fuses with slots := t.fuses.slots } }
          ∧ (t.fuses.slots.getD k {}).state = 2 ∧ ∀ j, j ≠ k → t.fuses.slots.getD j {} = s.fuses.slots.getD j {})
      ∧ (revokeResult s k hostOk fuseOk ≠ 0 →
        exec (.lcsSlotRevoke k hostOk fuseOk) s = .next (ended s (revokeResult s k hostOk fuseOk))))

/-- Recovery (18 R391, R392), in either MODE: in END, and in MODE 1 once stage 0 is over, it ends with result 12; a length outside 8,192 to
33,554,432 bytes, or other than the header's, with result 10; then the code of the first check of R388 that fails; a store that cannot take the image with
result 11. Each failure is counted. An image that passes runs in MODE 1, measured whole, without touching the store, and in MODE 0 is
installed in the store, sealed, to run from the next reset. -/
def Obligations.RecoveryChecksImages : Prop :=
  ∀ (s : State) (mode storeOk : Bool), staged s = true →
    let ended := fun (r : Nat) => { s with sec := { s.sec with
      recovMode := mode, recovDone := true, recovResult := BitVec.ofNat 4 r, recovFails := satAdd s.sec.recovFails 1 } }
    let done := { s.sec with recovMode := mode, recovDone := true, recovResult := 0 }
    let len := s.sec.recovLen.toNat
    let image := Mem.readN s.sec.window 0 len
    let barred := s.fuses.lcs = 5 ∨ mode = true ∧ s.run.phase = .stage1
    let misfit := len < 8192 ∨ 33554432 < len ∨ len ≠ 8192 + leNat (Mem.readN s.sec.window 8 8)
    let noRoom := s.fls.online = false ∨ s.fls.readOnly = true ∨ flashFree s < len ∨ storeOk = false
    (barred → exec (.recoveryGo mode storeOk) s = .next (ended 12))
    ∧ (¬ barred → misfit → exec (.recoveryGo mode storeOk) s = .next (ended 10))
    ∧ (¬ barred → ¬ misfit →
        (checkRecord s 1 image ≠ 0 → exec (.recoveryGo mode storeOk) s = .next (ended (checkRecord s 1 image)))
        ∧ (checkRecord s 1 image = 0 → mode = false → noRoom → exec (.recoveryGo mode storeOk) s = .next (ended 11))
        ∧ (checkRecord s 1 image = 0 → mode = false → ¬ noRoom → exec (.recoveryGo mode storeOk) s = .next { s with
            sec := done
            medium := { s.medium with
              objects := Tab.put s.medium.objects imageObject
                { bytes := image, owner := 0, serial := s.medium.nextSerial, isSealed := true }
              nextSerial := s.medium.nextSerial + 1 } })
        ∧ (checkRecord s 1 image = 0 → mode = true → exec (.recoveryGo mode storeOk) s = .next { s with
            sec := { done with
              imageOk := true, source := true, slot := BitVec.ofNat 2 (leAt image 5 1), failCause := 0
              svn := BitVec.ofNat 8 (leAt image 16 1), fwDigest := sha3_512 image }
            run := { s.run with awaitImage := false } }))

/-- Attestation (18 R394, R395): a device without an identity answers result 1, a destination that is not aligned or lies outside the
physical function's windows result 2, a failed host write result 3; the report or the public key goes to its destination, to no other
byte, with its length. Reports are counted, a signed one whose write fails too (log 186); public keys are not. Over MCTP the answer goes
to the bus and host memory stays. The signature is an uninterpreted function of the identity (log 9); that an unaligned
destination counts as outside is the model's choice (log 30). -/
def Obligations.AttestationAnswers : Prop :=
  ∀ (s : State) (kind hostOk : Bool) (nonce : List Byte), staged s = true →
    let failed := fun (r : BitVec 2) => { s.sec with attKind := kind, attDone := true, attResult := r }
    let counted := if kind then s.sec.reports else satAdd s.sec.reports 1
    (s.fuses.identity = none →
      exec (.attestationGo kind hostOk) s = .next { s with sec := failed 1 }
      ∧ exec (.mctpAttestReport nonce) s = .next { s with mgt := { s.mgt with mctpResult := 1, mctpResp := [] } }
      ∧ exec .mctpPublicKey s = .next { s with mgt := { s.mgt with mctpResult := 1, mctpResp := [] } })
    ∧ (∀ seed, s.fuses.identity = some seed →
      (let out := if kind then publicKey seed else report s seed (nonceBytes s)
       let dst := s.sec.attDst.toNat
       let fits := dst % 64 = 0 ∧ inWindows s 0 dst out.length = true
       (¬ fits → exec (.attestationGo kind hostOk) s = .next { s with sec := failed 2 })
       ∧ (fits → hostOk = false → exec (.attestationGo kind hostOk) s = .next { s with sec := { failed 3 with reports := counted } })
       ∧ (fits → hostOk = true → ∃ t, exec (.attestationGo kind hostOk) s = .next t
          ∧ Mem.readN t.host dst out.length = out
          ∧ (∀ x, x < dst ∨ dst + out.length ≤ x → Mem.read t.host x = Mem.read s.host x)
          ∧ t = { s with
              host := t.host, hif := { s.hif with wrBytes := satAdd s.hif.wrBytes out.length }
              sec := { failed 0 with attLen := BitVec.ofNat 32 out.length, reports := counted } }))
      ∧ exec (.mctpAttestReport nonce) s = .next { s with
          sec := { s.sec with reports := satAdd s.sec.reports 1 }
          mgt := { s.mgt with mctpResult := 0, mctpResp := report s seed nonce } }
      ∧ exec .mctpPublicKey s = .next { s with mgt := { s.mgt with mctpResult := 0, mctpResp := publicKey seed } })

/-! Self-test, stacks, random numbers. -/

/-- Self-tests (19 R407 to R409). A write of BIST.CTRL.GO sets the fields; from stage 2 on, or with COUNT 0, it does no more. Before stage 2
it tests the free units of the range, records an entry for each and counts the tests and the failures; a unit of which no result is told passes.
A spare core that fails is dead, with EV_BIST_FAIL and EV_CORE_DEAD raised (R406). CORE_QUIESCE sets the bit; the core is quiesced at once where no job
runs on its partition, stays quiesced where it is, and else quiesces at the job's end (04 R101). -/
def Obligations.SelfTestsAndQuiesce : Prop :=
  ∀ (s : State) (v : Word64) (p : Nat) (on : Bool) (bad : TestResult), writable s = true →
    let kind := bitsOf v.toNat 1 2
    let first := bitsOf v.toNat 32 16
    let count := bitsOf v.toNat 48 16
    let fields := { s.bist with
      kind := BitVec.ofNat 2 kind, depth := bitOf v.toNat 3, first := BitVec.ofNat 16 first, count := BitVec.ofNat 16 count
      done := s.bist.done && !bitOf v.toNat 5 }
    let units := ((List.range count).map (first + ·)).filter fun u =>
      (testRanges kind).any (fun e => decide (e.1 ≤ u ∧ u < e.1 + e.2)) && unitFree s u
    ((s.run.stage2 = true ∨ count = 0) → ∀ tests, exec (.bistGo v tests) s = .next { s with bist := fields })
    ∧ (s.run.stage2 = false → count ≠ 0 →
        ∃ t, exec (.bistGo v []) s = .next t
          ∧ t.bist.done = true ∧ t.bist.failed = 0 ∧ t.bist.runs = satAdd s.bist.runs units.length
          ∧ t.bist.fails = satAdd s.bist.fails 0 ∧ t.bist.first = fields.first ∧ t.bist.count = fields.count
          ∧ (∀ u ∈ units, (Tab.find t.bist.results u).isSome = true)
          ∧ (∀ u, u ∉ units → Tab.find t.bist.results u = Tab.find s.bist.results u)
          ∧ t.host = s.host ∧ t.cmds = s.cmds ∧ t.evt = s.evt ∧ t.runs = s.runs)
    ∧ (s.run.stage2 = false → kind = 1 → count = 1 → first < 1500 → (s.core first).role = 1 → bad.pass = false →
        ∃ t, exec (.bistGo v [bad]) s = .next t
          ∧ t.bist.done = true ∧ t.bist.failed = 1 ∧ t.bist.runs = satAdd s.bist.runs 1 ∧ t.bist.fails = satAdd s.bist.fails 1
          ∧ (t.core first).role = 2 ∧ (t.core first).fenced = true ∧ (∀ q, q ≠ first → t.core q = s.core q)
          ∧ t.evt.raised.map Event.code = s.evt.raised.map Event.code ++ [evBistFail, evCoreDead]
          ∧ t.host = s.host ∧ t.cmds = s.cmds ∧ t.runs = s.runs)
    ∧ (p < 1500 → (s.basin (coreBasin p)).withdrawn = false →
        exec (.coreQuiesce p on) s = .next (s.setCore p { s.core p with
          quiesce := on
          quiesced := on && ((s.partRun (basinPart s (coreBasin p))).job.isNone || (s.core p).quiesced) })
        ∧ ((s.partRun (basinPart s (coreBasin p))).job.isSome = true → basinPart s (coreBasin p) < 10 →
            ∀ status t, exec (.coreQuiesce p true) s = .next t →
              ((endJob t (basinPart s (coreBasin p)) status).core p).quiesced = true))

/-- Stack training in stage 0, and only there, and the traffic generators (08 R201, R202, R204). The write that holds START sets the other
fields; on an idle generator it is refused, with no other effect, for patterns 6 and 7, OP 3 but for the soak, an empty range, a writing pattern where
memory holds live data, and (log 36) an untrained stack or atoms the channel does not have; a run of no loops is done at once; else the generator is busy with its results at zero. A
stop takes effect at the end of an atom. The run's end records errors, counts and time: without faults nothing miscompares, but for a run that only
compares, where HBM differs from the pattern; one read that came wrong is one atom with its flipped bits. A run that wrote leaves its range zero, and
any other changes no byte. -/
def Obligations.TrafficGeneratorRuns : Prop :=
  ∀ (s : State) (k ch : Nat) (v : Word64) (ok : Bool) (faults : List TgFault) (lat : List Nat),
    (k < 20 → s.run.failed = false → exec (.hbmTrain k ok) s = .next (if s.run.phase = .stage0 then
        s.setStack k { s.stack k with trained := ok, info := if ok then Config.stackInfo k else (s.stack k).info } else s))
    ∧ (tgWritable s ch = true →
        let set := { s.tg ch with
          pattern := BitVec.ofNat 3 (bitsOf v.toNat 2 3), op := BitVec.ofNat 2 (bitsOf v.toNat 5 2), continuous := bitOf v.toNat 7
          share := BitVec.ofNat 8 (bitsOf v.toNat 8 8) }
        let refused := 6 ≤ set.pattern.toNat ∨ set.op = 3 ∧ set.pattern ≠ 5 ∨ set.last.toNat < set.first.toNat
          ∨ 46875000 ≤ set.last.toNat ∨ set.pattern ≠ 5 ∧ noLiveData s = false ∨ (s.stack (ch / 32)).trained = false
        let fresh := { set with
          stop := false, errBits := 0, errAtoms := 0, firstErr := 0, rdBytes := 0, wrBytes := 0, timeNs := 0
          lat := List.replicate 16 0, startedAt := s.now }
        ((s.tg ch).busy = true → exec (.hbmTgStart ch v) s = .next (s.setTg ch set)
          ∧ exec (.hbmTgStop ch) s = .next (s.setTg ch { s.tg ch with stop := true }))
        ∧ ((s.tg ch).busy = false → exec (.hbmTgStop ch) s = .next s
          ∧ (refused → exec (.hbmTgStart ch v) s = .next (s.setTg ch { set with refused := true }))
          ∧ (¬ refused → set.loops = 0 → set.continuous = false →
              exec (.hbmTgStart ch v) s = .next (s.setTg ch { fresh with done := true }))
          ∧ (¬ refused → set.loops ≠ 0 ∨ set.continuous = true →
              exec (.hbmTgStart ch v) s = .next (s.setTg ch { fresh with busy := true }))))
    ∧ (alive s = true → ch < 640 → (s.tg ch).busy = true →
        let g := s.tg ch
        let wrote := g.pattern ≠ 5 ∧ g.op ≠ 2
        let compares := g.pattern ≠ 5 ∧ g.op = 2
        let inRange := fun x : Nat => atomChannel (x / 4096) (x / 64 % 64) = ch ∧ g.first.toNat ≤ x / 40960
          ∧ x / 40960 ≤ g.last.toNat
        ∃ t, exec (.hbmTgRunEnd ch faults lat) s = .next t
        ∧ (t.tg ch).busy = false ∧ (t.tg ch).stop = false ∧ (t.tg ch).done = true
        ∧ (t.tg ch).rdBytes = BitVec.ofNat 64 (64 * (lat.take 16).sum)
        ∧ (t.tg ch).timeNs = BitVec.ofNat 64 (s.now - g.startedAt)
        ∧ (faults = [] → (compares → ∀ n, g.first.toNat ≤ n → n ≤ g.last.toNat → ∀ b < 512, atomBit s ch n b = tgBit g ch n b) →
            g.first.toNat ≤ g.last.toNat →
            (t.tg ch).errBits = 0 ∧ (t.tg ch).errAtoms = 0 ∧ (t.tg ch).miscompare = g.miscompare)
        ∧ (∀ e : TgFault, faults = [e] → ¬ compares → e.read < (lat.take 16).sum →
            (t.tg ch).errBits = BitVec.ofNat 64 (if g.pattern = 5 then 0 else (e.flips.filter (· < 512)).eraseDups.length)
            ∧ (t.tg ch).errAtoms = 1 ∧ (t.tg ch).miscompare = true
            ∧ (t.tg ch).firstErr = BitVec.ofNat 26 (g.first.toNat + e.read % max 1 (g.last.toNat + 1 - g.first.toNat)))
        ∧ (¬ wrote → t.hbm = s.hbm)
        ∧ (wrote → ∀ x, Mem.read t.hbm x = if inRange x then 0 else Mem.read s.hbm x)
        ∧ (∀ c, c ≠ ch → t.tg c = s.tg c) ∧ t.host = s.host ∧ t.cmds = s.cmds ∧ t.runs = s.runs)

/-- The interleave of the stacked memory (08 R189) is one to one: the device channel and atom index of an atom lead back to its
tile, atoms of one tile lie on different channels, and every channel is one of the 640. -/
def Obligations.InterleaveIsOneToOne : Prop :=
  ∀ t a b : Nat, t < 468750000 → a < 64 → b < 64 →
    channelTile (atomChannel t a) (atomIndex t) = t ∧ atomChannel t a < 640 ∧ (atomChannel t a = atomChannel t b → a = b)

/-- Spring (09 R205 to R207). In service, a block of 2,048 raw bits that passes the health tests adds 64 bytes to the pool; one that
fails a test stops the output, records the test and raises EV_SPRING_FAIL: 41 equal bits fail the repetition count. A failed Spring is tried
again after 1 ms, three times at most: the start-up test is over 4,096 raw bits, passes with all of them, and stops at a failure as test 3. RNG_RETEST starts
the count afresh. The lane test (R217) shows in RNG.LT_OUT the draw of the lane generator for the key, index, stream and draw number
in the registers; a core that is dead, withdrawn or absent reads BAD_CORE and leaves the outputs. -/
def Obligations.SpringHealthTests : Prop :=
  ∀ (s : State) (raw : List Bool) (v : Word64), staged s = true →
    let first := health { s.rng with runLen := 0 } (raw.take 4096)
    (s.rng.springOk = true → raw.length = 2048 →
      ((health s.rng raw).fail = none →
        ∃ t, exec (.springBlock raw) s = .next t ∧ t.rng.springOk = true
          ∧ t.rng.pool = s.rng.pool ++ sha3_512 (packBits 256 raw) ∧ t = { s with rng := t.rng })
      ∧ (∀ i k, (health s.rng raw).fail = some (i, k) →
        ∃ t, exec (.springBlock raw) s = .next t ∧ t.rng.springOk = false ∧ t.rng.springFail = true
          ∧ t.rng.failTest = BitVec.ofNat 2 k ∧ t.rng.pool = s.rng.pool ∧ t.rng.failedAt = some s.now ∧ t.rng.attempts = 0
          ∧ t.evt.raised = s.evt.raised ++ [⟨s.now, srcSec, evSpringFail, 0xF, toLe 1 k, none⟩])
      ∧ (raw = List.replicate 2048 true → ∃ i, (health s.rng raw).fail = some (i, 1)))
    ∧ (∀ u, s.rng.failedAt = some u → s.now < u + 1000000 ∨ 3 ≤ s.rng.attempts.toNat → exec (.springRetry raw) s = .next s)
    ∧ (∀ u, s.rng.failedAt = some u → u + 1000000 ≤ s.now → s.rng.attempts.toNat < 3 →
        ∃ t, exec (.springRetry raw) s = .next t ∧ t.rng.attempts = s.rng.attempts + 1
          ∧ (first.fail = none → 4096 ≤ raw.length → t.rng.springOk = true ∧ t.rng.failedAt = none)
          ∧ (first.fail = none → raw.length < 4096 → t.rng.springOk = s.rng.springOk ∧ t.rng.failedAt = some u)
          ∧ (first.fail ≠ none → t.rng.springOk = false ∧ t.rng.failTest = 3 ∧ t.rng.failedAt = some s.now
              ∧ t.evt.raised = s.evt.raised ++ [⟨s.now, srcSec, evSpringFail, 0xF, toLe 1 3, none⟩]))
    ∧ (writable s = true → first.fail = none → 4096 ≤ raw.length →
        ∃ t, exec (.rngRetest raw) s = .next t ∧ t.rng.springOk = true ∧ t.rng.attempts = 0 ∧ t.rng.failedAt = none)
    ∧ (writable s = true →
        let c := bitsOf v.toNat 0 11
        let d := lane s.rng.ltKey0 s.rng.ltKey1 s.rng.ltIndex s.rng.ltStream s.rng.ltDraw
        let r := { s.rng with ltCore := BitVec.ofNat 11 c, ltLane := BitVec.ofNat 8 (bitsOf v.toNat 11 8) }
        (c < 1500 → (s.core c).role ≠ 2 → (s.core c).role ≠ 3 → exec (.laneTest v) s = .next { s with rng := { r with
          ltDone := true, ltOut0 := d.extractLsb' 0 64, ltOut1 := d.extractLsb' 64 64 } })
        ∧ (1500 ≤ c ∨ (s.core c).role = 2 ∨ (s.core c).role = 3 → ∃ t,
          exec (.laneTest v) s = .next t ∧ t = { s with rng := { r with ltDone := s.rng.ltDone && !bitOf v.toNat 20 } }
          ∧ bitOf (regRead t 0 0x680060).toNat 21 = true))

/-! Machine time, census, links. -/

/-- Machine time (12 R273, R274, R283): a resync is requested; a root sends a wave every SYNC_PERIOD. A wave from the parent on
a standalone device or before the census closes steps MTC by its offset; on a synchronised device after it an offset of at most 1,000 ns leaves MTC where it is and
adjusts the trim, a larger one ends synchronism. A wave from another port changes nothing. -/
def Obligations.TimeWavesSetTheClock : Prop :=
  ∀ (s : State) (q : Nat) (t1 t2 t3 t4 : Int),
    let offset := ((t2 - t1) - (t4 - t3)) / 2
    let delay := ((t4 - t1) - (t3 - t2)) / 2
    (writable s = true → exec .mtcResync s = .next { s with mtc := { s.mtc with resync := true } })
    ∧ (staged s = true → s.mtc.root = true → exec .timeWaveSend s = .next (if s.census.waveDue ≤ s.now then
          { s with census := { s.census with waveDue := s.now + zeroSelects s.mtc.syncPeriod 1000 * 1000 } } else s))
    ∧ (staged s = true → parentOf s = some q →
        ∃ t, exec (.timeWaveReceive q t1 t2 t3 t4) s = .next t
          ∧ t.mtc.offset = BitVec.ofInt 32 offset ∧ (t.port q).delay = BitVec.ofInt 32 delay
          ∧ t.mtc.waves = satAdd s.mtc.waves 1 ∧ t.mtc.parentPort = BitVec.ofNat 4 q
          ∧ (s.mtc.census = 0 ∨ s.mtc.standalone = true →
              t.mtc.now = BitVec.ofInt 64 ((s.now : Int) - offset / 256) ∧ t.mtc.sync = true
              ∧ t = { s with mtc := t.mtc, ports := t.ports })
          ∧ (s.mtc.census ≠ 0 → s.mtc.standalone = false → s.mtc.sync = true → s.mtc.resync = false → t.mtc.now = s.mtc.now
              ∧ (-256000 ≤ offset → offset ≤ 256000 → t.mtc.sync = true ∧ t = { s with mtc := t.mtc, ports := t.ports })
              ∧ (offset < -256000 ∨ 256000 < offset → t.mtc.sync = false ∧ t.mtc.unsync = true)))
    ∧ (parentOf s ≠ some q → exec (.timeWaveReceive q t1 t2 t3 t4) s = .next s)

/-- The census (12 R271, R272). The root, or a block root of its own block, enters a report: one that fits the strap rule as present, one that
does not, or differs from an earlier one under its number, as isolated. A device that acts as root closes a census that is complete, or 18 s after power-good;
any other takes the result it hears, and holds down its ports to the devices that it lists as isolated. -/
def Obligations.CensusEntersAndCloses : Prop :=
  ∀ (s : State) (dev : Nat) (peers states blocks : List (Nat × Nat)) (mx my mz : Nat) (byTime : Bool), staged s = true →
    (s.mtc.census = 0 → s.mtc.root = true ∨ devnum s % 64 = 0 ∧ dev / 64 = devnum s / 64 → dev < 4096 →
      let clean := (∀ e ∈ peers, peerFits dev e = true) ∧ ∀ r, Tab.find s.census.reports dev = some r → r = peers
      (clean → exec (.censusReport dev peers) s = .next { s with census := { s.census with
        reports := Tab.put s.census.reports dev peers
        states := if censusState s dev = 2 then s.census.states else Tab.put s.census.states dev 1 } })
      ∧ (¬ clean → ∃ t, exec (.censusReport dev peers) s = .next t ∧ censusState t dev = 2
          ∧ Tab.find t.census.reports dev = some peers ∧ t.mtc.census = 0 ∧ t.host = s.host ∧ t.cmds = s.cmds))
    ∧ (s.mtc.census = 0 → actsRoot s = true → (if byTime then 18000000000 ≤ s.now else censusComplete s = true) →
        ∃ t, exec (.censusClose byTime) s = .next t ∧ t.mtc.census = (if byTime then 2 else 1) ∧ t.mtc.root = true
          ∧ t.mtc.standalone = false ∧ t.census.changed = false ∧ censusState t (devnum s) ≠ 0
          ∧ t.mtc.devices = BitVec.ofNat 13 (presentCount t.census.states)
          ∧ t.host = s.host ∧ t.cmds = s.cmds ∧ t.mtc.now = s.mtc.now)
    ∧ (s.mtc.root = true → exec (.censusReceive states mx my mz blocks byTime) s = .next s)
    ∧ (s.mtc.root = false → ∃ t, exec (.censusReceive states mx my mz blocks byTime) s = .next t
        ∧ t.mtc.census = (if byTime then 2 else 1) ∧ t.mtc.mx = BitVec.ofNat 3 mx ∧ t.mtc.my = BitVec.ofNat 3 my
        ∧ t.mtc.mz = BitVec.ofNat 3 mz
        ∧ ((states.map Prod.fst).Nodup → ∀ e ∈ states, e.2 < 4 → censusState t e.1 = e.2)
        ∧ t.mtc.devices = BitVec.ofNat 13 (presentCount t.census.states)
        ∧ (t.mtc.isolated = true ↔ censusState t (devnum s) = 2)
        ∧ (∀ e ∈ t.ports, e.2.peerValid = true → censusState t e.2.peerDev.toNat = 2 →
            e.2.isolated = true ∧ e.2.linkUp = false)
        ∧ t.host = s.host ∧ t.cmds = s.cmds ∧ t.mtc.now = s.mtc.now)

/-- Ports (12 R265, R267, R282, R284): a disabled or retraining port's link is down; a fence, or a link down for longer than RETRAIN_MS,
marks the peer lost, discards what is retained, starts numbering again and moves the epoch on from 0xFF to 1. Where the plan of a running multi-device job
holds the port the job ends as well; where no job of its holder runs, nothing else changes. -/
def Obligations.PortsGoDownAndFence : Prop :=
  ∀ (s : State) (q : Nat) (on : Bool), q < 16 →
    let r := s.port q
    let p := r.holderPart.toNat
    let lost := s.setPort q { r with
      peerLost := true, epoch := if r.epoch = 0xFF then 1 else r.epoch + 1, retained := [], nextSeq := 0, lastIn := none,
      replays := 0, downAt := none }
    let unheld := ∀ j, (s.partRun p).job = some j → r.holder = 0 ∨ j.handle ≠ r.holder.toNat
    let ends := fun c : Instr => ∀ j, (s.partRun p).job = some j → r.holder ≠ 0 → j.handle = r.holder.toNat → j.ranks ≠ [] →
      ∃ t, exec c s = .next t ∧ (t.partRun p).job = none ∧ t.cmd j.cmd = none ∧ (t.port q).peerLost = true
    let overdue := r.linkUp = false ∧ ∃ u, r.downAt = some u ∧ u + zeroSelects s.mtc.retrainMs 200 * 1000000 < s.now
    (writable s = true → (s.basin (q / 2 + 1)).withdrawn = false →
      exec (.optEnable q on) s = .next (s.setPort q { r with
        enable := on, linkUp := r.linkUp && on, downAt := if r.linkUp && !on then some s.now else r.downAt })
      ∧ exec (.optRetrain q) s = .next (s.setPort q { r with
        linkUp := false, retrains := satAdd r.retrains 1, downAt := if r.linkUp then some s.now else r.downAt })
      ∧ (unheld → exec (.optFence q) s = .next lost) ∧ ends (.optFence q))
    ∧ (staged s = true → overdue → (unheld → exec (.retrainTimeout q) s = .next lost) ∧ ends (.retrainTimeout q))
    ∧ (staged s = true → r.linkUp = true → ∃ t, exec (.linkDown q) s = .next t
        ∧ t.ports = (s.setPort q { r with
            linkUp := false, downAt := some s.now, replays := 0, retrains := satAdd r.retrains 1 }).ports
        ∧ t.evt.raised = s.evt.raised ++ [⟨s.now, srcPort q, evLinkDown, 0xF, toLe 1 r.epoch.toNat, none⟩]
        ∧ t.host = s.host ∧ t.hbm = s.hbm ∧ t.cmds = s.cmds ∧ t.mtc = s.mtc ∧ t.runs = s.runs)

/-- Light and hellos (12 R262, R267): a wavelength too weak raises EV_LASER_LOW and its bit falls until the light returns; a hello
from a first peer over a port that may train brings the link up and names the peer; a hello of another identity over a known port marks the
peer lost, and readmits the new one where it bears another session and its BIST passed. -/
def Obligations.LightAndHellos : Prop :=
  ∀ (s : State) (q w power : Nat) (h : Hello), q < 16 → w < 8 →
    (alive s = true →
      (∃ t, exec (.laserLightLow q w power) s = .next t
        ∧ (t.port q).lightOk = (s.port q).lightOk &&& ~~~ BitVec.ofNat 8 (2 ^ w)
        ∧ t.evt.raised = s.evt.raised ++ [⟨s.now, srcPort q, evLaserLow, 0xF, toLe 1 (2 ^ w), none⟩]
        ∧ t.host = s.host ∧ t.cmds = s.cmds ∧ t.runs = s.runs)
      ∧ exec (.laserLightRestored q w power) s = .next (s.setPort q { s.port q with
          lightOk := (s.port q).lightOk ||| BitVec.ofNat 8 (2 ^ w)
          laserPower := (s.port q).laserPower.set w (BitVec.ofNat 16 power) }))
    ∧ (s.run.phase = .stage1 → canTrain (s.port q) = true → (s.port q).peerValid = false → (s.port q).peerLost = false →
        ∃ t, exec (.optHello q h) s = .next t ∧ (t.port q).linkUp = true ∧ (t.port q).peerValid = true
          ∧ (t.port q).peerDev = BitVec.ofNat 12 h.devnum ∧ (t.port q).peerPort = BitVec.ofNat 4 h.port
          ∧ (t.port q).peerSession = h.session
          ∧ (t.port q).epoch = (s.port q).epoch ∧ t.host = s.host ∧ t.cmds = s.cmds)
    ∧ (s.run.phase = .stage1 → canTrain (s.port q) = true → (s.port q).peerValid = true → (s.port q).peerLost = false →
        (s.port q).peerDev.toNat ≠ h.devnum ∨ (s.port q).peerSession ≠ h.session →
        ∃ t, exec (.optHello q h) s = .next t
          ∧ (t.port q).peerLost = !(decide ((s.port q).peerSession ≠ h.session) && h.bist)
          ∧ (h.bist = true → (s.port q).peerSession ≠ h.session → (t.port q).peerSession = h.session))

/-- Flits (12 R264 to R267, R277). Corrected codewords count. A flit that is uncorrectable, fails its CRC or has an unused type asks again and
delivers nothing; a good one of another type than data moves no data. A data flit of another epoch is dropped and counted, and one out of its turn asks
again. The next one is taken; for this device its collective data joins its chunk where the plan of the machine job holds the port, and counts as
stale where no job runs the machine job. An acknowledgement frees everything up to what it names; a nak replays the
rest, and after 8 replays of one flit the link goes down; credits add up in their class. With nothing waiting at the port nothing
else is sent. -/
def Obligations.FlitsAcknowledgedAndReplayed : Prop :=
  ∀ (s : State) (q a n cls dateline : Nat) (f : Flit) (x : Arrival), staged s = true → q < 16 → (s.port q).linkUp = true →
    let r := s.port q
    let c := { r with fecCorr := satAdd r.fecCorr x.corrected }
    let sound := x.uncorrectable = false ∧ x.type ≤ 6 ∧ x.crc = (flitCrc x.type f).toNat
    (x.uncorrectable = true → exec (.dataFlitReceive q f x) s
        = .next (s.setPort q { c with retries := satAdd r.retries 1, fecUncorr := satAdd r.fecUncorr 1 }))
    ∧ (x.uncorrectable = false → ¬ sound → exec (.dataFlitReceive q f x) s
        = .next (s.setPort q { c with retries := satAdd r.retries 1, crcErr := satAdd r.crcErr 1 }))
    ∧ (sound → x.type ≠ 1 → exec (.dataFlitReceive q f x) s = .next (s.setPort q c))
    ∧ (sound → x.type = 1 →
        (f.epoch ≠ r.epoch.toNat → ∃ t, exec (.dataFlitReceive q f x) s = .next t
          ∧ (t.port q).fencedTalk = satAdd r.fencedTalk 1 ∧ (t.port q).rx = r.rx ∧ t.runs = s.runs ∧ t.host = s.host)
        ∧ (f.epoch = r.epoch.toNat → f.seq ≠ expectedSeq r →
            exec (.dataFlitReceive q f x) s = .next (s.setPort q { c with retries := satAdd r.retries 1 }))
        ∧ (f.epoch = r.epoch.toNat → f.seq = expectedSeq r → r.waiting = [] → r.retained = [] → f.dst = devnum s →
            let taken := { c with lastIn := some (BitVec.ofNat 12 f.seq), rx := satAdd r.rx 1 }
            (f.cls ≠ 0 → exec (.dataFlitReceive q f x) s = .next (s.setPort q taken))
            ∧ (f.cls = 0 → mjobPart s f.mjob = none →
                exec (.dataFlitReceive q f x) s = .next (s.setPort q { taken with stale := satAdd r.stale 1 }))
            ∧ (f.cls = 0 → planHolds s f.mjob q = true → ∀ p w e, mjobPart s f.mjob = some p → workOf s p = some w →
                w.j.exec f.op = some e → e.index = f.exec →
                ∃ t j d, exec (.dataFlitReceive q f x) s = .next t ∧ RunsJob s t p j ∧ j.exec f.op = some d
                  ∧ Tab.get d.chunks f.chunk ({} : Chunk) = (Tab.get e.chunks f.chunk ({} : Chunk)).take f.part f.payload
                  ∧ t.port q = taken)))
    ∧ (r.waiting = [] → (∀ e ∈ r.retained, e.seq ≠ a) → exec (.ackFlitReceive q a) s = .next (s.setPort q r))
    ∧ (r.waiting = [] → ∀ es e rest, r.retained = es ++ e :: rest → (∀ y ∈ es, y.seq ≠ a) → e.seq = a →
        exec (.ackFlitReceive q a) s = .next (s.setPort q { r with retained := rest, replays := 0 })
        ∧ (rest ≠ [] → exec (.nakReceive q a) s = .next (s.setPort q { r with retained := rest, replays := 1 })))
    ∧ (r.waiting = [] → cls < 4 → ∃ t, exec (.creditFlitReceive q cls dateline n) s = .next t
        ∧ (let key := 2 * cls + if dateline = 1 then 1 else 0
           Tab.get (t.port q).credits key 0 = Tab.get r.credits key 0 + n
           ∧ ∀ i, i ≠ key → Tab.get (t.port q).credits i 0 = Tab.get r.credits i 0)
        ∧ t = s.setPort q (t.port q))
    ∧ (r.retained ≠ [] → (∀ e ∈ r.retained, e.seq ≠ a) → r.replays < 8 →
        exec (.nakReceive q a) s = .next (s.setPort q { r with replays := r.replays + 1 }))
    ∧ (r.retained ≠ [] → (∀ e ∈ r.retained, e.seq ≠ a) → 8 ≤ r.replays →
        ∃ t, exec (.nakReceive q a) s = .next t ∧ (t.port q).linkUp = false ∧ (t.port q).downAt = some s.now
          ∧ t.evt.raised.map Event.code = s.evt.raised.map Event.code ++ [evLinkDown])

/-! Cores and faults. -/

/-- Heartbeats (06 R138, 13 R289): a serving core's heartbeat is noted; a quiesced core is never declared dead for silence; a
silent one is fenced, its logical number moves to a spare of its die, or, where the die has none, its basin is withdrawn, and
EV_CORE_DEAD is raised. A message of a fenced core is dropped, and reported at most once a millisecond. -/
def Obligations.SilentCoresAreReplaced : Prop :=
  ∀ (s : State) (p : Nat), works s = true → p < 1500 →
    ((s.core p).role = 0 → exec (.coreHeartbeat p) s = .next (s.setCore p { s.core p with lastBeat := s.now }))
    ∧ ((s.core p).role ≠ 0 ∨ (s.core p).quiesce = true ∨ s.now < (s.core p).lastBeat + beatTimeout s p * 1000 →
        exec (.heartbeatTimeout p) s = .next s)
    ∧ ((s.core p).role = 0 → (s.core p).quiesce = false → (s.core p).lastBeat + beatTimeout s p * 1000 ≤ s.now →
        (∀ q, spareOf s (p / 50) = some q →
          ∃ t, exec (.heartbeatTimeout p) s = .next t
            ∧ (t.core p).role = 2 ∧ (t.core p).fenced = true ∧ (t.core p).running = none ∧ (t.core p).ahead = none
            ∧ (t.core q).role = 0 ∧ (t.core q).logical = (s.core p).logical
            ∧ (∀ r, r ≠ p → r ≠ q → t.core r = s.core r)
            ∧ t.evt.raised = s.evt.raised ++
                [⟨s.now, p, evCoreDead, basinPart s (coreBasin p), [1, 0] ++ toLe 2 (s.core p).logical.toNat, none⟩]
            ∧ t.basins = s.basins ∧ t.runs = s.runs ∧ t.host = s.host ∧ t.cmds = s.cmds)
        ∧ (spareOf s (p / 50) = none →
          ∃ t, exec (.heartbeatTimeout p) s = .next t ∧ (t.core p).role = 2 ∧ (t.basin (coreBasin p)).withdrawn = true))
    ∧ ((s.core p).fenced = true →
        (∀ u, (s.core p).talkAt = some u → s.now < u + 1000000 →
          exec (.deadCoreMessage p) s = .next (s.setCore p { s.core p with dropped := (s.core p).dropped + 1 }))
        ∧ ((∀ u, (s.core p).talkAt = some u → u + 1000000 ≤ s.now) → ∃ t, exec (.deadCoreMessage p) s = .next t
            ∧ (t.core p).dropped = 0 ∧ (t.core p).talkAt = some s.now ∧ t.runs = s.runs ∧ t.host = s.host
            ∧ t.evt.raised = s.evt.raised ++ [⟨s.now, p, evFencedTalk, basinPart s (coreBasin p),
                toLe 4 (satNat 32 ((s.core p).dropped + 1)), none⟩]))

/-- Faults (13 R286, R287, R292 to R294, R297, R300): a logic fault of a stopping unit fails the device, whose jobs, requests and
commands end but for NOP, SNAPSHOT and ACCT_READ; one of a core, a basin unit or a codec engine with no job only raises its event, and so does any
fault of a serving job between steps; a fabric error abandons the job's work, or the serving step's, whose fourth faulted run halts the
partition. JOB_RESTART runs a clip job again from its beginning with the same seed under a new epoch, or ends it where the command allowed no
restart, and replays a serving step without counting a restart. -/
def Obligations.FaultsRestartOrFail : Prop :=
  ∀ (s : State) (p source : Nat) (unit : FaultUnit) (tested : List Nat) (env : Env), works s = true → p < 10 →
    let at' := match unit with
      | .core k => (k, basinPart s (coreBasin k))
      | .basin b => (srcBasin b, basinPart s b)
      | .codec c => (srcCodec c, match (s.codec c).current with | some (.op q _) => q | _ => 0xF)
      | .stop x => (x, 0xF)
    let faulted := s.evt.raised ++ [⟨s.now, source, evJobFault, p, faultDetail s p, none⟩]
    (∃ t, exec (.logicFault (.stop source)) s = .next t ∧ t.run.failed = true ∧ t.requests = []
        ∧ (∀ c ∈ t.cmds, worksFailed c.desc = true) ∧ (∀ k < 10, (t.partRun k).job = none) ∧ t.hbm = s.hbm ∧ t.fuses = s.fuses)
    ∧ ((match unit with | .core k => k < 1500 | .basin b => b < 10 | .codec c => c < 4 | .stop _ => False) →
        (s.partRun at'.2).job = none →
        ∃ t, exec (.logicFault unit) s = .next t ∧ t.runs = s.runs ∧ t.cmds = s.cmds ∧ t.host = s.host
          ∧ t.evt.raised = s.evt.raised ++ [⟨s.now, at'.1, evJobFault, at'.2, List.replicate 12 0xFF, none⟩])
    ∧ (∀ j, (s.partRun p).job = some j → (s.partRun p).halt = .none →
        (j.serving = false →
          ∃ t, exec (.fabricError source p) s = .next t ∧ RunsJob s t p j ∧ (t.partRun p).halt = .restart none
            ∧ (∀ c, (t.core c).worksFor p = false) ∧ t.evt.raised = faulted)
        ∧ (j.serving = true → (s.partRun p).step = none →
          ∃ t, exec (.fabricError source p) s = .next t ∧ t.runs = s.runs ∧ t.cores = s.cores ∧ t.cmds = s.cmds
            ∧ t.evt.raised = faulted)
        ∧ (j.serving = true → ∀ st, (s.partRun p).step = some st →
          (st.faults < 3 → ∃ t, exec (.fabricError source p) s = .next t ∧ RunsJob s t p j ∧ (t.partRun p).halt = .restart none
            ∧ (t.partRun p).step = some { st with faults := st.faults + 1 } ∧ (∀ c, (t.core c).worksFor p = false)
            ∧ t.evt.raised = faulted)
          ∧ (3 ≤ st.faults → ∃ t, exec (.fabricError source p) s = .next t ∧ (t.partRun p).job = none
            ∧ (t.partRun p).halted = true ∧ t.cmd j.cmd = none)))
    ∧ (∀ w, workOf s p = some w → (s.partRun p).halt = .restart none → env.tests = [] →
        (w.j.serving = false → mayRestart w.j w.pl = true → w.j.origin = .start →
          ∃ t j, exec (.jobRestart p tested env) s = .next t ∧ (t.partRun p).job = some j
            ∧ j.restarts = w.j.restarts + 1 ∧ j.seed = w.j.seed ∧ j.bindings = w.j.bindings ∧ j.handle = w.j.handle
            ∧ j.cmd = w.j.cmd ∧ j.execs = [] ∧ j.done = [] ∧ j.pass = 0
            ∧ (t.partRun p).epoch = epochAfter (s.partRun p).epoch ∧ (t.partRun p).halt = .none ∧ t.host = s.host)
        ∧ (w.j.serving = false → w.j.restartAllowed = false →
          ∃ t, exec (.jobRestart p tested env) s = .next t ∧ (t.partRun p).job = none ∧ t.cmd w.j.cmd = none)
        ∧ (w.j.serving = true →
          ∃ t j, exec (.jobRestart p tested env) s = .next t ∧ (t.partRun p).job = some j
            ∧ j.restarts = w.j.restarts ∧ j.handle = w.j.handle ∧ j.cmd = w.j.cmd ∧ j.execs = [] ∧ j.done = []
            ∧ (t.partRun p).epoch = epochAfter (s.partRun p).epoch ∧ (t.partRun p).halt = .none ∧ t.host = s.host))

/-- Memory at work (08 R182, R184, R185, R191, R195, R198, R200). In time, a read of a cached tile is a hit, which stays; any other is a miss, with
those joined to it, and brings the tile into the cache; one that meets an undecodable atom is counted, reported and not cached. A late read is counted and
reported, and with a job, where nothing else happens at that time (R197), ends it. The scrub, while enabled, and reads of Mere count what they
correct and report what they cannot; the patrol sums on-die corrections and retried commands. A lost stack or a channel timeout fails the device, and
its status names the cause. -/
def Obligations.MemoryErrorsCounted : Prop :=
  ∀ (s : State) (p tile a b k n issued joined onDie retries addr : Nat) (byRead done : Bool) (page : Option Nat) (r : AtomRead)
    (cause : StackCause), works s = true → p < 10 → a < 64 → k < 20 → n < 32 →
    let m := (s.basin b).mere
    let channel := atomChannel tile a
    (tilePart s tile = p → homeBasin s p tile = some b → s.now ≤ issued + deadlineNs s p →
      (tile ∈ m.stream → ∀ reads, exec (.tierRead p tile issued joined reads page) s = .next (s.setBasin b { s.basin b with mere := { m with
        hits := satAdd m.hits 1, readBytes := satAdd m.readBytes 4096, stream := useTile (streamRoom s b) tile m.stream } }))
      ∧ (tile ∉ m.stream → ∃ t, exec (.tierRead p tile issued joined [] page) s = .next t
        ∧ (t.basin b).mere = { m with
            misses := satAdd m.misses 1, merges := satAdd m.merges joined, writeBytes := satAdd m.writeBytes 4096
            readBytes := satAdd m.readBytes (4096 * (joined + 1)), stream := useTile (streamRoom s b) tile m.stream }
        ∧ t.hbm = s.hbm ∧ t.host = s.host ∧ t.runs = s.runs)
      ∧ (tile ∉ m.stream → r.atom / 64 = tile → (atomOutcome s r).lost = true → (s.partRun p).job = none →
        ∃ t, exec (.tierRead p tile issued joined [r] page) s = .next t
        ∧ (t.basin b).mere = { m with misses := satAdd m.misses 1, merges := satAdd m.merges joined }
        ∧ t.evt.raised = s.evt.raised ++ [⟨s.now, srcStack ((atomAt r.atom).1 / 32), evHbmUe, p,
            atomDetail (atomAt r.atom).1 (atomAt r.atom).2, none⟩] ∧ t.runs = s.runs))
    ∧ (tilePart s tile = p → issued + deadlineNs s p ≤ s.now →
        ((s.partRun p).job = none → ∃ t, exec (.tierReadLate p tile a issued page) s = .next t
          ∧ (t.stack (channel / 32)).late = satAdd (s.stack (channel / 32)).late 1
          ∧ t.evt.raised = s.evt.raised ++ [⟨s.now, srcStack (channel / 32), evTierLate, p,
              atomDetail channel (atomIndex tile), none⟩]
          ∧ t.hbm = s.hbm ∧ t.host = s.host ∧ t.runs = s.runs)
        ∧ (∀ j, (s.partRun p).job = some j → (s.partRun p).halt = .none → s.pending = [] → page = none ∨ j.serving = false →
          ∃ t, exec (.tierReadLate p tile a issued page) s = .next t ∧ (t.partRun p).job = none ∧ t.cmd j.cmd = none))
    ∧ (b < 10 → (s.basin b).withdrawn = false → addr < 2 ^ 30 →
        (byRead = false → m.scrubEn = false → ∀ found, exec (.mereScrub b addr byRead found) s = .next s)
        ∧ (byRead = true ∨ m.scrubEn = true →
          exec (.mereScrub b addr byRead .corrected) s = .next (s.setBasin b { s.basin b with mere := { m with
            ce := satAdd m.ce 1 } })
          ∧ ∃ t, exec (.mereScrub b addr byRead (.uncorrectable .free)) s = .next t
            ∧ (t.basin b).mere = { m with ue := satAdd m.ue 1, ueLast := BitVec.ofNat 30 (addr / 8 * 8) }
            ∧ t.evt.raised = s.evt.raised ++ [⟨s.now, srcBasin b, evMereUe, basinPart s b, toLe 8 addr, none⟩]
            ∧ t.runs = s.runs ∧ t.host = s.host ∧ t.hbm = s.hbm))
    ∧ ((s.stack k).inService = true →
        let v := { s.stack k with ce := satAdd (s.stack k).ce onDie, retried := satAdd (s.stack k).retried retries }
        exec (.hbmPatrol k [] onDie retries done) s = .next (s.setStack k (if (s.stack k).patrolEn then
          { v with readBytes := satAdd v.readBytes (if done then 96000000000 else 0)
                   patrol := satAdd v.patrol (if done then 1 else 0) } else v)))
    ∧ ((s.stack k).failed = false →
        (∃ t, exec (.hbmChannelTimeout k n) s = .next t ∧ t.run.failed = true ∧ (t.stack k).failed = true
          ∧ (t.stack k).failCause = 3 ∧ (t.stack k).failChannel = BitVec.ofNat 5 n ∧ (∀ c ∈ t.cmds, worksFailed c.desc = true))
        ∧ (∃ t, exec (.stackLost k cause n) s = .next t ∧ t.run.failed = true ∧ (t.stack k).inService = false
          ∧ (t.stack k).failCause = stackCode cause ∧ (∀ c ∈ t.cmds, worksFailed c.desc = true)))

/-! The work of jobs. -/

/-- Strips (06 R126, R136 to R140): an operation opens with an empty scoreboard; a fetch gives a core its strip and a claim, to run now or,
on a core that runs one, after it, and a fetch that finds none is only counted; a computed strip is granted once and committed DONE
with its values, its claim over, and a combine task becomes due with the last part of its block; any other request is counted as a
duplicate. A dead core's claims return to the reissue lists, its grants are open again, and no other claim changes. -/
def Obligations.StripsClaimedOnceAndCommitted : Prop :=
  ∀ (s : State) (p op core n : Nat) (combine : Bool) (w : Work) (e : Exec),
    works s = true → p < 10 → core < 1500 → workOf s p = some w →
    let epoch := (s.partRun p).epoch
    let strip : Strip := { part := p, op := op, strip := n, epoch := epoch, combine := combine }
    (mayOpen w op = true →
      ∃ t j d, exec (.operationOpen p op) s = .next t ∧ RunsJob s t p j ∧ j.exec op = some d
        ∧ d.index = w.j.doneOf op ∧ d.total = stripTotal (opAt w.pl.image op) ∧ d.board = [] ∧ d.claims = [] ∧ d.values = []
        ∧ (∀ x, x ≠ op → (j.exec x).isSome = (w.j.exec x).isSome) ∧ t.cores = s.cores)
    ∧ (basinPart s (coreBasin core) = p → (s.core core).ahead = none →
        (fetched s core op epoch.toNat = none → ∃ t, exec (.stripFetch core op epoch.toNat) s = .next t
          ∧ t.runs = s.runs ∧ t.cores = s.cores
          ∧ ∀ b, leadBasin s p = some b → (t.basin b).wrk.fetches = satAdd (s.basin b).wrk.fetches 1)
        ∧ (fetched s core op epoch.toNat = some (w, (n, combine), e) →
          ∃ t j d, exec (.stripFetch core op epoch.toNat) s = .next t ∧ RunsJob s t p j ∧ j.exec op = some d
            ∧ { strip := n, core := (s.core core).logical.toNat, phys := core, combine := combine } ∈ d.claims
            ∧ ((s.core core).running = none → (t.core core).curOp = BitVec.ofNat 32 op
                ∧ (t.core core).curStrip = BitVec.ofNat 32 n ∧ ∃ k, (t.core core).running = some { strip with taken := k })
            ∧ (∀ x, (s.core core).running = some x → (∃ k, (t.core core).running = some { x with taken := k })
                ∧ ∃ k, (t.core core).ahead = some { strip with taken := k })
            ∧ ∀ c, c ≠ core → t.core c = s.core c))
    ∧ (w.j.exec op = some e → ∀ x, (s.core core).running = some x → x.part = p → x.op = op → x.strip = n → x.combine = combine →
        (x.computed = false → x.epoch = epoch →
          ∃ t, exec (.stripComputeDone core) s = .next t
            ∧ (t.core core).running = some { x with
                computed := true, values := (stripValues w (coreBasin core) e x).values
                taken := x.taken + (stripBlocks w x).length }
            ∧ (t.core core).beats = satAdd (s.core core).beats (stripBeats w x)
            ∧ t.runs = s.runs ∧ t.plans = s.plans ∧ t.host = s.host ∧ t.hbm = s.hbm ∧ t.cmds = s.cmds)
        ∧ (x.computed = true → (s.core core).role = 0 →
          (Tab.find e.board (boardKey n combine) = none →
            ∃ t j d, exec (.commitRequest core p op n epoch.toNat) s = .next t ∧ RunsJob s t p j ∧ j.exec op = some d
              ∧ Tab.find d.board (boardKey n combine) = some (.granted core) ∧ d.claims = e.claims ∧ t.cores = s.cores)
          ∧ (Tab.find e.board (boardKey n combine) ≠ none →
            ∃ t, exec (.commitRequest core p op n epoch.toNat) s = .next t ∧ t.runs = s.runs ∧ t.cores = s.cores
              ∧ ∀ b, leadBasin s p = some b → (t.basin b).wrk.dupCommits = satAdd (s.basin b).wrk.dupCommits 1))
        ∧ (x.computed = true → Tab.find e.board (boardKey n combine) = some (.granted core) →
          (combine = false → Tab.find e.board (boardKey n true) ≠ some (.granted core)) →
          ∃ t j d, exec (.stripCommitDone core p op n epoch.toNat) s = .next t ∧ RunsJob s t p j ∧ j.exec op = some d
            ∧ Tab.find d.board (boardKey n combine) = some .done
            ∧ (∀ c ∈ d.claims, ¬ (c.strip = n ∧ c.combine = combine))
            ∧ ((opAt w.pl.image op).parts = 1 ∨ combine = true → Tab.find d.values n = some x.values)
            ∧ ((opAt w.pl.image op).parts ≠ 1 → combine = true → n ∈ d.combined)
            ∧ ((opAt w.pl.image op).parts ≠ 1 → combine = false → Tab.find d.parts n = some x.values
                ∧ (let r := opAt w.pl.image op
                   let first := n / r.parts * r.parts
                   (∀ k < r.parts, Tab.find d.board (first + k) = some .done) → ∃ c, (c, first, true) ∈ d.reissue))
            ∧ (t.core core).strips = satAdd (s.core core).strips (if combine then 0 else 1)
            ∧ ((s.core core).ahead = none → (t.core core).running = none)
            ∧ (∀ a, (s.core core).ahead = some a → ∃ k, (t.core core).running = some { a with taken := k })
            ∧ ∀ c, c ≠ core → t.core c = s.core c))
    ∧ (basinPart s (coreBasin core) = p → (s.core core).role = 2 → (s.partRun p).halt.isRestart = false →
        ∃ t j, exec (.stripReissue core) s = .next t ∧ (t.partRun p).job = some j
          ∧ j.execs.map Exec.op = w.j.execs.map Exec.op
          ∧ (∀ d ∈ j.execs, (∀ c ∈ d.claims, c.phys ≠ core) ∧ ∀ y ∈ d.board, y.2 ≠ .granted core)
          ∧ (∀ x ∈ w.j.execs, ∃ d ∈ j.execs, d.op = x.op ∧ ∀ c ∈ x.claims,
              (c.phys = core → (counterOf s p w.pl.image x.op c.strip, c.strip, c.combine) ∈ d.reissue)
              ∧ (c.phys ≠ core → c ∈ d.claims))
          ∧ t.host = s.host ∧ t.hbm = s.hbm ∧ t.cmds = s.cmds ∧ t.cores = s.cores)

/-- An operation that may complete is over (06 R126): it leaves the open ones and counts as run once more, or the job ends and its
command completes. Sounding (03 R56, R57): a mismatch is counted for the core that computed the strip and waits for arbitration; a
portion that agrees is settled, and counts as checked once every portion of its strip-tile is. Arbitration reports the mismatch and declares
the cores that it blames dead, and the job restarts or ends as a hardware fault. -/
def Obligations.OperationsCompleteUnderSounding : Prop :=
  ∀ (s : State) (p op n tile : Nat) (w : Work) (e : Exec) (d : Portion) (env : Env) (second : Arbiter),
    works s = true → (s.partRun p).halt.isRestart = false → workOf s p = some w →
    let coreOf := fun k => Tab.get e.ranBy k 0 % 65536
    let counts := fun b => (s.basin b).num.countEn && !(s.basin b).num.freeze
    (w.j.exec op = some e → mayComplete w e = true → CleanEnv env →
      ∃ t, exec (.operationComplete p op env) s = .next t
        ∧ (((t.partRun p).job = none ∧ t.cmd w.j.cmd = none)
          ∨ ∃ j, (t.partRun p).job = some j ∧ j.exec op = none ∧ j.doneOf op = w.j.doneOf op + 1 ∧ j.handle = w.j.handle
            ∧ j.seed = w.j.seed))
    ∧ (portionAt w op n tile .pending = some (e, d) →
        (let b := coreBasin (coreOf n)
         let r := s.basin b
         ∃ t j c, exec (.soundingCheck p op n tile false) s = .next t ∧ RunsJob s t p j
          ∧ t.basin b = { r with num := { r.num with
              mismatch := if counts b then satAdd r.num.mismatch 1 else r.num.mismatch
              status := r.num.status ||| 1 } }
          ∧ j.exec op = some c ∧ (∀ y ∈ c.portions, y.strip = n → y.tile = tile → y.verdict = .mismatch))
        ∧ (let same := (e.settle n tile .settled).portions.filter (sameTile (opAt w.pl.image op) d)
           let b := coreBasin (coreOf (firstPortion d same).strip)
           ∃ t j c, exec (.soundingCheck p op n tile true) s = .next t ∧ RunsJob s t p j ∧ j.exec op = some c
            ∧ (∀ y ∈ c.portions, y.strip = n → y.tile = tile → y.verdict = .settled)
            ∧ (∀ x, (t.basin x).num.mismatch = (s.basin x).num.mismatch)
            ∧ (t.basin b).num.checked = (if (same.all fun y => y.verdict == .settled) && counts b
                then satAdd (s.basin b).num.checked 1 else (s.basin b).num.checked)
            ∧ ∀ x, x ≠ b → (t.basin x).num.checked = (s.basin x).num.checked))
    ∧ (portionAt w op n tile .mismatch = some (e, d) →
        ∃ t, exec (.soundingArbitration p op n tile second) s = .next t
          ∧ (∀ c ∈ blamed (coreOf n) (checkerOf s (Tab.get e.ranBy n 0 / 65536) 1) second, (t.core c).role = 2)
          ∧ (∃ v more, t.evt.raised = s.evt.raised ++ v :: more ∧ v.code = evSoundingMismatch ∧ v.source = coreOf n)
          ∧ (w.j.serving = false ∨ (s.partRun p).step ≠ none →
              (t.partRun p).job = none ∨ (t.partRun p).halt.isRestart = true))

/-- Serving steps (15 R334 to R336, R344): a step is formed from what the forming gives, never more tokens than the partition's
budget and no part longer than 256; when every operation has run once the step ends and is counted, and the job's operations are to run
again. -/
def Obligations.ServingStepsFormAndEnd : Prop :=
  ∀ (s : State) (p : Nat) (w : Work) (env : Env), works s = true → workOf s p = some w → w.j.serving = true →
    (let f := formStep p w.j.handle w.pl (tokenBudget s p) (planRequests s p w.j.handle).length s
     (s.partRun p).step = none → switchWaits s p = false → (s.partRun p).halt = .none → (s.partRun p).halted = false →
     w.pl.damaged = false → f.parts ≠ [] →
      ∃ t st, exec (.servingStepForm p) s = .next t ∧ (t.partRun p).step = some st ∧ st.parts = f.parts
        ∧ st.startedAt = s.now ∧ st.faults = 0 ∧ st.ended = []
        ∧ (st.parts.map StepPart.count).sum ≤ tokenBudget s p ∧ (∀ q ∈ st.parts, q.count ≤ 256)
        ∧ (∀ j, (t.partRun p).job = some j → j.execs = [] ∧ j.done = []) ∧ t.mtc = s.mtc ∧ t.hbm = s.hbm)
    ∧ (∀ st, (s.partRun p).step = some st → (s.partRun p).halt.isRestart = false → w.j.execs = [] →
        allRun w.pl.image w.j = true → CleanEnv env →
        let rows := (st.parts.filter StepPart.decode).length
        ∃ t, exec (.servingStepEnd p env) s = .next t ∧ (t.partRun p).step = none
          ∧ (t.partRun p).steps = satAdd (s.partRun p).steps 1
          ∧ (t.partRun p).decodeTokens = satAdd (s.partRun p).decodeTokens rows
          ∧ (t.partRun p).prefillTokens = satAdd (s.partRun p).prefillTokens ((st.parts.map StepPart.count).sum - rows)
          ∧ (∀ j, (t.partRun p).job = some j → j.execs = [] ∧ j.done = []) ∧ t.hbm = s.hbm ∧ t.fuses = s.fuses)

/-- Collectives (12 R281, R282): rank 0 keeps each rank's ready mark and, with the last of them, sets the chunk's start; another rank
takes the start it is told, and starts at once, counted as late, where machine time has passed it; a chunk starts when machine time has
reached it, its own part in place; a chunk that has not completed in time, and an abort of its machine job, end the job as a lost
peer; an abort of no running job does nothing. -/
def Obligations.CollectivesStartAndAbort : Prop :=
  ∀ (s : State) (p op chunk mjob rank now : Nat) (w : Work) (e : Exec) (c : Chunk) (r : Ranks), works s = true →
    (mjobPart s mjob = none → exec (.peerAbort mjob) s = .next s)
    ∧ (mjobPart s mjob = some p → ∀ j, (s.partRun p).job = some j →
        ∃ t, exec (.peerAbort mjob) s = .next t ∧ (t.partRun p).job = none ∧ t.cmd j.cmd = none)
    ∧ (chunkOf s p op chunk = some (w, e, c) → ranksOf w.j (collBlock w.pl.image op) = some r →
        let b := collBlock w.pl.image op
        let own := rankOf r (devnum s)
        (mjobPart s mjob = some p → r.mjob = mjob → op < hOps w.pl.image → own = 0 → rank < r.devices.length →
          c.start = none → (∀ m ∈ c.marks, m.1 ≠ rank) →
          let c' := { c with marks := c.marks ++ [(rank, now)] }
          ∃ t j d, exec (.readyMark mjob op chunk rank now) s = .next t ∧ RunsJob s t p j ∧ j.exec op = some d
            ∧ Tab.get d.chunks chunk ({} : Chunk) =
              if (List.range r.devices.length).all fun k => c'.marks.any fun m => m.1 == k
              then { c' with start := some (agreedStart b (c'.marks.map Prod.snd) s.now) } else c')
        ∧ (mjobPart s mjob = some p → c.ready = true → c.start = none →
          (s.now ≤ now → ∃ t j d, exec (.startTimeReceive mjob op chunk now) s = .next t ∧ RunsJob s t p j
            ∧ j.exec op = some d ∧ Tab.get d.chunks chunk ({} : Chunk) = { c with start := some now })
          ∧ (now < s.now → ∃ t j d, exec (.startTimeReceive mjob op chunk now) s = .next t
            ∧ (t.partRun p).job = some j ∧ j.exec op = some d
            ∧ (Tab.get d.chunks chunk ({} : Chunk)).start = some now ∧ (Tab.get d.chunks chunk ({} : Chunk)).started = true
            ∧ t.mtc.lateStarts = satAdd s.mtc.lateStarts 1))
        ∧ (∀ u, c.start = some u → u ≤ s.now → c.started = false →
          ∃ t j d, exec (.collectiveChunkStart p op chunk) s = .next t ∧ RunsJob s t p j ∧ j.exec op = some d
            ∧ (Tab.get d.chunks chunk ({} : Chunk)).started = true
            ∧ Tab.get (Tab.get d.chunks chunk ({} : Chunk)).parts own [] =
              match sentFrom b own own chunk with
              | some k => (w.provisional b).contribution b k
              | none => [])
        ∧ (∀ u, c.start = some u → u + zeroSelects s.mtc.collMs 100 * 1000000 < s.now → chunkDone s w op c = false →
          ∃ t, exec (.collectiveTimeout p op chunk) s = .next t ∧ (t.partRun p).job = none ∧ t.cmd w.j.cmd = none))

/-! Jobs. -/

/-- Commands that begin a job (06 R133, R134, 14 R323): JOB_START, JOB_RESUME and CTX_RESTORE wait for the partition once
their checks pass, with nothing else changed. JOB_BEGIN then runs the first: a start from its bindings, rank tables and seed under the next epoch,
the seed reported where it asks, while a job that was pre-empted goes on waiting; a resumed job as it was left, under the same epoch. -/
def Obligations.JobsQueueAndBegin : Prop :=
  ∀ (s : State) (f q p : Nat) (d : List Byte) (env : Env),
    let u := (takeHead s f q d).1
    let c := takenCmd s f q d
    let queued := fun t : State => t.cmd s.nextId = some { c with state := .queued } ∧ Untouched s t ∧ t.host = s.host
    (Runs 0x0020 s f q d → jobStartEarly u c = none → ∃ t, exec (.jobStart f q env) s = .next t ∧ queued t)
    ∧ (Runs 0x0025 s f q d → restoreEarly u c = none → ∃ t, exec (.ctxRestore f q env) s = .next t ∧ queued t)
    ∧ (Runs 0x0022 s f q d → ∀ j, (s.partRun (dPart d)).preempted = some j → j.handle = dHandle d →
        ∃ t, exec (.jobResume f q env) s = .next t ∧ queued t)
    ∧ (works s = true → (s.partRun p).job = none → switchWaits s p = false → CleanEnv env →
        ∀ k pl, nextStart s p = some k → s.plan p (dHandle k.desc) = some pl → planBars s p pl = none → hOps pl.image ≠ 0 →
        (let table := Mem.readN s.host (jsBind k.desc) (16 * jsCount k.desc)
         let bs := bindEntries table (jsCount k.desc)
         let ranks := rankTables s p pl.image bs
         dOpcode k.desc = 0x0020 → inWindows s k.fn (jsBind k.desc) (16 * jsCount k.desc) = true →
         bindingsClean table (jsCount k.desc) = true → bindingsOk pl.image bs = true → bindingsInQuota s p pl.image bs = true →
         (∀ r ∈ ranks, rankStatus s p r.1 pl.image r.2 = none) → (jsSeed k.desc ≠ 0 ∨ hKind pl.image = 1) →
         (jsReport k.desc = 0 ∨ inWindows s k.fn (jsReport k.desc) 8 = true) →
         ∃ t j, exec (.jobBegin p env) s = .next t ∧ (t.partRun p).job = some j ∧ j.handle = dHandle k.desc ∧ j.cmd = k.id
          ∧ j.seed = BitVec.ofNat 64 (jsSeed k.desc) ∧ j.bindings = bs ∧ j.ranks = ranks.map Prod.snd
          ∧ j.restarts = 0 ∧ j.execs = [] ∧ j.done = []
          ∧ (t.partRun p).epoch = epochAfter (s.partRun p).epoch ∧ (t.partRun p).halt = .none
          ∧ (t.partRun p).preempted = (s.partRun p).preempted
          ∧ (∃ k', t.cmd k.id = some k' ∧ k'.state = .running)
          ∧ t.host = (if jsReport k.desc = 0 then s.host else Mem.writeN s.host (jsReport k.desc) (toLe 8 j.seed.toNat))
          ∧ t.hbm = s.hbm)
        ∧ (dOpcode k.desc = 0x0022 → ∀ j, (s.partRun p).preempted = some j → j.handle = dHandle k.desc →
          ∃ t, exec (.jobBegin p env) s = .next t ∧ (t.partRun p).job = some { j with cmd := k.id }
            ∧ (t.partRun p).preempted = none ∧ (t.partRun p).epoch = (s.partRun p).epoch ∧ (t.partRun p).halt = .none
            ∧ (∃ k', t.cmd k.id = some k' ∧ k'.state = .running) ∧ t.host = s.host ∧ t.hbm = s.hbm))

/-- A pre-empted job does not count as running, and another plan's job may start while it waits; a pre-emption taken while another
job of the partition is pre-empted completes with ST_DENIED, and no job changes (15 R337). -/
def Obligations.PreemptedJobWaits : Prop :=
  ∀ (s : State) (f q : Nat) (d : List Byte) (env : Env) (w : Work) (j : Job),
    Runs 0x0021 s f q d → runsPlan s (dPart d) (dHandle d) = some w → (s.partRun (dPart d)).preempted = some j →
    (∃ t, exec (.jobPreempt f q env) s = .next t ∧ CompletesWith s t f q d stDenied ∧ t.runs = s.runs ∧ t.plans = s.plans
      ∧ t.hbm = s.hbm ∧ ∀ x, NotInEntry s f q x → Mem.read t.host x = Mem.read s.host x)
    ∧ (∀ (p : Nat) (k : Cmd) (pl : Plan), works s = true → (s.partRun p).job = none → switchWaits s p = false →
        nextStart s p = some k → dOpcode k.desc = 0x0020 → s.plan p (dHandle k.desc) = some pl → planBars s p pl = none →
        jsCount k.desc = 0 → slotsUsed pl.image = [] → jsSeed k.desc ≠ 0 → jsReport k.desc = 0 → hOps pl.image ≠ 0 →
        dPart k.desc = p → bindingsInQuota s p pl.image [] = true → (s.partRun p).preempted ≠ none →
        ∃ t j', exec (.jobBegin p env) s = .next t ∧ (t.partRun p).job = some j' ∧ j'.handle = dHandle k.desc
          ∧ (t.partRun p).preempted = (s.partRun p).preempted)

/-- Pre-emption and cancellation (14 R323, R324, 15 R338, R339). JOB_PREEMPT halts the plan's running job: the cores of a clip job give
back what they fetched ahead, and a serving job only forms no new step; it joins a restart that is due and waits behind a save
or another pre-emption; with no job of the plan running it completes with ST_BAD_DESC. Once the job has drained, it leaves the partition, its tiles out of Mere,
kept for a JOB_RESUME unless a save that stops it was waiting, and both commands are over. JOB_CANCEL ends the plan's running,
pre-empted and waiting jobs with their commands and leaves the others; with nothing to end it completes with ST_OK, and without the
plan with ST_NO_PLAN. -/
def Obligations.PreemptionAndCancellation : Prop :=
  ∀ (s : State) (f q p id : Nat) (d : List Byte) (env : Env) (w : Work),
    let part := dPart d
    let h := dHandle d
    (Runs 0x0021 s f q d →
      (runsPlan s part h = none → ∃ t, exec (.jobPreempt f q env) s = .next t ∧ CompletesWith s t f q d stBadDesc
        ∧ t.runs = s.runs ∧ t.cores = s.cores)
      ∧ (runsPlan s part h = some w → (s.partRun part).preempted = none →
        ((s.partRun part).halt = .none →
          ∃ t j, exec (.jobPreempt f q env) s = .next t ∧ (t.partRun part).halt = .preempt s.nextId
            ∧ (t.partRun part).switchAt = some s.now ∧ (t.partRun part).job = some j ∧ j.handle = w.j.handle ∧ j.seed = w.j.seed
            ∧ j.done = w.j.done ∧ (w.j.serving = true → j = w.j ∧ t.cores = s.cores)
            ∧ (w.j.serving = false → (∀ k x, (t.core k).ahead = some x → x.part ≠ part)
                ∧ ∀ k x e, (s.core k).ahead = some x → x.part = part → w.j.exec x.op = some e →
                    ∃ e', j.exec x.op = some e' ∧ (counterOf s part w.pl.image x.op x.strip, x.strip, x.combine) ∈ e'.reissue
                      ∧ ∀ y ∈ e'.claims, ¬ (y.strip = x.strip ∧ y.combine = x.combine))
            ∧ (t.cmd s.nextId).isSome = true ∧ t.host = s.host ∧ t.hbm = s.hbm ∧ t.plans = s.plans)
        ∧ ((s.partRun part).halt = .restart none →
          ∃ t, exec (.jobPreempt f q env) s = .next t ∧ (t.partRun part).halt = .restart (some s.nextId)
            ∧ (t.partRun part).job = some w.j ∧ (t.cmd s.nextId).isSome = true ∧ t.cores = s.cores ∧ t.host = s.host)
        ∧ (∀ k, (s.partRun part).halt = .save k ∨ (s.partRun part).halt = .preempt k →
          ∃ t c, exec (.jobPreempt f q env) s = .next t ∧ t.cmd s.nextId = some c ∧ c.state = .waiting ∧ t.runs = s.runs
            ∧ t.cores = s.cores ∧ t.host = s.host)))
    ∧ (works s = true → workOf s p = some w → (s.partRun p).halt = .preempt id → drained w = true → env.fault = false →
        ∃ t, exec (.preemptDrained p env) s = .next t ∧ (t.partRun p).job = none ∧ (t.partRun p).halt = .none
          ∧ ((∃ j, (t.partRun p).preempted = some j ∧ j.handle = w.j.handle ∧ j.seed = w.j.seed ∧ j.done = w.j.done
                ∧ j.bindings = w.j.bindings ∧ j.execs.map Exec.op = w.j.execs.map Exec.op)
            ∨ ((t.partRun p).preempted = none ∧ ∃ c ∈ waitingSaves s p w.j.handle, xsStop c.desc = true))
          ∧ (t.partRun p).switches = satAdd (s.partRun p).switches 1 ∧ (∀ k, (t.core k).worksFor p = false)
          ∧ (∀ b ∈ liveBasins s p, (t.basin b).mere.stream = [])
          ∧ t.cmd id = none ∧ t.cmd w.j.cmd = none ∧ t.hbm = s.hbm)
    ∧ (Runs 0x0023 s f q d →
        (s.plan part h = none → ∃ t, exec (.jobCancel f q env) s = .next t ∧ CompletesWith s t f q d stNoPlan
          ∧ t.runs = s.runs)
        ∧ ((s.plan part h).isSome = true →
          ∃ t, exec (.jobCancel f q env) s = .next t ∧ t.cmd s.nextId = none ∧ runsPlan t part h = none
            ∧ (∀ j, (t.partRun part).preempted = some j → j.handle ≠ h)
            ∧ (∀ k ∈ waitingStarts s part h, t.cmd k.id = none)
            ∧ (∀ v, runsPlan s part h = some v → t.cmd v.j.cmd = none)
            ∧ (∀ j, (s.partRun part).job = some j → j.handle ≠ h → (t.partRun part).job = some j)
            ∧ t.hbm = s.hbm ∧ t.fuses = s.fuses
            ∧ (runsPlan s part h = none → (∀ j, (s.partRun part).preempted = some j → j.handle ≠ h) →
                waitingStarts s part h = [] → CompletesWith s t f q d stOk ∧ t.runs = s.runs)))

/-- Context saves (06 R142). A save that starts halts the job's fetches with its length shown and reported, what cores fetched ahead given
back; too long an image for its buffer ends it with ST_BAD_DESC; behind another halt it waits. When the job has
drained the image is written: to the host, and to no other byte but the report and the completion entry, or to an object of the store that is then
sealed and visible; and the job goes on, or leaves where the save was to stop it. -/
def Obligations.ContextSavesWriteImage : Prop :=
  ∀ (s : State) (f q p id : Nat) (d : List Byte) (env : Env) (w : Work) (c : Cmd),
    (let part := dPart d
     let u := startedState s f q d
     let n := imageLength { w with s := u } (xsKind d)
     Runs 0x0024 s f q d → saveStatus u (runningCmd s f q d) = none → runsPlan s part (dHandle d) = some w →
      ((s.partRun part).halt = .none →
        (xsObject d = false → xsCapacity d < n →
          ∃ t, exec (.ctxSave f q env) s = .next t ∧ CompletesWith s t f q d stBadDesc ∧ t.runs = s.runs ∧ t.cores = s.cores)
        ∧ (xsObject d = true ∨ n ≤ xsCapacity d →
          ∃ t j, exec (.ctxSave f q env) s = .next t ∧ (t.partRun part).halt = .save s.nextId
            ∧ (t.partRun part).job = some j ∧ j.handle = w.j.handle ∧ j.done = w.j.done
            ∧ (∀ b, leadBasin s part = some b → (t.basin b).wrk.ctxLen = BitVec.ofNat 64 n)
            ∧ (∀ k x, (t.core k).ahead = some x → x.part ≠ part)
            ∧ (xsObject d = true → ∃ o, Tab.find t.medium.objects (xsDst d) = some o ∧ o.visible = false ∧ o.bytes = []
                ∧ o.owner = f)
            ∧ (t.cmd s.nextId).isSome = true ∧ t.hbm = s.hbm
            ∧ t.host = if xsReport d = 0 then s.host else Mem.writeN s.host (xsReport d) (toLe 8 n)))
      ∧ ((s.partRun part).halt ≠ .none →
        ∃ t k, exec (.ctxSave f q env) s = .next t ∧ t.cmd s.nextId = some k ∧ k.state = .waiting ∧ t.runs = s.runs
          ∧ t.cores = s.cores ∧ t.host = s.host))
    ∧ (works s = true → workOf s p = some w → (s.partRun p).halt = .save id → s.cmd id = some c → drained w = true →
        CleanEnv env → saveWindows s c = true →
        let img := contextImage { w with s := (chargeCmd s c env.charge).1 } (xsKind c.desc)
        let entry := (s.cq c.fn c.cq).base.toNat * 4096 + (s.cq c.fn c.cq).tail.toNat * 32
        let dst := xsDst c.desc
        let rep := xsReport c.desc
        let fits := if xsObject c.desc then storeFull s c.fn img.length false = false else img.length ≤ xsCapacity c.desc
        ∃ t, exec (.ctxSaveWrite p env) s = .next t ∧ (t.partRun p).halt = .none ∧ t.cmd id = none ∧ t.hbm = s.hbm
          ∧ (xsStop c.desc = false ∨ ¬ fits → (t.partRun p).job = some w.j)
          ∧ (xsStop c.desc = true → fits → (t.partRun p).job = none ∧ t.cmd w.j.cmd = none)
          ∧ (xsStop c.desc = false → fits → inWindows s c.fn entry 32 = true →
              leNat (Mem.readN t.host entry 4) = dTag c.desc ∧ leNat (Mem.readN t.host (entry + 4) 2) = stOk
              ∧ (xsObject c.desc = false →
                ((dst + img.length ≤ entry ∨ entry + 32 ≤ dst) → Mem.readN t.host dst img.length = img)
                ∧ ∀ x, (x < dst ∨ dst + img.length ≤ x) → (x < entry ∨ entry + 32 ≤ x) →
                    (rep = 0 ∨ x < rep ∨ rep + 8 ≤ x) → Mem.read t.host x = Mem.read s.host x)
              ∧ (xsObject c.desc = true → dOpcode c.desc = 0x0024 → systemObject dst = false →
                ∀ b, Tab.find s.medium.objects dst = some b → b.visible = false → b.writer = id →
                  ∃ o, Tab.find t.medium.objects dst = some o ∧ o.bytes = b.bytes ++ img ∧ o.visible = true ∧ o.isSealed = true)))

/-! Commands of the device. -/

/-- NOP (14 R321): with a byte of 32 to 127 set it completes with ST_BAD_DESC; else it completes with ST_OK once it starts, and with
fence_before set every earlier command of its ring has completed by then, or is a sequence command already accepted (R314).
Nothing but the command path, the accounts and its completion entry changes. -/
def Obligations.NopCompletes : Prop :=
  ∀ (s : State) (f q : Nat) (d : List Byte) (env : Env),
    (Runs 0x0001 s f q d →
      (∃ t, exec (.nop f q env) s = .next t ∧ CompletesWith s t f q d stOk ∧ Untouched s t
        ∧ ∀ x, NotInEntry s f q x → Mem.read t.host x = Mem.read s.host x)
      ∧ (dFence d = true → ∀ c ∈ s.cmds, c.fn = f → c.sq = q → c.state = .accepted))
    ∧ (lookAt s f q = .found d → dOpcode d = 0x0001 → allZero (d.drop 32) = false → (s.sq f q).chain ≠ .broken →
        orderWaits (takeHead s f q d).1 (takenCmd s f q d) = false → EntryFits s f q → s.Inv →
        ∃ t, exec (.nop f q env) s = .next t ∧ CompletesWith s t f q d stBadDesc ∧ Untouched s t)

/-- COPY (14 R322) moves bytes unchanged: from the host to the partition's HBM, from there to the host, and within the HBM. Every
other byte of both memories but those of the completion entry stays, and the command completes with ST_OK. Its checks end it with the first
status that applies, and nothing moved. -/
def Obligations.CopyMovesBytes : Prop :=
  ∀ (s : State) (f q : Nat) (d : List Byte) (env : Env),
    Runs 0x0040 s f q d →
    (∀ st, copyStatus (startedState s f q d) (runningCmd s f q d) = some st →
      ∃ t, exec (.copy f q env) s = .next t ∧ CompletesWith s t f q d st ∧ t.hbm = s.hbm
        ∧ ∀ x, NotInEntry s f q x → Mem.read t.host x = Mem.read s.host x)
    ∧ (copyStatus (startedState s f q d) (runningCmd s f q d) = none → CleanEnv env →
      ∀ r, Tab.find s.parts (dPart d) = some r →
      let p := dPart d
      let n := cpLen d
      ∃ t, exec (.copy f q env) s = .next t ∧ CompletesWith s t f q d stOk ∧ t.parts = s.parts ∧ t.runs = s.runs
        ∧ (cpDir d = 1 → t.hbm = s.hbm
            ∧ (ApartFromEntry s f q (cpDst d) n → Mem.readN t.host (cpDst d) n = partRead s p (cpSrc d) n)
            ∧ ∀ x, NotInEntry s f q x → (x < cpDst d ∨ cpDst d + n ≤ x) → Mem.read t.host x = Mem.read s.host x)
        ∧ (cpDir d ≠ 1 → (∀ x, NotInEntry s f q x → Mem.read t.host x = Mem.read s.host x)
            ∧ (∀ y, (∀ i < n, mapAddr r.extents (cpDst d + i) ≠ some y) → Mem.read t.hbm y = Mem.read s.hbm y)
            ∧ (Backed r.extents (cpDst d) n → partRead t p (cpDst d) n =
                if cpDir d = 0 then Mem.readN s.host (cpSrc d) n else partRead s p (cpSrc d) n)))

/-- Plans (06 R131, R132): an image from the host or from an object of the store that passes the checks and fits is loaded, measured by SHA3-512 at that
time, the command completing with ST_OK; one that fails the checks completes with its status, one that does not fit with
ST_REFUSED_FIT, and neither loads anything; an unload of a plan that nothing uses takes the plan and its requests away, and leaves every other
plan; of one in use it is denied, and of none it is ST_NO_PLAN. -/
def Obligations.PlansLoadAndUnload : Prop :=
  ∀ (s : State) (f q : Nat) (d : List Byte) (env : Env) (img : List Byte),
    let u := startedState s f q d
    let c := runningCmd s f q d
    let part := dPart d
    let h := dHandle d
    let stored := s.fls.online = true ∧ plSrc d ≠ 0 ∧ ∃ b, readsObject s (plSrc d) = some b ∧ seesObject f (plSrc d) b = true
      ∧ b.isSealed = true ∧ plLength d ≤ b.bytes.length ∧ img = b.bytes.take (plLength d)
    (Runs 0x0010 s f q d → CleanEnv env → loadStatus u c = none →
      (if plHost d = true then img = Mem.readN s.host (plSrc d) (plLength d) else stored) →
      ((checkImage img (plLength d) = none → fitCheck s part img = [] →
        ∃ t pl, exec (.planLoad f q env) s = .next t ∧ CompletesWith s t f q d stOk ∧ t.plan part h = some pl
          ∧ pl.image = img ∧ pl.measure = sha3_512 img ∧ pl.loadedAt = s.now ∧ pl.damaged = false ∧ pl.stale = false
          ∧ (∀ p' h', planKey p' h' ≠ planKey part h → t.plan p' h' = s.plan p' h') ∧ t.hbm = s.hbm ∧ t.parts = s.parts)
      ∧ (checkImage img (plLength d) = none → fitCheck s part img ≠ [] →
        ∃ t, exec (.planLoad f q env) s = .next t ∧ CompletesWith s t f q d stRefusedFit ∧ t.plans = s.plans ∧ t.hbm = s.hbm
          ∧ t.parts = s.parts)
      ∧ (∀ st, checkImage img (plLength d) = some st → st < 65536 →
        ∃ t, exec (.planLoad f q env) s = .next t ∧ CompletesWith s t f q d st ∧ t.plans = s.plans ∧ t.hbm = s.hbm
          ∧ t.parts = s.parts)))
    ∧ (Runs 0x0011 s f q d →
        ((s.plan part h).isSome = true → planBusy u part h = false → engineBusy s part h = false →
          ∃ t, exec (.planUnload f q env) s = .next t ∧ t.plan part h = none ∧ t.cmd s.nextId = none
            ∧ planRequests t part h = []
            ∧ (∀ p' h', planKey p' h' ≠ planKey part h → t.plan p' h' = s.plan p' h')
            ∧ t.hbm = s.hbm ∧ t.fuses = s.fuses
            ∧ (planRequests s part h = [] → CompletesWith s t f q d stOk))
        ∧ ((s.plan part h).isSome = true → (planBusy u part h = true ∨ engineBusy s part h = true) →
          ∃ t, exec (.planUnload f q env) s = .next t ∧ CompletesWith s t f q d stDenied ∧ t.plans = s.plans
            ∧ t.requests = s.requests)
        ∧ (s.plan part h = none → ∃ t, exec (.planUnload f q env) s = .next t ∧ CompletesWith s t f q d stNoPlan
            ∧ t.plans = s.plans))

/-- Sequences (07 R164, R165, R169, R170): a submission whose checks pass queues its request with its tokens, its limit, its seed,
or one of the generator where it gives none, and the next admit_order; an append to a DONE request queues it again with its tokens added and no
page held (R163), one to any other request is held, and one that grows the log beyond max_context completes with ST_BAD_DESC; a release of
a request that is in no step frees its slot, one of a request in a step waits for the step's end, and one of a free slot completes
with ST_OK. -/
def Obligations.SequencesQueueAndRelease : Prop :=
  ∀ (s : State) (f q : Nat) (d : List Byte) (env : Env),
    let u := startedState s f q d
    let c := runningCmd s f q d
    let part := dPart d
    let h := dHandle d
    let toks := tokensOf (Mem.readN s.host (sqAddr d) (4 * sqLen d)) (sqLen d)
    let started := (hostRead (chargeCmd u c env.charge).1 (sqAddr d) (4 * sqLen d)).2
    (∀ pl, s.plan part h = some pl →
      (Runs 0x0030 s f q d → CleanEnv env → submitStatus u c = none → (∀ k ∈ toks, k < vVocab pl.image) →
        (sqSeed d = 0 → (drawSeed started).isSome = true) →
        ∃ t r, exec (.seqSubmit f q env) s = .next t ∧ t.request part h (sqSlot d) = some r
          ∧ r.state = .queued ∧ r.log = toks ∧ r.maxNew = sqMax d ∧ r.pages = []
          ∧ (sqSeed d ≠ 0 → r.seed = BitVec.ofNat 64 (sqSeed d))
          ∧ (sqSeed d = 0 → ∀ x, drawSeed started = some x → r.seed = x.1)
          ∧ r.computed = 0 ∧ r.generated = 0 ∧ r.cmd = some s.nextId ∧ r.client = dClient d
          ∧ r.admitOrder = (s.partRun part).admitNext
          ∧ (∃ k, t.cmd s.nextId = some k ∧ k.state = .accepted) ∧ t.host = s.host ∧ t.hbm = s.hbm)
      ∧ (Runs 0x0031 s f q d → CleanEnv env → appendStatus u c = none → (∀ k ∈ toks, k < vVocab pl.image) →
          ∀ r, s.request part h (sqSlot d) = some r →
          (r.state = .done → r.held = [] → r.log.length + toks.length ≤ vContext pl.image →
            ∃ t x, exec (.seqAppend f q env) s = .next t ∧ t.request part h (sqSlot d) = some x
              ∧ x.state = .queued ∧ x.log = r.log ++ toks ∧ x.maxNew = sqMax d ∧ x.generated = 0 ∧ x.cmd = some s.nextId
              ∧ x.seed = r.seed ∧ x.pages = [] ∧ x.shared = 0 ∧ x.computed = 0 ∧ t.host = s.host ∧ t.hbm = s.hbm)
          ∧ (r.state = .done → r.held = [] → vContext pl.image < r.log.length + toks.length →
            ∃ t, exec (.seqAppend f q env) s = .next t ∧ CompletesWith s t f q d stBadDesc
              ∧ t.request part h (sqSlot d) = some r)
          ∧ (r.state ≠ .done ∨ r.held ≠ [] →
            ∃ t, exec (.seqAppend f q env) s = .next t ∧ t.host = s.host
              ∧ t.request part h (sqSlot d) = some { r with held := r.held ++ [(s.nextId, toks)] }
              ∧ ∃ k, t.cmd s.nextId = some k ∧ k.state = .accepted))
      ∧ (Runs 0x0032 s f q d → hasSlot pl d = true →
          (s.request part h (sqSlot d) = none → ∃ t, exec (.seqRelease f q env) s = .next t ∧ CompletesWith s t f q d stOk
            ∧ t.requests = s.requests)
          ∧ ∀ r, s.request part h (sqSlot d) = some r →
            (inStep s r = false →
              ∃ t, exec (.seqRelease f q env) s = .next t ∧ t.request part h (sqSlot d) = none
                ∧ t.cmd s.nextId = none ∧ (∀ k, r.cmd = some k → t.cmd k = none) ∧ t.hbm = s.hbm)
            ∧ (inStep s r = true →
              ∃ t, exec (.seqRelease f q env) s = .next t ∧ (t.cmd s.nextId).isSome = true ∧ t.host = s.host
                ∧ t.request part h (sqSlot d) = some { r with releases := r.releases ++ [s.nextId] })))

/-- The flash store (16 R352 to R360): a write whose checks pass, from host or stacked memory, waits for the journal, and so does a delete; programming
the journal makes what waits durable and completes the commands; a read delivers the object's bytes to its destination and to no other
byte; a list counts the objects the function sees; the patrol counts how each codeword was decoded, reports one that is lost, and refreshes
no more than is due. -/
def Obligations.StoreJournalsAndReads : Prop :=
  ∀ (s : State) (f q : Nat) (d : List Byte) (env : Env) (n good : Nat) (o : Nat) (r : CodewordRead) (done : Bool),
    let u := startedState s f q d
    let c := runningCmd s f q d
    let len := leAt d 56 8
    let flag := bitOf (leAt d 32 1)
    (Runs 0x0081 s f q d → CleanEnv env → storeWriteStatus u c = none → (flag 0 = true ∨ flag 1 = true ∨ len ≠ 0) →
      ∃ t, exec (.storeWrite f q env) s = .next t
        ∧ t.fls.pending = s.fls.pending ++ [{
              object := stObject d, create := flag 0
              bytes := if flag 2 then partRead s (dPart d) (leAt d 48 8) len else Mem.readN s.host (leAt d 48 8) len
              seals := flag 1, deletes := false, cmd := s.nextId
              owner := match writesObject s (stObject d) with | some b => b.owner | none => f }]
        ∧ (t.cmd s.nextId).isSome = true ∧ t.host = s.host ∧ t.hbm = s.hbm)
    ∧ (Runs 0x0082 s f q d → s.fls.online = true → stObject d ≠ 0 → systemObject (stObject d) = false →
        ∀ b, writesObject s (stObject d) = some b → seesObject f (stObject d) b = true →
        ∃ t, exec (.storeDelete f q env) s = .next t
          ∧ t.fls.pending = s.fls.pending ++ [{
              object := stObject d, create := false, bytes := [], seals := false, deletes := true, owner := f, cmd := s.nextId }]
          ∧ (t.cmd s.nextId).isSome = true ∧ t.medium = s.medium ∧ t.host = s.host ∧ t.hbm = s.hbm)
    ∧ (∃ t, exec .journalProgram s = .next t ∧ t.fls.pending = [] ∧ (∀ o ∈ s.fls.pending, t.cmd o.cmd = none) ∧ t.hbm = s.hbm
        ∧ ∀ o, s.fls.pending = [o] → o.deletes = false → Tab.find s.medium.objects o.object = none →
          Tab.find t.medium.objects o.object =
            some { bytes := o.bytes, owner := o.owner, serial := s.medium.nextSerial, isSealed := o.seals }
          ∧ t.medium.nextSerial = s.medium.nextSerial + 1)
    ∧ (Runs 0x0080 s f q d → CleanEnv env → storeReadStatus u c = none →
        ∀ b, readsObject s (stObject d) = some b →
        let dst := leAt d 64 8
        let bytes := slice b.bytes (leAt d 48 8) len
        ∃ t, exec (.storeRead f q env) s = .next t ∧ CompletesWith s t f q d stOk ∧ t.medium = s.medium
          ∧ (flag 0 = false → t.hbm = s.hbm ∧ (ApartFromEntry s f q dst len → Mem.readN t.host dst len = bytes)
              ∧ ∀ x, NotInEntry s f q x → (x < dst ∨ dst + len ≤ x) → Mem.read t.host x = Mem.read s.host x)
          ∧ (flag 0 = true → (∀ x, NotInEntry s f q x → Mem.read t.host x = Mem.read s.host x)
              ∧ ∀ p, Tab.find s.parts (dPart d) = some p →
                (Backed p.extents dst len → partRead t (dPart d) dst len = bytes)
                ∧ ∀ y, (∀ i < len, mapAddr p.extents (dst + i) ≠ some y) → Mem.read t.hbm y = Mem.read s.hbm y))
    ∧ (let dst := leAt d 56 8
       Runs 0x0083 s f q d → s.fls.online = true → leAt d 48 4 ≠ 0 → dst % 64 = 0 →
        inWindows s f dst (32 + 32 * leAt d 48 4) = true → ApartFromEntry s f q dst (32 + 32 * leAt d 48 4) →
        (visibleObjects s f).length < 2 ^ 32 →
        ∃ t, exec (.storeList f q env) s = .next t ∧ CompletesWith s t f q d stOk
          ∧ leNat (Mem.readN t.host (dst + 16) 4) = (visibleObjects s f).length ∧ t.hbm = s.hbm ∧ t.medium = s.medium)
    ∧ (alive s = true → s.fls.online = true → s.fls.patrolEn = true →
        let k := decodeCodeword r
        let due := if refreshWanted r then s.medium.refreshDue ++ [(o, r.unit)] else s.medium.refreshDue
        let m := min n due.length
        (k ≠ .lost → exec (.flashPatrol [(o, r)] n ⟨[], good, false⟩ done) s = .next { s with
          medium := { s.medium with refreshDue := if m = 0 then due else [] }
          fls := { s.fls with
            cwCorrected := satAdd s.fls.cwCorrected (if k = .hard then 1 else 0)
            retryReads := satAdd s.fls.retryReads (if k = .reread then 1 else 0)
            softDecodes := satAdd s.fls.softDecodes (if k = .soft then 1 else 0)
            refreshed := satAdd s.fls.refreshed m, patrol := satAdd s.fls.patrol (if done then 1 else 0) } })
        ∧ (k = .lost → ∃ t, exec (.flashPatrol [(o, r)] n ⟨[], good, false⟩ done) s = .next t
          ∧ t.fls.ue = satAdd s.fls.ue 1 ∧ (∀ b, Tab.find s.medium.objects o = some b →
              ∃ b', Tab.find t.medium.objects o = some b' ∧ b'.damaged = true)
          ∧ (∃ v, t.evt.raised = s.evt.raised ++ [v] ∧ v.code = evStoreUe) ∧ t.hbm = s.hbm ∧ t.cmds = s.cmds))

/-- Tables, codec engines and resampling (04 R91, 05 R120, 11 R232, R239, R240, R251 to R256): a load writes the inactive bank of every live basin
and waits; when the write is over, at a job boundary, the banks switch and the command ends. A codec command on a busy engine joins its queue, and on an idle one
runs to its end: an encode with the stream of what it read, a decode with the status its stream earns. A frame enters the pipeline of an
operation's engine. A resample on idle units writes what they make and no other byte, and on busy ones joins their queue. -/
def Obligations.EnginesRunAndQueue : Prop :=
  ∀ (s : State) (f q p k id frame : Nat) (d : List Byte) (env : Env),
    let u := startedState s f q d
    let c := runningCmd s f q d
    let image := if tlHbm d then partRead s (dPart d) (tlSrc d) 32768 else Mem.readN s.host (tlSrc d) 32768
    (Runs 0x0050 s f q d → CleanEnv env → (s.partRun (dPart d)).tableLoad = none → tableStatus u c = none →
      badTable (tlMask d) image = false → (allZero (tlDigest d) = true ∨ ∀ b ∈ liveBasins s (dPart d),
        sha3_256 (bankBytes (.loaded (newBank (tlMask d) image (s.basin b).sfu.bank))) = tlDigest d) →
      ∃ t, exec (.tableLoad f q env) s = .next t ∧ (t.partRun (dPart d)).tableLoad = some s.nextId
        ∧ (∀ b ∈ liveBasins s (dPart d), (t.basin b).sfu = writeBank (tlMask d) image (s.basin b).sfu)
        ∧ (t.cmd s.nextId).isSome = true ∧ t.host = s.host ∧ t.hbm = s.hbm)
    ∧ (works s = true → p < 10 → (s.partRun p).tableLoad = some id →
        (atBoundary s p = true → ∃ t, exec (.tableBankSwitch p) s = .next t ∧ (t.partRun p).tableLoad = none ∧ t.cmd id = none
          ∧ (∀ b ∈ liveBasins s p, (t.basin b).sfu = switchBank (s.basin b).sfu.written) ∧ t.hbm = s.hbm)
        ∧ (atBoundary s p = false → ∃ t, exec (.tableBankSwitch p) s = .next t
          ∧ (∀ b ∈ liveBasins s p, (t.basin b).sfu = (s.basin b).sfu.written) ∧ t.runs = s.runs ∧ t.cmds = s.cmds
          ∧ t.host = s.host ∧ t.hbm = s.hbm))
    ∧ (Runs 0x0060 s f q d → encodeStatus u c = none → k = ceEngine d →
        ((s.codec k).current ≠ none ∨ (s.codec k).queue ≠ [] → ∃ t, exec (.codecEncode f q env) s = .next t
          ∧ (t.codec k).queue = (s.codec k).queue ++ [.cmd s.nextId] ∧ (t.codec k).current = (s.codec k).current
          ∧ (t.cmd s.nextId).isSome = true ∧ t.host = s.host ∧ t.hbm = s.hbm)
        ∧ ((s.codec k).current = none → (s.codec k).queue = [] →
          (∃ t, exec (.codecEncode f q env) s = .next t
            ∧ t.cmd s.nextId = none ∧ (t.codec k).current = none ∧ (t.codec k).queue = [])
          ∧ (let rd := fun i => partByte s (dPart d) (ceSrc d + i)
             let e := encode d (clipOf d rd fun i => partByte s (dPart d) (ceHintAddr d + i)) fun n => decide (n ≤ ceCapacity d)
             CleanEnv env → ceObject d = false → inWindows s f (ceDst d) e.stream.length = true →
             ∃ t, exec (.codecEncode f q env) s = .next t
              ∧ CompletesWith s t f q d (if e.stopped then stBadDesc else stOk)
              ∧ (ceReport d = 0 → ApartFromEntry s f q (ceDst d) e.stream.length →
                  Mem.readN t.host (ceDst d) e.stream.length = e.stream))))
    ∧ (Runs 0x0061 s f q d → decodeStatus u c = none → k = cdEngine d →
        ((s.codec k).current ≠ none ∨ (s.codec k).queue ≠ [] → ∃ t, exec (.codecDecode f q env) s = .next t
          ∧ (t.codec k).queue = (s.codec k).queue ++ [.cmd s.nextId] ∧ (t.codec k).current = (s.codec k).current
          ∧ (t.cmd s.nextId).isSome = true ∧ t.host = s.host ∧ t.hbm = s.hbm)
        ∧ ((s.codec k).current = none → (s.codec k).queue = [] →
          (∃ t, exec (.codecDecode f q env) s = .next t
            ∧ t.cmd s.nextId = none ∧ (t.codec k).current = none ∧ (t.codec k).queue = [])
          ∧ (let e := decodeOf d (Mem.readN s.host (cdSrc d) (cdLength d))
             let bad := (((concealAll none e.pics).take (cdFrames d)).filter damaged).length
             CleanEnv env → cdObject d = false →
             ∃ t, exec (.codecDecode f q env) s = .next t ∧ CompletesWith s t f q d
               (if e.refused then stStreamUnsupported else if bad = 0 then stOk else stStreamDamaged))))
    ∧ (works s = true → k < 4 → (s.codec k).current = none → ∀ ws,
        ((s.codec k).queue = .op p id :: ws → exec (.codecWorkStart k env) s = .next (s.setCodec k { s.codec k with
          queue := ws, current := some (.op p id), busy := true, curTag := BitVec.ofNat 32 id, curFrame := 0, pipe := [] }))
        ∧ ((s.codec k).queue = .cmd id :: ws → (s.cmd id).isSome = true →
          ∃ t, exec (.codecWorkStart k env) s = .next t ∧ t.cmd id = none))
    ∧ (works s = true → k < 4 → (s.codec k).work = some (p, id) → ∀ w, workOf s p = some w →
        let op := asDesc w.pl.image (opAt w.pl.image id)
        frame < ceFrames op → frameReady w id frame = true → (w.j.exec id).isSome = true →
        ∃ t j e, exec (.codecFrameStart k frame) s = .next t ∧ RunsJob s t p j ∧ j.exec id = some e ∧ frame ∈ e.frames
          ∧ (t.codec k).curFrame = BitVec.ofNat 32 frame
          ∧ (t.codec k).pipe = enterPipe op (s.codec k).pipe (codedAt op frame))
    ∧ (Runs 0x0070 s f q d → resampleStatus u (dPart d) d = none →
        let part := dPart d
        ((s.partRun part).resampling ≠ [] → ∃ t, exec (.resample f q env) s = .next t
          ∧ (t.partRun part).resampling = (s.partRun part).resampling ++ [.cmd s.nextId]
          ∧ (∃ y, t.cmd s.nextId = some y ∧ y.state = .queued) ∧ t.host = s.host ∧ t.hbm = s.hbm)
        ∧ (let boxes := if rsCrop d then partRead s part (rsBoxAddr d) (32 * rsBoxes d) else []
           let rows := (List.range (rsImages d)).flatMap fun n => (List.range (rsDh d)).flatMap fun i =>
             (List.range (rsDw d)).map fun j => rsRow s part d boxes n i j
           let out := rsQuant (rsOut d) (rsOutScale d) rows
           (s.partRun part).resampling = [] → CleanEnv env → boxesOk d boxes = true →
           ∃ t, exec (.resample f q env) s = .next t
            ∧ CompletesWith s t f q d (if out.overflow.isSome then stSpillFault else stOk)
            ∧ t.plans = s.plans ∧ (∀ y, t.partRun y = s.partRun y)
            ∧ (∀ r, Tab.find s.parts part = some r →
                (contested s part 0xFFFFFFFF (rsDst d) (rsOutBytes d) = false → Backed r.extents (rsDst d) out.bytes.length →
                  partRead t part (rsDst d) out.bytes.length = out.bytes)
                ∧ ∀ y, (∀ i < out.bytes.length, mapAddr r.extents (rsDst d + i) ≠ some y) → Mem.read t.hbm y = Mem.read s.hbm y)
            ∧ ∀ x, NotInEntry s f q x → Mem.read t.host x = Mem.read s.host x))

/-- The device's own commands (15 R331, R332, R341 to R343, 19 R407, R408, R414, 14 R314): BIST_RUN records an entry of each free unit, which passes where no
other result is told; a snapshot writes its length first; ACCT_READ writes the records of its clients; PARTITION_SET creates a partition of free granules
for its owner; a waiting command whose order lets it start runs as its opcode says, and so a NOP completes; an account update charges an open
command's client. -/
def Obligations.DeviceCommandsComplete : Prop :=
  ∀ (s : State) (f q id un total : Nat) (d : List Byte) (env : Env) (ch : Charge),
    let u := startedState s f q d
    let c := runningCmd s f q d
    let v := (chargeCmd u c env.charge).1
    let dst := leAt d 40 8
    (Runs 0x0090 s f q d → 0 < bistCount d → bistCount d ≤ 1500 →
      (testRanges (bistKind d)).any (fun r => decide (r.1 ≤ bistFirst d ∧ bistFirst d + bistCount d ≤ r.1 + r.2)) = true →
      bistAddr d % 64 = 0 → (bistAddr d = 0 ∨ inWindows s f (bistAddr d) (32 + 32 * bistCount d) = true) →
      (∀ i < bistCount d, unitFree u (bistFirst d + i) = true) → env.tests = [] →
      ∃ t, exec (.bistRun f q env) s = .next t ∧ CompletesWith s t f q d stOk
        ∧ t.bist.runs = satAdd s.bist.runs (bistCount d)
        ∧ (∀ i < bistCount d, Tab.find t.bist.results (bistFirst d + i)
            = some (resultEntry (bistFirst d + i) 0 (bistKind d) (bistDepth d) none))
        ∧ t.basins = s.basins ∧ t.runs = s.runs ∧ (bistKind d ≠ 2 → t.hbm = s.hbm))
    ∧ (Runs 0x0091 s f q d → leAt d 32 1 = 1 → dst % 64 = 0 → leAt d 48 8 = 262240 → leAt d 56 8 = 0 →
        inWindows s f dst 262240 = true → ApartFromEntry s f q dst 262240 →
        ∃ t, exec (.snapshot f q env) s = .next t ∧ CompletesWith s t f q d stOk ∧ leNat (Mem.readN t.host dst 8) = 262240
          ∧ (∀ x, NotInEntry s f q x → (x < dst ∨ dst + 262240 ≤ x) → Mem.read t.host x = Mem.read s.host x) ∧ t.hbm = s.hbm)
    ∧ (let first := bitsOf (leAt d 32 2) 0 12
       let n := bitsOf (leAt d 34 2) 0 13
       Runs 0x00A0 s f q d → n ≠ 0 → first + n ≤ 4096 → dst % 64 = 0 → (s.fn f).clientBase.toNat ≤ first →
        first + n ≤ (s.fn f).clientBase.toNat + (s.fn f).clientCount.toNat → inWindows s f dst (128 * n) = true →
        ApartFromEntry s f q dst (128 * n) →
        ((List.range n).flatMap fun i => accountBytes v (first + i)).length = 128 * n →
        ∃ t, exec (.acctRead f q env) s = .next t ∧ CompletesWith s t f q d stOk
          ∧ Mem.readN t.host dst (128 * n) = ((List.range n).flatMap fun i => accountBytes v (first + i))
          ∧ (bitOf (leAt d 36 1) 0 = true → ∀ i < n, t.account (first + i) = {}) ∧ t.hbm = s.hbm)
    ∧ (Runs 0x00B0 s f q d → Tab.find s.parts (dPart d) = none → psDelete d = false → partitionStatus u c = none → dPart d < 10 →
        psOwner d < 64 → (growExtents [] (granulesFor (psQuota d)) (freeRuns 0 (usedExtents s))).2 = granulesFor (psQuota d) →
        ∃ t r, exec (.partitionSet f q env) s = .next t ∧ CompletesWith s t f q d stOk ∧ Tab.find t.parts (dPart d) = some r
          ∧ r.owner = psOwner d ∧ r.mask = BitVec.ofNat 10 (psMask d) ∧ r.quota = psQuota d
          ∧ r.deadlineUs = (if psDeadline d = 0 then 2000 else psDeadline d)
          ∧ (r.extents.map Prod.snd).sum = granulesFor (psQuota d)
          ∧ (∀ g < 64, bitOf (t.fn g).owned.toNat (dPart d) = decide (g = psOwner d))
          ∧ (∀ p, p ≠ dPart d → Tab.find t.parts p = Tab.find s.parts p) ∧ t.hbm = s.hbm)
    ∧ (∀ k, s.cmd id = some k → k.state = .waiting → takesDescriptors s = true → orderWaits s k = false → serialWaits s k = false →
        (twoPart k.desc = true ∨ headerVerdict s k.fn k.desc k.takenAt = none) → dNotBefore k.desc ≤ s.now →
        exec (.deferredCommandStart id env) s
          = .next (runOf (dOpcode k.desc) (s.setCmd { k with state := .running }) { k with state := .running } env)
        ∧ (dOpcode k.desc = 0x0001 →
          ∃ t, exec (.deferredCommandStart id env) s = .next t ∧ t.cmd id = none ∧ t.hbm = s.hbm ∧ t.runs = s.runs))
    ∧ (staged s = true →
        exec (.accountUpdate [] un total) s = .next { s with acct := { s.acct with
          unattrUj := satAdd s.acct.unattrUj un, totalUj := satAdd s.acct.totalUj total, updateMtc := s.mtc.now } }
        ∧ ∀ k, s.cmd id = some k → servingStart s id = false →
          ∃ t, exec (.accountUpdate [(id, ch)] un total) s = .next t
            ∧ (t.account (dClient k.desc)).energy = satAdd (s.account (dClient k.desc)).energy ch.energy
            ∧ (∀ x, x ≠ dClient k.desc → t.account x = s.account x) ∧ t.host = s.host ∧ t.hbm = s.hbm)
end

