-- ==== Sys2Proof/Laws/Memory.lean ====
section
/-! SUPPORT. Sys2Proof/Laws/Memory.lean: tables and byte memories: a read after a write, what a write leaves alone, and the
canonical form, which every operation keeps. -/

namespace Sys2Proof.Machine

/-! Tables. -/

@[simp] theorem Tab.find_put_self {α : Type} (t : Tab α) (k : Nat) (v : α) : Tab.find (Tab.put t k v) k = some v := by
  induction t with
  | nil => simp [Tab.put, Tab.find]
  | cons e t ih =>
    obtain ⟨j, w⟩ := e
    unfold Tab.put
    split
    · simp [Tab.find]
    · split
      · simp [Tab.find]
      · rename_i h2
        simp [Tab.find, h2, ih]

theorem Tab.find_put_ne {α : Type} (t : Tab α) {j k : Nat} (v : α) (h : j ≠ k) :
    Tab.find (Tab.put t k v) j = Tab.find t j := by
  induction t with
  | nil => simp [Tab.put, Tab.find, Ne.symm h]
  | cons e t ih =>
    obtain ⟨i, w⟩ := e
    unfold Tab.put
    split
    · simp [Tab.find, Ne.symm h]
    · split
      · rename_i h2
        subst h2
        simp [Tab.find, Ne.symm h]
      · simp only [Tab.find, ih]

@[simp] theorem Tab.get_put_self {α : Type} (t : Tab α) (k : Nat) (v d : α) : Tab.get (Tab.put t k v) k d = v := by
  simp [Tab.get]

theorem Tab.get_put_ne {α : Type} (t : Tab α) {j k : Nat} (v d : α) (h : j ≠ k) :
    Tab.get (Tab.put t k v) j d = Tab.get t j d := by
  simp [Tab.get, Tab.find_put_ne t v h]

theorem Tab.find_del_ne {α : Type} (t : Tab α) {j k : Nat} (h : j ≠ k) : Tab.find (Tab.del t k) j = Tab.find t j := by
  unfold Tab.del
  induction t with
  | nil => rfl
  | cons e t ih =>
    obtain ⟨i, w⟩ := e
    by_cases h2 : i = k
    · subst h2
      simp [Tab.find, Ne.symm h, ih]
    · simp [h2, Tab.find, ih]

theorem Tab.find_del_self {α : Type} (t : Tab α) (k : Nat) : Tab.find (Tab.del t k) k = none := by
  unfold Tab.del
  induction t with
  | nil => rfl
  | cons e t ih =>
    obtain ⟨j, w⟩ := e
    by_cases h : j = k <;> simp [h, Tab.find, ih]

/-- The first number of a sorted table lies below the rest. -/
theorem Tab.sorted_cons {α : Type} {j : Nat} {w : α} {t : Tab α} (h : Tab.sorted ((j, w) :: t) = true) :
    Tab.sorted t = true ∧ ∀ e ∈ t, j < e.1 := by
  induction t generalizing j w with
  | nil => simp [Tab.sorted]
  | cons e t ih =>
    obtain ⟨i, v⟩ := e
    simp only [Tab.sorted, Bool.and_eq_true, decide_eq_true_eq] at h
    refine ⟨h.2, fun x hx => ?_⟩
    rcases List.mem_cons.mp hx with rfl | hx
    · exact h.1
    · exact Nat.lt_trans h.1 ((ih h.2).2 x hx)

theorem Tab.sorted_of_cons {α : Type} {j : Nat} {w : α} {t : Tab α} (ht : Tab.sorted t = true) (hj : ∀ e ∈ t, j < e.1) :
    Tab.sorted ((j, w) :: t) = true := by
  cases t with
  | nil => rfl
  | cons e t => simp [Tab.sorted, ht, hj e (List.mem_cons_self ..)]

theorem Tab.find_of_lt {α : Type} {k : Nat} {t : Tab α} (h : ∀ e ∈ t, k < e.1) : Tab.find t k = none := by
  induction t with
  | nil => rfl
  | cons e t ih =>
    obtain ⟨j, w⟩ := e
    have hj : j ≠ k := Nat.ne_of_gt (h (j, w) (List.mem_cons_self ..))
    simp [Tab.find, hj, ih fun x hx => h x (List.mem_cons_of_mem _ hx)]

/-- The numbers of a table after put: the new one and the old ones. -/
theorem Tab.mem_put {α : Type} {t : Tab α} {k : Nat} {v : α} {e : Nat × α} (h : e ∈ Tab.put t k v) : e = (k, v) ∨ e ∈ t := by
  induction t with
  | nil => simpa [Tab.put] using h
  | cons a t ih =>
    obtain ⟨j, w⟩ := a
    unfold Tab.put at h
    split at h
    · simpa using h
    · split at h
      · rcases List.mem_cons.mp h with h | h
        · exact .inl h
        · exact .inr (List.mem_cons_of_mem _ h)
      · rcases List.mem_cons.mp h with h | h
        · exact .inr (by simp [h])
        · rcases ih h with h | h
          · exact .inl h
          · exact .inr (List.mem_cons_of_mem _ h)

theorem Tab.mem_del {α : Type} {t : Tab α} {k : Nat} {e : Nat × α} (h : e ∈ Tab.del t k) : e ∈ t := (List.mem_filter.mp h).1

theorem Tab.sorted_put {α : Type} {t : Tab α} (k : Nat) (v : α) (h : Tab.sorted t = true) :
    Tab.sorted (Tab.put t k v) = true := by
  induction t with
  | nil => rfl
  | cons a t ih =>
    obtain ⟨j, w⟩ := a
    have hc := Tab.sorted_cons h
    unfold Tab.put
    split
    · rename_i hk
      refine Tab.sorted_of_cons h fun e he => ?_
      rcases List.mem_cons.mp he with rfl | he
      · exact hk
      · exact Nat.lt_trans hk (hc.2 e he)
    · split
      · rename_i hk
        subst hk
        exact Tab.sorted_of_cons hc.1 hc.2
      · rename_i h1 h2
        refine Tab.sorted_of_cons (ih hc.1) fun e he => ?_
        rcases Tab.mem_put he with rfl | he
        · exact Nat.lt_of_le_of_ne (Nat.le_of_not_lt h1) h2
        · exact hc.2 e he

theorem Tab.sorted_filter {α : Type} {t : Tab α} (f : Nat × α → Bool) (h : Tab.sorted t = true) :
    Tab.sorted (t.filter f) = true := by
  induction t with
  | nil => rfl
  | cons a t ih =>
    obtain ⟨j, w⟩ := a
    have hc := Tab.sorted_cons h
    rw [List.filter_cons]
    split
    · exact Tab.sorted_of_cons (ih hc.1) fun e he => hc.2 e (List.mem_filter.mp he).1
    · exact ih hc.1

theorem Tab.sorted_del {α : Type} {t : Tab α} (k : Nat) (h : Tab.sorted t = true) : Tab.sorted (Tab.del t k) = true :=
  Tab.sorted_filter _ h

/-! The canonical form of byte memories. -/

theorem Mem.noZero_of_subset {m m' : Tab Byte} (h : Mem.noZero m = true) (hs : ∀ e ∈ m', e ∈ m) : Mem.noZero m' = true := by
  simp only [Mem.noZero, List.all_eq_true] at h ⊢
  exact fun e he => h e (hs e he)

/-- Writing a byte keeps the canonical form. -/
theorem Mem.wf_write {m : Tab Byte} (a : Nat) (v : Byte) (h : Memory.wf m = true) : Memory.wf (Mem.write m a v) = true := by
  simp only [Memory.wf, Bool.and_eq_true] at h ⊢
  unfold Mem.write
  split
  · exact ⟨Tab.sorted_del a h.1, Mem.noZero_of_subset h.2 fun _ => Tab.mem_del⟩
  · rename_i hv
    refine ⟨Tab.sorted_put a v h.1, ?_⟩
    have h2 := h.2
    simp only [Mem.noZero, List.all_eq_true] at h2 ⊢
    intro e he
    rcases Tab.mem_put he with rfl | he
    · simpa using hv
    · exact h2 e he

/-- Writing bytes keeps the canonical form. -/
theorem Mem.wf_writeN {m : Tab Byte} (a : Nat) (bs : List Byte) (h : Memory.wf m = true) :
    Memory.wf (Mem.writeN m a bs) = true := by
  induction bs generalizing m a with
  | nil => exact h
  | cons b bs ih => exact ih (a + 1) (Mem.wf_write a b h)

/-- Dropping entries keeps the canonical form. -/
theorem Mem.wf_filter {m : Tab Byte} (f : Nat × Byte → Bool) (h : Memory.wf m = true) : Memory.wf (m.filter f) = true := by
  simp only [Memory.wf, Bool.and_eq_true] at h ⊢
  exact ⟨Tab.sorted_filter f h.1, Mem.noZero_of_subset h.2 fun _ he => (List.mem_filter.mp he).1⟩

/-- Wiping a range keeps the canonical form. -/
theorem Mem.wf_wipe {m : Tab Byte} (a n : Nat) (h : Memory.wf m = true) : Memory.wf (Mem.wipe m a n) = true :=
  Mem.wf_filter _ h

/-! Reads after writes. -/

/-- The byte written is the byte read. -/
theorem Mem.read_write_self (m : Tab Byte) (a : Nat) (v : Byte) : Mem.read (Mem.write m a v) a = v := by
  unfold Mem.write
  split
  · rename_i hv
    subst hv
    simp [Mem.read, Tab.get, Tab.find_del_self m a]
  · simp [Mem.read]

/-- Every other byte reads as before. -/
theorem Mem.read_write_ne (m : Tab Byte) {a b : Nat} (v : Byte) (h : b ≠ a) : Mem.read (Mem.write m a v) b = Mem.read m b := by
  unfold Mem.write
  split
  · simp [Mem.read, Tab.get, Tab.find_del_ne m h]
  · exact Tab.get_put_ne m v 0 h

/-- A byte outside the bytes written reads as before. -/
theorem Mem.read_writeN_outside (m : Tab Byte) (a b : Nat) (bs : List Byte) (h : b < a ∨ a + bs.length ≤ b) :
    Mem.read (Mem.writeN m a bs) b = Mem.read m b := by
  induction bs generalizing m a with
  | nil => rfl
  | cons x bs ih =>
    simp only [List.length_cons] at h
    rw [Mem.writeN, ih _ (a + 1) (by omega), Mem.read_write_ne m x (by omega)]

/-- Byte k of the bytes written is what is read there. -/
theorem Mem.read_writeN_inside (m : Tab Byte) (a k : Nat) (bs : List Byte) (hk : k < bs.length) :
    Mem.read (Mem.writeN m a bs) (a + k) = bs[k] := by
  induction bs generalizing m a k with
  | nil => simp at hk
  | cons x bs ih =>
    cases k with
    | zero => rw [Mem.writeN, Mem.read_writeN_outside _ _ _ _ (by omega)]; simp [Mem.read_write_self]
    | succ k =>
      have := ih (Mem.write m a x) (a + 1) k (by simpa using hk)
      rw [Mem.writeN, show a + (k + 1) = a + 1 + k by omega, this]
      rfl

/-- The bytes written are the bytes read. -/
theorem Mem.readN_writeN (m : Tab Byte) (a : Nat) (bs : List Byte) :
    Mem.readN (Mem.writeN m a bs) a bs.length = bs := by
  apply List.ext_getElem
  · simp [Mem.readN]
  · intro k h1 h2
    simp only [Mem.readN, List.getElem_map, List.getElem_range]
    exact Mem.read_writeN_inside m a k bs h2

/-- A byte of a wiped range reads 0. -/
theorem Mem.read_wipe_inside (m : Tab Byte) (a n b : Nat) (h : a ≤ b ∧ b < a + n) : Mem.read (Mem.wipe m a n) b = 0 := by
  have : Tab.find (Mem.wipe m a n) b = none := by
    induction m with
    | nil => rfl
    | cons e m ih =>
      obtain ⟨j, w⟩ := e
      unfold Mem.wipe at ih ⊢
      rw [List.filter_cons]
      split
      · rename_i hj
        have : j ≠ b := by
          intro hb
          subst hb
          simp [h.1, h.2] at hj
        simp only [Tab.find, if_neg this]
        exact ih
      · exact ih
  simp [Mem.read, Tab.get, this]

/-- A byte outside a wiped range reads as before. -/
theorem Mem.read_wipe_outside (m : Tab Byte) (a n b : Nat) (h : b < a ∨ a + n ≤ b) :
    Mem.read (Mem.wipe m a n) b = Mem.read m b := by
  have : Tab.find (Mem.wipe m a n) b = Tab.find m b := by
    induction m with
    | nil => rfl
    | cons e m ih =>
      obtain ⟨j, w⟩ := e
      unfold Mem.wipe at ih ⊢
      rw [List.filter_cons]
      split
      · simp only [Tab.find, ih]
      · rename_i hj
        have : j ≠ b := by
          intro hb
          subst hb
          simp only [Bool.not_eq_true, Bool.not_eq_false', Bool.and_eq_true, decide_eq_true_eq] at hj
          omega
        simp only [Tab.find, if_neg this]
        exact ih
  simp [Mem.read, Tab.get, this]

end Sys2Proof.Machine
end

