-- ==== Sys2Proof/Laws/State.lean ====
section
/-! SUPPORT. Sys2Proof/Laws/State.lean: what each field of the state is after each update of Machine/Ops.lean, so that no later
proof unfolds a record update. -/

namespace Sys2Proof.Machine

variable (s : State)

/-! setCore changes cores only. -/

@[simp] theorem State.setCore_pending (p : Nat) (c : Core) : (s.setCore p c).pending = s.pending := rfl
@[simp] theorem State.setCore_free (p : Nat) (c : Core) : (s.setCore p c).free = s.free := rfl
@[simp] theorem State.setCore_nextId (p : Nat) (c : Core) : (s.setCore p c).nextId = s.nextId := rfl
@[simp] theorem State.setCore_run (p : Nat) (c : Core) : (s.setCore p c).run = s.run := rfl
@[simp] theorem State.setCore_hif (p : Nat) (c : Core) : (s.setCore p c).hif = s.hif := rfl
@[simp] theorem State.setCore_sqs (p : Nat) (c : Core) : (s.setCore p c).sqs = s.sqs := rfl
@[simp] theorem State.setCore_cqs (p : Nat) (c : Core) : (s.setCore p c).cqs = s.cqs := rfl
@[simp] theorem State.setCore_cmds (p : Nat) (c : Core) : (s.setCore p c).cmds = s.cmds := rfl
@[simp] theorem State.setCore_latches (p : Nat) (c : Core) : (s.setCore p c).latches = s.latches := rfl
@[simp] theorem State.setCore_host (p : Nat) (c : Core) : (s.setCore p c).host = s.host := rfl
@[simp] theorem State.setCore_hbm (p : Nat) (c : Core) : (s.setCore p c).hbm = s.hbm := rfl
@[simp] theorem State.setCore_tel (p : Nat) (c : Core) : (s.setCore p c).tel = s.tel := rfl
@[simp] theorem State.setCore_mtc (p : Nat) (c : Core) : (s.setCore p c).mtc = s.mtc := rfl
@[simp] theorem State.setCore_census (p : Nat) (c : Core) : (s.setCore p c).census = s.census := rfl
@[simp] theorem State.setCore_ports (p : Nat) (c : Core) : (s.setCore p c).ports = s.ports := rfl
@[simp] theorem State.setCore_basins (p : Nat) (c : Core) : (s.setCore p c).basins = s.basins := rfl
@[simp] theorem State.setCore_hbmStacks (p : Nat) (c : Core) : (s.setCore p c).hbmStacks = s.hbmStacks := rfl
@[simp] theorem State.setCore_tgs (p : Nat) (c : Core) : (s.setCore p c).tgs = s.tgs := rfl
@[simp] theorem State.setCore_parts (p : Nat) (c : Core) : (s.setCore p c).parts = s.parts := rfl
@[simp] theorem State.setCore_runs (p : Nat) (c : Core) : (s.setCore p c).runs = s.runs := rfl
@[simp] theorem State.setCore_plans (p : Nat) (c : Core) : (s.setCore p c).plans = s.plans := rfl
@[simp] theorem State.setCore_requests (p : Nat) (c : Core) : (s.setCore p c).requests = s.requests := rfl
@[simp] theorem State.setCore_nodes (p : Nat) (c : Core) : (s.setCore p c).nodes = s.nodes := rfl
@[simp] theorem State.setCore_codecs (p : Nat) (c : Core) : (s.setCore p c).codecs = s.codecs := rfl
@[simp] theorem State.setCore_rng (p : Nat) (c : Core) : (s.setCore p c).rng = s.rng := rfl
@[simp] theorem State.setCore_acct (p : Nat) (c : Core) : (s.setCore p c).acct = s.acct := rfl
@[simp] theorem State.setCore_fls (p : Nat) (c : Core) : (s.setCore p c).fls = s.fls := rfl
@[simp] theorem State.setCore_medium (p : Nat) (c : Core) : (s.setCore p c).medium = s.medium := rfl
@[simp] theorem State.setCore_sec (p : Nat) (c : Core) : (s.setCore p c).sec = s.sec := rfl
@[simp] theorem State.setCore_fuses (p : Nat) (c : Core) : (s.setCore p c).fuses = s.fuses := rfl
@[simp] theorem State.setCore_bist (p : Nat) (c : Core) : (s.setCore p c).bist = s.bist := rfl
@[simp] theorem State.setCore_evt (p : Nat) (c : Core) : (s.setCore p c).evt = s.evt := rfl
@[simp] theorem State.setCore_mgt (p : Nat) (c : Core) : (s.setCore p c).mgt = s.mgt := rfl
@[simp] theorem State.setCore_jtag (p : Nat) (c : Core) : (s.setCore p c).jtag = s.jtag := rfl

/-! setBasin changes basins only. -/

@[simp] theorem State.setBasin_pending (b : Nat) (v : Basin) : (s.setBasin b v).pending = s.pending := rfl
@[simp] theorem State.setBasin_free (b : Nat) (v : Basin) : (s.setBasin b v).free = s.free := rfl
@[simp] theorem State.setBasin_nextId (b : Nat) (v : Basin) : (s.setBasin b v).nextId = s.nextId := rfl
@[simp] theorem State.setBasin_run (b : Nat) (v : Basin) : (s.setBasin b v).run = s.run := rfl
@[simp] theorem State.setBasin_hif (b : Nat) (v : Basin) : (s.setBasin b v).hif = s.hif := rfl
@[simp] theorem State.setBasin_sqs (b : Nat) (v : Basin) : (s.setBasin b v).sqs = s.sqs := rfl
@[simp] theorem State.setBasin_cqs (b : Nat) (v : Basin) : (s.setBasin b v).cqs = s.cqs := rfl
@[simp] theorem State.setBasin_cmds (b : Nat) (v : Basin) : (s.setBasin b v).cmds = s.cmds := rfl
@[simp] theorem State.setBasin_latches (b : Nat) (v : Basin) : (s.setBasin b v).latches = s.latches := rfl
@[simp] theorem State.setBasin_host (b : Nat) (v : Basin) : (s.setBasin b v).host = s.host := rfl
@[simp] theorem State.setBasin_hbm (b : Nat) (v : Basin) : (s.setBasin b v).hbm = s.hbm := rfl
@[simp] theorem State.setBasin_tel (b : Nat) (v : Basin) : (s.setBasin b v).tel = s.tel := rfl
@[simp] theorem State.setBasin_mtc (b : Nat) (v : Basin) : (s.setBasin b v).mtc = s.mtc := rfl
@[simp] theorem State.setBasin_census (b : Nat) (v : Basin) : (s.setBasin b v).census = s.census := rfl
@[simp] theorem State.setBasin_ports (b : Nat) (v : Basin) : (s.setBasin b v).ports = s.ports := rfl
@[simp] theorem State.setBasin_cores (b : Nat) (v : Basin) : (s.setBasin b v).cores = s.cores := rfl
@[simp] theorem State.setBasin_hbmStacks (b : Nat) (v : Basin) : (s.setBasin b v).hbmStacks = s.hbmStacks := rfl
@[simp] theorem State.setBasin_tgs (b : Nat) (v : Basin) : (s.setBasin b v).tgs = s.tgs := rfl
@[simp] theorem State.setBasin_parts (b : Nat) (v : Basin) : (s.setBasin b v).parts = s.parts := rfl
@[simp] theorem State.setBasin_runs (b : Nat) (v : Basin) : (s.setBasin b v).runs = s.runs := rfl
@[simp] theorem State.setBasin_plans (b : Nat) (v : Basin) : (s.setBasin b v).plans = s.plans := rfl
@[simp] theorem State.setBasin_requests (b : Nat) (v : Basin) : (s.setBasin b v).requests = s.requests := rfl
@[simp] theorem State.setBasin_nodes (b : Nat) (v : Basin) : (s.setBasin b v).nodes = s.nodes := rfl
@[simp] theorem State.setBasin_codecs (b : Nat) (v : Basin) : (s.setBasin b v).codecs = s.codecs := rfl
@[simp] theorem State.setBasin_rng (b : Nat) (v : Basin) : (s.setBasin b v).rng = s.rng := rfl
@[simp] theorem State.setBasin_acct (b : Nat) (v : Basin) : (s.setBasin b v).acct = s.acct := rfl
@[simp] theorem State.setBasin_fls (b : Nat) (v : Basin) : (s.setBasin b v).fls = s.fls := rfl
@[simp] theorem State.setBasin_medium (b : Nat) (v : Basin) : (s.setBasin b v).medium = s.medium := rfl
@[simp] theorem State.setBasin_sec (b : Nat) (v : Basin) : (s.setBasin b v).sec = s.sec := rfl
@[simp] theorem State.setBasin_fuses (b : Nat) (v : Basin) : (s.setBasin b v).fuses = s.fuses := rfl
@[simp] theorem State.setBasin_bist (b : Nat) (v : Basin) : (s.setBasin b v).bist = s.bist := rfl
@[simp] theorem State.setBasin_evt (b : Nat) (v : Basin) : (s.setBasin b v).evt = s.evt := rfl
@[simp] theorem State.setBasin_mgt (b : Nat) (v : Basin) : (s.setBasin b v).mgt = s.mgt := rfl
@[simp] theorem State.setBasin_jtag (b : Nat) (v : Basin) : (s.setBasin b v).jtag = s.jtag := rfl

/-! setStack changes hbmStacks only. -/

@[simp] theorem State.setStack_pending (k : Nat) (v : Stack) : (s.setStack k v).pending = s.pending := rfl
@[simp] theorem State.setStack_free (k : Nat) (v : Stack) : (s.setStack k v).free = s.free := rfl
@[simp] theorem State.setStack_nextId (k : Nat) (v : Stack) : (s.setStack k v).nextId = s.nextId := rfl
@[simp] theorem State.setStack_run (k : Nat) (v : Stack) : (s.setStack k v).run = s.run := rfl
@[simp] theorem State.setStack_hif (k : Nat) (v : Stack) : (s.setStack k v).hif = s.hif := rfl
@[simp] theorem State.setStack_sqs (k : Nat) (v : Stack) : (s.setStack k v).sqs = s.sqs := rfl
@[simp] theorem State.setStack_cqs (k : Nat) (v : Stack) : (s.setStack k v).cqs = s.cqs := rfl
@[simp] theorem State.setStack_cmds (k : Nat) (v : Stack) : (s.setStack k v).cmds = s.cmds := rfl
@[simp] theorem State.setStack_latches (k : Nat) (v : Stack) : (s.setStack k v).latches = s.latches := rfl
@[simp] theorem State.setStack_host (k : Nat) (v : Stack) : (s.setStack k v).host = s.host := rfl
@[simp] theorem State.setStack_hbm (k : Nat) (v : Stack) : (s.setStack k v).hbm = s.hbm := rfl
@[simp] theorem State.setStack_tel (k : Nat) (v : Stack) : (s.setStack k v).tel = s.tel := rfl
@[simp] theorem State.setStack_mtc (k : Nat) (v : Stack) : (s.setStack k v).mtc = s.mtc := rfl
@[simp] theorem State.setStack_census (k : Nat) (v : Stack) : (s.setStack k v).census = s.census := rfl
@[simp] theorem State.setStack_ports (k : Nat) (v : Stack) : (s.setStack k v).ports = s.ports := rfl
@[simp] theorem State.setStack_cores (k : Nat) (v : Stack) : (s.setStack k v).cores = s.cores := rfl
@[simp] theorem State.setStack_basins (k : Nat) (v : Stack) : (s.setStack k v).basins = s.basins := rfl
@[simp] theorem State.setStack_tgs (k : Nat) (v : Stack) : (s.setStack k v).tgs = s.tgs := rfl
@[simp] theorem State.setStack_parts (k : Nat) (v : Stack) : (s.setStack k v).parts = s.parts := rfl
@[simp] theorem State.setStack_runs (k : Nat) (v : Stack) : (s.setStack k v).runs = s.runs := rfl
@[simp] theorem State.setStack_plans (k : Nat) (v : Stack) : (s.setStack k v).plans = s.plans := rfl
@[simp] theorem State.setStack_requests (k : Nat) (v : Stack) : (s.setStack k v).requests = s.requests := rfl
@[simp] theorem State.setStack_nodes (k : Nat) (v : Stack) : (s.setStack k v).nodes = s.nodes := rfl
@[simp] theorem State.setStack_codecs (k : Nat) (v : Stack) : (s.setStack k v).codecs = s.codecs := rfl
@[simp] theorem State.setStack_rng (k : Nat) (v : Stack) : (s.setStack k v).rng = s.rng := rfl
@[simp] theorem State.setStack_acct (k : Nat) (v : Stack) : (s.setStack k v).acct = s.acct := rfl
@[simp] theorem State.setStack_fls (k : Nat) (v : Stack) : (s.setStack k v).fls = s.fls := rfl
@[simp] theorem State.setStack_medium (k : Nat) (v : Stack) : (s.setStack k v).medium = s.medium := rfl
@[simp] theorem State.setStack_sec (k : Nat) (v : Stack) : (s.setStack k v).sec = s.sec := rfl
@[simp] theorem State.setStack_fuses (k : Nat) (v : Stack) : (s.setStack k v).fuses = s.fuses := rfl
@[simp] theorem State.setStack_bist (k : Nat) (v : Stack) : (s.setStack k v).bist = s.bist := rfl
@[simp] theorem State.setStack_evt (k : Nat) (v : Stack) : (s.setStack k v).evt = s.evt := rfl
@[simp] theorem State.setStack_mgt (k : Nat) (v : Stack) : (s.setStack k v).mgt = s.mgt := rfl
@[simp] theorem State.setStack_jtag (k : Nat) (v : Stack) : (s.setStack k v).jtag = s.jtag := rfl

/-! setTg changes tgs only. -/

@[simp] theorem State.setTg_pending (c : Nat) (v : Tg) : (s.setTg c v).pending = s.pending := rfl
@[simp] theorem State.setTg_free (c : Nat) (v : Tg) : (s.setTg c v).free = s.free := rfl
@[simp] theorem State.setTg_nextId (c : Nat) (v : Tg) : (s.setTg c v).nextId = s.nextId := rfl
@[simp] theorem State.setTg_run (c : Nat) (v : Tg) : (s.setTg c v).run = s.run := rfl
@[simp] theorem State.setTg_hif (c : Nat) (v : Tg) : (s.setTg c v).hif = s.hif := rfl
@[simp] theorem State.setTg_sqs (c : Nat) (v : Tg) : (s.setTg c v).sqs = s.sqs := rfl
@[simp] theorem State.setTg_cqs (c : Nat) (v : Tg) : (s.setTg c v).cqs = s.cqs := rfl
@[simp] theorem State.setTg_cmds (c : Nat) (v : Tg) : (s.setTg c v).cmds = s.cmds := rfl
@[simp] theorem State.setTg_latches (c : Nat) (v : Tg) : (s.setTg c v).latches = s.latches := rfl
@[simp] theorem State.setTg_host (c : Nat) (v : Tg) : (s.setTg c v).host = s.host := rfl
@[simp] theorem State.setTg_hbm (c : Nat) (v : Tg) : (s.setTg c v).hbm = s.hbm := rfl
@[simp] theorem State.setTg_tel (c : Nat) (v : Tg) : (s.setTg c v).tel = s.tel := rfl
@[simp] theorem State.setTg_mtc (c : Nat) (v : Tg) : (s.setTg c v).mtc = s.mtc := rfl
@[simp] theorem State.setTg_census (c : Nat) (v : Tg) : (s.setTg c v).census = s.census := rfl
@[simp] theorem State.setTg_ports (c : Nat) (v : Tg) : (s.setTg c v).ports = s.ports := rfl
@[simp] theorem State.setTg_cores (c : Nat) (v : Tg) : (s.setTg c v).cores = s.cores := rfl
@[simp] theorem State.setTg_basins (c : Nat) (v : Tg) : (s.setTg c v).basins = s.basins := rfl
@[simp] theorem State.setTg_hbmStacks (c : Nat) (v : Tg) : (s.setTg c v).hbmStacks = s.hbmStacks := rfl
@[simp] theorem State.setTg_parts (c : Nat) (v : Tg) : (s.setTg c v).parts = s.parts := rfl
@[simp] theorem State.setTg_runs (c : Nat) (v : Tg) : (s.setTg c v).runs = s.runs := rfl
@[simp] theorem State.setTg_plans (c : Nat) (v : Tg) : (s.setTg c v).plans = s.plans := rfl
@[simp] theorem State.setTg_requests (c : Nat) (v : Tg) : (s.setTg c v).requests = s.requests := rfl
@[simp] theorem State.setTg_nodes (c : Nat) (v : Tg) : (s.setTg c v).nodes = s.nodes := rfl
@[simp] theorem State.setTg_codecs (c : Nat) (v : Tg) : (s.setTg c v).codecs = s.codecs := rfl
@[simp] theorem State.setTg_rng (c : Nat) (v : Tg) : (s.setTg c v).rng = s.rng := rfl
@[simp] theorem State.setTg_acct (c : Nat) (v : Tg) : (s.setTg c v).acct = s.acct := rfl
@[simp] theorem State.setTg_fls (c : Nat) (v : Tg) : (s.setTg c v).fls = s.fls := rfl
@[simp] theorem State.setTg_medium (c : Nat) (v : Tg) : (s.setTg c v).medium = s.medium := rfl
@[simp] theorem State.setTg_sec (c : Nat) (v : Tg) : (s.setTg c v).sec = s.sec := rfl
@[simp] theorem State.setTg_fuses (c : Nat) (v : Tg) : (s.setTg c v).fuses = s.fuses := rfl
@[simp] theorem State.setTg_bist (c : Nat) (v : Tg) : (s.setTg c v).bist = s.bist := rfl
@[simp] theorem State.setTg_evt (c : Nat) (v : Tg) : (s.setTg c v).evt = s.evt := rfl
@[simp] theorem State.setTg_mgt (c : Nat) (v : Tg) : (s.setTg c v).mgt = s.mgt := rfl
@[simp] theorem State.setTg_jtag (c : Nat) (v : Tg) : (s.setTg c v).jtag = s.jtag := rfl

/-! setPort changes ports only. -/

@[simp] theorem State.setPort_pending (q : Nat) (v : Port) : (s.setPort q v).pending = s.pending := rfl
@[simp] theorem State.setPort_free (q : Nat) (v : Port) : (s.setPort q v).free = s.free := rfl
@[simp] theorem State.setPort_nextId (q : Nat) (v : Port) : (s.setPort q v).nextId = s.nextId := rfl
@[simp] theorem State.setPort_run (q : Nat) (v : Port) : (s.setPort q v).run = s.run := rfl
@[simp] theorem State.setPort_hif (q : Nat) (v : Port) : (s.setPort q v).hif = s.hif := rfl
@[simp] theorem State.setPort_sqs (q : Nat) (v : Port) : (s.setPort q v).sqs = s.sqs := rfl
@[simp] theorem State.setPort_cqs (q : Nat) (v : Port) : (s.setPort q v).cqs = s.cqs := rfl
@[simp] theorem State.setPort_cmds (q : Nat) (v : Port) : (s.setPort q v).cmds = s.cmds := rfl
@[simp] theorem State.setPort_latches (q : Nat) (v : Port) : (s.setPort q v).latches = s.latches := rfl
@[simp] theorem State.setPort_host (q : Nat) (v : Port) : (s.setPort q v).host = s.host := rfl
@[simp] theorem State.setPort_hbm (q : Nat) (v : Port) : (s.setPort q v).hbm = s.hbm := rfl
@[simp] theorem State.setPort_tel (q : Nat) (v : Port) : (s.setPort q v).tel = s.tel := rfl
@[simp] theorem State.setPort_mtc (q : Nat) (v : Port) : (s.setPort q v).mtc = s.mtc := rfl
@[simp] theorem State.setPort_census (q : Nat) (v : Port) : (s.setPort q v).census = s.census := rfl
@[simp] theorem State.setPort_cores (q : Nat) (v : Port) : (s.setPort q v).cores = s.cores := rfl
@[simp] theorem State.setPort_basins (q : Nat) (v : Port) : (s.setPort q v).basins = s.basins := rfl
@[simp] theorem State.setPort_hbmStacks (q : Nat) (v : Port) : (s.setPort q v).hbmStacks = s.hbmStacks := rfl
@[simp] theorem State.setPort_tgs (q : Nat) (v : Port) : (s.setPort q v).tgs = s.tgs := rfl
@[simp] theorem State.setPort_parts (q : Nat) (v : Port) : (s.setPort q v).parts = s.parts := rfl
@[simp] theorem State.setPort_runs (q : Nat) (v : Port) : (s.setPort q v).runs = s.runs := rfl
@[simp] theorem State.setPort_plans (q : Nat) (v : Port) : (s.setPort q v).plans = s.plans := rfl
@[simp] theorem State.setPort_requests (q : Nat) (v : Port) : (s.setPort q v).requests = s.requests := rfl
@[simp] theorem State.setPort_nodes (q : Nat) (v : Port) : (s.setPort q v).nodes = s.nodes := rfl
@[simp] theorem State.setPort_codecs (q : Nat) (v : Port) : (s.setPort q v).codecs = s.codecs := rfl
@[simp] theorem State.setPort_rng (q : Nat) (v : Port) : (s.setPort q v).rng = s.rng := rfl
@[simp] theorem State.setPort_acct (q : Nat) (v : Port) : (s.setPort q v).acct = s.acct := rfl
@[simp] theorem State.setPort_fls (q : Nat) (v : Port) : (s.setPort q v).fls = s.fls := rfl
@[simp] theorem State.setPort_medium (q : Nat) (v : Port) : (s.setPort q v).medium = s.medium := rfl
@[simp] theorem State.setPort_sec (q : Nat) (v : Port) : (s.setPort q v).sec = s.sec := rfl
@[simp] theorem State.setPort_fuses (q : Nat) (v : Port) : (s.setPort q v).fuses = s.fuses := rfl
@[simp] theorem State.setPort_bist (q : Nat) (v : Port) : (s.setPort q v).bist = s.bist := rfl
@[simp] theorem State.setPort_evt (q : Nat) (v : Port) : (s.setPort q v).evt = s.evt := rfl
@[simp] theorem State.setPort_mgt (q : Nat) (v : Port) : (s.setPort q v).mgt = s.mgt := rfl
@[simp] theorem State.setPort_jtag (q : Nat) (v : Port) : (s.setPort q v).jtag = s.jtag := rfl

/-! setCodec changes codecs only. -/

@[simp] theorem State.setCodec_pending (c : Nat) (v : Codec) : (s.setCodec c v).pending = s.pending := rfl
@[simp] theorem State.setCodec_free (c : Nat) (v : Codec) : (s.setCodec c v).free = s.free := rfl
@[simp] theorem State.setCodec_nextId (c : Nat) (v : Codec) : (s.setCodec c v).nextId = s.nextId := rfl
@[simp] theorem State.setCodec_run (c : Nat) (v : Codec) : (s.setCodec c v).run = s.run := rfl
@[simp] theorem State.setCodec_hif (c : Nat) (v : Codec) : (s.setCodec c v).hif = s.hif := rfl
@[simp] theorem State.setCodec_sqs (c : Nat) (v : Codec) : (s.setCodec c v).sqs = s.sqs := rfl
@[simp] theorem State.setCodec_cqs (c : Nat) (v : Codec) : (s.setCodec c v).cqs = s.cqs := rfl
@[simp] theorem State.setCodec_cmds (c : Nat) (v : Codec) : (s.setCodec c v).cmds = s.cmds := rfl
@[simp] theorem State.setCodec_latches (c : Nat) (v : Codec) : (s.setCodec c v).latches = s.latches := rfl
@[simp] theorem State.setCodec_host (c : Nat) (v : Codec) : (s.setCodec c v).host = s.host := rfl
@[simp] theorem State.setCodec_hbm (c : Nat) (v : Codec) : (s.setCodec c v).hbm = s.hbm := rfl
@[simp] theorem State.setCodec_tel (c : Nat) (v : Codec) : (s.setCodec c v).tel = s.tel := rfl
@[simp] theorem State.setCodec_mtc (c : Nat) (v : Codec) : (s.setCodec c v).mtc = s.mtc := rfl
@[simp] theorem State.setCodec_census (c : Nat) (v : Codec) : (s.setCodec c v).census = s.census := rfl
@[simp] theorem State.setCodec_ports (c : Nat) (v : Codec) : (s.setCodec c v).ports = s.ports := rfl
@[simp] theorem State.setCodec_cores (c : Nat) (v : Codec) : (s.setCodec c v).cores = s.cores := rfl
@[simp] theorem State.setCodec_basins (c : Nat) (v : Codec) : (s.setCodec c v).basins = s.basins := rfl
@[simp] theorem State.setCodec_hbmStacks (c : Nat) (v : Codec) : (s.setCodec c v).hbmStacks = s.hbmStacks := rfl
@[simp] theorem State.setCodec_tgs (c : Nat) (v : Codec) : (s.setCodec c v).tgs = s.tgs := rfl
@[simp] theorem State.setCodec_parts (c : Nat) (v : Codec) : (s.setCodec c v).parts = s.parts := rfl
@[simp] theorem State.setCodec_runs (c : Nat) (v : Codec) : (s.setCodec c v).runs = s.runs := rfl
@[simp] theorem State.setCodec_plans (c : Nat) (v : Codec) : (s.setCodec c v).plans = s.plans := rfl
@[simp] theorem State.setCodec_requests (c : Nat) (v : Codec) : (s.setCodec c v).requests = s.requests := rfl
@[simp] theorem State.setCodec_nodes (c : Nat) (v : Codec) : (s.setCodec c v).nodes = s.nodes := rfl
@[simp] theorem State.setCodec_rng (c : Nat) (v : Codec) : (s.setCodec c v).rng = s.rng := rfl
@[simp] theorem State.setCodec_acct (c : Nat) (v : Codec) : (s.setCodec c v).acct = s.acct := rfl
@[simp] theorem State.setCodec_fls (c : Nat) (v : Codec) : (s.setCodec c v).fls = s.fls := rfl
@[simp] theorem State.setCodec_medium (c : Nat) (v : Codec) : (s.setCodec c v).medium = s.medium := rfl
@[simp] theorem State.setCodec_sec (c : Nat) (v : Codec) : (s.setCodec c v).sec = s.sec := rfl
@[simp] theorem State.setCodec_fuses (c : Nat) (v : Codec) : (s.setCodec c v).fuses = s.fuses := rfl
@[simp] theorem State.setCodec_bist (c : Nat) (v : Codec) : (s.setCodec c v).bist = s.bist := rfl
@[simp] theorem State.setCodec_evt (c : Nat) (v : Codec) : (s.setCodec c v).evt = s.evt := rfl
@[simp] theorem State.setCodec_mgt (c : Nat) (v : Codec) : (s.setCodec c v).mgt = s.mgt := rfl
@[simp] theorem State.setCodec_jtag (c : Nat) (v : Codec) : (s.setCodec c v).jtag = s.jtag := rfl

/-! setRun changes runs only. -/

@[simp] theorem State.setRun_pending (p : Nat) (v : PartRun) : (s.setRun p v).pending = s.pending := rfl
@[simp] theorem State.setRun_free (p : Nat) (v : PartRun) : (s.setRun p v).free = s.free := rfl
@[simp] theorem State.setRun_nextId (p : Nat) (v : PartRun) : (s.setRun p v).nextId = s.nextId := rfl
@[simp] theorem State.setRun_run (p : Nat) (v : PartRun) : (s.setRun p v).run = s.run := rfl
@[simp] theorem State.setRun_hif (p : Nat) (v : PartRun) : (s.setRun p v).hif = s.hif := rfl
@[simp] theorem State.setRun_sqs (p : Nat) (v : PartRun) : (s.setRun p v).sqs = s.sqs := rfl
@[simp] theorem State.setRun_cqs (p : Nat) (v : PartRun) : (s.setRun p v).cqs = s.cqs := rfl
@[simp] theorem State.setRun_cmds (p : Nat) (v : PartRun) : (s.setRun p v).cmds = s.cmds := rfl
@[simp] theorem State.setRun_latches (p : Nat) (v : PartRun) : (s.setRun p v).latches = s.latches := rfl
@[simp] theorem State.setRun_host (p : Nat) (v : PartRun) : (s.setRun p v).host = s.host := rfl
@[simp] theorem State.setRun_hbm (p : Nat) (v : PartRun) : (s.setRun p v).hbm = s.hbm := rfl
@[simp] theorem State.setRun_tel (p : Nat) (v : PartRun) : (s.setRun p v).tel = s.tel := rfl
@[simp] theorem State.setRun_mtc (p : Nat) (v : PartRun) : (s.setRun p v).mtc = s.mtc := rfl
@[simp] theorem State.setRun_census (p : Nat) (v : PartRun) : (s.setRun p v).census = s.census := rfl
@[simp] theorem State.setRun_ports (p : Nat) (v : PartRun) : (s.setRun p v).ports = s.ports := rfl
@[simp] theorem State.setRun_cores (p : Nat) (v : PartRun) : (s.setRun p v).cores = s.cores := rfl
@[simp] theorem State.setRun_basins (p : Nat) (v : PartRun) : (s.setRun p v).basins = s.basins := rfl
@[simp] theorem State.setRun_hbmStacks (p : Nat) (v : PartRun) : (s.setRun p v).hbmStacks = s.hbmStacks := rfl
@[simp] theorem State.setRun_tgs (p : Nat) (v : PartRun) : (s.setRun p v).tgs = s.tgs := rfl
@[simp] theorem State.setRun_parts (p : Nat) (v : PartRun) : (s.setRun p v).parts = s.parts := rfl
@[simp] theorem State.setRun_plans (p : Nat) (v : PartRun) : (s.setRun p v).plans = s.plans := rfl
@[simp] theorem State.setRun_requests (p : Nat) (v : PartRun) : (s.setRun p v).requests = s.requests := rfl
@[simp] theorem State.setRun_nodes (p : Nat) (v : PartRun) : (s.setRun p v).nodes = s.nodes := rfl
@[simp] theorem State.setRun_codecs (p : Nat) (v : PartRun) : (s.setRun p v).codecs = s.codecs := rfl
@[simp] theorem State.setRun_rng (p : Nat) (v : PartRun) : (s.setRun p v).rng = s.rng := rfl
@[simp] theorem State.setRun_acct (p : Nat) (v : PartRun) : (s.setRun p v).acct = s.acct := rfl
@[simp] theorem State.setRun_fls (p : Nat) (v : PartRun) : (s.setRun p v).fls = s.fls := rfl
@[simp] theorem State.setRun_medium (p : Nat) (v : PartRun) : (s.setRun p v).medium = s.medium := rfl
@[simp] theorem State.setRun_sec (p : Nat) (v : PartRun) : (s.setRun p v).sec = s.sec := rfl
@[simp] theorem State.setRun_fuses (p : Nat) (v : PartRun) : (s.setRun p v).fuses = s.fuses := rfl
@[simp] theorem State.setRun_bist (p : Nat) (v : PartRun) : (s.setRun p v).bist = s.bist := rfl
@[simp] theorem State.setRun_evt (p : Nat) (v : PartRun) : (s.setRun p v).evt = s.evt := rfl
@[simp] theorem State.setRun_mgt (p : Nat) (v : PartRun) : (s.setRun p v).mgt = s.mgt := rfl
@[simp] theorem State.setRun_jtag (p : Nat) (v : PartRun) : (s.setRun p v).jtag = s.jtag := rfl

/-! setFn changes hif only. -/

@[simp] theorem State.setFn_pending (f : Nat) (v : FnRegs) : (s.setFn f v).pending = s.pending := rfl
@[simp] theorem State.setFn_free (f : Nat) (v : FnRegs) : (s.setFn f v).free = s.free := rfl
@[simp] theorem State.setFn_nextId (f : Nat) (v : FnRegs) : (s.setFn f v).nextId = s.nextId := rfl
@[simp] theorem State.setFn_run (f : Nat) (v : FnRegs) : (s.setFn f v).run = s.run := rfl
@[simp] theorem State.setFn_sqs (f : Nat) (v : FnRegs) : (s.setFn f v).sqs = s.sqs := rfl
@[simp] theorem State.setFn_cqs (f : Nat) (v : FnRegs) : (s.setFn f v).cqs = s.cqs := rfl
@[simp] theorem State.setFn_cmds (f : Nat) (v : FnRegs) : (s.setFn f v).cmds = s.cmds := rfl
@[simp] theorem State.setFn_latches (f : Nat) (v : FnRegs) : (s.setFn f v).latches = s.latches := rfl
@[simp] theorem State.setFn_host (f : Nat) (v : FnRegs) : (s.setFn f v).host = s.host := rfl
@[simp] theorem State.setFn_hbm (f : Nat) (v : FnRegs) : (s.setFn f v).hbm = s.hbm := rfl
@[simp] theorem State.setFn_tel (f : Nat) (v : FnRegs) : (s.setFn f v).tel = s.tel := rfl
@[simp] theorem State.setFn_mtc (f : Nat) (v : FnRegs) : (s.setFn f v).mtc = s.mtc := rfl
@[simp] theorem State.setFn_census (f : Nat) (v : FnRegs) : (s.setFn f v).census = s.census := rfl
@[simp] theorem State.setFn_ports (f : Nat) (v : FnRegs) : (s.setFn f v).ports = s.ports := rfl
@[simp] theorem State.setFn_cores (f : Nat) (v : FnRegs) : (s.setFn f v).cores = s.cores := rfl
@[simp] theorem State.setFn_basins (f : Nat) (v : FnRegs) : (s.setFn f v).basins = s.basins := rfl
@[simp] theorem State.setFn_hbmStacks (f : Nat) (v : FnRegs) : (s.setFn f v).hbmStacks = s.hbmStacks := rfl
@[simp] theorem State.setFn_tgs (f : Nat) (v : FnRegs) : (s.setFn f v).tgs = s.tgs := rfl
@[simp] theorem State.setFn_parts (f : Nat) (v : FnRegs) : (s.setFn f v).parts = s.parts := rfl
@[simp] theorem State.setFn_runs (f : Nat) (v : FnRegs) : (s.setFn f v).runs = s.runs := rfl
@[simp] theorem State.setFn_plans (f : Nat) (v : FnRegs) : (s.setFn f v).plans = s.plans := rfl
@[simp] theorem State.setFn_requests (f : Nat) (v : FnRegs) : (s.setFn f v).requests = s.requests := rfl
@[simp] theorem State.setFn_nodes (f : Nat) (v : FnRegs) : (s.setFn f v).nodes = s.nodes := rfl
@[simp] theorem State.setFn_codecs (f : Nat) (v : FnRegs) : (s.setFn f v).codecs = s.codecs := rfl
@[simp] theorem State.setFn_rng (f : Nat) (v : FnRegs) : (s.setFn f v).rng = s.rng := rfl
@[simp] theorem State.setFn_acct (f : Nat) (v : FnRegs) : (s.setFn f v).acct = s.acct := rfl
@[simp] theorem State.setFn_fls (f : Nat) (v : FnRegs) : (s.setFn f v).fls = s.fls := rfl
@[simp] theorem State.setFn_medium (f : Nat) (v : FnRegs) : (s.setFn f v).medium = s.medium := rfl
@[simp] theorem State.setFn_sec (f : Nat) (v : FnRegs) : (s.setFn f v).sec = s.sec := rfl
@[simp] theorem State.setFn_fuses (f : Nat) (v : FnRegs) : (s.setFn f v).fuses = s.fuses := rfl
@[simp] theorem State.setFn_bist (f : Nat) (v : FnRegs) : (s.setFn f v).bist = s.bist := rfl
@[simp] theorem State.setFn_evt (f : Nat) (v : FnRegs) : (s.setFn f v).evt = s.evt := rfl
@[simp] theorem State.setFn_mgt (f : Nat) (v : FnRegs) : (s.setFn f v).mgt = s.mgt := rfl
@[simp] theorem State.setFn_jtag (f : Nat) (v : FnRegs) : (s.setFn f v).jtag = s.jtag := rfl

/-! setSq changes sqs only. -/

@[simp] theorem State.setSq_pending (f q : Nat) (v : SubRing) : (s.setSq f q v).pending = s.pending := rfl
@[simp] theorem State.setSq_free (f q : Nat) (v : SubRing) : (s.setSq f q v).free = s.free := rfl
@[simp] theorem State.setSq_nextId (f q : Nat) (v : SubRing) : (s.setSq f q v).nextId = s.nextId := rfl
@[simp] theorem State.setSq_run (f q : Nat) (v : SubRing) : (s.setSq f q v).run = s.run := rfl
@[simp] theorem State.setSq_hif (f q : Nat) (v : SubRing) : (s.setSq f q v).hif = s.hif := rfl
@[simp] theorem State.setSq_cqs (f q : Nat) (v : SubRing) : (s.setSq f q v).cqs = s.cqs := rfl
@[simp] theorem State.setSq_cmds (f q : Nat) (v : SubRing) : (s.setSq f q v).cmds = s.cmds := rfl
@[simp] theorem State.setSq_latches (f q : Nat) (v : SubRing) : (s.setSq f q v).latches = s.latches := rfl
@[simp] theorem State.setSq_host (f q : Nat) (v : SubRing) : (s.setSq f q v).host = s.host := rfl
@[simp] theorem State.setSq_hbm (f q : Nat) (v : SubRing) : (s.setSq f q v).hbm = s.hbm := rfl
@[simp] theorem State.setSq_tel (f q : Nat) (v : SubRing) : (s.setSq f q v).tel = s.tel := rfl
@[simp] theorem State.setSq_mtc (f q : Nat) (v : SubRing) : (s.setSq f q v).mtc = s.mtc := rfl
@[simp] theorem State.setSq_census (f q : Nat) (v : SubRing) : (s.setSq f q v).census = s.census := rfl
@[simp] theorem State.setSq_ports (f q : Nat) (v : SubRing) : (s.setSq f q v).ports = s.ports := rfl
@[simp] theorem State.setSq_cores (f q : Nat) (v : SubRing) : (s.setSq f q v).cores = s.cores := rfl
@[simp] theorem State.setSq_basins (f q : Nat) (v : SubRing) : (s.setSq f q v).basins = s.basins := rfl
@[simp] theorem State.setSq_hbmStacks (f q : Nat) (v : SubRing) : (s.setSq f q v).hbmStacks = s.hbmStacks := rfl
@[simp] theorem State.setSq_tgs (f q : Nat) (v : SubRing) : (s.setSq f q v).tgs = s.tgs := rfl
@[simp] theorem State.setSq_parts (f q : Nat) (v : SubRing) : (s.setSq f q v).parts = s.parts := rfl
@[simp] theorem State.setSq_runs (f q : Nat) (v : SubRing) : (s.setSq f q v).runs = s.runs := rfl
@[simp] theorem State.setSq_plans (f q : Nat) (v : SubRing) : (s.setSq f q v).plans = s.plans := rfl
@[simp] theorem State.setSq_requests (f q : Nat) (v : SubRing) : (s.setSq f q v).requests = s.requests := rfl
@[simp] theorem State.setSq_nodes (f q : Nat) (v : SubRing) : (s.setSq f q v).nodes = s.nodes := rfl
@[simp] theorem State.setSq_codecs (f q : Nat) (v : SubRing) : (s.setSq f q v).codecs = s.codecs := rfl
@[simp] theorem State.setSq_rng (f q : Nat) (v : SubRing) : (s.setSq f q v).rng = s.rng := rfl
@[simp] theorem State.setSq_acct (f q : Nat) (v : SubRing) : (s.setSq f q v).acct = s.acct := rfl
@[simp] theorem State.setSq_fls (f q : Nat) (v : SubRing) : (s.setSq f q v).fls = s.fls := rfl
@[simp] theorem State.setSq_medium (f q : Nat) (v : SubRing) : (s.setSq f q v).medium = s.medium := rfl
@[simp] theorem State.setSq_sec (f q : Nat) (v : SubRing) : (s.setSq f q v).sec = s.sec := rfl
@[simp] theorem State.setSq_fuses (f q : Nat) (v : SubRing) : (s.setSq f q v).fuses = s.fuses := rfl
@[simp] theorem State.setSq_bist (f q : Nat) (v : SubRing) : (s.setSq f q v).bist = s.bist := rfl
@[simp] theorem State.setSq_evt (f q : Nat) (v : SubRing) : (s.setSq f q v).evt = s.evt := rfl
@[simp] theorem State.setSq_mgt (f q : Nat) (v : SubRing) : (s.setSq f q v).mgt = s.mgt := rfl
@[simp] theorem State.setSq_jtag (f q : Nat) (v : SubRing) : (s.setSq f q v).jtag = s.jtag := rfl

/-! setCq changes cqs only. -/

@[simp] theorem State.setCq_pending (f q : Nat) (v : CompRing) : (s.setCq f q v).pending = s.pending := rfl
@[simp] theorem State.setCq_free (f q : Nat) (v : CompRing) : (s.setCq f q v).free = s.free := rfl
@[simp] theorem State.setCq_nextId (f q : Nat) (v : CompRing) : (s.setCq f q v).nextId = s.nextId := rfl
@[simp] theorem State.setCq_run (f q : Nat) (v : CompRing) : (s.setCq f q v).run = s.run := rfl
@[simp] theorem State.setCq_hif (f q : Nat) (v : CompRing) : (s.setCq f q v).hif = s.hif := rfl
@[simp] theorem State.setCq_sqs (f q : Nat) (v : CompRing) : (s.setCq f q v).sqs = s.sqs := rfl
@[simp] theorem State.setCq_cmds (f q : Nat) (v : CompRing) : (s.setCq f q v).cmds = s.cmds := rfl
@[simp] theorem State.setCq_latches (f q : Nat) (v : CompRing) : (s.setCq f q v).latches = s.latches := rfl
@[simp] theorem State.setCq_host (f q : Nat) (v : CompRing) : (s.setCq f q v).host = s.host := rfl
@[simp] theorem State.setCq_hbm (f q : Nat) (v : CompRing) : (s.setCq f q v).hbm = s.hbm := rfl
@[simp] theorem State.setCq_tel (f q : Nat) (v : CompRing) : (s.setCq f q v).tel = s.tel := rfl
@[simp] theorem State.setCq_mtc (f q : Nat) (v : CompRing) : (s.setCq f q v).mtc = s.mtc := rfl
@[simp] theorem State.setCq_census (f q : Nat) (v : CompRing) : (s.setCq f q v).census = s.census := rfl
@[simp] theorem State.setCq_ports (f q : Nat) (v : CompRing) : (s.setCq f q v).ports = s.ports := rfl
@[simp] theorem State.setCq_cores (f q : Nat) (v : CompRing) : (s.setCq f q v).cores = s.cores := rfl
@[simp] theorem State.setCq_basins (f q : Nat) (v : CompRing) : (s.setCq f q v).basins = s.basins := rfl
@[simp] theorem State.setCq_hbmStacks (f q : Nat) (v : CompRing) : (s.setCq f q v).hbmStacks = s.hbmStacks := rfl
@[simp] theorem State.setCq_tgs (f q : Nat) (v : CompRing) : (s.setCq f q v).tgs = s.tgs := rfl
@[simp] theorem State.setCq_parts (f q : Nat) (v : CompRing) : (s.setCq f q v).parts = s.parts := rfl
@[simp] theorem State.setCq_runs (f q : Nat) (v : CompRing) : (s.setCq f q v).runs = s.runs := rfl
@[simp] theorem State.setCq_plans (f q : Nat) (v : CompRing) : (s.setCq f q v).plans = s.plans := rfl
@[simp] theorem State.setCq_requests (f q : Nat) (v : CompRing) : (s.setCq f q v).requests = s.requests := rfl
@[simp] theorem State.setCq_nodes (f q : Nat) (v : CompRing) : (s.setCq f q v).nodes = s.nodes := rfl
@[simp] theorem State.setCq_codecs (f q : Nat) (v : CompRing) : (s.setCq f q v).codecs = s.codecs := rfl
@[simp] theorem State.setCq_rng (f q : Nat) (v : CompRing) : (s.setCq f q v).rng = s.rng := rfl
@[simp] theorem State.setCq_acct (f q : Nat) (v : CompRing) : (s.setCq f q v).acct = s.acct := rfl
@[simp] theorem State.setCq_fls (f q : Nat) (v : CompRing) : (s.setCq f q v).fls = s.fls := rfl
@[simp] theorem State.setCq_medium (f q : Nat) (v : CompRing) : (s.setCq f q v).medium = s.medium := rfl
@[simp] theorem State.setCq_sec (f q : Nat) (v : CompRing) : (s.setCq f q v).sec = s.sec := rfl
@[simp] theorem State.setCq_fuses (f q : Nat) (v : CompRing) : (s.setCq f q v).fuses = s.fuses := rfl
@[simp] theorem State.setCq_bist (f q : Nat) (v : CompRing) : (s.setCq f q v).bist = s.bist := rfl
@[simp] theorem State.setCq_evt (f q : Nat) (v : CompRing) : (s.setCq f q v).evt = s.evt := rfl
@[simp] theorem State.setCq_mgt (f q : Nat) (v : CompRing) : (s.setCq f q v).mgt = s.mgt := rfl
@[simp] theorem State.setCq_jtag (f q : Nat) (v : CompRing) : (s.setCq f q v).jtag = s.jtag := rfl

/-! setLatch changes latches only. -/

@[simp] theorem State.setLatch_pending (f : Nat) (v : Latches) : (s.setLatch f v).pending = s.pending := rfl
@[simp] theorem State.setLatch_free (f : Nat) (v : Latches) : (s.setLatch f v).free = s.free := rfl
@[simp] theorem State.setLatch_nextId (f : Nat) (v : Latches) : (s.setLatch f v).nextId = s.nextId := rfl
@[simp] theorem State.setLatch_run (f : Nat) (v : Latches) : (s.setLatch f v).run = s.run := rfl
@[simp] theorem State.setLatch_hif (f : Nat) (v : Latches) : (s.setLatch f v).hif = s.hif := rfl
@[simp] theorem State.setLatch_sqs (f : Nat) (v : Latches) : (s.setLatch f v).sqs = s.sqs := rfl
@[simp] theorem State.setLatch_cqs (f : Nat) (v : Latches) : (s.setLatch f v).cqs = s.cqs := rfl
@[simp] theorem State.setLatch_cmds (f : Nat) (v : Latches) : (s.setLatch f v).cmds = s.cmds := rfl
@[simp] theorem State.setLatch_host (f : Nat) (v : Latches) : (s.setLatch f v).host = s.host := rfl
@[simp] theorem State.setLatch_hbm (f : Nat) (v : Latches) : (s.setLatch f v).hbm = s.hbm := rfl
@[simp] theorem State.setLatch_tel (f : Nat) (v : Latches) : (s.setLatch f v).tel = s.tel := rfl
@[simp] theorem State.setLatch_mtc (f : Nat) (v : Latches) : (s.setLatch f v).mtc = s.mtc := rfl
@[simp] theorem State.setLatch_census (f : Nat) (v : Latches) : (s.setLatch f v).census = s.census := rfl
@[simp] theorem State.setLatch_ports (f : Nat) (v : Latches) : (s.setLatch f v).ports = s.ports := rfl
@[simp] theorem State.setLatch_cores (f : Nat) (v : Latches) : (s.setLatch f v).cores = s.cores := rfl
@[simp] theorem State.setLatch_basins (f : Nat) (v : Latches) : (s.setLatch f v).basins = s.basins := rfl
@[simp] theorem State.setLatch_hbmStacks (f : Nat) (v : Latches) : (s.setLatch f v).hbmStacks = s.hbmStacks := rfl
@[simp] theorem State.setLatch_tgs (f : Nat) (v : Latches) : (s.setLatch f v).tgs = s.tgs := rfl
@[simp] theorem State.setLatch_parts (f : Nat) (v : Latches) : (s.setLatch f v).parts = s.parts := rfl
@[simp] theorem State.setLatch_runs (f : Nat) (v : Latches) : (s.setLatch f v).runs = s.runs := rfl
@[simp] theorem State.setLatch_plans (f : Nat) (v : Latches) : (s.setLatch f v).plans = s.plans := rfl
@[simp] theorem State.setLatch_requests (f : Nat) (v : Latches) : (s.setLatch f v).requests = s.requests := rfl
@[simp] theorem State.setLatch_nodes (f : Nat) (v : Latches) : (s.setLatch f v).nodes = s.nodes := rfl
@[simp] theorem State.setLatch_codecs (f : Nat) (v : Latches) : (s.setLatch f v).codecs = s.codecs := rfl
@[simp] theorem State.setLatch_rng (f : Nat) (v : Latches) : (s.setLatch f v).rng = s.rng := rfl
@[simp] theorem State.setLatch_acct (f : Nat) (v : Latches) : (s.setLatch f v).acct = s.acct := rfl
@[simp] theorem State.setLatch_fls (f : Nat) (v : Latches) : (s.setLatch f v).fls = s.fls := rfl
@[simp] theorem State.setLatch_medium (f : Nat) (v : Latches) : (s.setLatch f v).medium = s.medium := rfl
@[simp] theorem State.setLatch_sec (f : Nat) (v : Latches) : (s.setLatch f v).sec = s.sec := rfl
@[simp] theorem State.setLatch_fuses (f : Nat) (v : Latches) : (s.setLatch f v).fuses = s.fuses := rfl
@[simp] theorem State.setLatch_bist (f : Nat) (v : Latches) : (s.setLatch f v).bist = s.bist := rfl
@[simp] theorem State.setLatch_evt (f : Nat) (v : Latches) : (s.setLatch f v).evt = s.evt := rfl
@[simp] theorem State.setLatch_mgt (f : Nat) (v : Latches) : (s.setLatch f v).mgt = s.mgt := rfl
@[simp] theorem State.setLatch_jtag (f : Nat) (v : Latches) : (s.setLatch f v).jtag = s.jtag := rfl

/-! setAccount changes acct only. -/

@[simp] theorem State.setAccount_pending (c : Nat) (v : Account) : (s.setAccount c v).pending = s.pending := rfl
@[simp] theorem State.setAccount_free (c : Nat) (v : Account) : (s.setAccount c v).free = s.free := rfl
@[simp] theorem State.setAccount_nextId (c : Nat) (v : Account) : (s.setAccount c v).nextId = s.nextId := rfl
@[simp] theorem State.setAccount_run (c : Nat) (v : Account) : (s.setAccount c v).run = s.run := rfl
@[simp] theorem State.setAccount_hif (c : Nat) (v : Account) : (s.setAccount c v).hif = s.hif := rfl
@[simp] theorem State.setAccount_sqs (c : Nat) (v : Account) : (s.setAccount c v).sqs = s.sqs := rfl
@[simp] theorem State.setAccount_cqs (c : Nat) (v : Account) : (s.setAccount c v).cqs = s.cqs := rfl
@[simp] theorem State.setAccount_cmds (c : Nat) (v : Account) : (s.setAccount c v).cmds = s.cmds := rfl
@[simp] theorem State.setAccount_latches (c : Nat) (v : Account) : (s.setAccount c v).latches = s.latches := rfl
@[simp] theorem State.setAccount_host (c : Nat) (v : Account) : (s.setAccount c v).host = s.host := rfl
@[simp] theorem State.setAccount_hbm (c : Nat) (v : Account) : (s.setAccount c v).hbm = s.hbm := rfl
@[simp] theorem State.setAccount_tel (c : Nat) (v : Account) : (s.setAccount c v).tel = s.tel := rfl
@[simp] theorem State.setAccount_mtc (c : Nat) (v : Account) : (s.setAccount c v).mtc = s.mtc := rfl
@[simp] theorem State.setAccount_census (c : Nat) (v : Account) : (s.setAccount c v).census = s.census := rfl
@[simp] theorem State.setAccount_ports (c : Nat) (v : Account) : (s.setAccount c v).ports = s.ports := rfl
@[simp] theorem State.setAccount_cores (c : Nat) (v : Account) : (s.setAccount c v).cores = s.cores := rfl
@[simp] theorem State.setAccount_basins (c : Nat) (v : Account) : (s.setAccount c v).basins = s.basins := rfl
@[simp] theorem State.setAccount_hbmStacks (c : Nat) (v : Account) : (s.setAccount c v).hbmStacks = s.hbmStacks := rfl
@[simp] theorem State.setAccount_tgs (c : Nat) (v : Account) : (s.setAccount c v).tgs = s.tgs := rfl
@[simp] theorem State.setAccount_parts (c : Nat) (v : Account) : (s.setAccount c v).parts = s.parts := rfl
@[simp] theorem State.setAccount_runs (c : Nat) (v : Account) : (s.setAccount c v).runs = s.runs := rfl
@[simp] theorem State.setAccount_plans (c : Nat) (v : Account) : (s.setAccount c v).plans = s.plans := rfl
@[simp] theorem State.setAccount_requests (c : Nat) (v : Account) : (s.setAccount c v).requests = s.requests := rfl
@[simp] theorem State.setAccount_nodes (c : Nat) (v : Account) : (s.setAccount c v).nodes = s.nodes := rfl
@[simp] theorem State.setAccount_codecs (c : Nat) (v : Account) : (s.setAccount c v).codecs = s.codecs := rfl
@[simp] theorem State.setAccount_rng (c : Nat) (v : Account) : (s.setAccount c v).rng = s.rng := rfl
@[simp] theorem State.setAccount_fls (c : Nat) (v : Account) : (s.setAccount c v).fls = s.fls := rfl
@[simp] theorem State.setAccount_medium (c : Nat) (v : Account) : (s.setAccount c v).medium = s.medium := rfl
@[simp] theorem State.setAccount_sec (c : Nat) (v : Account) : (s.setAccount c v).sec = s.sec := rfl
@[simp] theorem State.setAccount_fuses (c : Nat) (v : Account) : (s.setAccount c v).fuses = s.fuses := rfl
@[simp] theorem State.setAccount_bist (c : Nat) (v : Account) : (s.setAccount c v).bist = s.bist := rfl
@[simp] theorem State.setAccount_evt (c : Nat) (v : Account) : (s.setAccount c v).evt = s.evt := rfl
@[simp] theorem State.setAccount_mgt (c : Nat) (v : Account) : (s.setAccount c v).mgt = s.mgt := rfl
@[simp] theorem State.setAccount_jtag (c : Nat) (v : Account) : (s.setAccount c v).jtag = s.jtag := rfl

/-! setEvtRing changes evt only. -/

@[simp] theorem State.setEvtRing_pending (f : Nat) (v : EvtRing) : (s.setEvtRing f v).pending = s.pending := rfl
@[simp] theorem State.setEvtRing_free (f : Nat) (v : EvtRing) : (s.setEvtRing f v).free = s.free := rfl
@[simp] theorem State.setEvtRing_nextId (f : Nat) (v : EvtRing) : (s.setEvtRing f v).nextId = s.nextId := rfl
@[simp] theorem State.setEvtRing_run (f : Nat) (v : EvtRing) : (s.setEvtRing f v).run = s.run := rfl
@[simp] theorem State.setEvtRing_hif (f : Nat) (v : EvtRing) : (s.setEvtRing f v).hif = s.hif := rfl
@[simp] theorem State.setEvtRing_sqs (f : Nat) (v : EvtRing) : (s.setEvtRing f v).sqs = s.sqs := rfl
@[simp] theorem State.setEvtRing_cqs (f : Nat) (v : EvtRing) : (s.setEvtRing f v).cqs = s.cqs := rfl
@[simp] theorem State.setEvtRing_cmds (f : Nat) (v : EvtRing) : (s.setEvtRing f v).cmds = s.cmds := rfl
@[simp] theorem State.setEvtRing_latches (f : Nat) (v : EvtRing) : (s.setEvtRing f v).latches = s.latches := rfl
@[simp] theorem State.setEvtRing_host (f : Nat) (v : EvtRing) : (s.setEvtRing f v).host = s.host := rfl
@[simp] theorem State.setEvtRing_hbm (f : Nat) (v : EvtRing) : (s.setEvtRing f v).hbm = s.hbm := rfl
@[simp] theorem State.setEvtRing_tel (f : Nat) (v : EvtRing) : (s.setEvtRing f v).tel = s.tel := rfl
@[simp] theorem State.setEvtRing_mtc (f : Nat) (v : EvtRing) : (s.setEvtRing f v).mtc = s.mtc := rfl
@[simp] theorem State.setEvtRing_census (f : Nat) (v : EvtRing) : (s.setEvtRing f v).census = s.census := rfl
@[simp] theorem State.setEvtRing_ports (f : Nat) (v : EvtRing) : (s.setEvtRing f v).ports = s.ports := rfl
@[simp] theorem State.setEvtRing_cores (f : Nat) (v : EvtRing) : (s.setEvtRing f v).cores = s.cores := rfl
@[simp] theorem State.setEvtRing_basins (f : Nat) (v : EvtRing) : (s.setEvtRing f v).basins = s.basins := rfl
@[simp] theorem State.setEvtRing_hbmStacks (f : Nat) (v : EvtRing) : (s.setEvtRing f v).hbmStacks = s.hbmStacks := rfl
@[simp] theorem State.setEvtRing_tgs (f : Nat) (v : EvtRing) : (s.setEvtRing f v).tgs = s.tgs := rfl
@[simp] theorem State.setEvtRing_parts (f : Nat) (v : EvtRing) : (s.setEvtRing f v).parts = s.parts := rfl
@[simp] theorem State.setEvtRing_runs (f : Nat) (v : EvtRing) : (s.setEvtRing f v).runs = s.runs := rfl
@[simp] theorem State.setEvtRing_plans (f : Nat) (v : EvtRing) : (s.setEvtRing f v).plans = s.plans := rfl
@[simp] theorem State.setEvtRing_requests (f : Nat) (v : EvtRing) : (s.setEvtRing f v).requests = s.requests := rfl
@[simp] theorem State.setEvtRing_nodes (f : Nat) (v : EvtRing) : (s.setEvtRing f v).nodes = s.nodes := rfl
@[simp] theorem State.setEvtRing_codecs (f : Nat) (v : EvtRing) : (s.setEvtRing f v).codecs = s.codecs := rfl
@[simp] theorem State.setEvtRing_rng (f : Nat) (v : EvtRing) : (s.setEvtRing f v).rng = s.rng := rfl
@[simp] theorem State.setEvtRing_acct (f : Nat) (v : EvtRing) : (s.setEvtRing f v).acct = s.acct := rfl
@[simp] theorem State.setEvtRing_fls (f : Nat) (v : EvtRing) : (s.setEvtRing f v).fls = s.fls := rfl
@[simp] theorem State.setEvtRing_medium (f : Nat) (v : EvtRing) : (s.setEvtRing f v).medium = s.medium := rfl
@[simp] theorem State.setEvtRing_sec (f : Nat) (v : EvtRing) : (s.setEvtRing f v).sec = s.sec := rfl
@[simp] theorem State.setEvtRing_fuses (f : Nat) (v : EvtRing) : (s.setEvtRing f v).fuses = s.fuses := rfl
@[simp] theorem State.setEvtRing_bist (f : Nat) (v : EvtRing) : (s.setEvtRing f v).bist = s.bist := rfl
@[simp] theorem State.setEvtRing_mgt (f : Nat) (v : EvtRing) : (s.setEvtRing f v).mgt = s.mgt := rfl
@[simp] theorem State.setEvtRing_jtag (f : Nat) (v : EvtRing) : (s.setEvtRing f v).jtag = s.jtag := rfl

/-! setPlan changes plans only. -/

@[simp] theorem State.setPlan_pending (p h : Nat) (v : Plan) : (s.setPlan p h v).pending = s.pending := rfl
@[simp] theorem State.setPlan_free (p h : Nat) (v : Plan) : (s.setPlan p h v).free = s.free := rfl
@[simp] theorem State.setPlan_nextId (p h : Nat) (v : Plan) : (s.setPlan p h v).nextId = s.nextId := rfl
@[simp] theorem State.setPlan_run (p h : Nat) (v : Plan) : (s.setPlan p h v).run = s.run := rfl
@[simp] theorem State.setPlan_hif (p h : Nat) (v : Plan) : (s.setPlan p h v).hif = s.hif := rfl
@[simp] theorem State.setPlan_sqs (p h : Nat) (v : Plan) : (s.setPlan p h v).sqs = s.sqs := rfl
@[simp] theorem State.setPlan_cqs (p h : Nat) (v : Plan) : (s.setPlan p h v).cqs = s.cqs := rfl
@[simp] theorem State.setPlan_cmds (p h : Nat) (v : Plan) : (s.setPlan p h v).cmds = s.cmds := rfl
@[simp] theorem State.setPlan_latches (p h : Nat) (v : Plan) : (s.setPlan p h v).latches = s.latches := rfl
@[simp] theorem State.setPlan_host (p h : Nat) (v : Plan) : (s.setPlan p h v).host = s.host := rfl
@[simp] theorem State.setPlan_hbm (p h : Nat) (v : Plan) : (s.setPlan p h v).hbm = s.hbm := rfl
@[simp] theorem State.setPlan_tel (p h : Nat) (v : Plan) : (s.setPlan p h v).tel = s.tel := rfl
@[simp] theorem State.setPlan_mtc (p h : Nat) (v : Plan) : (s.setPlan p h v).mtc = s.mtc := rfl
@[simp] theorem State.setPlan_census (p h : Nat) (v : Plan) : (s.setPlan p h v).census = s.census := rfl
@[simp] theorem State.setPlan_ports (p h : Nat) (v : Plan) : (s.setPlan p h v).ports = s.ports := rfl
@[simp] theorem State.setPlan_cores (p h : Nat) (v : Plan) : (s.setPlan p h v).cores = s.cores := rfl
@[simp] theorem State.setPlan_basins (p h : Nat) (v : Plan) : (s.setPlan p h v).basins = s.basins := rfl
@[simp] theorem State.setPlan_hbmStacks (p h : Nat) (v : Plan) : (s.setPlan p h v).hbmStacks = s.hbmStacks := rfl
@[simp] theorem State.setPlan_tgs (p h : Nat) (v : Plan) : (s.setPlan p h v).tgs = s.tgs := rfl
@[simp] theorem State.setPlan_parts (p h : Nat) (v : Plan) : (s.setPlan p h v).parts = s.parts := rfl
@[simp] theorem State.setPlan_runs (p h : Nat) (v : Plan) : (s.setPlan p h v).runs = s.runs := rfl
@[simp] theorem State.setPlan_requests (p h : Nat) (v : Plan) : (s.setPlan p h v).requests = s.requests := rfl
@[simp] theorem State.setPlan_nodes (p h : Nat) (v : Plan) : (s.setPlan p h v).nodes = s.nodes := rfl
@[simp] theorem State.setPlan_codecs (p h : Nat) (v : Plan) : (s.setPlan p h v).codecs = s.codecs := rfl
@[simp] theorem State.setPlan_rng (p h : Nat) (v : Plan) : (s.setPlan p h v).rng = s.rng := rfl
@[simp] theorem State.setPlan_acct (p h : Nat) (v : Plan) : (s.setPlan p h v).acct = s.acct := rfl
@[simp] theorem State.setPlan_fls (p h : Nat) (v : Plan) : (s.setPlan p h v).fls = s.fls := rfl
@[simp] theorem State.setPlan_medium (p h : Nat) (v : Plan) : (s.setPlan p h v).medium = s.medium := rfl
@[simp] theorem State.setPlan_sec (p h : Nat) (v : Plan) : (s.setPlan p h v).sec = s.sec := rfl
@[simp] theorem State.setPlan_fuses (p h : Nat) (v : Plan) : (s.setPlan p h v).fuses = s.fuses := rfl
@[simp] theorem State.setPlan_bist (p h : Nat) (v : Plan) : (s.setPlan p h v).bist = s.bist := rfl
@[simp] theorem State.setPlan_evt (p h : Nat) (v : Plan) : (s.setPlan p h v).evt = s.evt := rfl
@[simp] theorem State.setPlan_mgt (p h : Nat) (v : Plan) : (s.setPlan p h v).mgt = s.mgt := rfl
@[simp] theorem State.setPlan_jtag (p h : Nat) (v : Plan) : (s.setPlan p h v).jtag = s.jtag := rfl

/-! setRequest changes requests only. -/

@[simp] theorem State.setRequest_pending (r : Request) : (s.setRequest r).pending = s.pending := rfl
@[simp] theorem State.setRequest_free (r : Request) : (s.setRequest r).free = s.free := rfl
@[simp] theorem State.setRequest_nextId (r : Request) : (s.setRequest r).nextId = s.nextId := rfl
@[simp] theorem State.setRequest_run (r : Request) : (s.setRequest r).run = s.run := rfl
@[simp] theorem State.setRequest_hif (r : Request) : (s.setRequest r).hif = s.hif := rfl
@[simp] theorem State.setRequest_sqs (r : Request) : (s.setRequest r).sqs = s.sqs := rfl
@[simp] theorem State.setRequest_cqs (r : Request) : (s.setRequest r).cqs = s.cqs := rfl
@[simp] theorem State.setRequest_cmds (r : Request) : (s.setRequest r).cmds = s.cmds := rfl
@[simp] theorem State.setRequest_latches (r : Request) : (s.setRequest r).latches = s.latches := rfl
@[simp] theorem State.setRequest_host (r : Request) : (s.setRequest r).host = s.host := rfl
@[simp] theorem State.setRequest_hbm (r : Request) : (s.setRequest r).hbm = s.hbm := rfl
@[simp] theorem State.setRequest_tel (r : Request) : (s.setRequest r).tel = s.tel := rfl
@[simp] theorem State.setRequest_mtc (r : Request) : (s.setRequest r).mtc = s.mtc := rfl
@[simp] theorem State.setRequest_census (r : Request) : (s.setRequest r).census = s.census := rfl
@[simp] theorem State.setRequest_ports (r : Request) : (s.setRequest r).ports = s.ports := rfl
@[simp] theorem State.setRequest_cores (r : Request) : (s.setRequest r).cores = s.cores := rfl
@[simp] theorem State.setRequest_basins (r : Request) : (s.setRequest r).basins = s.basins := rfl
@[simp] theorem State.setRequest_hbmStacks (r : Request) : (s.setRequest r).hbmStacks = s.hbmStacks := rfl
@[simp] theorem State.setRequest_tgs (r : Request) : (s.setRequest r).tgs = s.tgs := rfl
@[simp] theorem State.setRequest_parts (r : Request) : (s.setRequest r).parts = s.parts := rfl
@[simp] theorem State.setRequest_runs (r : Request) : (s.setRequest r).runs = s.runs := rfl
@[simp] theorem State.setRequest_plans (r : Request) : (s.setRequest r).plans = s.plans := rfl
@[simp] theorem State.setRequest_nodes (r : Request) : (s.setRequest r).nodes = s.nodes := rfl
@[simp] theorem State.setRequest_codecs (r : Request) : (s.setRequest r).codecs = s.codecs := rfl
@[simp] theorem State.setRequest_rng (r : Request) : (s.setRequest r).rng = s.rng := rfl
@[simp] theorem State.setRequest_acct (r : Request) : (s.setRequest r).acct = s.acct := rfl
@[simp] theorem State.setRequest_fls (r : Request) : (s.setRequest r).fls = s.fls := rfl
@[simp] theorem State.setRequest_medium (r : Request) : (s.setRequest r).medium = s.medium := rfl
@[simp] theorem State.setRequest_sec (r : Request) : (s.setRequest r).sec = s.sec := rfl
@[simp] theorem State.setRequest_fuses (r : Request) : (s.setRequest r).fuses = s.fuses := rfl
@[simp] theorem State.setRequest_bist (r : Request) : (s.setRequest r).bist = s.bist := rfl
@[simp] theorem State.setRequest_evt (r : Request) : (s.setRequest r).evt = s.evt := rfl
@[simp] theorem State.setRequest_mgt (r : Request) : (s.setRequest r).mgt = s.mgt := rfl
@[simp] theorem State.setRequest_jtag (r : Request) : (s.setRequest r).jtag = s.jtag := rfl

/-! freeRequest changes requests only. -/

@[simp] theorem State.freeRequest_pending (r : Request) : (s.freeRequest r).pending = s.pending := rfl
@[simp] theorem State.freeRequest_free (r : Request) : (s.freeRequest r).free = s.free := rfl
@[simp] theorem State.freeRequest_nextId (r : Request) : (s.freeRequest r).nextId = s.nextId := rfl
@[simp] theorem State.freeRequest_run (r : Request) : (s.freeRequest r).run = s.run := rfl
@[simp] theorem State.freeRequest_hif (r : Request) : (s.freeRequest r).hif = s.hif := rfl
@[simp] theorem State.freeRequest_sqs (r : Request) : (s.freeRequest r).sqs = s.sqs := rfl
@[simp] theorem State.freeRequest_cqs (r : Request) : (s.freeRequest r).cqs = s.cqs := rfl
@[simp] theorem State.freeRequest_cmds (r : Request) : (s.freeRequest r).cmds = s.cmds := rfl
@[simp] theorem State.freeRequest_latches (r : Request) : (s.freeRequest r).latches = s.latches := rfl
@[simp] theorem State.freeRequest_host (r : Request) : (s.freeRequest r).host = s.host := rfl
@[simp] theorem State.freeRequest_hbm (r : Request) : (s.freeRequest r).hbm = s.hbm := rfl
@[simp] theorem State.freeRequest_tel (r : Request) : (s.freeRequest r).tel = s.tel := rfl
@[simp] theorem State.freeRequest_mtc (r : Request) : (s.freeRequest r).mtc = s.mtc := rfl
@[simp] theorem State.freeRequest_census (r : Request) : (s.freeRequest r).census = s.census := rfl
@[simp] theorem State.freeRequest_ports (r : Request) : (s.freeRequest r).ports = s.ports := rfl
@[simp] theorem State.freeRequest_cores (r : Request) : (s.freeRequest r).cores = s.cores := rfl
@[simp] theorem State.freeRequest_basins (r : Request) : (s.freeRequest r).basins = s.basins := rfl
@[simp] theorem State.freeRequest_hbmStacks (r : Request) : (s.freeRequest r).hbmStacks = s.hbmStacks := rfl
@[simp] theorem State.freeRequest_tgs (r : Request) : (s.freeRequest r).tgs = s.tgs := rfl
@[simp] theorem State.freeRequest_parts (r : Request) : (s.freeRequest r).parts = s.parts := rfl
@[simp] theorem State.freeRequest_runs (r : Request) : (s.freeRequest r).runs = s.runs := rfl
@[simp] theorem State.freeRequest_plans (r : Request) : (s.freeRequest r).plans = s.plans := rfl
@[simp] theorem State.freeRequest_nodes (r : Request) : (s.freeRequest r).nodes = s.nodes := rfl
@[simp] theorem State.freeRequest_codecs (r : Request) : (s.freeRequest r).codecs = s.codecs := rfl
@[simp] theorem State.freeRequest_rng (r : Request) : (s.freeRequest r).rng = s.rng := rfl
@[simp] theorem State.freeRequest_acct (r : Request) : (s.freeRequest r).acct = s.acct := rfl
@[simp] theorem State.freeRequest_fls (r : Request) : (s.freeRequest r).fls = s.fls := rfl
@[simp] theorem State.freeRequest_medium (r : Request) : (s.freeRequest r).medium = s.medium := rfl
@[simp] theorem State.freeRequest_sec (r : Request) : (s.freeRequest r).sec = s.sec := rfl
@[simp] theorem State.freeRequest_fuses (r : Request) : (s.freeRequest r).fuses = s.fuses := rfl
@[simp] theorem State.freeRequest_bist (r : Request) : (s.freeRequest r).bist = s.bist := rfl
@[simp] theorem State.freeRequest_evt (r : Request) : (s.freeRequest r).evt = s.evt := rfl
@[simp] theorem State.freeRequest_mgt (r : Request) : (s.freeRequest r).mgt = s.mgt := rfl
@[simp] theorem State.freeRequest_jtag (r : Request) : (s.freeRequest r).jtag = s.jtag := rfl

/-! setCmd changes cmds only. -/

@[simp] theorem State.setCmd_pending (c : Cmd) : (s.setCmd c).pending = s.pending := rfl
@[simp] theorem State.setCmd_free (c : Cmd) : (s.setCmd c).free = s.free := rfl
@[simp] theorem State.setCmd_nextId (c : Cmd) : (s.setCmd c).nextId = s.nextId := rfl
@[simp] theorem State.setCmd_run (c : Cmd) : (s.setCmd c).run = s.run := rfl
@[simp] theorem State.setCmd_hif (c : Cmd) : (s.setCmd c).hif = s.hif := rfl
@[simp] theorem State.setCmd_sqs (c : Cmd) : (s.setCmd c).sqs = s.sqs := rfl
@[simp] theorem State.setCmd_cqs (c : Cmd) : (s.setCmd c).cqs = s.cqs := rfl
@[simp] theorem State.setCmd_latches (c : Cmd) : (s.setCmd c).latches = s.latches := rfl
@[simp] theorem State.setCmd_host (c : Cmd) : (s.setCmd c).host = s.host := rfl
@[simp] theorem State.setCmd_hbm (c : Cmd) : (s.setCmd c).hbm = s.hbm := rfl
@[simp] theorem State.setCmd_tel (c : Cmd) : (s.setCmd c).tel = s.tel := rfl
@[simp] theorem State.setCmd_mtc (c : Cmd) : (s.setCmd c).mtc = s.mtc := rfl
@[simp] theorem State.setCmd_census (c : Cmd) : (s.setCmd c).census = s.census := rfl
@[simp] theorem State.setCmd_ports (c : Cmd) : (s.setCmd c).ports = s.ports := rfl
@[simp] theorem State.setCmd_cores (c : Cmd) : (s.setCmd c).cores = s.cores := rfl
@[simp] theorem State.setCmd_basins (c : Cmd) : (s.setCmd c).basins = s.basins := rfl
@[simp] theorem State.setCmd_hbmStacks (c : Cmd) : (s.setCmd c).hbmStacks = s.hbmStacks := rfl
@[simp] theorem State.setCmd_tgs (c : Cmd) : (s.setCmd c).tgs = s.tgs := rfl
@[simp] theorem State.setCmd_parts (c : Cmd) : (s.setCmd c).parts = s.parts := rfl
@[simp] theorem State.setCmd_runs (c : Cmd) : (s.setCmd c).runs = s.runs := rfl
@[simp] theorem State.setCmd_plans (c : Cmd) : (s.setCmd c).plans = s.plans := rfl
@[simp] theorem State.setCmd_requests (c : Cmd) : (s.setCmd c).requests = s.requests := rfl
@[simp] theorem State.setCmd_nodes (c : Cmd) : (s.setCmd c).nodes = s.nodes := rfl
@[simp] theorem State.setCmd_codecs (c : Cmd) : (s.setCmd c).codecs = s.codecs := rfl
@[simp] theorem State.setCmd_rng (c : Cmd) : (s.setCmd c).rng = s.rng := rfl
@[simp] theorem State.setCmd_acct (c : Cmd) : (s.setCmd c).acct = s.acct := rfl
@[simp] theorem State.setCmd_fls (c : Cmd) : (s.setCmd c).fls = s.fls := rfl
@[simp] theorem State.setCmd_medium (c : Cmd) : (s.setCmd c).medium = s.medium := rfl
@[simp] theorem State.setCmd_sec (c : Cmd) : (s.setCmd c).sec = s.sec := rfl
@[simp] theorem State.setCmd_fuses (c : Cmd) : (s.setCmd c).fuses = s.fuses := rfl
@[simp] theorem State.setCmd_bist (c : Cmd) : (s.setCmd c).bist = s.bist := rfl
@[simp] theorem State.setCmd_evt (c : Cmd) : (s.setCmd c).evt = s.evt := rfl
@[simp] theorem State.setCmd_mgt (c : Cmd) : (s.setCmd c).mgt = s.mgt := rfl
@[simp] theorem State.setCmd_jtag (c : Cmd) : (s.setCmd c).jtag = s.jtag := rfl

/-! drawFree changes free only. -/

@[simp] theorem State.drawFree_pending : s.drawFree.pending = s.pending := rfl
@[simp] theorem State.drawFree_nextId : s.drawFree.nextId = s.nextId := rfl
@[simp] theorem State.drawFree_run : s.drawFree.run = s.run := rfl
@[simp] theorem State.drawFree_hif : s.drawFree.hif = s.hif := rfl
@[simp] theorem State.drawFree_sqs : s.drawFree.sqs = s.sqs := rfl
@[simp] theorem State.drawFree_cqs : s.drawFree.cqs = s.cqs := rfl
@[simp] theorem State.drawFree_cmds : s.drawFree.cmds = s.cmds := rfl
@[simp] theorem State.drawFree_latches : s.drawFree.latches = s.latches := rfl
@[simp] theorem State.drawFree_host : s.drawFree.host = s.host := rfl
@[simp] theorem State.drawFree_hbm : s.drawFree.hbm = s.hbm := rfl
@[simp] theorem State.drawFree_tel : s.drawFree.tel = s.tel := rfl
@[simp] theorem State.drawFree_mtc : s.drawFree.mtc = s.mtc := rfl
@[simp] theorem State.drawFree_census : s.drawFree.census = s.census := rfl
@[simp] theorem State.drawFree_ports : s.drawFree.ports = s.ports := rfl
@[simp] theorem State.drawFree_cores : s.drawFree.cores = s.cores := rfl
@[simp] theorem State.drawFree_basins : s.drawFree.basins = s.basins := rfl
@[simp] theorem State.drawFree_hbmStacks : s.drawFree.hbmStacks = s.hbmStacks := rfl
@[simp] theorem State.drawFree_tgs : s.drawFree.tgs = s.tgs := rfl
@[simp] theorem State.drawFree_parts : s.drawFree.parts = s.parts := rfl
@[simp] theorem State.drawFree_runs : s.drawFree.runs = s.runs := rfl
@[simp] theorem State.drawFree_plans : s.drawFree.plans = s.plans := rfl
@[simp] theorem State.drawFree_requests : s.drawFree.requests = s.requests := rfl
@[simp] theorem State.drawFree_nodes : s.drawFree.nodes = s.nodes := rfl
@[simp] theorem State.drawFree_codecs : s.drawFree.codecs = s.codecs := rfl
@[simp] theorem State.drawFree_rng : s.drawFree.rng = s.rng := rfl
@[simp] theorem State.drawFree_acct : s.drawFree.acct = s.acct := rfl
@[simp] theorem State.drawFree_fls : s.drawFree.fls = s.fls := rfl
@[simp] theorem State.drawFree_medium : s.drawFree.medium = s.medium := rfl
@[simp] theorem State.drawFree_sec : s.drawFree.sec = s.sec := rfl
@[simp] theorem State.drawFree_fuses : s.drawFree.fuses = s.fuses := rfl
@[simp] theorem State.drawFree_bist : s.drawFree.bist = s.bist := rfl
@[simp] theorem State.drawFree_evt : s.drawFree.evt = s.evt := rfl
@[simp] theorem State.drawFree_mgt : s.drawFree.mgt = s.mgt := rfl
@[simp] theorem State.drawFree_jtag : s.drawFree.jtag = s.jtag := rfl

/-! hostWrite changes the host's memory and a counter. -/

@[simp] theorem hostWrite_pending (a : Nat) (bs : List Byte) : (hostWrite s a bs).pending = s.pending := rfl
@[simp] theorem hostWrite_free (a : Nat) (bs : List Byte) : (hostWrite s a bs).free = s.free := rfl
@[simp] theorem hostWrite_nextId (a : Nat) (bs : List Byte) : (hostWrite s a bs).nextId = s.nextId := rfl
@[simp] theorem hostWrite_run (a : Nat) (bs : List Byte) : (hostWrite s a bs).run = s.run := rfl
@[simp] theorem hostWrite_sqs (a : Nat) (bs : List Byte) : (hostWrite s a bs).sqs = s.sqs := rfl
@[simp] theorem hostWrite_cqs (a : Nat) (bs : List Byte) : (hostWrite s a bs).cqs = s.cqs := rfl
@[simp] theorem hostWrite_cmds (a : Nat) (bs : List Byte) : (hostWrite s a bs).cmds = s.cmds := rfl
@[simp] theorem hostWrite_latches (a : Nat) (bs : List Byte) : (hostWrite s a bs).latches = s.latches := rfl
@[simp] theorem hostWrite_hbm (a : Nat) (bs : List Byte) : (hostWrite s a bs).hbm = s.hbm := rfl
@[simp] theorem hostWrite_tel (a : Nat) (bs : List Byte) : (hostWrite s a bs).tel = s.tel := rfl
@[simp] theorem hostWrite_mtc (a : Nat) (bs : List Byte) : (hostWrite s a bs).mtc = s.mtc := rfl
@[simp] theorem hostWrite_census (a : Nat) (bs : List Byte) : (hostWrite s a bs).census = s.census := rfl
@[simp] theorem hostWrite_ports (a : Nat) (bs : List Byte) : (hostWrite s a bs).ports = s.ports := rfl
@[simp] theorem hostWrite_cores (a : Nat) (bs : List Byte) : (hostWrite s a bs).cores = s.cores := rfl
@[simp] theorem hostWrite_basins (a : Nat) (bs : List Byte) : (hostWrite s a bs).basins = s.basins := rfl
@[simp] theorem hostWrite_hbmStacks (a : Nat) (bs : List Byte) : (hostWrite s a bs).hbmStacks = s.hbmStacks := rfl
@[simp] theorem hostWrite_tgs (a : Nat) (bs : List Byte) : (hostWrite s a bs).tgs = s.tgs := rfl
@[simp] theorem hostWrite_parts (a : Nat) (bs : List Byte) : (hostWrite s a bs).parts = s.parts := rfl
@[simp] theorem hostWrite_runs (a : Nat) (bs : List Byte) : (hostWrite s a bs).runs = s.runs := rfl
@[simp] theorem hostWrite_plans (a : Nat) (bs : List Byte) : (hostWrite s a bs).plans = s.plans := rfl
@[simp] theorem hostWrite_requests (a : Nat) (bs : List Byte) : (hostWrite s a bs).requests = s.requests := rfl
@[simp] theorem hostWrite_nodes (a : Nat) (bs : List Byte) : (hostWrite s a bs).nodes = s.nodes := rfl
@[simp] theorem hostWrite_codecs (a : Nat) (bs : List Byte) : (hostWrite s a bs).codecs = s.codecs := rfl
@[simp] theorem hostWrite_rng (a : Nat) (bs : List Byte) : (hostWrite s a bs).rng = s.rng := rfl
@[simp] theorem hostWrite_acct (a : Nat) (bs : List Byte) : (hostWrite s a bs).acct = s.acct := rfl
@[simp] theorem hostWrite_fls (a : Nat) (bs : List Byte) : (hostWrite s a bs).fls = s.fls := rfl
@[simp] theorem hostWrite_medium (a : Nat) (bs : List Byte) : (hostWrite s a bs).medium = s.medium := rfl
@[simp] theorem hostWrite_sec (a : Nat) (bs : List Byte) : (hostWrite s a bs).sec = s.sec := rfl
@[simp] theorem hostWrite_fuses (a : Nat) (bs : List Byte) : (hostWrite s a bs).fuses = s.fuses := rfl
@[simp] theorem hostWrite_bist (a : Nat) (bs : List Byte) : (hostWrite s a bs).bist = s.bist := rfl
@[simp] theorem hostWrite_evt (a : Nat) (bs : List Byte) : (hostWrite s a bs).evt = s.evt := rfl
@[simp] theorem hostWrite_mgt (a : Nat) (bs : List Byte) : (hostWrite s a bs).mgt = s.mgt := rfl
@[simp] theorem hostWrite_jtag (a : Nat) (bs : List Byte) : (hostWrite s a bs).jtag = s.jtag := rfl
@[simp] theorem hostWrite_host (a : Nat) (bs : List Byte) : (hostWrite s a bs).host = Mem.writeN s.host a bs := rfl
@[simp] theorem hostWrite_fns (a : Nat) (bs : List Byte) : (hostWrite s a bs).hif.fns = s.hif.fns := rfl

/-! What was set is what is read, and nothing else of its kind changes. -/

@[simp] theorem State.core_setCore_self (k : Nat) (v : Core) : (s.setCore k v).core k = v := Tab.get_put_self _ _ _ _
theorem State.core_setCore_ne {j k : Nat} (v : Core) (h : j ≠ k) : (s.setCore k v).core j = s.core j :=
  Tab.get_put_ne _ v _ h
@[simp] theorem State.basin_setBasin_self (k : Nat) (v : Basin) : (s.setBasin k v).basin k = v := Tab.get_put_self _ _ _ _
theorem State.basin_setBasin_ne {j k : Nat} (v : Basin) (h : j ≠ k) : (s.setBasin k v).basin j = s.basin j := Tab.get_put_ne _ v _ h
@[simp] theorem State.stack_setStack_self (k : Nat) (v : Stack) : (s.setStack k v).stack k = v := Tab.get_put_self _ _ _ _
theorem State.stack_setStack_ne {j k : Nat} (v : Stack) (h : j ≠ k) : (s.setStack k v).stack j = s.stack j := Tab.get_put_ne _ v _ h
@[simp] theorem State.tg_setTg_self (k : Nat) (v : Tg) : (s.setTg k v).tg k = v := Tab.get_put_self _ _ _ _
theorem State.tg_setTg_ne {j k : Nat} (v : Tg) (h : j ≠ k) : (s.setTg k v).tg j = s.tg j := Tab.get_put_ne _ v _ h
@[simp] theorem State.port_setPort_self (k : Nat) (v : Port) : (s.setPort k v).port k = v := Tab.get_put_self _ _ _ _
theorem State.port_setPort_ne {j k : Nat} (v : Port) (h : j ≠ k) : (s.setPort k v).port j = s.port j := Tab.get_put_ne _ v _ h
@[simp] theorem State.codec_setCodec_self (k : Nat) (v : Codec) : (s.setCodec k v).codec k = v := Tab.get_put_self _ _ _ _
theorem State.codec_setCodec_ne {j k : Nat} (v : Codec) (h : j ≠ k) : (s.setCodec k v).codec j = s.codec j := Tab.get_put_ne _ v _ h
@[simp] theorem State.partRun_setRun_self (k : Nat) (v : PartRun) : (s.setRun k v).partRun k = v := Tab.get_put_self _ _ _ _
theorem State.partRun_setRun_ne {j k : Nat} (v : PartRun) (h : j ≠ k) : (s.setRun k v).partRun j = s.partRun j := Tab.get_put_ne _ v _ h
@[simp] theorem State.fn_setFn_self (k : Nat) (v : FnRegs) : (s.setFn k v).fn k = v := Tab.get_put_self _ _ _ _
theorem State.fn_setFn_ne {j k : Nat} (v : FnRegs) (h : j ≠ k) : (s.setFn k v).fn j = s.fn j :=
  Tab.get_put_ne _ v _ h
@[simp] theorem State.latch_setLatch_self (k : Nat) (v : Latches) : (s.setLatch k v).latch k = v := Tab.get_put_self _ _ _ _
theorem State.latch_setLatch_ne {j k : Nat} (v : Latches) (h : j ≠ k) : (s.setLatch k v).latch j = s.latch j := Tab.get_put_ne _ v _ h
@[simp] theorem State.account_setAccount_self (k : Nat) (v : Account) : (s.setAccount k v).account k = v :=
  Tab.get_put_self _ _ _ _
theorem State.account_setAccount_ne {j k : Nat} (v : Account) (h : j ≠ k) : (s.setAccount k v).account j = s.account j := Tab.get_put_ne _ v _ h
@[simp] theorem State.evtRing_setEvtRing_self (k : Nat) (v : EvtRing) : (s.setEvtRing k v).evtRing k = v :=
  Tab.get_put_self _ _ _ _
theorem State.evtRing_setEvtRing_ne {j k : Nat} (v : EvtRing) (h : j ≠ k) : (s.setEvtRing k v).evtRing j = s.evtRing j := Tab.get_put_ne _ v _ h
@[simp] theorem State.sq_setSq_self (f q : Nat) (v : SubRing) : (s.setSq f q v).sq f q = v := Tab.get_put_self _ _ _ _
theorem State.sq_setSq_ne {f q f' q' : Nat} (v : SubRing) (h : ringKey f' q' ≠ ringKey f q) :
    (s.setSq f q v).sq f' q' = s.sq f' q' := Tab.get_put_ne _ v _ h
@[simp] theorem State.cq_setCq_self (f q : Nat) (v : CompRing) : (s.setCq f q v).cq f q = v := Tab.get_put_self _ _ _ _
theorem State.cq_setCq_ne {f q f' q' : Nat} (v : CompRing) (h : ringKey f' q' ≠ ringKey f q) :
    (s.setCq f q v).cq f' q' = s.cq f' q' := Tab.get_put_ne _ v _ h
@[simp] theorem State.plan_setPlan_self (p h : Nat) (v : Plan) : (s.setPlan p h v).plan p h = some v :=
  Tab.find_put_self _ _ _
theorem State.plan_setPlan_ne {p h p' h' : Nat} (v : Plan) (e : planKey p' h' ≠ planKey p h) :
    (s.setPlan p h v).plan p' h' = s.plan p' h' := Tab.find_put_ne _ v e
@[simp] theorem State.request_setRequest_self (r : Request) :
    (s.setRequest r).request r.part r.plan r.slot = some r := by
  simp [State.request, State.setRequest, Tab.find_put_self]

end Sys2Proof.Machine
end

