-- ==== Sys2Proof/Laws/Ops.lean ====
section
/-! SUPPORT. Sys2Proof/Laws/Ops.lean: what each shared operation of Machine/Ops.lean can do, said once: the fields it may
change are its own, every other field is as before. -/

namespace Sys2Proof.Machine

variable (s : State)

/-- Raising an event changes the events, and the store's log object at most. -/
theorem raiseAs_frame (e : Event) : raiseAs s e =
    { s with evt := (raiseAs s e).evt, medium := (raiseAs s e).medium } := by
  unfold raiseAs; split <;> rfl

@[simp] theorem raiseAs_pending (e : Event) : (raiseAs s e).pending = s.pending := by rw [raiseAs_frame]
@[simp] theorem raiseAs_free (e : Event) : (raiseAs s e).free = s.free := by rw [raiseAs_frame]
@[simp] theorem raiseAs_nextId (e : Event) : (raiseAs s e).nextId = s.nextId := by rw [raiseAs_frame]
@[simp] theorem raiseAs_run (e : Event) : (raiseAs s e).run = s.run := by rw [raiseAs_frame]
@[simp] theorem raiseAs_hif (e : Event) : (raiseAs s e).hif = s.hif := by rw [raiseAs_frame]
@[simp] theorem raiseAs_sqs (e : Event) : (raiseAs s e).sqs = s.sqs := by rw [raiseAs_frame]
@[simp] theorem raiseAs_cqs (e : Event) : (raiseAs s e).cqs = s.cqs := by rw [raiseAs_frame]
@[simp] theorem raiseAs_cmds (e : Event) : (raiseAs s e).cmds = s.cmds := by rw [raiseAs_frame]
@[simp] theorem raiseAs_latches (e : Event) : (raiseAs s e).latches = s.latches := by rw [raiseAs_frame]
@[simp] theorem raiseAs_host (e : Event) : (raiseAs s e).host = s.host := by rw [raiseAs_frame]
@[simp] theorem raiseAs_hbm (e : Event) : (raiseAs s e).hbm = s.hbm := by rw [raiseAs_frame]
@[simp] theorem raiseAs_tel (e : Event) : (raiseAs s e).tel = s.tel := by rw [raiseAs_frame]
@[simp] theorem raiseAs_mtc (e : Event) : (raiseAs s e).mtc = s.mtc := by rw [raiseAs_frame]
@[simp] theorem raiseAs_census (e : Event) : (raiseAs s e).census = s.census := by rw [raiseAs_frame]
@[simp] theorem raiseAs_ports (e : Event) : (raiseAs s e).ports = s.ports := by rw [raiseAs_frame]
@[simp] theorem raiseAs_cores (e : Event) : (raiseAs s e).cores = s.cores := by rw [raiseAs_frame]
@[simp] theorem raiseAs_basins (e : Event) : (raiseAs s e).basins = s.basins := by rw [raiseAs_frame]
@[simp] theorem raiseAs_hbmStacks (e : Event) : (raiseAs s e).hbmStacks = s.hbmStacks := by rw [raiseAs_frame]
@[simp] theorem raiseAs_tgs (e : Event) : (raiseAs s e).tgs = s.tgs := by rw [raiseAs_frame]
@[simp] theorem raiseAs_parts (e : Event) : (raiseAs s e).parts = s.parts := by rw [raiseAs_frame]
@[simp] theorem raiseAs_runs (e : Event) : (raiseAs s e).runs = s.runs := by rw [raiseAs_frame]
@[simp] theorem raiseAs_plans (e : Event) : (raiseAs s e).plans = s.plans := by rw [raiseAs_frame]
@[simp] theorem raiseAs_requests (e : Event) : (raiseAs s e).requests = s.requests := by rw [raiseAs_frame]
@[simp] theorem raiseAs_nodes (e : Event) : (raiseAs s e).nodes = s.nodes := by rw [raiseAs_frame]
@[simp] theorem raiseAs_codecs (e : Event) : (raiseAs s e).codecs = s.codecs := by rw [raiseAs_frame]
@[simp] theorem raiseAs_rng (e : Event) : (raiseAs s e).rng = s.rng := by rw [raiseAs_frame]
@[simp] theorem raiseAs_acct (e : Event) : (raiseAs s e).acct = s.acct := by rw [raiseAs_frame]
@[simp] theorem raiseAs_fls (e : Event) : (raiseAs s e).fls = s.fls := by rw [raiseAs_frame]
@[simp] theorem raiseAs_sec (e : Event) : (raiseAs s e).sec = s.sec := by rw [raiseAs_frame]
@[simp] theorem raiseAs_fuses (e : Event) : (raiseAs s e).fuses = s.fuses := by rw [raiseAs_frame]
@[simp] theorem raiseAs_bist (e : Event) : (raiseAs s e).bist = s.bist := by rw [raiseAs_frame]
@[simp] theorem raiseAs_mgt (e : Event) : (raiseAs s e).mgt = s.mgt := by rw [raiseAs_frame]
@[simp] theorem raiseAs_jtag (e : Event) : (raiseAs s e).jtag = s.jtag := by rw [raiseAs_frame]

/-- As raiseAs. -/
theorem raiseEvent_frame (code source part : Nat) (detail : List Byte) : raiseEvent s code source part detail =
    { s with evt := (raiseEvent s code source part detail).evt, medium := (raiseEvent s code source part detail).medium } := by
  exact raiseAs_frame s _

@[simp] theorem raiseEvent_pending (code source part : Nat) (detail : List Byte) : (raiseEvent s code source part detail).pending = s.pending := by
  rw [raiseEvent_frame]
@[simp] theorem raiseEvent_free (code source part : Nat) (detail : List Byte) : (raiseEvent s code source part detail).free = s.free := by
  rw [raiseEvent_frame]
@[simp] theorem raiseEvent_nextId (code source part : Nat) (detail : List Byte) : (raiseEvent s code source part detail).nextId = s.nextId := by
  rw [raiseEvent_frame]
@[simp] theorem raiseEvent_run (code source part : Nat) (detail : List Byte) : (raiseEvent s code source part detail).run = s.run := by
  rw [raiseEvent_frame]
@[simp] theorem raiseEvent_hif (code source part : Nat) (detail : List Byte) : (raiseEvent s code source part detail).hif = s.hif := by
  rw [raiseEvent_frame]
@[simp] theorem raiseEvent_sqs (code source part : Nat) (detail : List Byte) : (raiseEvent s code source part detail).sqs = s.sqs := by
  rw [raiseEvent_frame]
@[simp] theorem raiseEvent_cqs (code source part : Nat) (detail : List Byte) : (raiseEvent s code source part detail).cqs = s.cqs := by
  rw [raiseEvent_frame]
@[simp] theorem raiseEvent_cmds (code source part : Nat) (detail : List Byte) : (raiseEvent s code source part detail).cmds = s.cmds := by
  rw [raiseEvent_frame]
@[simp] theorem raiseEvent_latches (code source part : Nat) (detail : List Byte) : (raiseEvent s code source part detail).latches = s.latches := by
  rw [raiseEvent_frame]
@[simp] theorem raiseEvent_host (code source part : Nat) (detail : List Byte) : (raiseEvent s code source part detail).host = s.host := by
  rw [raiseEvent_frame]
@[simp] theorem raiseEvent_hbm (code source part : Nat) (detail : List Byte) : (raiseEvent s code source part detail).hbm = s.hbm := by
  rw [raiseEvent_frame]
@[simp] theorem raiseEvent_tel (code source part : Nat) (detail : List Byte) : (raiseEvent s code source part detail).tel = s.tel := by
  rw [raiseEvent_frame]
@[simp] theorem raiseEvent_mtc (code source part : Nat) (detail : List Byte) : (raiseEvent s code source part detail).mtc = s.mtc := by
  rw [raiseEvent_frame]
@[simp] theorem raiseEvent_census (code source part : Nat) (detail : List Byte) : (raiseEvent s code source part detail).census = s.census := by
  rw [raiseEvent_frame]
@[simp] theorem raiseEvent_ports (code source part : Nat) (detail : List Byte) : (raiseEvent s code source part detail).ports = s.ports := by
  rw [raiseEvent_frame]
@[simp] theorem raiseEvent_cores (code source part : Nat) (detail : List Byte) : (raiseEvent s code source part detail).cores = s.cores := by
  rw [raiseEvent_frame]
@[simp] theorem raiseEvent_basins (code source part : Nat) (detail : List Byte) : (raiseEvent s code source part detail).basins = s.basins := by
  rw [raiseEvent_frame]
@[simp] theorem raiseEvent_hbmStacks (code source part : Nat) (detail : List Byte) : (raiseEvent s code source part detail).hbmStacks = s.hbmStacks := by
  rw [raiseEvent_frame]
@[simp] theorem raiseEvent_tgs (code source part : Nat) (detail : List Byte) : (raiseEvent s code source part detail).tgs = s.tgs := by
  rw [raiseEvent_frame]
@[simp] theorem raiseEvent_parts (code source part : Nat) (detail : List Byte) : (raiseEvent s code source part detail).parts = s.parts := by
  rw [raiseEvent_frame]
@[simp] theorem raiseEvent_runs (code source part : Nat) (detail : List Byte) : (raiseEvent s code source part detail).runs = s.runs := by
  rw [raiseEvent_frame]
@[simp] theorem raiseEvent_plans (code source part : Nat) (detail : List Byte) : (raiseEvent s code source part detail).plans = s.plans := by
  rw [raiseEvent_frame]
@[simp] theorem raiseEvent_requests (code source part : Nat) (detail : List Byte) : (raiseEvent s code source part detail).requests = s.requests := by
  rw [raiseEvent_frame]
@[simp] theorem raiseEvent_nodes (code source part : Nat) (detail : List Byte) : (raiseEvent s code source part detail).nodes = s.nodes := by
  rw [raiseEvent_frame]
@[simp] theorem raiseEvent_codecs (code source part : Nat) (detail : List Byte) : (raiseEvent s code source part detail).codecs = s.codecs := by
  rw [raiseEvent_frame]
@[simp] theorem raiseEvent_rng (code source part : Nat) (detail : List Byte) : (raiseEvent s code source part detail).rng = s.rng := by
  rw [raiseEvent_frame]
@[simp] theorem raiseEvent_acct (code source part : Nat) (detail : List Byte) : (raiseEvent s code source part detail).acct = s.acct := by
  rw [raiseEvent_frame]
@[simp] theorem raiseEvent_fls (code source part : Nat) (detail : List Byte) : (raiseEvent s code source part detail).fls = s.fls := by
  rw [raiseEvent_frame]
@[simp] theorem raiseEvent_sec (code source part : Nat) (detail : List Byte) : (raiseEvent s code source part detail).sec = s.sec := by
  rw [raiseEvent_frame]
@[simp] theorem raiseEvent_fuses (code source part : Nat) (detail : List Byte) : (raiseEvent s code source part detail).fuses = s.fuses := by
  rw [raiseEvent_frame]
@[simp] theorem raiseEvent_bist (code source part : Nat) (detail : List Byte) : (raiseEvent s code source part detail).bist = s.bist := by
  rw [raiseEvent_frame]
@[simp] theorem raiseEvent_mgt (code source part : Nat) (detail : List Byte) : (raiseEvent s code source part detail).mgt = s.mgt := by
  rw [raiseEvent_frame]
@[simp] theorem raiseEvent_jtag (code source part : Nat) (detail : List Byte) : (raiseEvent s code source part detail).jtag = s.jtag := by
  rw [raiseEvent_frame]

/-- As raiseAs. -/
theorem raiseRingError_frame (f q : Nat) (isCq : Bool) (cause : Nat) : raiseRingError s f q isCq cause =
    { s with evt := (raiseRingError s f q isCq cause).evt, medium := (raiseRingError s f q isCq cause).medium } := by
  exact raiseAs_frame s _

@[simp] theorem raiseRingError_pending (f q : Nat) (isCq : Bool) (cause : Nat) : (raiseRingError s f q isCq cause).pending = s.pending := by
  rw [raiseRingError_frame]
@[simp] theorem raiseRingError_free (f q : Nat) (isCq : Bool) (cause : Nat) : (raiseRingError s f q isCq cause).free = s.free := by
  rw [raiseRingError_frame]
@[simp] theorem raiseRingError_nextId (f q : Nat) (isCq : Bool) (cause : Nat) : (raiseRingError s f q isCq cause).nextId = s.nextId := by
  rw [raiseRingError_frame]
@[simp] theorem raiseRingError_run (f q : Nat) (isCq : Bool) (cause : Nat) : (raiseRingError s f q isCq cause).run = s.run := by
  rw [raiseRingError_frame]
@[simp] theorem raiseRingError_hif (f q : Nat) (isCq : Bool) (cause : Nat) : (raiseRingError s f q isCq cause).hif = s.hif := by
  rw [raiseRingError_frame]
@[simp] theorem raiseRingError_sqs (f q : Nat) (isCq : Bool) (cause : Nat) : (raiseRingError s f q isCq cause).sqs = s.sqs := by
  rw [raiseRingError_frame]
@[simp] theorem raiseRingError_cqs (f q : Nat) (isCq : Bool) (cause : Nat) : (raiseRingError s f q isCq cause).cqs = s.cqs := by
  rw [raiseRingError_frame]
@[simp] theorem raiseRingError_cmds (f q : Nat) (isCq : Bool) (cause : Nat) : (raiseRingError s f q isCq cause).cmds = s.cmds := by
  rw [raiseRingError_frame]
@[simp] theorem raiseRingError_latches (f q : Nat) (isCq : Bool) (cause : Nat) : (raiseRingError s f q isCq cause).latches = s.latches := by
  rw [raiseRingError_frame]
@[simp] theorem raiseRingError_host (f q : Nat) (isCq : Bool) (cause : Nat) : (raiseRingError s f q isCq cause).host = s.host := by
  rw [raiseRingError_frame]
@[simp] theorem raiseRingError_hbm (f q : Nat) (isCq : Bool) (cause : Nat) : (raiseRingError s f q isCq cause).hbm = s.hbm := by
  rw [raiseRingError_frame]
@[simp] theorem raiseRingError_tel (f q : Nat) (isCq : Bool) (cause : Nat) : (raiseRingError s f q isCq cause).tel = s.tel := by
  rw [raiseRingError_frame]
@[simp] theorem raiseRingError_mtc (f q : Nat) (isCq : Bool) (cause : Nat) : (raiseRingError s f q isCq cause).mtc = s.mtc := by
  rw [raiseRingError_frame]
@[simp] theorem raiseRingError_census (f q : Nat) (isCq : Bool) (cause : Nat) : (raiseRingError s f q isCq cause).census = s.census := by
  rw [raiseRingError_frame]
@[simp] theorem raiseRingError_ports (f q : Nat) (isCq : Bool) (cause : Nat) : (raiseRingError s f q isCq cause).ports = s.ports := by
  rw [raiseRingError_frame]
@[simp] theorem raiseRingError_cores (f q : Nat) (isCq : Bool) (cause : Nat) : (raiseRingError s f q isCq cause).cores = s.cores := by
  rw [raiseRingError_frame]
@[simp] theorem raiseRingError_basins (f q : Nat) (isCq : Bool) (cause : Nat) : (raiseRingError s f q isCq cause).basins = s.basins := by
  rw [raiseRingError_frame]
@[simp] theorem raiseRingError_hbmStacks (f q : Nat) (isCq : Bool) (cause : Nat) : (raiseRingError s f q isCq cause).hbmStacks = s.hbmStacks := by
  rw [raiseRingError_frame]
@[simp] theorem raiseRingError_tgs (f q : Nat) (isCq : Bool) (cause : Nat) : (raiseRingError s f q isCq cause).tgs = s.tgs := by
  rw [raiseRingError_frame]
@[simp] theorem raiseRingError_parts (f q : Nat) (isCq : Bool) (cause : Nat) : (raiseRingError s f q isCq cause).parts = s.parts := by
  rw [raiseRingError_frame]
@[simp] theorem raiseRingError_runs (f q : Nat) (isCq : Bool) (cause : Nat) : (raiseRingError s f q isCq cause).runs = s.runs := by
  rw [raiseRingError_frame]
@[simp] theorem raiseRingError_plans (f q : Nat) (isCq : Bool) (cause : Nat) : (raiseRingError s f q isCq cause).plans = s.plans := by
  rw [raiseRingError_frame]
@[simp] theorem raiseRingError_requests (f q : Nat) (isCq : Bool) (cause : Nat) : (raiseRingError s f q isCq cause).requests = s.requests := by
  rw [raiseRingError_frame]
@[simp] theorem raiseRingError_nodes (f q : Nat) (isCq : Bool) (cause : Nat) : (raiseRingError s f q isCq cause).nodes = s.nodes := by
  rw [raiseRingError_frame]
@[simp] theorem raiseRingError_codecs (f q : Nat) (isCq : Bool) (cause : Nat) : (raiseRingError s f q isCq cause).codecs = s.codecs := by
  rw [raiseRingError_frame]
@[simp] theorem raiseRingError_rng (f q : Nat) (isCq : Bool) (cause : Nat) : (raiseRingError s f q isCq cause).rng = s.rng := by
  rw [raiseRingError_frame]
@[simp] theorem raiseRingError_acct (f q : Nat) (isCq : Bool) (cause : Nat) : (raiseRingError s f q isCq cause).acct = s.acct := by
  rw [raiseRingError_frame]
@[simp] theorem raiseRingError_fls (f q : Nat) (isCq : Bool) (cause : Nat) : (raiseRingError s f q isCq cause).fls = s.fls := by
  rw [raiseRingError_frame]
@[simp] theorem raiseRingError_sec (f q : Nat) (isCq : Bool) (cause : Nat) : (raiseRingError s f q isCq cause).sec = s.sec := by
  rw [raiseRingError_frame]
@[simp] theorem raiseRingError_fuses (f q : Nat) (isCq : Bool) (cause : Nat) : (raiseRingError s f q isCq cause).fuses = s.fuses := by
  rw [raiseRingError_frame]
@[simp] theorem raiseRingError_bist (f q : Nat) (isCq : Bool) (cause : Nat) : (raiseRingError s f q isCq cause).bist = s.bist := by
  rw [raiseRingError_frame]
@[simp] theorem raiseRingError_mgt (f q : Nat) (isCq : Bool) (cause : Nat) : (raiseRingError s f q isCq cause).mgt = s.mgt := by
  rw [raiseRingError_frame]
@[simp] theorem raiseRingError_jtag (f q : Nat) (isCq : Bool) (cause : Nat) : (raiseRingError s f q isCq cause).jtag = s.jtag := by
  rw [raiseRingError_frame]

/-- A failed host read is counted and reported. -/
theorem raiseHostRead_frame (f tag part : Nat) : raiseHostRead s f tag part =
    { s with hif := (raiseHostRead s f tag part).hif, evt := (raiseHostRead s f tag part).evt, medium := (raiseHostRead s f tag part).medium } := by
  unfold raiseHostRead; rw [raiseAs_frame]

@[simp] theorem raiseHostRead_pending (f tag part : Nat) : (raiseHostRead s f tag part).pending = s.pending := by
  rw [raiseHostRead_frame]
@[simp] theorem raiseHostRead_free (f tag part : Nat) : (raiseHostRead s f tag part).free = s.free := by
  rw [raiseHostRead_frame]
@[simp] theorem raiseHostRead_nextId (f tag part : Nat) : (raiseHostRead s f tag part).nextId = s.nextId := by
  rw [raiseHostRead_frame]
@[simp] theorem raiseHostRead_run (f tag part : Nat) : (raiseHostRead s f tag part).run = s.run := by
  rw [raiseHostRead_frame]
@[simp] theorem raiseHostRead_sqs (f tag part : Nat) : (raiseHostRead s f tag part).sqs = s.sqs := by
  rw [raiseHostRead_frame]
@[simp] theorem raiseHostRead_cqs (f tag part : Nat) : (raiseHostRead s f tag part).cqs = s.cqs := by
  rw [raiseHostRead_frame]
@[simp] theorem raiseHostRead_cmds (f tag part : Nat) : (raiseHostRead s f tag part).cmds = s.cmds := by
  rw [raiseHostRead_frame]
@[simp] theorem raiseHostRead_latches (f tag part : Nat) : (raiseHostRead s f tag part).latches = s.latches := by
  rw [raiseHostRead_frame]
@[simp] theorem raiseHostRead_host (f tag part : Nat) : (raiseHostRead s f tag part).host = s.host := by
  rw [raiseHostRead_frame]
@[simp] theorem raiseHostRead_hbm (f tag part : Nat) : (raiseHostRead s f tag part).hbm = s.hbm := by
  rw [raiseHostRead_frame]
@[simp] theorem raiseHostRead_tel (f tag part : Nat) : (raiseHostRead s f tag part).tel = s.tel := by
  rw [raiseHostRead_frame]
@[simp] theorem raiseHostRead_mtc (f tag part : Nat) : (raiseHostRead s f tag part).mtc = s.mtc := by
  rw [raiseHostRead_frame]
@[simp] theorem raiseHostRead_census (f tag part : Nat) : (raiseHostRead s f tag part).census = s.census := by
  rw [raiseHostRead_frame]
@[simp] theorem raiseHostRead_ports (f tag part : Nat) : (raiseHostRead s f tag part).ports = s.ports := by
  rw [raiseHostRead_frame]
@[simp] theorem raiseHostRead_cores (f tag part : Nat) : (raiseHostRead s f tag part).cores = s.cores := by
  rw [raiseHostRead_frame]
@[simp] theorem raiseHostRead_basins (f tag part : Nat) : (raiseHostRead s f tag part).basins = s.basins := by
  rw [raiseHostRead_frame]
@[simp] theorem raiseHostRead_hbmStacks (f tag part : Nat) : (raiseHostRead s f tag part).hbmStacks = s.hbmStacks := by
  rw [raiseHostRead_frame]
@[simp] theorem raiseHostRead_tgs (f tag part : Nat) : (raiseHostRead s f tag part).tgs = s.tgs := by
  rw [raiseHostRead_frame]
@[simp] theorem raiseHostRead_parts (f tag part : Nat) : (raiseHostRead s f tag part).parts = s.parts := by
  rw [raiseHostRead_frame]
@[simp] theorem raiseHostRead_runs (f tag part : Nat) : (raiseHostRead s f tag part).runs = s.runs := by
  rw [raiseHostRead_frame]
@[simp] theorem raiseHostRead_plans (f tag part : Nat) : (raiseHostRead s f tag part).plans = s.plans := by
  rw [raiseHostRead_frame]
@[simp] theorem raiseHostRead_requests (f tag part : Nat) : (raiseHostRead s f tag part).requests = s.requests := by
  rw [raiseHostRead_frame]
@[simp] theorem raiseHostRead_nodes (f tag part : Nat) : (raiseHostRead s f tag part).nodes = s.nodes := by
  rw [raiseHostRead_frame]
@[simp] theorem raiseHostRead_codecs (f tag part : Nat) : (raiseHostRead s f tag part).codecs = s.codecs := by
  rw [raiseHostRead_frame]
@[simp] theorem raiseHostRead_rng (f tag part : Nat) : (raiseHostRead s f tag part).rng = s.rng := by
  rw [raiseHostRead_frame]
@[simp] theorem raiseHostRead_acct (f tag part : Nat) : (raiseHostRead s f tag part).acct = s.acct := by
  rw [raiseHostRead_frame]
@[simp] theorem raiseHostRead_fls (f tag part : Nat) : (raiseHostRead s f tag part).fls = s.fls := by
  rw [raiseHostRead_frame]
@[simp] theorem raiseHostRead_sec (f tag part : Nat) : (raiseHostRead s f tag part).sec = s.sec := by
  rw [raiseHostRead_frame]
@[simp] theorem raiseHostRead_fuses (f tag part : Nat) : (raiseHostRead s f tag part).fuses = s.fuses := by
  rw [raiseHostRead_frame]
@[simp] theorem raiseHostRead_bist (f tag part : Nat) : (raiseHostRead s f tag part).bist = s.bist := by
  rw [raiseHostRead_frame]
@[simp] theorem raiseHostRead_mgt (f tag part : Nat) : (raiseHostRead s f tag part).mgt = s.mgt := by
  rw [raiseHostRead_frame]
@[simp] theorem raiseHostRead_jtag (f tag part : Nat) : (raiseHostRead s f tag part).jtag = s.jtag := by
  rw [raiseHostRead_frame]

/-- A vector is sent or pending: PCIe state. -/
theorem raiseVector_frame (f v : Nat) : raiseVector s f v =
    { s with hif := (raiseVector s f v).hif } := by
  unfold raiseVector; split <;> rfl

@[simp] theorem raiseVector_pending (f v : Nat) : (raiseVector s f v).pending = s.pending := by rw [raiseVector_frame]
@[simp] theorem raiseVector_free (f v : Nat) : (raiseVector s f v).free = s.free := by rw [raiseVector_frame]
@[simp] theorem raiseVector_nextId (f v : Nat) : (raiseVector s f v).nextId = s.nextId := by rw [raiseVector_frame]
@[simp] theorem raiseVector_run (f v : Nat) : (raiseVector s f v).run = s.run := by rw [raiseVector_frame]
@[simp] theorem raiseVector_sqs (f v : Nat) : (raiseVector s f v).sqs = s.sqs := by rw [raiseVector_frame]
@[simp] theorem raiseVector_cqs (f v : Nat) : (raiseVector s f v).cqs = s.cqs := by rw [raiseVector_frame]
@[simp] theorem raiseVector_cmds (f v : Nat) : (raiseVector s f v).cmds = s.cmds := by rw [raiseVector_frame]
@[simp] theorem raiseVector_latches (f v : Nat) : (raiseVector s f v).latches = s.latches := by rw [raiseVector_frame]
@[simp] theorem raiseVector_host (f v : Nat) : (raiseVector s f v).host = s.host := by rw [raiseVector_frame]
@[simp] theorem raiseVector_hbm (f v : Nat) : (raiseVector s f v).hbm = s.hbm := by rw [raiseVector_frame]
@[simp] theorem raiseVector_tel (f v : Nat) : (raiseVector s f v).tel = s.tel := by rw [raiseVector_frame]
@[simp] theorem raiseVector_mtc (f v : Nat) : (raiseVector s f v).mtc = s.mtc := by rw [raiseVector_frame]
@[simp] theorem raiseVector_census (f v : Nat) : (raiseVector s f v).census = s.census := by rw [raiseVector_frame]
@[simp] theorem raiseVector_ports (f v : Nat) : (raiseVector s f v).ports = s.ports := by rw [raiseVector_frame]
@[simp] theorem raiseVector_cores (f v : Nat) : (raiseVector s f v).cores = s.cores := by rw [raiseVector_frame]
@[simp] theorem raiseVector_basins (f v : Nat) : (raiseVector s f v).basins = s.basins := by rw [raiseVector_frame]
@[simp] theorem raiseVector_hbmStacks (f v : Nat) : (raiseVector s f v).hbmStacks = s.hbmStacks := by rw [raiseVector_frame]
@[simp] theorem raiseVector_tgs (f v : Nat) : (raiseVector s f v).tgs = s.tgs := by rw [raiseVector_frame]
@[simp] theorem raiseVector_parts (f v : Nat) : (raiseVector s f v).parts = s.parts := by rw [raiseVector_frame]
@[simp] theorem raiseVector_runs (f v : Nat) : (raiseVector s f v).runs = s.runs := by rw [raiseVector_frame]
@[simp] theorem raiseVector_plans (f v : Nat) : (raiseVector s f v).plans = s.plans := by rw [raiseVector_frame]
@[simp] theorem raiseVector_requests (f v : Nat) : (raiseVector s f v).requests = s.requests := by
  rw [raiseVector_frame]
@[simp] theorem raiseVector_nodes (f v : Nat) : (raiseVector s f v).nodes = s.nodes := by rw [raiseVector_frame]
@[simp] theorem raiseVector_codecs (f v : Nat) : (raiseVector s f v).codecs = s.codecs := by rw [raiseVector_frame]
@[simp] theorem raiseVector_rng (f v : Nat) : (raiseVector s f v).rng = s.rng := by rw [raiseVector_frame]
@[simp] theorem raiseVector_acct (f v : Nat) : (raiseVector s f v).acct = s.acct := by rw [raiseVector_frame]
@[simp] theorem raiseVector_fls (f v : Nat) : (raiseVector s f v).fls = s.fls := by rw [raiseVector_frame]
@[simp] theorem raiseVector_medium (f v : Nat) : (raiseVector s f v).medium = s.medium := by rw [raiseVector_frame]
@[simp] theorem raiseVector_sec (f v : Nat) : (raiseVector s f v).sec = s.sec := by rw [raiseVector_frame]
@[simp] theorem raiseVector_fuses (f v : Nat) : (raiseVector s f v).fuses = s.fuses := by rw [raiseVector_frame]
@[simp] theorem raiseVector_bist (f v : Nat) : (raiseVector s f v).bist = s.bist := by rw [raiseVector_frame]
@[simp] theorem raiseVector_evt (f v : Nat) : (raiseVector s f v).evt = s.evt := by rw [raiseVector_frame]
@[simp] theorem raiseVector_mgt (f v : Nat) : (raiseVector s f v).mgt = s.mgt := by rw [raiseVector_frame]
@[simp] theorem raiseVector_jtag (f v : Nat) : (raiseVector s f v).jtag = s.jtag := by rw [raiseVector_frame]

/-- Settling a command's object changes the flash medium. -/
theorem settleObject_frame (c : Cmd) (status : Nat) : settleObject s c status =
    { s with medium := (settleObject s c status).medium } := by
  unfold settleObject; repeat' split
  all_goals rfl

@[simp] theorem settleObject_pending (c : Cmd) (status : Nat) : (settleObject s c status).pending = s.pending := by
  rw [settleObject_frame]
@[simp] theorem settleObject_free (c : Cmd) (status : Nat) : (settleObject s c status).free = s.free := by
  rw [settleObject_frame]
@[simp] theorem settleObject_nextId (c : Cmd) (status : Nat) : (settleObject s c status).nextId = s.nextId := by
  rw [settleObject_frame]
@[simp] theorem settleObject_run (c : Cmd) (status : Nat) : (settleObject s c status).run = s.run := by
  rw [settleObject_frame]
@[simp] theorem settleObject_hif (c : Cmd) (status : Nat) : (settleObject s c status).hif = s.hif := by
  rw [settleObject_frame]
@[simp] theorem settleObject_sqs (c : Cmd) (status : Nat) : (settleObject s c status).sqs = s.sqs := by
  rw [settleObject_frame]
@[simp] theorem settleObject_cqs (c : Cmd) (status : Nat) : (settleObject s c status).cqs = s.cqs := by
  rw [settleObject_frame]
@[simp] theorem settleObject_cmds (c : Cmd) (status : Nat) : (settleObject s c status).cmds = s.cmds := by
  rw [settleObject_frame]
@[simp] theorem settleObject_latches (c : Cmd) (status : Nat) : (settleObject s c status).latches = s.latches := by
  rw [settleObject_frame]
@[simp] theorem settleObject_host (c : Cmd) (status : Nat) : (settleObject s c status).host = s.host := by
  rw [settleObject_frame]
@[simp] theorem settleObject_hbm (c : Cmd) (status : Nat) : (settleObject s c status).hbm = s.hbm := by
  rw [settleObject_frame]
@[simp] theorem settleObject_tel (c : Cmd) (status : Nat) : (settleObject s c status).tel = s.tel := by
  rw [settleObject_frame]
@[simp] theorem settleObject_mtc (c : Cmd) (status : Nat) : (settleObject s c status).mtc = s.mtc := by
  rw [settleObject_frame]
@[simp] theorem settleObject_census (c : Cmd) (status : Nat) : (settleObject s c status).census = s.census := by
  rw [settleObject_frame]
@[simp] theorem settleObject_ports (c : Cmd) (status : Nat) : (settleObject s c status).ports = s.ports := by
  rw [settleObject_frame]
@[simp] theorem settleObject_cores (c : Cmd) (status : Nat) : (settleObject s c status).cores = s.cores := by
  rw [settleObject_frame]
@[simp] theorem settleObject_basins (c : Cmd) (status : Nat) : (settleObject s c status).basins = s.basins := by
  rw [settleObject_frame]
@[simp] theorem settleObject_hbmStacks (c : Cmd) (status : Nat) : (settleObject s c status).hbmStacks = s.hbmStacks := by
  rw [settleObject_frame]
@[simp] theorem settleObject_tgs (c : Cmd) (status : Nat) : (settleObject s c status).tgs = s.tgs := by
  rw [settleObject_frame]
@[simp] theorem settleObject_parts (c : Cmd) (status : Nat) : (settleObject s c status).parts = s.parts := by
  rw [settleObject_frame]
@[simp] theorem settleObject_runs (c : Cmd) (status : Nat) : (settleObject s c status).runs = s.runs := by
  rw [settleObject_frame]
@[simp] theorem settleObject_plans (c : Cmd) (status : Nat) : (settleObject s c status).plans = s.plans := by
  rw [settleObject_frame]
@[simp] theorem settleObject_requests (c : Cmd) (status : Nat) : (settleObject s c status).requests = s.requests := by
  rw [settleObject_frame]
@[simp] theorem settleObject_nodes (c : Cmd) (status : Nat) : (settleObject s c status).nodes = s.nodes := by
  rw [settleObject_frame]
@[simp] theorem settleObject_codecs (c : Cmd) (status : Nat) : (settleObject s c status).codecs = s.codecs := by
  rw [settleObject_frame]
@[simp] theorem settleObject_rng (c : Cmd) (status : Nat) : (settleObject s c status).rng = s.rng := by
  rw [settleObject_frame]
@[simp] theorem settleObject_acct (c : Cmd) (status : Nat) : (settleObject s c status).acct = s.acct := by
  rw [settleObject_frame]
@[simp] theorem settleObject_fls (c : Cmd) (status : Nat) : (settleObject s c status).fls = s.fls := by
  rw [settleObject_frame]
@[simp] theorem settleObject_sec (c : Cmd) (status : Nat) : (settleObject s c status).sec = s.sec := by
  rw [settleObject_frame]
@[simp] theorem settleObject_fuses (c : Cmd) (status : Nat) : (settleObject s c status).fuses = s.fuses := by
  rw [settleObject_frame]
@[simp] theorem settleObject_bist (c : Cmd) (status : Nat) : (settleObject s c status).bist = s.bist := by
  rw [settleObject_frame]
@[simp] theorem settleObject_evt (c : Cmd) (status : Nat) : (settleObject s c status).evt = s.evt := by
  rw [settleObject_frame]
@[simp] theorem settleObject_mgt (c : Cmd) (status : Nat) : (settleObject s c status).mgt = s.mgt := by
  rw [settleObject_frame]
@[simp] theorem settleObject_jtag (c : Cmd) (status : Nat) : (settleObject s c status).jtag = s.jtag := by
  rw [settleObject_frame]

/-- An entry, its ring and its vector; or the ring's error and its event. -/
theorem writeEntry_frame (c : Cmd) (status retry : Nat) : writeEntry s c status retry =
    { s with host := (writeEntry s c status retry).host, hif := (writeEntry s c status retry).hif, cqs := (writeEntry s c status retry).cqs, evt := (writeEntry s c status retry).evt, medium := (writeEntry s c status retry).medium } := by
  unfold writeEntry; dsimp only; split
  · split
    · rw [raiseVector_frame]; rfl
    · rfl
  · rw [raiseRingError_frame]; rfl

@[simp] theorem writeEntry_pending (c : Cmd) (status retry : Nat) : (writeEntry s c status retry).pending = s.pending := by
  rw [writeEntry_frame]
@[simp] theorem writeEntry_free (c : Cmd) (status retry : Nat) : (writeEntry s c status retry).free = s.free := by
  rw [writeEntry_frame]
@[simp] theorem writeEntry_nextId (c : Cmd) (status retry : Nat) : (writeEntry s c status retry).nextId = s.nextId := by
  rw [writeEntry_frame]
@[simp] theorem writeEntry_run (c : Cmd) (status retry : Nat) : (writeEntry s c status retry).run = s.run := by
  rw [writeEntry_frame]
@[simp] theorem writeEntry_sqs (c : Cmd) (status retry : Nat) : (writeEntry s c status retry).sqs = s.sqs := by
  rw [writeEntry_frame]
@[simp] theorem writeEntry_cmds (c : Cmd) (status retry : Nat) : (writeEntry s c status retry).cmds = s.cmds := by
  rw [writeEntry_frame]
@[simp] theorem writeEntry_latches (c : Cmd) (status retry : Nat) : (writeEntry s c status retry).latches = s.latches := by
  rw [writeEntry_frame]
@[simp] theorem writeEntry_hbm (c : Cmd) (status retry : Nat) : (writeEntry s c status retry).hbm = s.hbm := by
  rw [writeEntry_frame]
@[simp] theorem writeEntry_tel (c : Cmd) (status retry : Nat) : (writeEntry s c status retry).tel = s.tel := by
  rw [writeEntry_frame]
@[simp] theorem writeEntry_mtc (c : Cmd) (status retry : Nat) : (writeEntry s c status retry).mtc = s.mtc := by
  rw [writeEntry_frame]
@[simp] theorem writeEntry_census (c : Cmd) (status retry : Nat) : (writeEntry s c status retry).census = s.census := by
  rw [writeEntry_frame]
@[simp] theorem writeEntry_ports (c : Cmd) (status retry : Nat) : (writeEntry s c status retry).ports = s.ports := by
  rw [writeEntry_frame]
@[simp] theorem writeEntry_cores (c : Cmd) (status retry : Nat) : (writeEntry s c status retry).cores = s.cores := by
  rw [writeEntry_frame]
@[simp] theorem writeEntry_basins (c : Cmd) (status retry : Nat) : (writeEntry s c status retry).basins = s.basins := by
  rw [writeEntry_frame]
@[simp] theorem writeEntry_hbmStacks (c : Cmd) (status retry : Nat) : (writeEntry s c status retry).hbmStacks = s.hbmStacks := by
  rw [writeEntry_frame]
@[simp] theorem writeEntry_tgs (c : Cmd) (status retry : Nat) : (writeEntry s c status retry).tgs = s.tgs := by
  rw [writeEntry_frame]
@[simp] theorem writeEntry_parts (c : Cmd) (status retry : Nat) : (writeEntry s c status retry).parts = s.parts := by
  rw [writeEntry_frame]
@[simp] theorem writeEntry_runs (c : Cmd) (status retry : Nat) : (writeEntry s c status retry).runs = s.runs := by
  rw [writeEntry_frame]
@[simp] theorem writeEntry_plans (c : Cmd) (status retry : Nat) : (writeEntry s c status retry).plans = s.plans := by
  rw [writeEntry_frame]
@[simp] theorem writeEntry_requests (c : Cmd) (status retry : Nat) : (writeEntry s c status retry).requests = s.requests := by
  rw [writeEntry_frame]
@[simp] theorem writeEntry_nodes (c : Cmd) (status retry : Nat) : (writeEntry s c status retry).nodes = s.nodes := by
  rw [writeEntry_frame]
@[simp] theorem writeEntry_codecs (c : Cmd) (status retry : Nat) : (writeEntry s c status retry).codecs = s.codecs := by
  rw [writeEntry_frame]
@[simp] theorem writeEntry_rng (c : Cmd) (status retry : Nat) : (writeEntry s c status retry).rng = s.rng := by
  rw [writeEntry_frame]
@[simp] theorem writeEntry_acct (c : Cmd) (status retry : Nat) : (writeEntry s c status retry).acct = s.acct := by
  rw [writeEntry_frame]
@[simp] theorem writeEntry_fls (c : Cmd) (status retry : Nat) : (writeEntry s c status retry).fls = s.fls := by
  rw [writeEntry_frame]
@[simp] theorem writeEntry_sec (c : Cmd) (status retry : Nat) : (writeEntry s c status retry).sec = s.sec := by
  rw [writeEntry_frame]
@[simp] theorem writeEntry_fuses (c : Cmd) (status retry : Nat) : (writeEntry s c status retry).fuses = s.fuses := by
  rw [writeEntry_frame]
@[simp] theorem writeEntry_bist (c : Cmd) (status retry : Nat) : (writeEntry s c status retry).bist = s.bist := by
  rw [writeEntry_frame]
@[simp] theorem writeEntry_mgt (c : Cmd) (status retry : Nat) : (writeEntry s c status retry).mgt = s.mgt := by
  rw [writeEntry_frame]
@[simp] theorem writeEntry_jtag (c : Cmd) (status retry : Nat) : (writeEntry s c status retry).jtag = s.jtag := by
  rw [writeEntry_frame]

/-- Closing a command. -/
theorem closeCmd_frame (c : Cmd) (status retry : Nat) : closeCmd s c status retry =
    { s with host := (closeCmd s c status retry).host, hif := (closeCmd s c status retry).hif, cqs := (closeCmd s c status retry).cqs, cmds := (closeCmd s c status retry).cmds, evt := (closeCmd s c status retry).evt, medium := (closeCmd s c status retry).medium } := by
  unfold closeCmd; dsimp only; split
  · rw [writeEntry_frame, settleObject_frame]; rfl
  · rw [writeEntry_frame, settleObject_frame]

@[simp] theorem closeCmd_pending (c : Cmd) (status retry : Nat) : (closeCmd s c status retry).pending = s.pending := by
  rw [closeCmd_frame]
@[simp] theorem closeCmd_free (c : Cmd) (status retry : Nat) : (closeCmd s c status retry).free = s.free := by
  rw [closeCmd_frame]
@[simp] theorem closeCmd_nextId (c : Cmd) (status retry : Nat) : (closeCmd s c status retry).nextId = s.nextId := by
  rw [closeCmd_frame]
@[simp] theorem closeCmd_run (c : Cmd) (status retry : Nat) : (closeCmd s c status retry).run = s.run := by
  rw [closeCmd_frame]
@[simp] theorem closeCmd_sqs (c : Cmd) (status retry : Nat) : (closeCmd s c status retry).sqs = s.sqs := by
  rw [closeCmd_frame]
@[simp] theorem closeCmd_latches (c : Cmd) (status retry : Nat) : (closeCmd s c status retry).latches = s.latches := by
  rw [closeCmd_frame]
@[simp] theorem closeCmd_hbm (c : Cmd) (status retry : Nat) : (closeCmd s c status retry).hbm = s.hbm := by
  rw [closeCmd_frame]
@[simp] theorem closeCmd_tel (c : Cmd) (status retry : Nat) : (closeCmd s c status retry).tel = s.tel := by
  rw [closeCmd_frame]
@[simp] theorem closeCmd_mtc (c : Cmd) (status retry : Nat) : (closeCmd s c status retry).mtc = s.mtc := by
  rw [closeCmd_frame]
@[simp] theorem closeCmd_census (c : Cmd) (status retry : Nat) : (closeCmd s c status retry).census = s.census := by
  rw [closeCmd_frame]
@[simp] theorem closeCmd_ports (c : Cmd) (status retry : Nat) : (closeCmd s c status retry).ports = s.ports := by
  rw [closeCmd_frame]
@[simp] theorem closeCmd_cores (c : Cmd) (status retry : Nat) : (closeCmd s c status retry).cores = s.cores := by
  rw [closeCmd_frame]
@[simp] theorem closeCmd_basins (c : Cmd) (status retry : Nat) : (closeCmd s c status retry).basins = s.basins := by
  rw [closeCmd_frame]
@[simp] theorem closeCmd_hbmStacks (c : Cmd) (status retry : Nat) : (closeCmd s c status retry).hbmStacks = s.hbmStacks := by
  rw [closeCmd_frame]
@[simp] theorem closeCmd_tgs (c : Cmd) (status retry : Nat) : (closeCmd s c status retry).tgs = s.tgs := by
  rw [closeCmd_frame]
@[simp] theorem closeCmd_parts (c : Cmd) (status retry : Nat) : (closeCmd s c status retry).parts = s.parts := by
  rw [closeCmd_frame]
@[simp] theorem closeCmd_runs (c : Cmd) (status retry : Nat) : (closeCmd s c status retry).runs = s.runs := by
  rw [closeCmd_frame]
@[simp] theorem closeCmd_plans (c : Cmd) (status retry : Nat) : (closeCmd s c status retry).plans = s.plans := by
  rw [closeCmd_frame]
@[simp] theorem closeCmd_requests (c : Cmd) (status retry : Nat) : (closeCmd s c status retry).requests = s.requests := by
  rw [closeCmd_frame]
@[simp] theorem closeCmd_nodes (c : Cmd) (status retry : Nat) : (closeCmd s c status retry).nodes = s.nodes := by
  rw [closeCmd_frame]
@[simp] theorem closeCmd_codecs (c : Cmd) (status retry : Nat) : (closeCmd s c status retry).codecs = s.codecs := by
  rw [closeCmd_frame]
@[simp] theorem closeCmd_rng (c : Cmd) (status retry : Nat) : (closeCmd s c status retry).rng = s.rng := by
  rw [closeCmd_frame]
@[simp] theorem closeCmd_acct (c : Cmd) (status retry : Nat) : (closeCmd s c status retry).acct = s.acct := by
  rw [closeCmd_frame]
@[simp] theorem closeCmd_fls (c : Cmd) (status retry : Nat) : (closeCmd s c status retry).fls = s.fls := by
  rw [closeCmd_frame]
@[simp] theorem closeCmd_sec (c : Cmd) (status retry : Nat) : (closeCmd s c status retry).sec = s.sec := by
  rw [closeCmd_frame]
@[simp] theorem closeCmd_fuses (c : Cmd) (status retry : Nat) : (closeCmd s c status retry).fuses = s.fuses := by
  rw [closeCmd_frame]
@[simp] theorem closeCmd_bist (c : Cmd) (status retry : Nat) : (closeCmd s c status retry).bist = s.bist := by
  rw [closeCmd_frame]
@[simp] theorem closeCmd_mgt (c : Cmd) (status retry : Nat) : (closeCmd s c status retry).mgt = s.mgt := by
  rw [closeCmd_frame]
@[simp] theorem closeCmd_jtag (c : Cmd) (status retry : Nat) : (closeCmd s c status retry).jtag = s.jtag := by
  rw [closeCmd_frame]

/-- A charge changes accounts. -/
theorem chargeClient_frame (client : Nat) (ch : Charge) : chargeClient s client ch =
    { s with acct := (chargeClient s client ch).acct } := by
  rfl

@[simp] theorem chargeClient_pending (client : Nat) (ch : Charge) : (chargeClient s client ch).pending = s.pending := by
  rw [chargeClient_frame]
@[simp] theorem chargeClient_free (client : Nat) (ch : Charge) : (chargeClient s client ch).free = s.free := by
  rw [chargeClient_frame]
@[simp] theorem chargeClient_nextId (client : Nat) (ch : Charge) : (chargeClient s client ch).nextId = s.nextId := by
  rw [chargeClient_frame]
@[simp] theorem chargeClient_run (client : Nat) (ch : Charge) : (chargeClient s client ch).run = s.run := by
  rw [chargeClient_frame]
@[simp] theorem chargeClient_hif (client : Nat) (ch : Charge) : (chargeClient s client ch).hif = s.hif := by
  rw [chargeClient_frame]
@[simp] theorem chargeClient_sqs (client : Nat) (ch : Charge) : (chargeClient s client ch).sqs = s.sqs := by
  rw [chargeClient_frame]
@[simp] theorem chargeClient_cqs (client : Nat) (ch : Charge) : (chargeClient s client ch).cqs = s.cqs := by
  rw [chargeClient_frame]
@[simp] theorem chargeClient_cmds (client : Nat) (ch : Charge) : (chargeClient s client ch).cmds = s.cmds := by
  rw [chargeClient_frame]
@[simp] theorem chargeClient_latches (client : Nat) (ch : Charge) : (chargeClient s client ch).latches = s.latches := by
  rw [chargeClient_frame]
@[simp] theorem chargeClient_host (client : Nat) (ch : Charge) : (chargeClient s client ch).host = s.host := by
  rw [chargeClient_frame]
@[simp] theorem chargeClient_hbm (client : Nat) (ch : Charge) : (chargeClient s client ch).hbm = s.hbm := by
  rw [chargeClient_frame]
@[simp] theorem chargeClient_tel (client : Nat) (ch : Charge) : (chargeClient s client ch).tel = s.tel := by
  rw [chargeClient_frame]
@[simp] theorem chargeClient_mtc (client : Nat) (ch : Charge) : (chargeClient s client ch).mtc = s.mtc := by
  rw [chargeClient_frame]
@[simp] theorem chargeClient_census (client : Nat) (ch : Charge) : (chargeClient s client ch).census = s.census := by
  rw [chargeClient_frame]
@[simp] theorem chargeClient_ports (client : Nat) (ch : Charge) : (chargeClient s client ch).ports = s.ports := by
  rw [chargeClient_frame]
@[simp] theorem chargeClient_cores (client : Nat) (ch : Charge) : (chargeClient s client ch).cores = s.cores := by
  rw [chargeClient_frame]
@[simp] theorem chargeClient_basins (client : Nat) (ch : Charge) : (chargeClient s client ch).basins = s.basins := by
  rw [chargeClient_frame]
@[simp] theorem chargeClient_hbmStacks (client : Nat) (ch : Charge) : (chargeClient s client ch).hbmStacks = s.hbmStacks := by
  rw [chargeClient_frame]
@[simp] theorem chargeClient_tgs (client : Nat) (ch : Charge) : (chargeClient s client ch).tgs = s.tgs := by
  rw [chargeClient_frame]
@[simp] theorem chargeClient_parts (client : Nat) (ch : Charge) : (chargeClient s client ch).parts = s.parts := by
  rw [chargeClient_frame]
@[simp] theorem chargeClient_runs (client : Nat) (ch : Charge) : (chargeClient s client ch).runs = s.runs := by
  rw [chargeClient_frame]
@[simp] theorem chargeClient_plans (client : Nat) (ch : Charge) : (chargeClient s client ch).plans = s.plans := by
  rw [chargeClient_frame]
@[simp] theorem chargeClient_requests (client : Nat) (ch : Charge) : (chargeClient s client ch).requests = s.requests := by
  rw [chargeClient_frame]
@[simp] theorem chargeClient_nodes (client : Nat) (ch : Charge) : (chargeClient s client ch).nodes = s.nodes := by
  rw [chargeClient_frame]
@[simp] theorem chargeClient_codecs (client : Nat) (ch : Charge) : (chargeClient s client ch).codecs = s.codecs := by
  rw [chargeClient_frame]
@[simp] theorem chargeClient_rng (client : Nat) (ch : Charge) : (chargeClient s client ch).rng = s.rng := by
  rw [chargeClient_frame]
@[simp] theorem chargeClient_fls (client : Nat) (ch : Charge) : (chargeClient s client ch).fls = s.fls := by
  rw [chargeClient_frame]
@[simp] theorem chargeClient_medium (client : Nat) (ch : Charge) : (chargeClient s client ch).medium = s.medium := by
  rw [chargeClient_frame]
@[simp] theorem chargeClient_sec (client : Nat) (ch : Charge) : (chargeClient s client ch).sec = s.sec := by
  rw [chargeClient_frame]
@[simp] theorem chargeClient_fuses (client : Nat) (ch : Charge) : (chargeClient s client ch).fuses = s.fuses := by
  rw [chargeClient_frame]
@[simp] theorem chargeClient_bist (client : Nat) (ch : Charge) : (chargeClient s client ch).bist = s.bist := by
  rw [chargeClient_frame]
@[simp] theorem chargeClient_evt (client : Nat) (ch : Charge) : (chargeClient s client ch).evt = s.evt := by
  rw [chargeClient_frame]
@[simp] theorem chargeClient_mgt (client : Nat) (ch : Charge) : (chargeClient s client ch).mgt = s.mgt := by
  rw [chargeClient_frame]
@[simp] theorem chargeClient_jtag (client : Nat) (ch : Charge) : (chargeClient s client ch).jtag = s.jtag := by
  rw [chargeClient_frame]

/-- A command's completion, with its chained successors (14 R314). -/
theorem finishN_frame (n : Nat) (c : Cmd) (status retry : Nat) : finishN n s c status retry =
    { s with host := (finishN n s c status retry).host, hif := (finishN n s c status retry).hif, sqs := (finishN n s c status retry).sqs, cqs := (finishN n s c status retry).cqs, cmds := (finishN n s c status retry).cmds, evt := (finishN n s c status retry).evt, medium := (finishN n s c status retry).medium } := by
  induction n generalizing s c status retry with
  | zero => rfl
  | succ n ih =>
    unfold finishN
    dsimp only
    split
    · split <;> rw [closeCmd_frame] <;> rfl
    · split
      · split <;> rw [closeCmd_frame] <;> rfl
      · rw [ih]
        split <;> rw [closeCmd_frame] <;> rfl

/-- As finishN. -/
theorem finishWith_frame (c : Cmd) (status retry : Nat) : finishWith s c status retry =
    { s with host := (finishWith s c status retry).host, hif := (finishWith s c status retry).hif, sqs := (finishWith s c status retry).sqs, cqs := (finishWith s c status retry).cqs, cmds := (finishWith s c status retry).cmds, evt := (finishWith s c status retry).evt, medium := (finishWith s c status retry).medium } := by
  exact finishN_frame s _ _ _ _

@[simp] theorem finishWith_pending (c : Cmd) (status retry : Nat) : (finishWith s c status retry).pending = s.pending := by
  rw [finishWith_frame]
@[simp] theorem finishWith_free (c : Cmd) (status retry : Nat) : (finishWith s c status retry).free = s.free := by
  rw [finishWith_frame]
@[simp] theorem finishWith_nextId (c : Cmd) (status retry : Nat) : (finishWith s c status retry).nextId = s.nextId := by
  rw [finishWith_frame]
@[simp] theorem finishWith_run (c : Cmd) (status retry : Nat) : (finishWith s c status retry).run = s.run := by
  rw [finishWith_frame]
@[simp] theorem finishWith_latches (c : Cmd) (status retry : Nat) : (finishWith s c status retry).latches = s.latches := by
  rw [finishWith_frame]
@[simp] theorem finishWith_hbm (c : Cmd) (status retry : Nat) : (finishWith s c status retry).hbm = s.hbm := by
  rw [finishWith_frame]
@[simp] theorem finishWith_tel (c : Cmd) (status retry : Nat) : (finishWith s c status retry).tel = s.tel := by
  rw [finishWith_frame]
@[simp] theorem finishWith_mtc (c : Cmd) (status retry : Nat) : (finishWith s c status retry).mtc = s.mtc := by
  rw [finishWith_frame]
@[simp] theorem finishWith_census (c : Cmd) (status retry : Nat) : (finishWith s c status retry).census = s.census := by
  rw [finishWith_frame]
@[simp] theorem finishWith_ports (c : Cmd) (status retry : Nat) : (finishWith s c status retry).ports = s.ports := by
  rw [finishWith_frame]
@[simp] theorem finishWith_cores (c : Cmd) (status retry : Nat) : (finishWith s c status retry).cores = s.cores := by
  rw [finishWith_frame]
@[simp] theorem finishWith_basins (c : Cmd) (status retry : Nat) : (finishWith s c status retry).basins = s.basins := by
  rw [finishWith_frame]
@[simp] theorem finishWith_hbmStacks (c : Cmd) (status retry : Nat) : (finishWith s c status retry).hbmStacks = s.hbmStacks := by
  rw [finishWith_frame]
@[simp] theorem finishWith_tgs (c : Cmd) (status retry : Nat) : (finishWith s c status retry).tgs = s.tgs := by
  rw [finishWith_frame]
@[simp] theorem finishWith_parts (c : Cmd) (status retry : Nat) : (finishWith s c status retry).parts = s.parts := by
  rw [finishWith_frame]
@[simp] theorem finishWith_runs (c : Cmd) (status retry : Nat) : (finishWith s c status retry).runs = s.runs := by
  rw [finishWith_frame]
@[simp] theorem finishWith_plans (c : Cmd) (status retry : Nat) : (finishWith s c status retry).plans = s.plans := by
  rw [finishWith_frame]
@[simp] theorem finishWith_requests (c : Cmd) (status retry : Nat) : (finishWith s c status retry).requests = s.requests := by
  rw [finishWith_frame]
@[simp] theorem finishWith_nodes (c : Cmd) (status retry : Nat) : (finishWith s c status retry).nodes = s.nodes := by
  rw [finishWith_frame]
@[simp] theorem finishWith_codecs (c : Cmd) (status retry : Nat) : (finishWith s c status retry).codecs = s.codecs := by
  rw [finishWith_frame]
@[simp] theorem finishWith_rng (c : Cmd) (status retry : Nat) : (finishWith s c status retry).rng = s.rng := by
  rw [finishWith_frame]
@[simp] theorem finishWith_acct (c : Cmd) (status retry : Nat) : (finishWith s c status retry).acct = s.acct := by
  rw [finishWith_frame]
@[simp] theorem finishWith_fls (c : Cmd) (status retry : Nat) : (finishWith s c status retry).fls = s.fls := by
  rw [finishWith_frame]
@[simp] theorem finishWith_sec (c : Cmd) (status retry : Nat) : (finishWith s c status retry).sec = s.sec := by
  rw [finishWith_frame]
@[simp] theorem finishWith_fuses (c : Cmd) (status retry : Nat) : (finishWith s c status retry).fuses = s.fuses := by
  rw [finishWith_frame]
@[simp] theorem finishWith_bist (c : Cmd) (status retry : Nat) : (finishWith s c status retry).bist = s.bist := by
  rw [finishWith_frame]
@[simp] theorem finishWith_mgt (c : Cmd) (status retry : Nat) : (finishWith s c status retry).mgt = s.mgt := by
  rw [finishWith_frame]
@[simp] theorem finishWith_jtag (c : Cmd) (status retry : Nat) : (finishWith s c status retry).jtag = s.jtag := by
  rw [finishWith_frame]

/-- As finishN. -/
theorem finish_frame (c : Cmd) (status : Nat) : finish s c status =
    { s with host := (finish s c status).host, hif := (finish s c status).hif, sqs := (finish s c status).sqs, cqs := (finish s c status).cqs, cmds := (finish s c status).cmds, evt := (finish s c status).evt, medium := (finish s c status).medium } := by
  exact finishN_frame s _ _ _ _

@[simp] theorem finish_pending (c : Cmd) (status : Nat) : (finish s c status).pending = s.pending := by
  rw [finish_frame]
@[simp] theorem finish_free (c : Cmd) (status : Nat) : (finish s c status).free = s.free := by rw [finish_frame]
@[simp] theorem finish_nextId (c : Cmd) (status : Nat) : (finish s c status).nextId = s.nextId := by rw [finish_frame]
@[simp] theorem finish_run (c : Cmd) (status : Nat) : (finish s c status).run = s.run := by rw [finish_frame]
@[simp] theorem finish_latches (c : Cmd) (status : Nat) : (finish s c status).latches = s.latches := by
  rw [finish_frame]
@[simp] theorem finish_hbm (c : Cmd) (status : Nat) : (finish s c status).hbm = s.hbm := by rw [finish_frame]
@[simp] theorem finish_tel (c : Cmd) (status : Nat) : (finish s c status).tel = s.tel := by rw [finish_frame]
@[simp] theorem finish_mtc (c : Cmd) (status : Nat) : (finish s c status).mtc = s.mtc := by rw [finish_frame]
@[simp] theorem finish_census (c : Cmd) (status : Nat) : (finish s c status).census = s.census := by rw [finish_frame]
@[simp] theorem finish_ports (c : Cmd) (status : Nat) : (finish s c status).ports = s.ports := by rw [finish_frame]
@[simp] theorem finish_cores (c : Cmd) (status : Nat) : (finish s c status).cores = s.cores := by rw [finish_frame]
@[simp] theorem finish_basins (c : Cmd) (status : Nat) : (finish s c status).basins = s.basins := by rw [finish_frame]
@[simp] theorem finish_hbmStacks (c : Cmd) (status : Nat) : (finish s c status).hbmStacks = s.hbmStacks := by rw [finish_frame]
@[simp] theorem finish_tgs (c : Cmd) (status : Nat) : (finish s c status).tgs = s.tgs := by rw [finish_frame]
@[simp] theorem finish_parts (c : Cmd) (status : Nat) : (finish s c status).parts = s.parts := by rw [finish_frame]
@[simp] theorem finish_runs (c : Cmd) (status : Nat) : (finish s c status).runs = s.runs := by rw [finish_frame]
@[simp] theorem finish_plans (c : Cmd) (status : Nat) : (finish s c status).plans = s.plans := by rw [finish_frame]
@[simp] theorem finish_requests (c : Cmd) (status : Nat) : (finish s c status).requests = s.requests := by
  rw [finish_frame]
@[simp] theorem finish_nodes (c : Cmd) (status : Nat) : (finish s c status).nodes = s.nodes := by rw [finish_frame]
@[simp] theorem finish_codecs (c : Cmd) (status : Nat) : (finish s c status).codecs = s.codecs := by rw [finish_frame]
@[simp] theorem finish_rng (c : Cmd) (status : Nat) : (finish s c status).rng = s.rng := by rw [finish_frame]
@[simp] theorem finish_acct (c : Cmd) (status : Nat) : (finish s c status).acct = s.acct := by rw [finish_frame]
@[simp] theorem finish_fls (c : Cmd) (status : Nat) : (finish s c status).fls = s.fls := by rw [finish_frame]
@[simp] theorem finish_sec (c : Cmd) (status : Nat) : (finish s c status).sec = s.sec := by rw [finish_frame]
@[simp] theorem finish_fuses (c : Cmd) (status : Nat) : (finish s c status).fuses = s.fuses := by rw [finish_frame]
@[simp] theorem finish_bist (c : Cmd) (status : Nat) : (finish s c status).bist = s.bist := by rw [finish_frame]
@[simp] theorem finish_mgt (c : Cmd) (status : Nat) : (finish s c status).mgt = s.mgt := by rw [finish_frame]
@[simp] theorem finish_jtag (c : Cmd) (status : Nat) : (finish s c status).jtag = s.jtag := by rw [finish_frame]

/-- As finishN. -/
theorem refuse_frame (c : Cmd) (status : Nat) : refuse s c status =
    { s with host := (refuse s c status).host, hif := (refuse s c status).hif, sqs := (refuse s c status).sqs, cqs := (refuse s c status).cqs, cmds := (refuse s c status).cmds, evt := (refuse s c status).evt, medium := (refuse s c status).medium } := by
  exact finishN_frame s _ _ _ _

@[simp] theorem refuse_pending (c : Cmd) (status : Nat) : (refuse s c status).pending = s.pending := by
  rw [refuse_frame]
@[simp] theorem refuse_free (c : Cmd) (status : Nat) : (refuse s c status).free = s.free := by rw [refuse_frame]
@[simp] theorem refuse_nextId (c : Cmd) (status : Nat) : (refuse s c status).nextId = s.nextId := by rw [refuse_frame]
@[simp] theorem refuse_run (c : Cmd) (status : Nat) : (refuse s c status).run = s.run := by rw [refuse_frame]
@[simp] theorem refuse_latches (c : Cmd) (status : Nat) : (refuse s c status).latches = s.latches := by
  rw [refuse_frame]
@[simp] theorem refuse_hbm (c : Cmd) (status : Nat) : (refuse s c status).hbm = s.hbm := by rw [refuse_frame]
@[simp] theorem refuse_tel (c : Cmd) (status : Nat) : (refuse s c status).tel = s.tel := by rw [refuse_frame]
@[simp] theorem refuse_mtc (c : Cmd) (status : Nat) : (refuse s c status).mtc = s.mtc := by rw [refuse_frame]
@[simp] theorem refuse_census (c : Cmd) (status : Nat) : (refuse s c status).census = s.census := by rw [refuse_frame]
@[simp] theorem refuse_ports (c : Cmd) (status : Nat) : (refuse s c status).ports = s.ports := by rw [refuse_frame]
@[simp] theorem refuse_cores (c : Cmd) (status : Nat) : (refuse s c status).cores = s.cores := by rw [refuse_frame]
@[simp] theorem refuse_basins (c : Cmd) (status : Nat) : (refuse s c status).basins = s.basins := by rw [refuse_frame]
@[simp] theorem refuse_hbmStacks (c : Cmd) (status : Nat) : (refuse s c status).hbmStacks = s.hbmStacks := by rw [refuse_frame]
@[simp] theorem refuse_tgs (c : Cmd) (status : Nat) : (refuse s c status).tgs = s.tgs := by rw [refuse_frame]
@[simp] theorem refuse_parts (c : Cmd) (status : Nat) : (refuse s c status).parts = s.parts := by rw [refuse_frame]
@[simp] theorem refuse_runs (c : Cmd) (status : Nat) : (refuse s c status).runs = s.runs := by rw [refuse_frame]
@[simp] theorem refuse_plans (c : Cmd) (status : Nat) : (refuse s c status).plans = s.plans := by rw [refuse_frame]
@[simp] theorem refuse_requests (c : Cmd) (status : Nat) : (refuse s c status).requests = s.requests := by
  rw [refuse_frame]
@[simp] theorem refuse_nodes (c : Cmd) (status : Nat) : (refuse s c status).nodes = s.nodes := by rw [refuse_frame]
@[simp] theorem refuse_codecs (c : Cmd) (status : Nat) : (refuse s c status).codecs = s.codecs := by rw [refuse_frame]
@[simp] theorem refuse_rng (c : Cmd) (status : Nat) : (refuse s c status).rng = s.rng := by rw [refuse_frame]
@[simp] theorem refuse_acct (c : Cmd) (status : Nat) : (refuse s c status).acct = s.acct := by rw [refuse_frame]
@[simp] theorem refuse_fls (c : Cmd) (status : Nat) : (refuse s c status).fls = s.fls := by rw [refuse_frame]
@[simp] theorem refuse_sec (c : Cmd) (status : Nat) : (refuse s c status).sec = s.sec := by rw [refuse_frame]
@[simp] theorem refuse_fuses (c : Cmd) (status : Nat) : (refuse s c status).fuses = s.fuses := by rw [refuse_frame]
@[simp] theorem refuse_bist (c : Cmd) (status : Nat) : (refuse s c status).bist = s.bist := by rw [refuse_frame]
@[simp] theorem refuse_mgt (c : Cmd) (status : Nat) : (refuse s c status).mgt = s.mgt := by rw [refuse_frame]
@[simp] theorem refuse_jtag (c : Cmd) (status : Nat) : (refuse s c status).jtag = s.jtag := by rw [refuse_frame]

/-- As finishN. -/
theorem finishId_frame (id status : Nat) : finishId s id status =
    { s with host := (finishId s id status).host, hif := (finishId s id status).hif, sqs := (finishId s id status).sqs, cqs := (finishId s id status).cqs, cmds := (finishId s id status).cmds, evt := (finishId s id status).evt, medium := (finishId s id status).medium } := by
  unfold finishId; split
  · exact finish_frame s _ _
  · rfl

@[simp] theorem finishId_pending (id status : Nat) : (finishId s id status).pending = s.pending := by
  rw [finishId_frame]
@[simp] theorem finishId_free (id status : Nat) : (finishId s id status).free = s.free := by rw [finishId_frame]
@[simp] theorem finishId_nextId (id status : Nat) : (finishId s id status).nextId = s.nextId := by rw [finishId_frame]
@[simp] theorem finishId_run (id status : Nat) : (finishId s id status).run = s.run := by rw [finishId_frame]
@[simp] theorem finishId_latches (id status : Nat) : (finishId s id status).latches = s.latches := by
  rw [finishId_frame]
@[simp] theorem finishId_hbm (id status : Nat) : (finishId s id status).hbm = s.hbm := by rw [finishId_frame]
@[simp] theorem finishId_tel (id status : Nat) : (finishId s id status).tel = s.tel := by rw [finishId_frame]
@[simp] theorem finishId_mtc (id status : Nat) : (finishId s id status).mtc = s.mtc := by rw [finishId_frame]
@[simp] theorem finishId_census (id status : Nat) : (finishId s id status).census = s.census := by rw [finishId_frame]
@[simp] theorem finishId_ports (id status : Nat) : (finishId s id status).ports = s.ports := by rw [finishId_frame]
@[simp] theorem finishId_cores (id status : Nat) : (finishId s id status).cores = s.cores := by rw [finishId_frame]
@[simp] theorem finishId_basins (id status : Nat) : (finishId s id status).basins = s.basins := by rw [finishId_frame]
@[simp] theorem finishId_hbmStacks (id status : Nat) : (finishId s id status).hbmStacks = s.hbmStacks := by rw [finishId_frame]
@[simp] theorem finishId_tgs (id status : Nat) : (finishId s id status).tgs = s.tgs := by rw [finishId_frame]
@[simp] theorem finishId_parts (id status : Nat) : (finishId s id status).parts = s.parts := by rw [finishId_frame]
@[simp] theorem finishId_runs (id status : Nat) : (finishId s id status).runs = s.runs := by rw [finishId_frame]
@[simp] theorem finishId_plans (id status : Nat) : (finishId s id status).plans = s.plans := by rw [finishId_frame]
@[simp] theorem finishId_requests (id status : Nat) : (finishId s id status).requests = s.requests := by
  rw [finishId_frame]
@[simp] theorem finishId_nodes (id status : Nat) : (finishId s id status).nodes = s.nodes := by rw [finishId_frame]
@[simp] theorem finishId_codecs (id status : Nat) : (finishId s id status).codecs = s.codecs := by rw [finishId_frame]
@[simp] theorem finishId_rng (id status : Nat) : (finishId s id status).rng = s.rng := by rw [finishId_frame]
@[simp] theorem finishId_acct (id status : Nat) : (finishId s id status).acct = s.acct := by rw [finishId_frame]
@[simp] theorem finishId_fls (id status : Nat) : (finishId s id status).fls = s.fls := by rw [finishId_frame]
@[simp] theorem finishId_sec (id status : Nat) : (finishId s id status).sec = s.sec := by rw [finishId_frame]
@[simp] theorem finishId_fuses (id status : Nat) : (finishId s id status).fuses = s.fuses := by rw [finishId_frame]
@[simp] theorem finishId_bist (id status : Nat) : (finishId s id status).bist = s.bist := by rw [finishId_frame]
@[simp] theorem finishId_mgt (id status : Nat) : (finishId s id status).mgt = s.mgt := by rw [finishId_frame]
@[simp] theorem finishId_jtag (id status : Nat) : (finishId s id status).jtag = s.jtag := by rw [finishId_frame]

/-- Taking a descriptor: a new command, the ring's HEAD, the counters. -/
theorem takeHead_frame (f q : Nat) (d : List Byte) : (takeHead s f q d).1 =
    { s with nextId := ((takeHead s f q d).1).nextId, hif := ((takeHead s f q d).1).hif, sqs := ((takeHead s f q d).1).sqs, cmds := ((takeHead s f q d).1).cmds } := by
  rfl

@[simp] theorem takeHead_pending (f q : Nat) (d : List Byte) : ((takeHead s f q d).1).pending = s.pending := by
  rw [takeHead_frame]
@[simp] theorem takeHead_free (f q : Nat) (d : List Byte) : ((takeHead s f q d).1).free = s.free := by
  rw [takeHead_frame]
@[simp] theorem takeHead_run (f q : Nat) (d : List Byte) : ((takeHead s f q d).1).run = s.run := by rw [takeHead_frame]
@[simp] theorem takeHead_cqs (f q : Nat) (d : List Byte) : ((takeHead s f q d).1).cqs = s.cqs := by rw [takeHead_frame]
@[simp] theorem takeHead_latches (f q : Nat) (d : List Byte) : ((takeHead s f q d).1).latches = s.latches := by
  rw [takeHead_frame]
@[simp] theorem takeHead_host (f q : Nat) (d : List Byte) : ((takeHead s f q d).1).host = s.host := by
  rw [takeHead_frame]
@[simp] theorem takeHead_hbm (f q : Nat) (d : List Byte) : ((takeHead s f q d).1).hbm = s.hbm := by rw [takeHead_frame]
@[simp] theorem takeHead_tel (f q : Nat) (d : List Byte) : ((takeHead s f q d).1).tel = s.tel := by rw [takeHead_frame]
@[simp] theorem takeHead_mtc (f q : Nat) (d : List Byte) : ((takeHead s f q d).1).mtc = s.mtc := by rw [takeHead_frame]
@[simp] theorem takeHead_census (f q : Nat) (d : List Byte) : ((takeHead s f q d).1).census = s.census := by
  rw [takeHead_frame]
@[simp] theorem takeHead_ports (f q : Nat) (d : List Byte) : ((takeHead s f q d).1).ports = s.ports := by
  rw [takeHead_frame]
@[simp] theorem takeHead_cores (f q : Nat) (d : List Byte) : ((takeHead s f q d).1).cores = s.cores := by
  rw [takeHead_frame]
@[simp] theorem takeHead_basins (f q : Nat) (d : List Byte) : ((takeHead s f q d).1).basins = s.basins := by
  rw [takeHead_frame]
@[simp] theorem takeHead_hbmStacks (f q : Nat) (d : List Byte) : ((takeHead s f q d).1).hbmStacks = s.hbmStacks := by
  rw [takeHead_frame]
@[simp] theorem takeHead_tgs (f q : Nat) (d : List Byte) : ((takeHead s f q d).1).tgs = s.tgs := by rw [takeHead_frame]
@[simp] theorem takeHead_parts (f q : Nat) (d : List Byte) : ((takeHead s f q d).1).parts = s.parts := by
  rw [takeHead_frame]
@[simp] theorem takeHead_runs (f q : Nat) (d : List Byte) : ((takeHead s f q d).1).runs = s.runs := by
  rw [takeHead_frame]
@[simp] theorem takeHead_plans (f q : Nat) (d : List Byte) : ((takeHead s f q d).1).plans = s.plans := by
  rw [takeHead_frame]
@[simp] theorem takeHead_requests (f q : Nat) (d : List Byte) : ((takeHead s f q d).1).requests = s.requests := by
  rw [takeHead_frame]
@[simp] theorem takeHead_nodes (f q : Nat) (d : List Byte) : ((takeHead s f q d).1).nodes = s.nodes := by
  rw [takeHead_frame]
@[simp] theorem takeHead_codecs (f q : Nat) (d : List Byte) : ((takeHead s f q d).1).codecs = s.codecs := by
  rw [takeHead_frame]
@[simp] theorem takeHead_rng (f q : Nat) (d : List Byte) : ((takeHead s f q d).1).rng = s.rng := by rw [takeHead_frame]
@[simp] theorem takeHead_acct (f q : Nat) (d : List Byte) : ((takeHead s f q d).1).acct = s.acct := by
  rw [takeHead_frame]
@[simp] theorem takeHead_fls (f q : Nat) (d : List Byte) : ((takeHead s f q d).1).fls = s.fls := by rw [takeHead_frame]
@[simp] theorem takeHead_medium (f q : Nat) (d : List Byte) : ((takeHead s f q d).1).medium = s.medium := by
  rw [takeHead_frame]
@[simp] theorem takeHead_sec (f q : Nat) (d : List Byte) : ((takeHead s f q d).1).sec = s.sec := by rw [takeHead_frame]
@[simp] theorem takeHead_fuses (f q : Nat) (d : List Byte) : ((takeHead s f q d).1).fuses = s.fuses := by
  rw [takeHead_frame]
@[simp] theorem takeHead_bist (f q : Nat) (d : List Byte) : ((takeHead s f q d).1).bist = s.bist := by
  rw [takeHead_frame]
@[simp] theorem takeHead_evt (f q : Nat) (d : List Byte) : ((takeHead s f q d).1).evt = s.evt := by rw [takeHead_frame]
@[simp] theorem takeHead_mgt (f q : Nat) (d : List Byte) : ((takeHead s f q d).1).mgt = s.mgt := by rw [takeHead_frame]
@[simp] theorem takeHead_jtag (f q : Nat) (d : List Byte) : ((takeHead s f q d).1).jtag = s.jtag := by
  rw [takeHead_frame]

/-- A charge to a command and its client. -/
theorem chargeCmd_frame (c : Cmd) (ch : Charge) : (chargeCmd s c ch).1 =
    { s with cmds := ((chargeCmd s c ch).1).cmds, acct := ((chargeCmd s c ch).1).acct } := by
  rfl

@[simp] theorem chargeCmd_pending (c : Cmd) (ch : Charge) : ((chargeCmd s c ch).1).pending = s.pending := by
  rw [chargeCmd_frame]
@[simp] theorem chargeCmd_free (c : Cmd) (ch : Charge) : ((chargeCmd s c ch).1).free = s.free := by rw [chargeCmd_frame]
@[simp] theorem chargeCmd_nextId (c : Cmd) (ch : Charge) : ((chargeCmd s c ch).1).nextId = s.nextId := by
  rw [chargeCmd_frame]
@[simp] theorem chargeCmd_run (c : Cmd) (ch : Charge) : ((chargeCmd s c ch).1).run = s.run := by rw [chargeCmd_frame]
@[simp] theorem chargeCmd_hif (c : Cmd) (ch : Charge) : ((chargeCmd s c ch).1).hif = s.hif := by rw [chargeCmd_frame]
@[simp] theorem chargeCmd_sqs (c : Cmd) (ch : Charge) : ((chargeCmd s c ch).1).sqs = s.sqs := by rw [chargeCmd_frame]
@[simp] theorem chargeCmd_cqs (c : Cmd) (ch : Charge) : ((chargeCmd s c ch).1).cqs = s.cqs := by rw [chargeCmd_frame]
@[simp] theorem chargeCmd_latches (c : Cmd) (ch : Charge) : ((chargeCmd s c ch).1).latches = s.latches := by
  rw [chargeCmd_frame]
@[simp] theorem chargeCmd_host (c : Cmd) (ch : Charge) : ((chargeCmd s c ch).1).host = s.host := by rw [chargeCmd_frame]
@[simp] theorem chargeCmd_hbm (c : Cmd) (ch : Charge) : ((chargeCmd s c ch).1).hbm = s.hbm := by rw [chargeCmd_frame]
@[simp] theorem chargeCmd_tel (c : Cmd) (ch : Charge) : ((chargeCmd s c ch).1).tel = s.tel := by rw [chargeCmd_frame]
@[simp] theorem chargeCmd_mtc (c : Cmd) (ch : Charge) : ((chargeCmd s c ch).1).mtc = s.mtc := by rw [chargeCmd_frame]
@[simp] theorem chargeCmd_census (c : Cmd) (ch : Charge) : ((chargeCmd s c ch).1).census = s.census := by
  rw [chargeCmd_frame]
@[simp] theorem chargeCmd_ports (c : Cmd) (ch : Charge) : ((chargeCmd s c ch).1).ports = s.ports := by
  rw [chargeCmd_frame]
@[simp] theorem chargeCmd_cores (c : Cmd) (ch : Charge) : ((chargeCmd s c ch).1).cores = s.cores := by
  rw [chargeCmd_frame]
@[simp] theorem chargeCmd_basins (c : Cmd) (ch : Charge) : ((chargeCmd s c ch).1).basins = s.basins := by
  rw [chargeCmd_frame]
@[simp] theorem chargeCmd_hbmStacks (c : Cmd) (ch : Charge) : ((chargeCmd s c ch).1).hbmStacks = s.hbmStacks := by
  rw [chargeCmd_frame]
@[simp] theorem chargeCmd_tgs (c : Cmd) (ch : Charge) : ((chargeCmd s c ch).1).tgs = s.tgs := by rw [chargeCmd_frame]
@[simp] theorem chargeCmd_parts (c : Cmd) (ch : Charge) : ((chargeCmd s c ch).1).parts = s.parts := by
  rw [chargeCmd_frame]
@[simp] theorem chargeCmd_runs (c : Cmd) (ch : Charge) : ((chargeCmd s c ch).1).runs = s.runs := by rw [chargeCmd_frame]
@[simp] theorem chargeCmd_plans (c : Cmd) (ch : Charge) : ((chargeCmd s c ch).1).plans = s.plans := by
  rw [chargeCmd_frame]
@[simp] theorem chargeCmd_requests (c : Cmd) (ch : Charge) : ((chargeCmd s c ch).1).requests = s.requests := by
  rw [chargeCmd_frame]
@[simp] theorem chargeCmd_nodes (c : Cmd) (ch : Charge) : ((chargeCmd s c ch).1).nodes = s.nodes := by
  rw [chargeCmd_frame]
@[simp] theorem chargeCmd_codecs (c : Cmd) (ch : Charge) : ((chargeCmd s c ch).1).codecs = s.codecs := by
  rw [chargeCmd_frame]
@[simp] theorem chargeCmd_rng (c : Cmd) (ch : Charge) : ((chargeCmd s c ch).1).rng = s.rng := by rw [chargeCmd_frame]
@[simp] theorem chargeCmd_fls (c : Cmd) (ch : Charge) : ((chargeCmd s c ch).1).fls = s.fls := by rw [chargeCmd_frame]
@[simp] theorem chargeCmd_medium (c : Cmd) (ch : Charge) : ((chargeCmd s c ch).1).medium = s.medium := by
  rw [chargeCmd_frame]
@[simp] theorem chargeCmd_sec (c : Cmd) (ch : Charge) : ((chargeCmd s c ch).1).sec = s.sec := by rw [chargeCmd_frame]
@[simp] theorem chargeCmd_fuses (c : Cmd) (ch : Charge) : ((chargeCmd s c ch).1).fuses = s.fuses := by
  rw [chargeCmd_frame]
@[simp] theorem chargeCmd_bist (c : Cmd) (ch : Charge) : ((chargeCmd s c ch).1).bist = s.bist := by rw [chargeCmd_frame]
@[simp] theorem chargeCmd_evt (c : Cmd) (ch : Charge) : ((chargeCmd s c ch).1).evt = s.evt := by rw [chargeCmd_frame]
@[simp] theorem chargeCmd_mgt (c : Cmd) (ch : Charge) : ((chargeCmd s c ch).1).mgt = s.mgt := by rw [chargeCmd_frame]
@[simp] theorem chargeCmd_jtag (c : Cmd) (ch : Charge) : ((chargeCmd s c ch).1).jtag = s.jtag := by rw [chargeCmd_frame]

/-- A command of which a host read failed (14 R303) is over. -/
theorem hostReadFailed_frame (c : Cmd) : hostReadFailed s c =
    { s with host := (hostReadFailed s c).host, hif := (hostReadFailed s c).hif, sqs := (hostReadFailed s c).sqs, cqs := (hostReadFailed s c).cqs, cmds := (hostReadFailed s c).cmds, evt := (hostReadFailed s c).evt, medium := (hostReadFailed s c).medium } := by
  unfold hostReadFailed; rw [finish_frame, raiseHostRead_frame]

@[simp] theorem hostReadFailed_pending (c : Cmd) : (hostReadFailed s c).pending = s.pending := by
  rw [hostReadFailed_frame]
@[simp] theorem hostReadFailed_free (c : Cmd) : (hostReadFailed s c).free = s.free := by rw [hostReadFailed_frame]
@[simp] theorem hostReadFailed_nextId (c : Cmd) : (hostReadFailed s c).nextId = s.nextId := by rw [hostReadFailed_frame]
@[simp] theorem hostReadFailed_run (c : Cmd) : (hostReadFailed s c).run = s.run := by rw [hostReadFailed_frame]
@[simp] theorem hostReadFailed_latches (c : Cmd) : (hostReadFailed s c).latches = s.latches := by
  rw [hostReadFailed_frame]
@[simp] theorem hostReadFailed_hbm (c : Cmd) : (hostReadFailed s c).hbm = s.hbm := by rw [hostReadFailed_frame]
@[simp] theorem hostReadFailed_tel (c : Cmd) : (hostReadFailed s c).tel = s.tel := by rw [hostReadFailed_frame]
@[simp] theorem hostReadFailed_mtc (c : Cmd) : (hostReadFailed s c).mtc = s.mtc := by rw [hostReadFailed_frame]
@[simp] theorem hostReadFailed_census (c : Cmd) : (hostReadFailed s c).census = s.census := by rw [hostReadFailed_frame]
@[simp] theorem hostReadFailed_ports (c : Cmd) : (hostReadFailed s c).ports = s.ports := by rw [hostReadFailed_frame]
@[simp] theorem hostReadFailed_cores (c : Cmd) : (hostReadFailed s c).cores = s.cores := by rw [hostReadFailed_frame]
@[simp] theorem hostReadFailed_basins (c : Cmd) : (hostReadFailed s c).basins = s.basins := by rw [hostReadFailed_frame]
@[simp] theorem hostReadFailed_hbmStacks (c : Cmd) : (hostReadFailed s c).hbmStacks = s.hbmStacks := by rw [hostReadFailed_frame]
@[simp] theorem hostReadFailed_tgs (c : Cmd) : (hostReadFailed s c).tgs = s.tgs := by rw [hostReadFailed_frame]
@[simp] theorem hostReadFailed_parts (c : Cmd) : (hostReadFailed s c).parts = s.parts := by rw [hostReadFailed_frame]
@[simp] theorem hostReadFailed_runs (c : Cmd) : (hostReadFailed s c).runs = s.runs := by rw [hostReadFailed_frame]
@[simp] theorem hostReadFailed_plans (c : Cmd) : (hostReadFailed s c).plans = s.plans := by rw [hostReadFailed_frame]
@[simp] theorem hostReadFailed_requests (c : Cmd) : (hostReadFailed s c).requests = s.requests := by
  rw [hostReadFailed_frame]
@[simp] theorem hostReadFailed_nodes (c : Cmd) : (hostReadFailed s c).nodes = s.nodes := by rw [hostReadFailed_frame]
@[simp] theorem hostReadFailed_codecs (c : Cmd) : (hostReadFailed s c).codecs = s.codecs := by rw [hostReadFailed_frame]
@[simp] theorem hostReadFailed_rng (c : Cmd) : (hostReadFailed s c).rng = s.rng := by rw [hostReadFailed_frame]
@[simp] theorem hostReadFailed_acct (c : Cmd) : (hostReadFailed s c).acct = s.acct := by rw [hostReadFailed_frame]
@[simp] theorem hostReadFailed_fls (c : Cmd) : (hostReadFailed s c).fls = s.fls := by rw [hostReadFailed_frame]
@[simp] theorem hostReadFailed_sec (c : Cmd) : (hostReadFailed s c).sec = s.sec := by rw [hostReadFailed_frame]
@[simp] theorem hostReadFailed_fuses (c : Cmd) : (hostReadFailed s c).fuses = s.fuses := by rw [hostReadFailed_frame]
@[simp] theorem hostReadFailed_bist (c : Cmd) : (hostReadFailed s c).bist = s.bist := by rw [hostReadFailed_frame]
@[simp] theorem hostReadFailed_mgt (c : Cmd) : (hostReadFailed s c).mgt = s.mgt := by rw [hostReadFailed_frame]
@[simp] theorem hostReadFailed_jtag (c : Cmd) : (hostReadFailed s c).jtag = s.jtag := by rw [hostReadFailed_frame]

end Sys2Proof.Machine
end

