-- ==== Sys2Proof/WellFormed.lean ====
section
/-! DEFINITION. Sys2Proof/WellFormed.lean: the commands whose operands name what the TM40 has. The meanings are total: a
command that names something else changes nothing, or what its rule says of such a name. -/

namespace Sys2Proof

/-- A function (14 R304). -/
def fnOk (f : Nat) : Bool := f < Config.functions
/-- A ring of a function (14 R309: 64 of each kind). -/
def ringOk (q : Nat) : Bool := q < 64
/-- A partition (01 R21). -/
def partOk (p : Nat) : Bool := p < 10
/-- A basin (01 R12). -/
def basinOk (b : Nat) : Bool := b < Config.basins
/-- A physical core (01 R13). -/
def coreOk (p : Nat) : Bool := p < Config.cores
/-- A stack (01 R16). -/
def stackOk (k : Nat) : Bool := k < Config.hbmStacks
/-- A channel of a stack (01 R16). -/
def stackChannelOk (c : Nat) : Bool := c < 32
/-- A channel of the device (01 R16). -/
def channelOk (c : Nat) : Bool := c < Config.channels
/-- An optical port (01 R16). -/
def portOk (q : Nat) : Bool := q < Config.ports
/-- A codec engine (11 R231). -/
def codecOk (c : Nat) : Bool := c < Config.codecs
/-- The offset of a register (20 R423). -/
def offsetOk (o : Nat) : Bool := o % 8 == 0
/-- The unit of a logic fault (13 R286, R287). -/
def unitOk : FaultUnit → Bool
  | .core p => coreOk p
  | .basin b => basinOk b
  | .codec c => codecOk c
  | .stop source => source < 65536
/-- The header fields of a data flit (12 R264) fit their widths. -/
def flitOk (x : Flit) : Bool := x.seq < 4096 && x.ack < 4096 && x.epoch < 256 && x.dst < 4096 && x.src < 4096 && x.cls < 4

/-- The operands of a command are of the TM40. -/
def Instr.wf : Instr → Bool
  | .nop f q _ => fnOk f && ringOk q
  | .planLoad f q _ => fnOk f && ringOk q
  | .planUnload f q _ => fnOk f && ringOk q
  | .jobStart f q _ => fnOk f && ringOk q
  | .jobBegin p _ => partOk p
  | .jobPreempt f q _ => fnOk f && ringOk q
  | .jobResume f q _ => fnOk f && ringOk q
  | .jobCancel f q _ => fnOk f && ringOk q
  | .ctxSave f q _ => fnOk f && ringOk q
  | .ctxRestore f q _ => fnOk f && ringOk q
  | .seqSubmit f q _ => fnOk f && ringOk q
  | .seqAppend f q _ => fnOk f && ringOk q
  | .seqRelease f q _ => fnOk f && ringOk q
  | .copy f q _ => fnOk f && ringOk q
  | .tableLoad f q _ => fnOk f && ringOk q
  | .codecEncode f q _ => fnOk f && ringOk q
  | .codecDecode f q _ => fnOk f && ringOk q
  | .resample f q _ => fnOk f && ringOk q
  | .storeRead f q _ => fnOk f && ringOk q
  | .storeWrite f q _ => fnOk f && ringOk q
  | .storeDelete f q _ => fnOk f && ringOk q
  | .storeList f q _ => fnOk f && ringOk q
  | .bistRun f q _ => fnOk f && ringOk q
  | .snapshot f q _ => fnOk f && ringOk q
  | .acctRead f q _ => fnOk f && ringOk q
  | .partitionSet f q _ => fnOk f && ringOk q
  | .deferredCommandStart _ _ => true
  | .descriptorReadFail f q => fnOk f && ringOk q
  | .sqTailDoorbell f q v => fnOk f && ringOk q && v < 65536
  | .cqHeadDoorbell f q v => fnOk f && ringOk q && v < 65536
  | .sqCfgWrite f q _ _ => fnOk f && ringOk q
  | .cqCfgWrite f q _ _ => fnOk f && ringOk q
  | .irqHoldoffEnd f q _ => fnOk f && ringOk q
  | .evtCfgWrite f _ _ => fnOk f
  | .evtHeadWrite f v => fnOk f && v < 65536
  | .eventWrite => true
  | .registerWrite f off _ _ => fnOk f && offsetOk off
  | .halfReadLatch f off => fnOk f && offsetOk off
  | .acctDataRead f => fnOk f
  | .bistMemRead f _ => fnOk f
  | .foreignRequest requester _ => requester < 65536
  | .pcieFlr f => fnOk f
  | .pcieHotReset => true
  | .pcieLinkLoss => true
  | .perstNAssert => true
  | .pwrGoodFall _ => true
  | .resetRelease => true
  | .stage0Complete straps speed width _ => straps < 4096 && speed < 8 && width < 16
  | .stage1Complete _ _ => true
  | .stage2Complete _ _ _ => true
  | .stage3Complete _ => true
  | .telWarmReset => true
  | .throttleAssert => true
  | .throttleRelease => true
  | .sysrefLoss _ => true
  | .powerSample _ _ => true
  | .powerRaise => true
  | .thermalSample _ _ => true
  | .thermAlertAssert => true
  | .mbRead _ => true
  | .mbWrite _ _ => true
  | .mbTrainStack _ _ => true
  | .mbVersions _ => true
  | .jtagPinInstruction code => code < 256
  | .jtagPinRelease _ => true
  | .jtagReadback off => offsetOk off
  | .lcRequest v _ => v < 2 ^ 32
  | .bistGo _ _ => true
  | .coreQuiesce p _ => coreOk p
  | .hbmTrain stack _ => stackOk stack
  | .hbmTgStart ch _ => channelOk ch
  | .hbmTgStop ch => channelOk ch
  | .hbmTgRunEnd ch _ _ => channelOk ch
  | .rngRetest _ => true
  | .laneTest _ => true
  | .mtcResync => true
  | .optEnable q _ => portOk q
  | .optRetrain q => portOk q
  | .optFence q => portOk q
  | .numClear b => basinOk b
  | .rsmClear b => basinOk b
  | .sfuClear b => basinOk b
  | .wrkClear b => basinOk b
  | .attClear b => basinOk b
  | .mereClear b => basinOk b
  | .updClear b => basinOk b
  | .cdcClear c => codecOk c
  | .hifClear => true
  | .schedClear => true
  | .acctClearAll => true
  | .flsClear => true
  | .telClear => true
  | .secClear => true
  | .rngClear => true
  | .recoveryGo _ _ => true
  | .attestationGo _ _ => true
  | .mctpAttestReport nonce => nonce.length == 64
  | .mctpPublicKey => true
  | .lcsTransition target _ _ => target < 8
  | .lcsSlotFuse slot _ => slot < 4
  | .lcsSlotRevoke slot _ _ => slot < 4
  | .operationOpen p _ => partOk p
  | .stripFetch core _ epoch => coreOk core && epoch < 2 ^ 32
  | .stripComputeDone core => coreOk core
  | .commitRequest core p _ _ epoch => coreOk core && partOk p && epoch < 2 ^ 32
  | .stripCommitDone core p _ _ epoch => coreOk core && partOk p && epoch < 2 ^ 32
  | .soundingCheck p _ _ _ _ => partOk p
  | .soundingArbitration p _ _ _ _ => partOk p
  | .operationComplete p _ _ => partOk p
  | .coreHeartbeat core => coreOk core
  | .heartbeatTimeout core => coreOk core
  | .stripReissue core => coreOk core
  | .deadCoreMessage core => coreOk core
  | .logicFault unit => unitOk unit
  | .fabricError _ p => partOk p || p == 0xF
  | .jobRestart p _ _ => partOk p || p == 0xF
  | .servingStepForm p => partOk p
  | .servingStepEnd p _ => partOk p
  | .preemptDrained p _ => partOk p
  | .ctxSaveWrite p _ => partOk p
  | .tableBankSwitch p => partOk p
  | .codecWorkStart c _ => codecOk c
  | .codecFrameStart c _ => codecOk c
  | .tierRead p _ _ _ _ _ => partOk p
  | .tierReadLate p _ atom _ _ => partOk p && atom < 64
  | .mereScrub b addr _ _ => basinOk b && addr < Config.mereBytes
  | .hbmPatrol stack _ _ _ _ => stackOk stack
  | .hbmChannelTimeout stack ch => stackOk stack && stackChannelOk ch
  | .stackLost stack _ ch => stackOk stack && stackChannelOk ch
  | .laserLightLow q w _ => portOk q && w < 8
  | .optHello q hello => portOk q && hello.devnum < 4096 && hello.port < 16
  | .linkDown q => portOk q
  | .retrainTimeout q => portOk q
  | .dataFlitReceive q flit a => portOk q && flitOk flit && decide (a.type < 16 ∧ a.crc < 2 ^ 64)
  | .nakReceive q ack => portOk q && ack < 4096
  | .censusReport dev _ => dev < 4096
  | .censusClose _ => true
  | .censusReceive _ _ _ _ _ _ => true
  | .timeWaveSend => true
  | .timeWaveReceive q _ _ _ _ => portOk q
  | .readyMark _ _ _ _ _ => true
  | .startTimeReceive _ _ _ _ => true
  | .collectiveChunkStart p _ _ => partOk p
  | .collectiveTimeout p _ _ => partOk p
  | .peerAbort _ => true
  | .springBlock _ => true
  | .springRetry _ => true
  | .journalProgram => true
  | .flashPatrol _ _ _ _ => true
  | .accountUpdate _ _ _ => true
  | .pcieConfigWrite requester f _ => requester < 65536 && fnOk f
  | .laserLightRestored q w _ => portOk q && w < 8
  | .ackFlitReceive q ack => portOk q && ack < 4096
  | .creditFlitReceive q cls dateline _ => portOk q && cls < 4 && dateline < 2
  | .sysrefRestored => true

end Sys2Proof
end

