-- ==== Sys2Proof/Tests/Slice0.lean ====
section
/-! SUPPORT. Sys2Proof/Tests/Slice0.lean: the WellFormed smoke, tests of meanings on fixed values taken from the spec, and one
theorem for each statement with hypotheses that shows states and operands that meet them, clause by clause. -/

open Sys2Proof Sys2Proof.Machine

namespace Sys2Proof.Tests

set_option Elab.async false

/-! WellFormed: a term that each check refuses, beside one at its boundary that it admits. -/

theorem test_wf_function : (Instr.nop 64 0 Env.calm).wf = false ∧ (Instr.nop 63 63 Env.calm).wf = true := by decide
theorem test_wf_ring : (Instr.copy 0 64 Env.calm).wf = false := by decide
theorem test_wf_doorbell : (Instr.sqTailDoorbell 0 0 65536).wf = false ∧ (Instr.cqHeadDoorbell 0 0 65536).wf = false := by decide
theorem test_wf_event_head : (Instr.evtHeadWrite 0 65536).wf = false := by decide
theorem test_wf_partition : (Instr.jobBegin 10 Env.calm).wf = false ∧ (Instr.jobBegin 9 Env.calm).wf = true := by decide
theorem test_wf_basin : (Instr.numClear 10).wf = false ∧ (Instr.numClear 9).wf = true := by decide
theorem test_wf_core : (Instr.coreQuiesce 1500 true).wf = false ∧ (Instr.coreQuiesce 1499 true).wf = true := by decide
theorem test_wf_stack : (Instr.hbmTrain 20 true).wf = false ∧ (Instr.hbmTrain 19 true).wf = true := by decide
theorem test_wf_channel : (Instr.hbmTgStop 640).wf = false ∧ (Instr.hbmTgStop 639).wf = true := by decide
theorem test_wf_stack_channel : (Instr.hbmChannelTimeout 0 32).wf = false ∧ (Instr.hbmChannelTimeout 0 31).wf = true := by decide
theorem test_wf_port : (Instr.optFence 16).wf = false ∧ (Instr.optFence 15).wf = true := by decide
theorem test_wf_codec : (Instr.cdcClear 4).wf = false ∧ (Instr.cdcClear 3).wf = true := by decide
theorem test_wf_offset : (Instr.registerWrite 0 0x70011 .full 0).wf = false := by decide
theorem test_wf_requester : (Instr.foreignRequest 65536 true).wf = false := by decide
theorem test_wf_straps : (Instr.stage0Complete 4096 0 0 true).wf = false ∧ (Instr.stage0Complete 0 8 0 true).wf = false
    ∧ (Instr.stage0Complete 0 0 16 true).wf = false ∧ (Instr.stage0Complete 4095 7 15 true).wf = true := by decide
theorem test_wf_jtag : (Instr.jtagPinInstruction 256).wf = false ∧ (Instr.lcRequest (2 ^ 32) true).wf = false := by decide
theorem test_wf_nonce : (Instr.mctpAttestReport []).wf = false := by decide
theorem test_wf_transition : (Instr.lcsTransition 8 true true).wf = false ∧ (Instr.lcsSlotFuse 4 true).wf = false := by decide
theorem test_wf_epoch : (Instr.stripFetch 0 0 (2 ^ 32)).wf = false := by decide
theorem test_wf_fault_unit : (Instr.logicFault (.core 1500)).wf = false ∧ (Instr.logicFault (.basin 10)).wf = false
    ∧ (Instr.logicFault (.codec 4)).wf = false ∧ (Instr.logicFault (.stop 65536)).wf = false := by decide

/-! The states the tests run on. -/

/-- Fields (offset, width, value) in the order of their offsets. -/
def insertField (e : Nat × Nat × Nat) : List (Nat × Nat × Nat) → List (Nat × Nat × Nat)
  | [] => [e]
  | x :: xs => if e.1 ≤ x.1 then e :: x :: xs else x :: insertField e xs

/-- The bytes from place o to place n with those fields in them. -/
def layout (n : Nat) : Nat → List (Nat × Nat × Nat) → List Byte
  | o, [] => List.replicate (n - o) 0
  | o, e :: es => List.replicate (e.1 - o) 0 ++ toLe e.2.1 e.2.2 ++ layout n (e.1 + e.2.1) es

/-- n bytes with little-endian numbers (offset, width, value) in them. -/
def bytes (n : Nat) (fs : List (Nat × Nat × Nat)) : List Byte := layout n 0 (fs.foldr insertField [])

/-- A descriptor: opcode, partition, plan handle and more fields (14 R318). -/
def desc (opcode part handle : Nat) (fs : List (Nat × Nat × Nat)) : List Byte :=
  bytes 128 ([(0, 2, opcode), (4, 4, 7), (10, 2, part), (12, 4, handle)] ++ fs)

/-- A machine in stage 0, 1 or at full function. -/
def zeroed : State := { State.reset with run := { phase := .stage0, pcieUp := true } }
@[inherit_doc zeroed]
def one : State := { State.reset with run := { phase := .stage1, pcieUp := true } }
@[inherit_doc zeroed]
def up : State := { State.reset with run := { phase := .stage1, stage2 := true, stage3 := true, pcieUp := true } }

/-- Its rings 0 enabled, descriptor d at HEAD. -/
def ring (s : State) (d : List Byte) : State :=
  { (((s.setSq 0 0 { log2 := 4, cq := 0, base := 1, tail := 1 }).setCq 0 0 { log2 := 4, base := 2 })) with
    host := Mem.writeN s.host 4096 d }

/-- Partition 0 of basin 0 with 64 granules, owned by the physical function. -/
def lot (s : State) : State :=
  { (s.setFn 0 { s.fn 0 with owned := 1 }) with
    parts := [(0, { owner := 0, mask := 1, deadlineUs := 2000, quota := 64 * 40960000, weight := 16, budget := 8192,
                    extents := [(3, 64)] })] }

/-- The invariant, computed. -/
def invNow (s : State) : Bool :=
  Memory.wf s.host && Memory.wf s.hbm && Memory.wf s.sec.window && s.evt.log.length ≤ 1024 && s.fuses.slots.length == 4
    && (s.cmds.all fun c => c.id < s.nextId && c.pred.isNone) && s.sqs.all fun e => e.2.chain == .free

theorem inv_of (s : State) (h : invNow s = true) : s.Inv := by
  simp only [invNow, Bool.and_eq_true, beq_iff_eq, decide_eq_true_eq, List.all_eq_true, Option.isNone_iff_eq_none] at h
  obtain ⟨⟨⟨⟨⟨⟨h1, h2⟩, h3⟩, h4⟩, h5⟩, h6⟩, h7⟩ := h
  exact ⟨h1, h2, h3, h4, ⟨fun c hc => ⟨(h6 c hc).1, fun i hi => by simp [(h6 c hc).2] at hi⟩,
    fun e he i hi => by simp [h7 e he] at hi⟩, h5⟩

/-- The premises of Runs on ring 0 of function 0, computed. -/
def runsNow (opcode : Nat) (s : State) (d : List Byte) : Bool :=
  lookAt s 0 0 == .found d && dOpcode d == opcode && (s.sq 0 0).chain != .broken
    && (headerVerdict (takeHead s 0 0 d).1 0 d s.now).isNone && !orderWaits (takeHead s 0 0 d).1 (takenCmd s 0 0 d)
    && !serialWaits (takeHead s 0 0 d).1 (takenCmd s 0 0 d)
    && dNotBefore d ≤ s.now && inWindows s 0 (nextEntry s 0 0) 32 && invNow s

theorem runs_of (opcode : Nat) (s : State) (d : List Byte) (h : runsNow opcode s d = true) : Runs opcode s 0 0 d := by
  simp only [runsNow, Bool.and_eq_true, beq_iff_eq, bne_iff_ne, ne_eq, decide_eq_true_eq, Bool.not_eq_true',
    Option.isNone_iff_eq_none] at h
  obtain ⟨⟨⟨⟨⟨⟨⟨⟨h1, h2⟩, h3⟩, h4⟩, h5⟩, h6⟩, h7⟩, h8⟩, h9⟩ := h
  exact { found := h1, opcode_eq := h2, unbroken := h3, header := h4, order := h5, serial := h6, time := h7, fits := h8,
          inv := inv_of s h9 }

/-! Witnesses: the queue, reset, CLEAR bits, rings, events. -/

theorem witness_StepRunsFrontCommand :
    ({ State.reset with pending := [.journalProgram, .eventWrite] } : State).pending = .journalProgram :: [.eventWrite] := rfl

theorem witness_EmptyQueueTicks : State.reset.pending = [] ∧ alive up = true ∧ up.pending = [] := by decide

theorem witness_EveryStepKeepsInvariant : State.reset.Inv ∧ step State.reset = .next (tick State.reset) :=
  ⟨inv_of _ (by decide), rfl⟩

theorem witness_BasinCountersCleared :
    writable up = true ∧ (up.basin 0).withdrawn = false ∧ (up.basin 9).withdrawn = false := by decide

theorem witness_DeviceCountersCleared :
    staged zeroed = true ∧ writable zeroed = true ∧ (zeroed.basin 6).withdrawn = false ∧ (zeroed.basin 9).withdrawn = false := by decide

theorem witness_IgnoredClears :
    ((up.setBasin 9 { withdrawn := true }).basin 9).withdrawn = true
    ∧ ({ up with run := { up.run with failed := true } } : State).run.failed = true := by decide

theorem witness_DoorbellsMoveRings :
    let s := ring up []
    reaches s 0 = true ∧ (s.sq 0 0).log2 ≠ 0 ∧ 15 < 2 ^ (s.sq 0 0).log2.toNat ∧ 2 ^ (s.sq 0 0).log2.toNat ≤ 16
    ∧ (s.cq 0 0).log2 ≠ 0 ∧ 15 < 2 ^ (s.cq 0 0).log2.toNat ∧ 2 ^ (s.cq 0 0).log2.toNat ≤ 16 := by decide +kernel

theorem witness_RingsAreEnabled :
    let s := ring up []
    reaches s 0 = true ∧ (s.sq 0 63).log2 = 0 ∧ inWindows s 0 ((2 ^ 52 - 2048) * 4096) (128 * 2 ^ 16) = true ∧ (s.cq 0 0).log2 ≠ 0
    ∧ inWindows s 0 4096 (128 * 2 ^ 4) = true ∧ (s.sq 0 0).log2 ≠ 0 ∧ (s.cq 0 63).log2 = 0
    ∧ inWindows s 0 ((2 ^ 52 - 512) * 4096) (32 * 2 ^ 16) = true ∧ (s.evtRing 0).log2 = 0 := by decide +kernel

/-- A NOP. -/
def nopD : List Byte := desc 0x0001 0xFFFF 0 []

theorem witness_DescriptorReadFailure :
    lookAt (ring up nopD) 0 0 = .found nopD
    ∧ ((ring up nopD).setSq 0 0 { (ring up nopD).sq 0 0 with error := true } |>.sq 0 0).error = true := by decide +kernel

/-- An event of the physical function. -/
def someEvent : Event := { mtc := 0, source := srcFlash, code := evStoreUe, part := 0xF, detail := [] }

/-- A machine whose event ring is enabled and which raised the event, 20 µs ago. -/
def evented : State :=
  { (up.setEvtRing 0 { log2 := 4, base := 1 }) with
    mtc := { now := 20000 }, evt := { raised := [someEvent], rings := [(0, { log2 := 4, base := 1 })] } }

theorem witness_HoldoffAndEventHead :
    let s := up.setCq 0 63 { held := true, holdoff := 0 }
    let u := (evented.setEvtRing 63 { held := true, holdoff := 20, lastVector := some 0 })
    (s.cq 0 63).held = true ∧ vectorDue s.now (s.cq 0 63).holdoff.toNat (s.cq 0 63).lastVector = true
    ∧ (u.evtRing 63).held = true ∧ vectorDue u.now (u.evtRing 63).holdoff.toNat (u.evtRing 63).lastVector = true
    ∧ reaches evented 0 = true ∧ 15 < 2 ^ (evented.evtRing 0).log2.toNat := by decide +kernel

theorem witness_EventReachesRing :
    let r := evented.evtRing 0
    nextEvent evented.evt.raised = some someEvent ∧ someEvent.mtc + 20000 ≤ evented.now ∧ evented.hif.vfEnable = false
    ∧ r.log2 ≠ 0 ∧ r.lost = none ∧ evtFull evented 0 = false
    ∧ inWindows evented 0 (r.base.toNat * 4096 + r.tail.toNat * 32) 32 = true ∧ Memory.wf evented.host = true := by decide +kernel

/-! Witnesses: registers, resets, the start, power, JTAG, the mailbox. -/

theorem witness_RegisterWritesAct :
    reaches up 0 = true ∧ up.run.failed = false ∧ 0x70011 % 8 ≠ 0
    ∧ reaches { up with hif := { up.hif with vfEnable := true } } 63 = true
    ∧ (let s : State := { up with run := { up.run with failed := true } }; reaches s 0 = true ∧ s.run.failed = true) := by decide

theorem witness_LatchedReads :
    reaches up 0 = true ∧ 0x70018 % 8 = 0 ∧ 0x70018 ≠ acctData0 ∧ 0x70018 ≠ memData0
    ∧ ∀ i < 64, mereEmpty (touch up 0) up.bist.memBasin.toNat (up.bist.memAddr.toNat * 64 + i) = true := by decide +kernel

theorem witness_RequestersRecordedOrRejected :
    staged up = true ∧ up.run.pcieUp = true ∧ fnEnabled up 0 = true ∧ up.hif.vfEnable = false
    ∧ fnEnabled { up with hif := { up.hif with vfEnable := true } } 63 = true := by decide

theorem witness_WarmResetsRestart : alive up = true ∧ up.run.pcieUp = true ∧ staged up = true := by decide

/-- An object that function 0 made, visible and sealed. -/
def someObject : Obj := { bytes := [1, 2, 3], owner := 0, serial := 1, isSealed := true }

/-- A machine whose store holds that object as number 5 and nothing in flight. -/
def stored (s : State) : State :=
  { s with fls := { s.fls with online := true, capacity := 1000000 },
           medium := { formatted := some 0, objects := [(5, someObject)], nextSerial := 2 } }

theorem witness_ResetsKeepDurableObjects :
    exec .perstNAssert (stored up) = .next (afterCold (stored up) 1 (stored up).run.pwrGood true)
    ∧ Tab.find (stored up).medium.objects 5 = some someObject ∧ someObject.visible = true
    ∧ ∀ w ∈ (stored up).fls.pending, w.object ≠ 5 := ⟨rfl, by decide, by decide, by decide⟩

theorem witness_ColdResetsHold :
    State.reset.run.phase = .held ∧ alive up = true ∧ ∃ d ∈ [20, 115].take 40, 115 ≤ d := by decide

theorem witness_FunctionResetWipesFunction :
    let s : State := { lot up with hif := { (lot up).hif with vfEnable := true, fns := [(63, { owned := 1 })] } }
    staged s = true ∧ s.run.pcieUp = true ∧ fnEnabled s 63 = true ∧ fnEnabled s 0 = true ∧ bitOf (s.fn 63).owned.toNat 0 = true
    ∧ s.run.stage2 = true ∧ s.run.stage3 = true ∧ (∃ r, Tab.find s.parts 0 = some r ∧ (3, 64) ∈ r.extents)
    ∧ staged zeroed = true ∧ zeroed.run.pcieUp = true ∧ fnEnabled zeroed 0 = true ∧ zeroed.run.stage2 = false := by
  refine ⟨by decide, by decide, by decide, by decide, by decide, by decide, by decide, ⟨_, rfl, by decide⟩, by decide, by decide,
    by decide, by decide⟩

theorem witness_StagesZeroAndThree :
    let s : State := { State.reset with run := { phase := .boot } }
    s.run.phase = .boot ∧ s.jtag.pins = false
    ∧ one.run.phase = .stage1 ∧ one.run.stage2 = false ∧ one.run.stage3 = false ∧ one.run.failed = false := by decide

theorem witness_StageOneNeedsFirmwareAndSpring :
    let s : State := { zeroed with sec := { imageOk := true }, rng := { springOk := true } }
    zeroed.run.phase = .stage0 ∧ s.run.phase = .stage0 ∧ s.sec.imageOk = true ∧ s.rng.springOk = true := by decide

theorem witness_StageTwoBringsUnitsUp : one.run.phase = .stage1 ∧ one.run.stage2 = false ∧ one.run.failed = false := by decide

/-- A record of this kind with a payload of one byte for an image, signed in slot 0 of an all-zero key. -/
def record (kind n : Nat) (fs : List (Nat × Nat × Nat)) : List Byte :=
  bytes n ([(0, 4, 0x52434544), (4, 1, kind)] ++ fs)

/-- A device whose slots 0 and 1 hold a key of digest dg. -/
def keyed (dg : List Byte) (s : State) : State :=
  { s with fuses := { s.fuses with slots := [{ state := 1, digest := dg }, { state := 1, digest := dg }, {}, {}] } }

/-- The digest of an all-zero key. -/
def keyDigest : List Byte := sha3_256 (List.replicate 2592 0)

/-- A firmware image of version v and one payload byte. -/
def firmware (v : Nat) : List Byte :=
  let r := record 1 8193 [(8, 8, 1), (16, 1, v)]
  r.take 48 ++ sha3_512 [0] ++ r.drop 112

/-- A signature that verifies, and every other check passed, makes a record good. The signature scheme is uninterpreted (log 9). -/
theorem checkRecord_of_signature (s : State) (kind : Nat) (r : List Byte)
    (h : Config.mldsaVerify (slice r 256 2592) (sha3_512 (slice r 0 2848)) (slice r 2848 4627) = true)
    (form : recordForm r kind = true) (slot : (s.fuses.slots.getD (leAt r 5 1) {}).state = 1)
    (key : sha3_256 (slice r 256 2592) = (s.fuses.slots.getD (leAt r 5 1) {}).digest)
    (payload : (kind == 1 && sha3_512 (slice r 8192 (leAt r 8 8)) != slice r 48 64) = false)
    (version : (kind == 1 && leAt r 16 1 < s.fuses.rollback) = false) (serial : recordSerial s r kind = true) :
    checkRecord s kind r = 0 := by
  have key' : (sha3_256 (slice r 256 2592) != (s.fuses.slots.getD (leAt r 5 1) {}).digest) = false := by simp [key]
  have slot' : ((s.fuses.slots.getD (leAt r 5 1) {}).state != 1) = false := by rw [slot]; rfl
  unfold checkRecord
  simp only [form, slot', key', h, payload, version, serial, Bool.not_true, Bool.false_eq_true, if_false]

/-- Such a device whose rollback counter stands at n. -/
def rolled (dg : List Byte) (n : Nat) : State := { keyed dg up with fuses := { (keyed dg up).fuses with rollback := n } }

/-- The signature of a record verifies. -/
def Signed (r : List Byte) : Prop :=
  Config.mldsaVerify (slice r 256 2592) (sha3_512 (slice r 0 2848)) (slice r 2848 4627) = true

theorem firmware_slot : leAt (firmware 5) 5 1 = 0 := by decide +kernel
theorem firmware_key : slice (firmware 5) 256 2592 = List.replicate 2592 0 := by decide +kernel

theorem firmware_passes (dg : List Byte) (hd : sha3_256 (List.replicate 2592 0) = dg) (h : Signed (firmware 5)) :
    checkRecord (rolled dg 0) 1 (firmware 5) = 0 := by
  refine checkRecord_of_signature (rolled dg 0) 1 (firmware 5) h (by decide +kernel) ?_ ?_ (by decide +kernel) ?_ ?_
  · rw [firmware_slot]; rfl
  · rw [firmware_slot, firmware_key]; exact hd
  · have v : leAt (firmware 5) 16 1 = 5 := by decide +kernel
    rw [v]; rfl
  · have z : zeroBytes (firmware 5) 32 47 = true := by decide +kernel
    simp [recordSerial, z]

theorem witness_RollbackCounterRises :
    (let s : State := { State.reset with
        run := { phase := .stage1, stage2 := true, pcieUp := true }, sec := { imageOk := true, svn := 128 } }
     s.run.phase = .stage1 ∧ s.run.stage2 = true ∧ s.run.stage3 = false ∧ s.run.failed = false
      ∧ s.fuses.rollback ≤ s.sec.svn.toNat ∧ s.sec.svn.toNat ≤ 128)
    ∧ leAt (firmware 5) 16 1 < (rolled keyDigest 6).fuses.rollback
      ∧ (Signed (firmware 5) → checkRecord (rolled keyDigest 0) 1 (firmware 5) = 0) :=
  ⟨by decide, by decide +kernel, firmware_passes keyDigest rfl⟩

theorem witness_VddTapIsLowestTarget :
    vtapNow up < 1024 ∧ ({ up with run := { up.run with throttleIn := true } } : State).run.throttleIn = true := by decide

theorem witness_PowerLoopSteps :
    alive up = true ∧ ((3200000 :: up.tel.samples).take 10).sum / ((3200000 :: up.tel.samples).take 10).length < 2 ^ 32
    ∧ up.tel.pwrNow.toNat * 100 < zeroSelects up.tel.limitW 3200 * 1000 * 98
    ∧ (let s : State := { up with tel := { powerMv := 744 } }; min s.tel.powerMv s.targetMv + 5 < s.targetMv)
    ∧ (let s : State := { up with tel := { powerMv := 745 } }; s.targetMv ≤ min s.tel.powerMv s.targetMv + 5) := by decide

theorem witness_ThermalProtectionSteps :
    let s : State := { up with tel := { thermalMv := 500, hotSince := some 0 }, mtc := { now := 1000000 } }
    let u : State := { up with tel := { thermalMv := 790, lastThermalStep := some 0 }, mtc := { now := 100000 } }
    alive s = true ∧ (∀ d ∈ [114], d < 115) ∧ s.tel.targetC.toNat ≤ logicMax [114] ∧ s.tel.lastThermalStep = none
    ∧ u.tel.lastThermalStep = some 0 ∧ 0 + 100000 ≤ u.now
    ∧ logicMax [95] + 5 ≤ u.tel.targetC.toNat ∧ stackMax [95] + 5 ≤ u.tel.hbmTargetC.toNat ∧ u.tel.thermalMv < 800
    ∧ s.tel.hotSince = some 0 ∧ 0 + 1000000 ≤ s.now ∧ vtapNow s = 500 := by decide

theorem witness_SysrefAndJtag :
    up.jtag.pins = false ∧ alive up = true
    ∧ (let s : State := { up with jtag := { pins := true } }; alive s = true ∧ s.jtag.pins = true)
    ∧ debugAllowed { up.fuses with lcs := 4 } = true ∧ staged up = true := by decide

theorem witness_MailboxAnswers :
    let at' := fun (s : State) (a : Word64) => ({ s with mgt := { arg0 := a, arg1 := 0x5F69 } } : State)
    let arg := fun (s : State) => mbArgs s .regs
    let bus := fun (a : Word64) => (mbArgs up (.mctp a 1)).1.toNat
    staged up = true ∧ staged zeroed = true ∧ (arg (at' up 0x70019)).1.toNat % 8 ≠ 0 ∧ 0x4000000 ≤ (arg (at' up 0x4000000)).1.toNat
    ∧ (arg (at' up 0x3FFFFF8)).1.toNat % 8 = 0 ∧ (arg (at' up 0x3FFFFF8)).1.toNat < 0x4000000
    ∧ mbWritable (arg (at' up 0x340000)).1.toNat = false
    ∧ (arg (at' up 0x70028)).1.toNat = 0x70028 ∧ (arg (at' up 0x70028)).2 = BitVec.ofNat 64 (105 + 256 * 95)
    ∧ bus 0x70000 = 0x70000 ∧ (mbArgs up (.mctp 0x70000 1)).2 = 1 ∧ bus 0x70058 = 0x70058
    ∧ 20 ≤ (arg (at' up 20)).1.toNat ∧ (arg (at' up 19)).1.toNat < 20 ∧ (at' up 19).run.phase = .stage1
    ∧ (arg (at' zeroed 19)).1.toNat < 20 ∧ (at' zeroed 19).run.phase = .stage0 ∧ (at' zeroed 19).run.failed = false := by
  decide +kernel

/-! Witnesses: trust. -/

/-- The length of a slice. -/
theorem slice_length (bs : List Byte) (o n : Nat) : (slice bs o n).length = n := by
  simp only [slice, List.length_append, List.length_take, List.length_drop, List.length_replicate]
  omega

/-- The physical function's window at reset is the whole of memory. -/
theorem inWindows_whole (s : State) (hb : (s.fn 0).winBase = (FnRegs.reset 0).winBase)
    (hl : (s.fn 0).winLimit = (FnRegs.reset 0).winLimit) (a n : Nat) (hn : a + n ≤ 2 ^ 64) : inWindows s 0 a n = true := by
  simp only [inWindows, hb, hl]
  by_cases hz : n = 0
  · simp [hz]
  · have h1 : (a + n - 1) / 4096 ≤ 4503599627370495 := by omega
    have h2 : a / 4096 ≤ (a + n - 1) / 4096 := Nat.div_le_div_right (by omega)
    simp only [FnRegs.reset, if_true, List.replicate, List.zip_cons_cons, List.map_cons, List.zip_nil_right, List.map_nil]
    have t : ((0 : BitVec 52).toNat, (BitVec.allOnes 52).toNat) = ((0 : Nat), 4503599627370495) := by decide
    have u : ((BitVec.allOnes 52).toNat, (0 : BitVec 52).toNat) = ((4503599627370495 : Nat), 0) := by decide
    simp only [t, u]
    have h3 : ¬ (4503599627370495 ≤ a / 4096 ∧ a / 4096 ≤ 0) := by omega
    simp only [winCover]
    have : ¬ (a + n - 1) / 4096 < a / 4096 := by omega
    have h4 : a / 4096 ≤ 4503599627370495 := by omega
    simp only [this, if_false, List.filter]
    by_cases h5 : 4503599627370495 ≤ a / 4096
    · have h6 : ¬ a / 4096 ≤ 0 := by omega
      simp [h4, h6]
      omega
    · simp [h4, h5]
      omega

theorem inWindows_reset (s : State) (h : s.hif.fns = []) (a n : Nat) (hn : a + n ≤ 2 ^ 64) : inWindows s 0 a n = true := by
  have e : s.fn 0 = FnRegs.reset 0 := by simp [State.fn, h, Tab.get, Tab.find]
  exact inWindows_whole s (by rw [e]) (by rw [e]) a n hn

/-- A record of this device for a transition to state 4, or to revoke slot 1, at 4,096. -/
def hosted (r : List Byte) (n : BitVec 3) (s : State) : State :=
  { s with host := Mem.writeN [] 4096 r, sec := { s.sec with recordAddr := 4096 }, fuses := { s.fuses with lcs := n } }
@[inherit_doc hosted]
def tokenRec : List Byte := record 3 8192 [(17, 1, 4)]
@[inherit_doc hosted]
def revokeRec : List Byte := record 2 8192 [(17, 1, 1)]

/-- A record at 4,096 is read back whole. -/
theorem hosted_read (r : List Byte) (l : r.length = 8192) (s : State) (n : BitVec 3) (h : s.hif.fns = []) :
    hostRecord (hosted r n s) true = some r := by
  have e : Mem.readN (hosted r n s).host 4096 8192 = r := by
    have := Mem.readN_writeN (m := []) 4096 r
    rw [l] at this
    exact this
  have w : inWindows (hosted r n s) 0 4096 8192 = true := inWindows_reset _ h _ _ (by omega)
  have a : (hosted r n s).sec.recordAddr.toNat = 4096 := rfl
  simp only [hostRecord, a, w, e]
  rfl

theorem tokenRec_length : tokenRec.length = 8192 := by decide +kernel
theorem revokeRec_length : revokeRec.length = 8192 := by decide +kernel
theorem tokenRec_slot : leAt tokenRec 5 1 = 0 := by decide +kernel
theorem tokenRec_key : slice tokenRec 256 2592 = List.replicate 2592 0 := by decide +kernel
theorem revokeRec_slot : leAt revokeRec 5 1 = 0 := by decide +kernel
theorem revokeRec_key : slice revokeRec 256 2592 = List.replicate 2592 0 := by decide +kernel

theorem token_passes (dg : List Byte) (hd : sha3_256 (List.replicate 2592 0) = dg) (h : Signed tokenRec) :
    tokenCode (hosted tokenRec 3 (keyed dg up)) 4 true = 0 := by
  have r : recordForm tokenRec 3 = true := by decide +kernel
  have t : leAt tokenRec 17 1 = 4 := by decide +kernel
  have c : checkRecord (hosted tokenRec 3 (keyed dg up)) 3 tokenRec = 0 := by
    refine checkRecord_of_signature _ 3 tokenRec h r ?_ ?_ rfl rfl ?_
    · rw [tokenRec_slot]; rfl
    · rw [tokenRec_slot, tokenRec_key]; exact hd
    · have z : slice tokenRec 32 16 = List.replicate 16 0 := by decide +kernel
      simp [recordSerial, z, hosted, keyed, up, State.reset, Fuses.shipped]
  unfold tokenCode
  rw [hosted_read _ tokenRec_length _ _ (by rfl)]
  simp only [r, t, c]
  rfl

theorem revocation_passes (dg : List Byte) (hd : sha3_256 (List.replicate 2592 0) = dg) (h : Signed revokeRec) :
    revokeResult (hosted revokeRec 2 (keyed dg up)) 1 true true = 0 := by
  have r : recordForm revokeRec 2 = true := by decide +kernel
  have t : leAt revokeRec 17 1 = 1 := by decide +kernel
  have c : checkRecord (hosted revokeRec 2 (keyed dg up)) 2 revokeRec = 0 := by
    refine checkRecord_of_signature _ 2 revokeRec h r ?_ ?_ rfl rfl ?_
    · rw [revokeRec_slot]; rfl
    · rw [revokeRec_slot, revokeRec_key]; exact hd
    · have z : slice revokeRec 32 16 = List.replicate 16 0 := by decide +kernel
      simp [recordSerial, z, hosted, keyed, up, State.reset, Fuses.shipped]
  unfold revokeResult
  rw [hostRecordCode, hosted_read _ revokeRec_length _ _ (by rfl)]
  simp only [Option.getD_some, t, c, recordSlot, revokeRec_slot]
  simp [hosted, keyed, validSlots]

theorem witness_LifeCycleTransitions :
    let at' := fun (n : BitVec 3) => ({ up with fuses := { up.fuses with lcs := n } } : State)
    staged up = true ∧ up.run.failed = false ∧ up.sec.recordAddr = 0
    ∧ 0 ≠ (at' 5).fuses.lcs.toNat + 1 ∧ 7 ≠ (at' 5).fuses.lcs.toNat + 1 ∧ (5 : Nat) < 6 ∧ 6 = (at' 5).fuses.lcs.toNat + 1
    ∧ 2 = (at' 1).fuses.lcs.toNat + 1 ∧ 4 = (at' 3).fuses.lcs.toNat + 1 ∧ 5 = (at' 4).fuses.lcs.toNat + 1
    ∧ 1 = (at' 0).fuses.lcs.toNat + 1 ∧ 3 = (at' 2).fuses.lcs.toNat + 1
    ∧ (let s := hosted [] 3 up; s.sec.recordAddr ≠ 0 ∧ tokenCode s 4 false ≠ 0)
    ∧ (let s := hosted tokenRec 3 (keyed keyDigest up)
       s.fuses.lcs = 3 ∧ s.sec.recordAddr ≠ 0 ∧ (Signed tokenRec → tokenCode s 4 true = 0))
    ∧ (at' 0).fuses.lcs = 0 ∧ bitOf 1 3 = false ∧ bitOf 9 3 = true ∧ 9 % 8 = 1 ∧ (at' 5).fuses.lcs ≠ 0 ∧ (at' 5).jtag.pins = false :=
  ⟨by decide, by decide, by decide, by decide, by decide, by decide, by decide, by decide, by decide, by decide, by decide, by decide,
    ⟨by simp [hosted], by decide +kernel⟩, ⟨rfl, by simp [hosted], token_passes keyDigest rfl⟩, by decide, by decide, by decide, by decide,
    by decide, by decide⟩

theorem witness_KeySlotsFusedAndRevoked :
    let at' := fun (n : BitVec 3) => ({ up with fuses := { up.fuses with lcs := n } } : State)
    staged up = true ∧ up.fuses.slots.length = 4 ∧ (at' 2).fuses.lcs = 2 ∧ ((at' 2).fuses.slots.getD 2 {}).state = 0
    ∧ ((at' 2).fuses.slots.getD 3 {}).state = 0 ∧ (at' 3).fuses.lcs ≠ 2 ∧ (1 : Nat) < 2 ∧ ((at' 2).fuses.slots.getD 1 {}).state ≠ 0
    ∧ (let s := hosted revokeRec 2 (keyed keyDigest up)
       s.fuses.slots.length = 4 ∧ (Signed revokeRec → revokeResult s 1 true true = 0))
    ∧ revokeResult up 3 false true ≠ 0 :=
  ⟨by decide, by decide, by decide, by decide, by decide, by decide, by decide, by decide, ⟨rfl, revocation_passes keyDigest rfl⟩,
    by decide +kernel⟩

/-- A device in stage 0 whose recovery window holds an image of 8,193 bytes. -/
def recovering (dg r : List Byte) : State :=
  { keyed dg zeroed with sec := { window := Mem.writeN [] 0 r, recovLen := 8193 } }

theorem readN_within (m : Tab Byte) : Mem.readN m 8 8 = ((Mem.readN m 0 8193).drop 8).take 8 := by
  apply List.ext_getElem
  · simp [Mem.readN]
  · intro i h1 h2
    simp [Mem.readN]

theorem firmware_length : (firmware 5).length = 8193 := by decide +kernel

theorem recovery_read (dg r : List Byte) (l : r.length = 8193) :
    Mem.readN (recovering dg r).sec.window 0 (recovering dg r).sec.recovLen.toNat = r := by
  have := Mem.readN_writeN (m := []) 0 r
  rw [l] at this
  exact this

theorem image_passes (dg : List Byte) (hd : sha3_256 (List.replicate 2592 0) = dg) (h : Signed (firmware 5)) :
    checkRecord (recovering dg (firmware 5)) 1 (Mem.readN (recovering dg (firmware 5)).sec.window 0 8193) = 0 := by
  have e := recovery_read dg (firmware 5) firmware_length
  have n : (recovering dg (firmware 5)).sec.recovLen.toNat = 8193 := rfl
  rw [n] at e
  rw [e]
  refine checkRecord_of_signature _ 1 (firmware 5) h (by decide +kernel) ?_ ?_ (by decide +kernel) ?_ ?_
  · rw [firmware_slot]; rfl
  · rw [firmware_slot, firmware_key]; exact hd
  · have v : leAt (firmware 5) 16 1 = 5 := by decide +kernel
    rw [v]; rfl
  · have z : zeroBytes (firmware 5) 32 47 = true := by decide +kernel
    simp [recordSerial, z]

theorem image_fits (dg : List Byte) : 8193 = 8192 + leNat (Mem.readN (recovering dg (firmware 5)).sec.window 8 8) := by
  have e : Mem.readN (recovering dg (firmware 5)).sec.window 0 8193 = firmware 5 := recovery_read dg _ firmware_length
  rw [readN_within, e]
  decide +kernel

theorem witness_RecoveryChecksImages :
    let at' := fun (n : BitVec 3) (l : BitVec 26) =>
      ({ up with fuses := { up.fuses with lcs := n }, sec := { recovLen := l } } : State)
    staged up = true ∧ (at' 5 0).fuses.lcs = 5 ∧ (at' 4 0).run.phase = .stage1
    ∧ (at' 4 8191).fuses.lcs ≠ 5 ∧ (at' 4 8191).sec.recovLen.toNat < 8192 ∧ 33554432 < (at' 4 33554433).sec.recovLen.toNat
    ∧ (at' 4 8193).sec.recovLen.toNat ≠ 8192 + leNat (Mem.readN (at' 4 8193).sec.window 8 8)
    ∧ (at' 4 8192).sec.recovLen.toNat = 8192 + leNat (Mem.readN (at' 4 8192).sec.window 8 8)
    ∧ checkRecord (at' 4 8192) 1 (List.replicate 8192 0) ≠ 0
    ∧ (let s := recovering keyDigest (firmware 5)
       let u := { s with fls := { online := true, capacity := 1000000 } }
       staged s = true ∧ s.fuses.lcs ≠ 5 ∧ s.run.phase = .stage0 ∧ s.fls.online = false ∧ u.fls.online = true ∧ u.fls.readOnly = false
        ∧ ¬ flashFree u < 8193
        ∧ s.sec.recovLen.toNat = 8193 ∧ 8193 = 8192 + leNat (Mem.readN s.sec.window 8 8)
        ∧ (Signed (firmware 5) → checkRecord s 1 (Mem.readN s.sec.window 0 8193) = 0)) :=
  ⟨by decide, by decide, by decide, by decide, by decide, by decide, by decide +kernel, by decide +kernel, by decide +kernel, rfl, by decide, rfl, rfl,
    rfl, rfl, by decide +kernel, rfl, image_fits _, image_passes keyDigest rfl⟩

theorem toLe_length (n v : Nat) : (toLe n v).length = n := by
  induction n generalizing v with
  | zero => rfl
  | succ n ih => simp [toLe, ih]

theorem sha3_length (n : Nat) (m : List Byte) : (sha3 n m).length ≤ n := by
  simp only [sha3]
  exact List.length_take_le _ _

theorem cfgMeasure_length (s : State) : (cfgMeasure s).length ≤ 64 := by
  unfold cfgMeasure sha3_512
  exact sha3_length 64 _

theorem report_length (s : State) (seed nonce : List Byte) (h : s.plans = []) : (report s seed nonce).length ≤ 2 ^ 16 := by
  have c := cfgMeasure_length s
  simp only [report, reportBody, List.length_append, slice_length, List.length_replicate, h, Tab.vals, List.map_nil,
    List.flatMap_nil, List.length_nil, toLe_length, List.length_cons]
  omega

theorem witness_AttestationAnswers :
    staged up = true ∧ ({ up.fuses with identity := none } : Fuses).identity = none ∧ up.fuses.identity = some (List.replicate 32 0)
    ∧ up.sec.attDst.toNat % 64 = 0 ∧ ({ up.sec with attDst := 1 } : Sec).attDst.toNat % 64 ≠ 0
    ∧ inWindows up 0 up.sec.attDst.toNat (report up (List.replicate 32 0) (nonceBytes up)).length = true :=
  ⟨by decide, rfl, rfl, by decide, by decide, inWindows_reset up rfl _ _ (by
    have := report_length up (List.replicate 32 0) (nonceBytes up) rfl
    have z : up.sec.attDst.toNat = 0 := rfl
    omega)⟩

/-! Witnesses: self-test, memory, random numbers, machine time, census, links. -/

/-- A generator of channel 639 on a trained stack, before stage 2. -/
def tgState (g : Tg) : State := (one.setStack 19 { trained := true }).setTg 639 g

/-- A machine whose atom 0 of channel 0 holds the address-in-data pattern (08 R201). -/
def patterned : State :=
  { (one.setTg 0 { busy := true, op := 2, pattern := 3, last := 0 }) with
    hbm := Mem.writeN [] (4096 * channelTile 0 0 + 64 * (((List.range 64).find? fun a => atomChannel (channelTile 0 0) a == 0).getD 0))
      ((List.range 8).flatMap fun j => toLe 8 j) }

theorem patterned_bits : ∀ b < 512, atomBit patterned 0 0 b = tgBit (patterned.tg 0) 0 0 b := by decide +kernel

theorem witness_TrafficGeneratorRuns :
    let s := tgState { pattern := 0, first := 46874999 }
    let starts := fun (g : Tg) (v : Nat) =>
      let s := tgState g
      let p := bitsOf v 2 3
      tgWritable s 639 = true ∧ (s.tg 639).busy = false ∧ p < 6 ∧ (bitsOf v 5 2 ≠ 3 ∨ p = 5) ∧ g.first.toNat ≤ g.last.toNat
        ∧ g.last.toNat < 46875000 ∧ (p = 5 ∨ noLiveData s = true) ∧ (s.stack (639 / 32)).trained = true
    zeroed.run.phase = .stage0 ∧ zeroed.run.failed = false
    ∧ starts { first := 46874999 } 20 ∧ starts { loops := 0 } 4 ∧ ({ loops := 0 } : Tg).loops = 0 ∧ bitOf 20 7 = false
    ∧ bitsOf 27 2 3 = 6 ∧ bitsOf 96 5 2 = 3 ∧ ({ first := 1, last := 0 } : Tg).last.toNat < ({ first := 1, last := 0 } : Tg).first.toNat
    ∧ 46875000 ≤ ({ last := 46875000 } : Tg).last.toNat ∧ noLiveData (lot up) = false ∧ (one.stack 0).trained = false
    ∧ tgWritable (tgState { busy := true }) 639 = true ∧ ((tgState { busy := true }).tg 639).busy = true
    ∧ alive s = true ∧ (s.tg 639).pattern ≠ 5 ∧ (s.tg 639).op ≠ 2 ∧ (s.tg 639).first.toNat ≤ (s.tg 639).last.toNat
    ∧ 0 < (List.take 16 [1]).sum ∧ alive patterned = true ∧ (patterned.tg 0).busy = true
    ∧ (patterned.tg 0).pattern ≠ 5 ∧ (patterned.tg 0).op = 2
    ∧ ∀ n, (patterned.tg 0).first.toNat ≤ n → n ≤ (patterned.tg 0).last.toNat → ∀ b < 512,
        atomBit patterned 0 n b = tgBit (patterned.tg 0) 0 n b := by
  refine ⟨by decide, by decide, by decide +kernel, by decide +kernel, rfl, rfl, rfl, rfl, by decide, by decide, by decide +kernel, by decide,
    by decide +kernel, by decide +kernel, by decide, by decide +kernel, by decide +kernel, by decide +kernel, by decide, by decide, by decide +kernel,
    by decide +kernel, by decide +kernel, ?_⟩
  intro n h1 h2 b hb
  have h3 : (patterned.tg 0).last.toNat = 0 := by decide +kernel
  have : n = 0 := by omega
  subst this
  exact patterned_bits b hb

theorem witness_InterleaveIsOneToOne : 468749999 < 468750000 ∧ 63 < 64 ∧ atomChannel 468749999 63 = atomChannel 468749999 63 := by
  decide

/-- Raw bits that alternate. -/
def alternating (n : Nat) : List Bool := (List.range n).map fun i => i % 2 == 0

theorem witness_SpringHealthTests :
    let s : State := { up with rng := { springOk := true } }
    let u : State := { up with rng := { failedAt := some 0, attempts := 2 }, mtc := { now := 1000000 } }
    let w : State := { up with rng := { failedAt := some 1, attempts := 2 }, mtc := { now := 1000000 } }
    staged s = true ∧ s.rng.springOk = true ∧ (alternating 2048).length = 2048 ∧ (health s.rng (alternating 2048)).fail = none
    ∧ (List.replicate 2048 true).length = 2048 ∧ ((health s.rng (List.replicate 2048 true)).fail.map Prod.snd) = some 1
    ∧ w.rng.failedAt = some 1 ∧ w.now < 1 + 1000000 ∧ (3 : Nat) ≤ ({ attempts := 3 } : Rng).attempts.toNat
    ∧ u.rng.failedAt = some 0 ∧ 0 + 1000000 ≤ u.now ∧ u.rng.attempts.toNat < 3
    ∧ (health { u.rng with runLen := 0 } ((alternating 4096).take 4096)).fail = none ∧ 4096 ≤ (alternating 4096).length
    ∧ (health { u.rng with runLen := 0 } (([] : List Bool).take 4096)).fail = none
    ∧ (health { u.rng with runLen := 0 } ((List.replicate 41 true).take 4096)).fail ≠ none
    ∧ writable up = true ∧ (health { up.rng with runLen := 0 } ((alternating 4096).take 4096)).fail = none
    ∧ (up.core 1499).role ≠ 2 ∧ (up.core 1499).role ≠ 3 ∧ bitsOf (1499 : Word64).toNat 0 11 = 1499 ∧ bitsOf (1500 : Word64).toNat 0 11 = 1500
    ∧ ((up.setCore 0 { role := 2 }).core 0).role = 2 ∧ ((up.setCore 1 { role := 3 }).core 1).role = 3 := by decide +kernel

/-- Device 1 of a machine, port 3 up. -/
def second : State := { (up.setPort 3 { linkUp := true }) with run := { up.run with straps := 0x40 } }

theorem witness_TimeWavesSetTheClock :
    let r : State := { up with mtc := { root := true }, census := { waveDue := 0 } }
    let c : State := { second with mtc := { census := 1, sync := true, mx := 1, my := 1, mz := 1 } }
    writable r = true ∧ staged r = true ∧ r.mtc.root = true ∧ r.census.waveDue ≤ r.now
    ∧ staged second = true ∧ parentOf second = some 3 ∧ second.mtc.census = 0 ∧ parentOf second ≠ some 2
    ∧ staged c = true ∧ parentOf c = some 3 ∧ c.mtc.census ≠ 0 ∧ c.mtc.standalone = false ∧ c.mtc.sync = true ∧ c.mtc.resync = false
    ∧ -256000 ≤ (((0 : Int) - 0) - (512000 - 0)) / 2 ∧ (((0 : Int) - 0) - (512002 - 0)) / 2 < -256000 := by decide +kernel

theorem witness_CensusEntersAndCloses :
    let r : State := { up with mtc := { root := true } }
    let b : State := { up with run := { up.run with straps := 1 } }
    let c : State := { r with census := { reports := [(0, [])], states := (List.range 64).map fun k => (k, 1) } }
    let l : State := { r with mtc := { root := true, now := 18000000000 } }
    staged r = true ∧ r.mtc.census = 0 ∧ r.mtc.root = true ∧ Tab.find r.census.reports 4095 = none
    ∧ staged b = true ∧ b.mtc.census = 0 ∧ devnum b % 64 = 0 ∧ 127 / 64 = devnum b / 64
    ∧ (∃ e : Nat × Nat, peerFits 4095 e = false) ∧ Tab.find c.census.reports 0 = some [] ∧ [] ≠ [(0, 16)] ∧ staged c = true
    ∧ c.mtc.census = 0 ∧ actsRoot c = true ∧ censusComplete c = true ∧ actsRoot l = true ∧ l.mtc.census = 0 ∧ 18000000000 ≤ l.now
    ∧ staged second = true ∧ second.mtc.root = false ∧ ([(0, 1), (1, 2)].map Prod.fst).Nodup
    ∧ (let t := second.setPort 5 { peerValid := true, peerDev := 4095 }
       ∃ e ∈ t.ports, e.2.peerValid = true ∧ e.2.peerDev.toNat = 4095) := by
  refine ⟨by decide, by decide, by decide, by decide, by decide, by decide, by decide, by decide, ⟨(0, 0), by decide⟩, by decide, by decide,
    by decide, by decide, by decide +kernel, by decide +kernel, by decide +kernel, by decide, by decide, by decide, by decide, by decide,
    by decide +kernel⟩

theorem witness_LightAndHellos :
    let s := up.setPort 15 { enable := true, lightOk := 0xFF }
    let u := up.setPort 15 { enable := true, lightOk := 0xFF, peerValid := true, peerDev := 4095, peerSession := 1 }
    alive s = true ∧ s.run.phase = .stage1 ∧ canTrain (s.port 15) = true ∧ (s.port 15).peerValid = false
    ∧ (s.port 15).peerLost = false ∧ canTrain (u.port 15) = true ∧ (u.port 15).peerValid = true ∧ (u.port 15).peerLost = false
    ∧ (u.port 15).peerDev.toNat ≠ 4094 ∧ (u.port 15).peerSession ≠ 2 := by decide +kernel

/-- A data flit of sequence number n and class c for device 1. -/
def flit (n c : Nat) : Flit :=
  { seq := n, ack := 0xFFF, epoch := 1, dst := 1, src := 0, cls := c, dateline := false, mjob := 5, op := 0, exec := 0, chunk := 0,
    part := 0, payload := [] }

/-! Witnesses: cores, faults, memory, jobs at work. -/

/-- A plan image of 1,024 bytes with one operation of a kind, two strips of 128 rows. -/
def image (kind plan : Nat) (fs : List (Nat × Nat × Nat)) : List Byte :=
  bytes 1024 ([(6, 1, plan), (32, 2, 1), (34, 2, 1), (36, 2, 0xFFFF), (38, 2, 0xFFFF), (48, 8, 256), (56, 8, 512), (64, 8, 576),
    (72, 8, 320), (80, 8, 640), (88, 8, 704), (96, 8, 960), (256, 2, kind), (260, 2, 128), (264, 4, 256), (268, 4, 128), (272, 4, 64),
    (276, 4, noIndex), (280, 4, noIndex), (284, 4, noIndex), (288, 4, noIndex), (300, 8, 2 ^ 64 - 1)] ++ fs)

/-- The plan 9 of partition 0 with that image. -/
def planOf (i : List Byte) : Plan := { part := 0, handle := 9, image := i, measure := [], loadedAt := 0, held := [] }

/-- A job of plan 9 begun by command 3. -/
def jobOf (serving : Bool) : Job :=
  { handle := 9, cmd := 3, serving := serving, seed := 77, bindings := [], ranks := [], restartAllowed := true }

/-- The machine that runs job j of plan 9 with image i, in epoch 1. -/
def running (i : List Byte) (j : Job) : State :=
  { lot up with plans := [(planKey 0 9, planOf i)], runs := [(0, { epoch := 1, job := some j })], nextId := 4 }

/-- Its work. -/
def workIn (i : List Byte) (j : Job) : Work := { s := running i j, p := 0, pl := planOf i, j := j }

theorem workOf_eq {s : State} {p : Nat} {j : Job} {pl : Plan} (hj : (s.partRun p).job = some j) (hp : s.plan p j.handle = some pl) :
    workOf s p = some { s := s, p := p, pl := pl, j := j } := by
  simp [workOf, hj, hp]

theorem workIn_eq (i : List Byte) (j : Job) (h : j.handle = 9) : workOf (running i j) 0 = some (workIn i j) :=
  workOf_eq rfl (by rw [h]; rfl)

theorem exists_of_isSome {α : Type} {o : Option ((Nat × Bool) × α)} {t : Nat × Bool} (h : o.isSome = true)
    (ht : (o.map Prod.fst == some t) = true) : ∃ e, o = some (t, e) := by
  match o, h with
  | some (u, e), _ =>
    have : u = t := by simpa using ht
    exact ⟨e, by rw [this]⟩

theorem exists_pair {α β : Type} {o : Option (α × β)} (h : o.isSome = true) : ∃ a b, o = some (a, b) := by
  match o, h with
  | some (a, b), _ => exact ⟨a, b, rfl⟩

theorem fetched_eq {s : State} {core op epoch n : Nat} {w : Work} {e e' : Exec}
    (h : ((s.core core).role != 0 || (s.core core).quiesce || (s.partRun (basinPart s (coreBasin core))).stopped
      || epoch != (s.partRun (basinPart s (coreBasin core))).epoch.toNat) = false)
    (hw : workOf s (basinPart s (coreBasin core)) = some w) (he : w.j.exec op = some e)
    (ht : takeStrip s (basinPart s (coreBasin core)) w.pl.image e (askedCounter w.pl.image op core) = some ((n, false), e')) :
    fetched s core op epoch = some (w, (n, false), e') := by
  simp only [fetched, h, hw, he, ht]
  rfl

theorem chunkOf_eq {s : State} {p op chunk : Nat} {w : Work} {e : Exec} (hw : workOf s p = some w)
    (h : ((opAt w.pl.image op).kind == 0x0C && chunk < kChunks (collBlock w.pl.image op)) = true) (he : w.j.exec op = some e) :
    chunkOf s p op chunk = some (w, e, Tab.get e.chunks chunk ({} : Chunk)) := by
  simp only [chunkOf, hw, h, he]
  rfl

theorem witness_SilentCoresAreReplaced :
    let s : State := { up with mtc := { now := 100000 } }
    let u := s.setCore 1449 { role := 2, fenced := true, talkAt := some 99999 }
    let v := (s.setCore 1448 { role := 2 }).setCore 1449 { role := 2 }
    works s = true ∧ (s.core 1447).role = 0 ∧ ((s.setCore 0 { quiesce := true }).core 0).quiesce = true ∧ (s.core 1448).role ≠ 0
    ∧ (up.core 0).role = 0 ∧ up.now < (up.core 0).lastBeat + beatTimeout up 0 * 1000 ∧ (s.core 1447).quiesce = false
    ∧ (s.core 1447).lastBeat + beatTimeout s 1447 * 1000 ≤ s.now ∧ spareOf s (1447 / 50) = some 1448
    ∧ works v = true ∧ (v.core 1447).role = 0 ∧ (v.core 1447).quiesce = false
    ∧ (v.core 1447).lastBeat + beatTimeout v 1447 * 1000 ≤ v.now ∧ spareOf v (1447 / 50) = none
    ∧ (u.core 1449).fenced = true ∧ (u.core 1449).talkAt = some 99999 ∧ u.now < 99999 + 1000000
    ∧ ((u.setCore 1449 { role := 2, fenced := true }).core 1449).talkAt = none := by decide +kernel

/-- A matrix operation of two strips that has not opened, and one that has. -/
def matmul : List Byte := image 1 0 []
@[inherit_doc matmul]
def opened (board : Tab Board) (claims : List Claim) : Job :=
  { jobOf false with execs := [{ op := 0, pass := 0, index := 0, total := 2, board := board, claims := claims }] }

/-- Three readings of atom 0 of tile 30,000 with two symbols wrong in each. -/
def spoiled : AtomRead := { atom := 30000 * 64, tries := List.replicate 3 ⟨none, [(0, 1), (1, 1)]⟩ }

theorem witness_MemoryErrorsCounted :
    let s := running matmul (jobOf false)
    let c := s.setBasin 0 { mere := { stream := [30000] } }
    let k := (up.setStack 19 { inService := true })
    let l : State := { s with mtc := { now := 2000000 } }
    let m : State := { lot up with mtc := { now := 2000000 } }
    works c = true ∧ tilePart c 30000 = 0 ∧ homeBasin c 0 30000 = some 0 ∧ 30000 ∈ (c.basin 0).mere.stream ∧ c.now ≤ 0 + deadlineNs c 0
    ∧ homeBasin s 0 669999 = some 0 ∧ tilePart s 669999 = 0 ∧ 669999 ∉ (s.basin 0).mere.stream ∧ s.now ≤ 0 + deadlineNs s 0
    ∧ homeBasin (lot up) 0 30000 = some 0 ∧ tilePart (lot up) 30000 = 0 ∧ ((lot up).partRun 0).job = none ∧ works (lot up) = true
    ∧ 30000 ∉ ((lot up).basin 0).mere.stream ∧ spoiled.atom / 64 = 30000 ∧ (atomOutcome (lot up) spoiled).lost = true
    ∧ works m = true ∧ tilePart m 30000 = 0 ∧ 0 + deadlineNs m 0 ≤ m.now ∧ (m.partRun 0).job = none
    ∧ works l = true ∧ tilePart l 30000 = 0 ∧ 0 + deadlineNs l 0 ≤ l.now
    ∧ (l.partRun 0).job = some (jobOf false) ∧ (l.partRun 0).halt = .none ∧ l.pending = [] ∧ (jobOf false).serving = false
    ∧ (up.basin 9).mere.scrubEn = true ∧ (up.basin 9).withdrawn = false
    ∧ ((up.setBasin 9 { mere := { scrubEn := false } }).basin 9).mere.scrubEn = false
    ∧ (k.stack 19).inService = true ∧ (k.stack 19).patrolEn = true ∧ works k = true ∧ (k.stack 19).failed = false := by
  decide +kernel

/-- A strip of the job that core 0 runs. -/
def stripOf (computed : Bool) : Strip := { part := 0, op := 0, strip := 1, epoch := 1, computed := computed, values := [5] }

theorem takeStrip_opened :
    ∃ e, takeStrip (running matmul (opened [] [])) 0 matmul { op := 0, pass := 0, index := 0, total := 2 } 0 = some ((0, false), e) :=
  exists_of_isSome (by decide +kernel) (by decide +kernel)

theorem fetched_opened : ∃ e, fetched (running matmul (opened [] [])) 147 0 1 = some (workIn matmul (opened [] []), (0, false), e) := by
  obtain ⟨e, h⟩ := takeStrip_opened
  have a : askedCounter matmul 0 147 = 0 := by decide +kernel
  have b : basinPart (running matmul (opened [] [])) (coreBasin 147) = 0 := by decide +kernel
  refine ⟨e, fetched_eq (by decide +kernel) (by rw [b]; exact workIn_eq matmul (opened [] []) rfl) rfl ?_⟩
  rw [b]
  show takeStrip _ 0 matmul _ (askedCounter matmul 0 147) = _
  rw [a]
  exact h

/-- The job with a claimed strip that core 0 holds. -/
def claimed (board : Tab Board) : Job := opened board [⟨1, 0, 0, false⟩]
@[inherit_doc claimed]
def holding (board : Tab Board) (computed : Bool) : State :=
  (running matmul (claimed board)).setCore 0 { running := some (stripOf computed) }

/-- The job with its strip claimed by core 0, in an operation of two parts. -/
def halves : List Byte := image 1 0 [(262, 1, 2)]

theorem witness_StripsClaimedOnceAndCommitted :
    (workOf (running matmul (jobOf false)) 0 = some (workIn matmul (jobOf false)) ∧ works (running matmul (jobOf false)) = true
      ∧ mayOpen (workIn matmul (jobOf false)) 0 = true)
    ∧ (let s := running matmul (opened [] [])
       workOf s 0 = some (workIn matmul (opened [] [])) ∧ basinPart s (coreBasin 147) = 0 ∧ (s.core 147).running = none
        ∧ (s.core 147).ahead = none ∧ (s.partRun 0).epoch.toNat = 1
        ∧ (∃ e, fetched s 147 0 1 = some (workIn matmul (opened [] []), (0, false), e)))
    ∧ (let s := holding [(0, .done), (1, .done)] true
       works s = true ∧ basinPart s (coreBasin 0) = 0 ∧ (s.core 0).ahead = none ∧ (s.core 0).running = some (stripOf true))
    ∧ (let s := (running matmul (jobOf false)).setCore 147 {}
       works s = true ∧ basinPart s (coreBasin 147) = 0 ∧ (s.core 147).ahead = none
        ∧ workOf s 0 = some { workIn matmul (jobOf false) with s := s } ∧ (jobOf false).exec 0 = none)
    ∧ (let s := holding [] false
       workOf s 0 = some { workIn matmul (claimed []) with s := s } ∧ works s = true ∧ (claimed []).exec 0 ≠ none
        ∧ (s.core 0).running = some (stripOf false) ∧ (stripOf false).part = 0 ∧ (stripOf false).computed = false
        ∧ (stripOf false).epoch = (s.partRun 0).epoch)
    ∧ (let s := holding [(0, .done)] true
       workOf s 0 = some { workIn matmul (claimed [(0, .done)]) with s := s } ∧ (s.core 0).role = 0
        ∧ (s.core 0).running = some (stripOf true) ∧ (stripOf true).computed = true ∧ (stripOf true).combine = false
        ∧ (claimed [(0, .done)]).exec 0 ≠ none ∧ ∀ e ∈ (claimed [(0, .done)]).execs, Tab.find e.board (boardKey 1 false) = none)
    ∧ (let b : Tab Board := [(0, .done), (1, .granted 0)]
       workOf (holding b true) 0 = some { workIn matmul (claimed b) with s := holding b true } ∧ (claimed b).exec 0 ≠ none
        ∧ (opAt matmul 0).parts = 1
        ∧ ∀ e ∈ (claimed b).execs, Tab.find e.board (boardKey 1 false) = some (.granted 0) ∧ Tab.find e.board (boardKey 1 true) = none)
    ∧ (let b : Tab Board := [(0, .done), (1, .granted 0)]
       let s := (running halves (claimed b)).setCore 0 { running := some (stripOf true), ahead := some { stripOf false with strip := 2 } }
       workOf s 0 = some { workIn halves (claimed b) with s := s } ∧ (opAt halves 0).parts ≠ 1 ∧ 1 / (opAt halves 0).parts = 0
        ∧ works s = true ∧ (s.core 0).ahead ≠ none)
    ∧ (let x := { stripOf true with strip := 0, combine := true }
       let b : Tab Board := [(0, .done), (1, .done), (2 ^ 32, .granted 0)]
       let s := (running halves (opened b [⟨0, 0, 0, true⟩])).setCore 0 { running := some x }
       workOf s 0 = some { workIn halves (opened b [⟨0, 0, 0, true⟩]) with s := s } ∧ works s = true ∧ (s.core 0).running = some x
        ∧ x.computed = true ∧ ∀ e ∈ (opened b [⟨0, 0, 0, true⟩]).execs, Tab.find e.board (boardKey 0 true) = some (.granted 0))
    ∧ (let s := (running matmul (claimed [])).setCore 0 { role := 2, fenced := true }
       workOf s 0 = some { workIn matmul (claimed []) with s := s } ∧ basinPart s (coreBasin 0) = 0 ∧ (s.core 0).role = 2
        ∧ (s.partRun 0).halt.isRestart = false) := by
  refine ⟨⟨workIn_eq _ _ rfl, by decide +kernel, by decide +kernel⟩,
    ⟨workIn_eq _ _ rfl, by decide +kernel, by decide +kernel, by decide +kernel, by decide +kernel, fetched_opened⟩,
    by decide +kernel,
    ⟨by decide +kernel, by decide +kernel, by decide +kernel, workOf_eq rfl rfl, rfl⟩,
    ⟨workOf_eq rfl rfl, by decide +kernel, by decide +kernel, by decide +kernel, by decide, by decide, by decide +kernel⟩,
    ⟨workOf_eq rfl rfl, by decide +kernel, by decide +kernel, by decide, by decide, by decide +kernel, by decide +kernel⟩,
    ⟨workOf_eq rfl rfl, by decide +kernel, by decide +kernel, by decide +kernel⟩,
    ⟨workOf_eq rfl rfl, by decide +kernel, by decide +kernel, by decide +kernel, by decide +kernel⟩,
    ⟨workOf_eq rfl rfl, by decide +kernel, by decide +kernel, by decide +kernel, by decide +kernel⟩,
    ⟨workOf_eq rfl rfl, by decide +kernel, by decide +kernel, by decide +kernel⟩⟩

/-- An open operation with both strips done and one Sounding portion. -/
def soundedExec (v : Verdict) : Exec :=
  { op := 0, pass := 0, index := 0, total := 2, board := [(0, .done), (1, .done)], portions := [⟨1, 1, v⟩],
    ranBy := [(1, 7 + 65536 * 7)] }
@[inherit_doc soundedExec]
def sounded (v : Verdict) : Job := { jobOf false with execs := [soundedExec v] }

/-- A request of plan 9 in slot 2. -/
def requestOf (st : ReqState) : Request :=
  { state := st, priority := 0, retain := false, endOnPark := false, part := 0, plan := 9, slot := 2, log := [4, 5, 6], maxNew := 8,
    seed := 1, outAddr := 0, progressAddr := 0, admitOrder := 0, client := 0, fn := 0, cmd := none, topK := 0, temperature := 0,
    topP := 0, stop := [] }

/-- A serving image: 8 pages, context 64, vocabulary 100, one layer; its footprint has 4 request entries. -/
def serving : List Byte :=
  image 1 1 [(704, 4, 8), (708, 4, 64), (712, 4, 100), (716, 1, 2), (717, 1, 2), (718, 2, 1), (720, 2, 1), (580, 4, 4)]

/-- A machine that serves one queued request. -/
def serves : State := { running serving (jobOf true) with requests := [(reqKey 0 9 2, requestOf .queued)] }

theorem witness_ServingStepsFormAndEnd :
    (let w : Work := { workIn serving (jobOf true) with s := serves }
     let f := formStep 0 w.j.handle w.pl (tokenBudget serves 0) (planRequests serves 0 w.j.handle).length serves
     works serves = true ∧ workOf serves 0 = some w ∧ w.j.serving = true ∧ (serves.partRun 0).step = none
      ∧ switchWaits serves 0 = false ∧ (serves.partRun 0).halt = .none ∧ (serves.partRun 0).halted = false
      ∧ w.pl.damaged = false ∧ f.parts ≠ [])
    ∧ (let j := { jobOf true with done := [(0, 1)] }
       let st : ServeStep := { parts := [⟨2, 0, 0, 3, false⟩], startedAt := 0 }
       let s := (running serving j).setRun 0 { job := some j, step := some st }
       works s = true ∧ workOf s 0 = some { workIn serving j with s := s } ∧ j.serving = true ∧ (s.partRun 0).step = some st
        ∧ (s.partRun 0).halt.isRestart = false ∧ j.execs = [] ∧ allRun serving j = true ∧ CleanEnv Env.calm) := by
  refine ⟨⟨by decide +kernel, workOf_eq rfl rfl, rfl, by decide +kernel, by decide +kernel, by decide +kernel, by decide +kernel, rfl,
    by decide +kernel⟩,
    ⟨by decide +kernel, workOf_eq rfl rfl, rfl, by decide +kernel, by decide +kernel, rfl, by decide +kernel, ⟨rfl, rfl, rfl, rfl⟩⟩⟩

/-- A collective operation of one chunk, and a job of one rank with the chunk in a state. -/
def collect : List Byte := image 0x0C 0 [(704, 1, 0), (705, 1, 1), (712, 8, 64), (732, 4, 6)]
@[inherit_doc collect]
def gatherExec (c : Chunk) : Exec := { op := 0, pass := 0, index := 0, total := 0, chunks := [(0, c)] }
@[inherit_doc collect]
def gathering (c : Chunk) : Job :=
  { jobOf false with ranks := [{ slot := 6, mjob := 5, devices := [0] }], execs := [gatherExec c] }

theorem gathering_chunk (c : Chunk) (s : State) (h : workOf s 0 = some { workIn collect (gathering c) with s := s }) :
    chunkOf s 0 0 0 = some ({ workIn collect (gathering c) with s := s }, gatherExec c, c) := by
  have k : ((opAt collect 0).kind == 0x0C && 0 < kChunks (collBlock collect 0)) = true := by decide +kernel
  exact chunkOf_eq h k rfl

/-- A chunk in place, and one that has its start time. -/
def readyChunk : Chunk := { ready := true }
@[inherit_doc readyChunk]
def timedChunk : Chunk := { ready := true, start := some 0 }

theorem witness_CollectivesStartAndAbort :
    (let j := gathering readyChunk
     let s := running collect j
     let r : Ranks := { slot := 6, mjob := 5, devices := [0] }
     works s = true ∧ mjobPart s 6 = none ∧ mjobPart s 5 = some 0 ∧ (s.partRun 0).job = some j
      ∧ chunkOf s 0 0 0 = some (workIn collect j, gatherExec readyChunk, readyChunk)
      ∧ ranksOf j (collBlock collect 0) = some r ∧ r.mjob = 5 ∧ 0 < hOps collect ∧ rankOf r (devnum s) = 0 ∧ 0 < r.devices.length
      ∧ readyChunk.start = none ∧ readyChunk.marks = [] ∧ readyChunk.ready = true ∧ s.now ≤ 0)
    ∧ (let j := gathering readyChunk
       let s : State := { running collect j with mtc := { now := 9 } }
       chunkOf s 0 0 0 = some ({ workIn collect j with s := s }, gatherExec readyChunk, readyChunk) ∧ mjobPart s 5 = some 0 ∧ 8 < s.now)
    ∧ (let j := gathering timedChunk
       let s := running collect j
       let u : State := { s with mtc := { now := 100000001 } }
       chunkOf s 0 0 0 = some (workIn collect j, gatherExec timedChunk, timedChunk) ∧ timedChunk.start = some 0 ∧ 0 ≤ s.now
        ∧ timedChunk.started = false
        ∧ chunkOf u 0 0 0 = some ({ workIn collect j with s := u }, gatherExec timedChunk, timedChunk)
        ∧ 0 + zeroSelects u.mtc.collMs 100 * 1000000 < u.now
        ∧ chunkDone u { workIn collect j with s := u } 0 timedChunk = false) :=
  ⟨⟨by decide +kernel, by decide +kernel, by decide +kernel, by decide +kernel, gathering_chunk _ _ (workIn_eq _ _ rfl),
      by decide +kernel, rfl, by decide +kernel, by decide +kernel, by decide, by decide, by decide, by decide, by decide +kernel⟩,
    ⟨gathering_chunk _ _ (workOf_eq rfl rfl), by decide +kernel, by decide +kernel⟩,
    ⟨gathering_chunk _ _ (workIn_eq _ _ rfl), by decide, by decide +kernel, by decide, gathering_chunk _ _ (workOf_eq rfl rfl),
      by decide +kernel, by decide +kernel⟩⟩

theorem witness_SelfTestsAndQuiesce :
    let s : State := { up with run := { up.run with stage2 := false } }
    let q := running matmul (jobOf false)
    let v : Word64 := BitVec.ofNat 64 (2 + 1498 * 2 ^ 32 + 2 * 2 ^ 48)
    let w : Word64 := BitVec.ofNat 64 (2 + 1499 * 2 ^ 32 + 1 * 2 ^ 48)
    writable s = true ∧ s.run.stage2 = false ∧ bitsOf v.toNat 48 16 ≠ 0 ∧ writable up = true ∧ up.run.stage2 = true
    ∧ bitsOf (0 : Word64).toNat 48 16 = 0
    ∧ bitsOf w.toNat 1 2 = 1 ∧ bitsOf w.toNat 48 16 = 1 ∧ bitsOf w.toNat 32 16 < 1500 ∧ (s.core (bitsOf w.toNat 32 16)).role = 1
    ∧ (⟨false, 0, 0, 0⟩ : TestResult).pass = false
    ∧ (up.basin (coreBasin 1499)).withdrawn = false ∧ (q.basin (coreBasin 147)).withdrawn = false
    ∧ (q.partRun (basinPart q (coreBasin 147))).job.isSome = true ∧ basinPart q (coreBasin 147) < 10 ∧ writable q = true := by decide +kernel

theorem witness_PortsGoDownAndFence :
    let s := up.setPort 15 { downAt := some 0 }
    let u : State := { s with mtc := { now := 200000001 } }
    let j := { jobOf false with ranks := [{ slot := 6, mjob := 5, devices := [0] }] }
    let h := (running collect j).setPort 15 { holder := 9, holderPart := 0, downAt := some 0 }
    let v : State := { h with mtc := { now := 200000001 } }
    writable s = true ∧ (s.basin (15 / 2 + 1)).withdrawn = false ∧ (s.partRun (s.port 15).holderPart.toNat).job = none
    ∧ staged u = true ∧ (u.port 15).linkUp = false ∧ (u.partRun (u.port 15).holderPart.toNat).job = none ∧ (u.port 15).downAt = some 0
    ∧ 0 + zeroSelects u.mtc.retrainMs 200 * 1000000 < u.now ∧ (second.port 3).linkUp = true
    ∧ writable h = true ∧ (h.basin (15 / 2 + 1)).withdrawn = false ∧ (h.partRun (h.port 15).holderPart.toNat).job = some j
    ∧ (h.port 15).holder ≠ 0 ∧ j.handle = (h.port 15).holder.toNat ∧ j.ranks ≠ []
    ∧ staged v = true ∧ (v.port 15).linkUp = false ∧ (v.port 15).downAt = some 0 ∧ 0 + zeroSelects v.mtc.retrainMs 200 * 1000000 < v.now := by
  decide +kernel

/-- A flit as it arrives whole. -/
def arrived (f : Flit) : Arrival := { type := 1, crc := (flitCrc 1 f).toNat, corrected := 2, uncorrectable := false }

theorem witness_FlitsAcknowledgedAndReplayed :
    (let r := second.port 3
     let s := second.setPort 3 { r with retained := [flit 4 2, flit 5 2], replays := 7 }
     let u := second.setPort 3 { r with retained := [flit 4 2], replays := 8 }
     staged second = true ∧ r.linkUp = true ∧ (flit 0 2).epoch = r.epoch.toNat ∧ r.lastIn = none ∧ (flit 0 2).seq = expectedSeq r
      ∧ (flit 1 2).seq ≠ expectedSeq r ∧ r.waiting = [] ∧ r.retained = [] ∧ (flit 0 2).dst = devnum second ∧ (flit 0 2).cls ≠ 0
      ∧ (flit 0 0).cls = 0 ∧ mjobPart second 5 = none
      ∧ { flit 0 2 with epoch := 2 }.epoch ≠ r.epoch.toNat ∧ (∀ e ∈ (s.port 3).retained, e.seq ≠ 6) ∧ (s.port 3).waiting = []
      ∧ (s.port 3).linkUp = true ∧ (s.port 3).retained = flit 4 2 :: [flit 5 2] ∧ (flit 4 2).seq = 4 ∧ (s.port 3).retained ≠ []
      ∧ (s.port 3).replays < 8 ∧ (u.port 3).linkUp = true ∧ (u.port 3).retained ≠ [] ∧ (∀ e ∈ (u.port 3).retained, e.seq ≠ 3)
      ∧ 8 ≤ (u.port 3).replays)
    ∧ (∀ f : Flit, let x := arrived f
        x.uncorrectable = false ∧ x.type ≤ 6 ∧ x.crc = (flitCrc x.type f).toNat ∧ x.type = 1
        ∧ { x with crc := x.crc + 1 }.crc ≠ (flitCrc x.type f).toNat)
    ∧ (∀ f : Flit, let x : Arrival := { arrived f with type := 6, crc := (flitCrc 6 f).toNat }
        x.type ≤ 6 ∧ x.crc = (flitCrc x.type f).toNat ∧ x.type ≠ 1)
    ∧ (let j := gathering readyChunk
       let s := (running collect j).setPort 3 { linkUp := true, holder := 9, holderPart := 0 }
       let f := { flit 0 0 with dst := 0 }
       staged s = true ∧ (s.port 3).linkUp = true ∧ (s.port 3).waiting = [] ∧ (s.port 3).retained = [] ∧ f.dst = devnum s
        ∧ f.epoch = (s.port 3).epoch.toNat ∧ f.seq = expectedSeq (s.port 3) ∧ planHolds s f.mjob 3 = true ∧ mjobPart s f.mjob = some 0
        ∧ workOf s 0 = some { workIn collect j with s := s } ∧ j.exec f.op = some (gatherExec readyChunk)
        ∧ (gatherExec readyChunk).index = f.exec) := by
  refine ⟨by decide +kernel, fun f => ⟨rfl, by simp [arrived], rfl, rfl, by simp [arrived]⟩, fun f => ⟨by simp, rfl, by simp⟩,
    by decide +kernel, by decide +kernel, by decide +kernel, by decide +kernel, by decide +kernel, by decide +kernel, by decide +kernel,
    by decide +kernel, by decide +kernel, workOf_eq rfl rfl, rfl, rfl⟩

/-- A serving machine in a step that n faults have met, its halted state beside it. -/
def stepping (n : Nat) (h : Halt) : State :=
  (running serving (jobOf true)).setRun 0 { epoch := 1, job := some (jobOf true), halt := h, step := some { parts := [], startedAt := 0, faults := n } }

theorem witness_FaultsRestartOrFail :
    let s := running matmul (jobOf false)
    let u := s.setRun 0 { s.partRun 0 with halt := .restart none }
    let v := running serving (jobOf true)
    works s = true ∧ works up = true ∧ (up.partRun (basinPart up (coreBasin 1499))).job = none ∧ (up.partRun (basinPart up 9)).job = none
    ∧ (up.codec 3).current = none ∧ (up.partRun 0xF).job = none
    ∧ (s.partRun 0).job = some (jobOf false) ∧ (s.partRun 0).halt = .none ∧ (jobOf false).serving = false
    ∧ works v = true ∧ (v.partRun 0).job = some (jobOf true) ∧ (v.partRun 0).halt = .none ∧ (jobOf true).serving = true
    ∧ (v.partRun 0).step = none
    ∧ (∀ n ∈ [2, 3], works (stepping n .none) = true ∧ ((stepping n .none).partRun 0).job = some (jobOf true)
        ∧ ((stepping n .none).partRun 0).halt = .none
        ∧ ((stepping n .none).partRun 0).step = some { parts := [], startedAt := 0, faults := n })
    ∧ workOf u 0 = some { workIn matmul (jobOf false) with s := u } ∧ (u.partRun 0).halt = .restart none ∧ Env.calm.tests = []
    ∧ mayRestart (jobOf false) (planOf matmul) = true ∧ (jobOf false).origin = .start
    ∧ (let j := { jobOf false with restartAllowed := false }
       let x := (running matmul j).setRun 0 { job := some j, halt := .restart none }
       workOf x 0 = some { workIn matmul j with s := x } ∧ (x.partRun 0).halt = .restart none ∧ j.restartAllowed = false)
    ∧ workOf (stepping 1 (.restart none)) 0 = some { workIn serving (jobOf true) with s := stepping 1 (.restart none) }
    ∧ ((stepping 1 (.restart none)).partRun 0).halt = .restart none := by
  refine ⟨by decide +kernel, by decide +kernel, by decide +kernel, by decide +kernel, by decide, by decide, by decide +kernel, by decide +kernel,
    rfl, by decide +kernel, by decide +kernel, by decide +kernel, rfl, by decide +kernel, by decide +kernel, workOf_eq rfl rfl,
    by decide +kernel, rfl, by decide +kernel, rfl, ⟨workOf_eq rfl rfl, by decide +kernel, rfl⟩, workOf_eq rfl rfl, by decide +kernel⟩

theorem witness_OperationsCompleteUnderSounding :
    (let s := running matmul (sounded .settled)
     works s = true ∧ (s.partRun 0).halt.isRestart = false ∧ workOf s 0 = some (workIn matmul (sounded .settled))
      ∧ (sounded .settled).exec 0 = some (soundedExec .settled)
      ∧ mayComplete (workIn matmul (sounded .settled)) (soundedExec .settled) = true ∧ CleanEnv Env.calm)
    ∧ (let w := workIn matmul (sounded .pending)
       workOf (running matmul (sounded .pending)) 0 = some w ∧ (∃ e d, portionAt w 0 1 1 .pending = some (e, d))
        ∧ (((soundedExec .pending).settle 1 1 .settled).portions.all fun y => y.verdict == .settled) = true
        ∧ (w.s.basin 0).num.countEn = true ∧ (w.s.basin 0).num.freeze = false)
    ∧ (let w := workIn matmul (sounded .mismatch)
       workOf (running matmul (sounded .mismatch)) 0 = some w ∧ (∃ e d, portionAt w 0 1 1 .mismatch = some (e, d))
        ∧ w.j.serving = false)
    ∧ (let j := { jobOf true with execs := [soundedExec .mismatch] }
       let s := (running serving j).setRun 0 { job := some j, step := some { parts := [], startedAt := 0 } }
       works s = true ∧ workOf s 0 = some { workIn serving j with s := s } ∧ (s.partRun 0).step ≠ none
        ∧ ∃ e d, portionAt { workIn serving j with s := s } 0 1 1 .mismatch = some (e, d)) := by
  refine ⟨⟨by decide +kernel, by decide +kernel, workIn_eq _ _ rfl, rfl, by decide +kernel, ⟨rfl, rfl, rfl, rfl⟩⟩,
    ⟨workIn_eq _ _ rfl, exists_pair (by decide +kernel), by decide, by decide +kernel, by decide +kernel⟩,
    ⟨workIn_eq _ _ rfl, exists_pair (by decide +kernel), rfl⟩,
    ⟨by decide +kernel, workOf_eq rfl rfl, by decide +kernel, exists_pair (by decide +kernel)⟩⟩

/-! Witnesses: commands of jobs. -/

/-- A machine with plan 9, running nothing. -/
def base : State := { lot up with plans := [(planKey 0 9, planOf matmul)] }

/-- Descriptors of plan 9 on partition 0. -/
def startD : List Byte := desc 0x0020 0 9 [(32, 8, 77)]
@[inherit_doc startD]
def preemptD : List Byte := desc 0x0021 0 9 []
@[inherit_doc startD]
def resumeD : List Byte := desc 0x0022 0 9 []
@[inherit_doc startD]
def cancelD : List Byte := desc 0x0023 0 9 []
@[inherit_doc startD]
def saveD : List Byte := desc 0x0024 0 9 [(40, 8, 65536), (48, 8, 4096)]
@[inherit_doc startD]
def restoreD : List Byte := desc 0x0025 0 9 [(40, 8, 65536), (48, 8, 512)]

/-- A command of number 3 that waits for the partition with this descriptor. -/
def queuedCmd (d : List Byte) : Cmd := { id := 3, fn := 0, sq := 0, cq := 0, desc := d, state := .queued }

/-- Plan 9's start waits while another job is pre-empted. -/
def waitingStart : State :=
  { base with cmds := [queuedCmd startD], nextId := 4, runs := [(0, { epoch := 0xFFFFFFFF, preempted := some (jobOf false) })] }

theorem waitingStart_begins :
    works waitingStart = true ∧ (waitingStart.partRun 0).job = none ∧ switchWaits waitingStart 0 = false
    ∧ nextStart waitingStart 0 = some (queuedCmd startD) ∧ dOpcode startD = 0x0020
    ∧ waitingStart.plan 0 (dHandle startD) = some (planOf matmul) ∧ planBars waitingStart 0 (planOf matmul) = none
    ∧ jsCount startD = 0 ∧ slotsUsed matmul = [] ∧ jsSeed startD ≠ 0 ∧ jsReport startD = 0 ∧ hOps matmul ≠ 0 ∧ dPart startD = 0
    ∧ bindingsInQuota waitingStart 0 matmul [] = true ∧ (waitingStart.partRun 0).preempted ≠ none := by decide +kernel

/-- Descriptor d lies in front of the machine that runs plan 9's job, another halted state or pre-empted job beside it. -/
def busy (d : List Byte) (r : PartRun) : State := ring ({ base with runs := [(0, r)] }) d

/-- The partition's state with the job, and with one pre-empted. -/
def runRec (h : Halt) (pre : Option Job) : PartRun := { epoch := 1, job := some (jobOf false), halt := h, preempted := pre }

/-- A start that binds slot 3 to the address 65,536 of the partition, named by a table at 8,448, and asks for a report of its seed. -/
def bindD : List Byte := desc 0x0020 0 9 [(32, 8, 77), (40, 8, 8448), (48, 4, 1), (56, 8, 8512)]

/-- A plan image with a tensor of slot 3, and the machine in which that start waits for its plan. -/
def boundImage : List Byte := image 1 0 [(40, 4, 1), (512, 1, 0x80), (513, 1, 2), (514, 1, 1), (520, 8, 1), (528, 4, 1), (536, 8, 3)]
@[inherit_doc boundImage]
def waitingBound : State :=
  { lot up with plans := [(planKey 0 9, planOf boundImage)], cmds := [queuedCmd bindD], nextId := 4,
                host := Mem.writeN [] 8448 (toLe 4 3 ++ List.replicate 4 0 ++ toLe 8 65536) }

/-- The machine in which a resume of the pre-empted job waits. -/
def waitingResume : State :=
  { base with cmds := [queuedCmd resumeD], nextId := 4, runs := [(0, { epoch := 5, preempted := some (jobOf false) })] }

theorem witness_JobsQueueAndBegin :
    (Runs 0x0020 (ring base startD) 0 0 startD
      ∧ jobStartEarly (takeHead (ring base startD) 0 0 startD).1 (takenCmd (ring base startD) 0 0 startD) = none)
    ∧ (Runs 0x0025 (ring base restoreD) 0 0 restoreD
      ∧ restoreEarly (takeHead (ring base restoreD) 0 0 restoreD).1 (takenCmd (ring base restoreD) 0 0 restoreD) = none)
    ∧ (let s := busy resumeD { preempted := some (jobOf false) }
       Runs 0x0022 s 0 0 resumeD ∧ (s.partRun (dPart resumeD)).preempted = some (jobOf false) ∧ (jobOf false).handle = dHandle resumeD)
    ∧ nextStart waitingStart 0 = some (queuedCmd startD)
    ∧ (let pl := planOf boundImage
       waitingBound.plan 0 (dHandle bindD) = some pl ∧ works waitingBound = true ∧ (waitingBound.partRun 0).job = none ∧ switchWaits waitingBound 0 = false ∧ CleanEnv Env.calm
      ∧ nextStart waitingBound 0 = some (queuedCmd bindD) ∧ planBars waitingBound 0 pl = none ∧ hOps pl.image ≠ 0
      ∧ (let table := Mem.readN waitingBound.host (jsBind bindD) (16 * jsCount bindD)
         let bs := bindEntries table (jsCount bindD)
         bs = [(3, 65536)] ∧ dOpcode bindD = 0x0020 ∧ inWindows waitingBound 0 (jsBind bindD) (16 * jsCount bindD) = true
          ∧ bindingsClean table (jsCount bindD) = true ∧ bindingsOk pl.image bs = true ∧ bindingsInQuota waitingBound 0 pl.image bs = true
          ∧ rankTables waitingBound 0 pl.image bs = [] ∧ jsSeed bindD ≠ 0 ∧ jsReport bindD = 8512
          ∧ inWindows waitingBound 0 (jsReport bindD) 8 = true))
    ∧ works waitingResume = true ∧ (waitingResume.partRun 0).job = none ∧ switchWaits waitingResume 0 = false
    ∧ nextStart waitingResume 0 = some (queuedCmd resumeD) ∧ waitingResume.plan 0 (dHandle resumeD) = some (planOf matmul)
    ∧ planBars waitingResume 0 (planOf matmul) = none ∧ dOpcode resumeD = 0x0022
    ∧ (waitingResume.partRun 0).preempted = some (jobOf false) ∧ (jobOf false).handle = dHandle resumeD := by
  refine ⟨⟨runs_of _ _ _ (by decide +kernel), by decide +kernel⟩, ⟨runs_of _ _ _ (by decide +kernel), by decide +kernel⟩,
    ⟨runs_of _ _ _ (by decide +kernel), by decide +kernel, by decide +kernel⟩, waitingStart_begins.2.2.2.1,
    ⟨rfl, by decide +kernel, by decide +kernel, by decide +kernel, ⟨rfl, rfl, rfl, rfl⟩, by decide +kernel, by decide +kernel,
      by decide +kernel, by decide +kernel⟩, ?_⟩
  decide +kernel

theorem runsPlan_busy (d : List Byte) (h : Halt) (pre : Option Job) :
    runsPlan (busy d (runRec h pre)) 0 9 = some { s := busy d (runRec h pre), p := 0, pl := planOf matmul, j := jobOf false } := by
  simp only [runsPlan, workOf_eq (s := busy d (runRec h pre)) (p := 0) (j := jobOf false) (pl := planOf matmul) rfl rfl, Option.bind_some]
  rfl

theorem preemptD_names : dPart preemptD = 0 ∧ dHandle preemptD = 9 := by decide +kernel
theorem saveD_names : dPart saveD = 0 ∧ dHandle saveD = 9 := by decide +kernel

theorem witness_PreemptedJobWaits :
    (let s := busy preemptD (runRec .none (some { jobOf false with handle := 8 }))
     Runs 0x0021 s 0 0 preemptD ∧ (∃ w, runsPlan s (dPart preemptD) (dHandle preemptD) = some w)
      ∧ (s.partRun (dPart preemptD)).preempted = some { jobOf false with handle := 8 })
    ∧ works waitingStart = true ∧ (waitingStart.partRun 0).preempted ≠ none := by
  refine ⟨⟨runs_of _ _ _ (by decide +kernel), ?_, by decide +kernel⟩, waitingStart_begins.1, waitingStart_begins.2.2.2.2.2.2.2.2.2.2.2.2.2.2⟩
  rw [preemptD_names.1, preemptD_names.2]
  exact ⟨_, runsPlan_busy _ _ _⟩

theorem witness_PreemptionAndCancellation :
    (let s := busy preemptD (runRec .none none)
     Runs 0x0021 s 0 0 preemptD ∧ (∃ w, runsPlan s (dPart preemptD) (dHandle preemptD) = some w ∧ w.j.serving = false)
      ∧ (s.partRun (dPart preemptD)).preempted = none ∧ (s.partRun (dPart preemptD)).halt = .none)
    ∧ (let s := ring base preemptD
       Runs 0x0021 s 0 0 preemptD ∧ runsPlan s (dPart preemptD) (dHandle preemptD) = none)
    ∧ (∀ h ∈ [.restart none, .save 2, .preempt 2], runsNow 0x0021 (busy preemptD (runRec h none)) preemptD = true
        ∧ ((busy preemptD (runRec h none)).partRun (dPart preemptD)).halt = h
        ∧ ((busy preemptD (runRec h none)).partRun (dPart preemptD)).preempted = none)
    ∧ (∀ h, ∃ w, runsPlan (busy preemptD (runRec h none)) (dPart preemptD) (dHandle preemptD) = some w)
    ∧ (let s := busy [] (runRec (.preempt 2) none)
       let w : Work := { s := s, p := 0, pl := planOf matmul, j := jobOf false }
       works s = true ∧ workOf s 0 = some w ∧ (s.partRun 0).halt = .preempt 2 ∧ drained w = true ∧ Env.calm.fault = false
        ∧ waitingSaves s 0 w.j.handle = [])
    ∧ (let s := busy cancelD (runRec .none none)
       Runs 0x0023 s 0 0 cancelD ∧ (s.plan (dPart cancelD) (dHandle cancelD)).isSome = true)
    ∧ (let s := ring (lot up) cancelD
       Runs 0x0023 s 0 0 cancelD ∧ s.plan (dPart cancelD) (dHandle cancelD) = none)
    ∧ (let s := ring base cancelD
       Runs 0x0023 s 0 0 cancelD ∧ (s.plan (dPart cancelD) (dHandle cancelD)).isSome = true
        ∧ runsPlan s (dPart cancelD) (dHandle cancelD) = none ∧ (s.partRun (dPart cancelD)).preempted = none
        ∧ waitingStarts s (dPart cancelD) (dHandle cancelD) = []) := by
  have none_runs : ∀ p h, runsPlan (ring base preemptD) p h = none := fun p h => by
    have : ((ring base preemptD).partRun p).job = none := rfl
    simp [runsPlan, workOf, this]
  have none_runs' : ∀ p h, runsPlan (ring base cancelD) p h = none := fun p h => by
    have : ((ring base cancelD).partRun p).job = none := rfl
    simp [runsPlan, workOf, this]
  refine ⟨⟨runs_of _ _ _ (by decide +kernel), ?_, by decide +kernel, by decide +kernel⟩,
    ⟨runs_of _ _ _ (by decide +kernel), none_runs _ _⟩, by decide +kernel, ?_,
    ⟨by decide +kernel, workOf_eq rfl rfl, by decide +kernel, by decide +kernel, rfl, by decide +kernel⟩,
    ⟨runs_of _ _ _ (by decide +kernel), by decide +kernel⟩, ⟨runs_of _ _ _ (by decide +kernel), by decide +kernel⟩,
    ⟨runs_of _ _ _ (by decide +kernel), by decide +kernel, none_runs' _ _, by decide +kernel, by decide +kernel⟩⟩
  · rw [preemptD_names.1, preemptD_names.2]
    exact ⟨_, runsPlan_busy _ _ _, rfl⟩
  · intro h
    rw [preemptD_names.1, preemptD_names.2]
    exact ⟨_, runsPlan_busy _ _ _⟩

/-- A save into too small a buffer, one to object 6, one that stops its job, and one of length 0. -/
def shortSaveD : List Byte := desc 0x0024 0 9 [(40, 8, 65536), (48, 8, 1)]
@[inherit_doc shortSaveD]
def objectSaveD : List Byte := desc 0x0024 0 9 [(32, 1, 2), (40, 8, 6)]
@[inherit_doc shortSaveD]
def stopSaveD : List Byte := desc 0x0024 0 9 [(32, 1, 4), (40, 8, 65536), (48, 8, 4096)]

/-- The machine whose save, command 2, of this descriptor is in progress. -/
def savingBy (d : List Byte) : State :=
  { busy [] (runRec (.save 2) none) with
    cmds := [{ queuedCmd d with id := 2, state := .running }], nextId := 4, fls := { online := true, capacity := 1000000 },
    medium := { objects := [(6, { bytes := [], owner := 0, serial := 1, isSealed := false, visible := false, writer := 2 })] } }

/-- The context image that save writes. -/
def imageBy (d : List Byte) : List Byte :=
  contextImage { s := (chargeCmd (savingBy d) { queuedCmd d with id := 2, state := .running } Env.calm.charge).1, p := 0,
                 pl := planOf matmul, j := jobOf false } (xsKind d)

theorem savingBy_works (d : List Byte) :
    workOf (savingBy d) 0 = some { s := savingBy d, p := 0, pl := planOf matmul, j := jobOf false } := workOf_eq rfl rfl

theorem runsPlan_stored (d : List Byte) :
    runsPlan (stored (busy d (runRec .none none))) 0 9
      = some { s := stored (busy d (runRec .none none)), p := 0, pl := planOf matmul, j := jobOf false } := by
  simp only [runsPlan, workOf_eq (s := stored (busy d (runRec .none none))) (p := 0) (j := jobOf false) (pl := planOf matmul) rfl rfl,
    Option.bind_some]
  rfl

theorem witness_ContextSavesWriteImage :
    (let s := busy saveD (runRec .none none)
     Runs 0x0024 s 0 0 saveD ∧ saveStatus (startedState s 0 0 saveD) (runningCmd s 0 0 saveD) = none ∧ xsObject saveD = false
      ∧ (∃ w, runsPlan s (dPart saveD) (dHandle saveD) = some w) ∧ (s.partRun (dPart saveD)).halt = .none
      ∧ imageLength { s := startedState s 0 0 saveD, p := 0, pl := planOf matmul, j := jobOf false } (xsKind saveD) ≤ xsCapacity saveD)
    ∧ (let s := busy shortSaveD (runRec .none none)
       Runs 0x0024 s 0 0 shortSaveD ∧ saveStatus (startedState s 0 0 shortSaveD) (runningCmd s 0 0 shortSaveD) = none
        ∧ xsObject shortSaveD = false ∧ (∃ w, runsPlan s (dPart shortSaveD) (dHandle shortSaveD) = some w)
        ∧ xsCapacity shortSaveD
          < imageLength { s := startedState s 0 0 shortSaveD, p := 0, pl := planOf matmul, j := jobOf false } (xsKind shortSaveD))
    ∧ (let s := stored (busy objectSaveD (runRec .none none))
       Runs 0x0024 s 0 0 objectSaveD ∧ saveStatus (startedState s 0 0 objectSaveD) (runningCmd s 0 0 objectSaveD) = none
        ∧ xsObject objectSaveD = true ∧ ∃ w, runsPlan s (dPart objectSaveD) (dHandle objectSaveD) = some w)
    ∧ (let s := busy saveD (runRec (.preempt 2) none)
       Runs 0x0024 s 0 0 saveD ∧ saveStatus (startedState s 0 0 saveD) (runningCmd s 0 0 saveD) = none
        ∧ (∃ w, runsPlan s (dPart saveD) (dHandle saveD) = some w) ∧ (s.partRun (dPart saveD)).halt ≠ .none)
    ∧ (∀ d ∈ [saveD, stopSaveD, objectSaveD, shortSaveD],
       let s := savingBy d
       let c : Cmd := { queuedCmd d with id := 2, state := .running }
       let entry := (s.cq c.fn c.cq).base.toNat * 4096 + (s.cq c.fn c.cq).tail.toNat * 32
       works s = true ∧ (s.partRun 0).halt = .save 2 ∧ s.cmd 2 = some c
        ∧ drained { s := s, p := 0, pl := planOf matmul, j := jobOf false } = true ∧ saveWindows s c = true
        ∧ inWindows s c.fn entry 32 = true ∧ (xsObject d = true ∨ entry + 32 ≤ xsDst d))
    ∧ CleanEnv Env.calm ∧ (∀ d, workOf (savingBy d) 0 = some { s := savingBy d, p := 0, pl := planOf matmul, j := jobOf false })
    ∧ (imageBy saveD).length ≤ xsCapacity saveD ∧ (imageBy stopSaveD).length ≤ xsCapacity stopSaveD
    ∧ ¬ (imageBy shortSaveD).length ≤ xsCapacity shortSaveD ∧ storeFull (savingBy objectSaveD) 0 (imageBy objectSaveD).length false = false
    ∧ xsStop saveD = false ∧ xsStop stopSaveD = true ∧ systemObject (xsDst objectSaveD) = false
    ∧ ∃ b, Tab.find (savingBy objectSaveD).medium.objects 6 = some b ∧ b.visible = false ∧ b.writer = 2 := by
  refine ⟨⟨runs_of _ _ _ (by decide +kernel), by decide +kernel, by decide +kernel, ?_, by decide +kernel, by decide +kernel⟩,
    ⟨runs_of _ _ _ (by decide +kernel), by decide +kernel, by decide +kernel, ?_, by decide +kernel⟩,
    ⟨runs_of _ _ _ (by decide +kernel), by decide +kernel, by decide +kernel, ?_⟩,
    ⟨runs_of _ _ _ (by decide +kernel), by decide +kernel, ?_, by decide +kernel⟩,
    by decide +kernel, ⟨rfl, rfl, rfl, rfl⟩, savingBy_works, by decide +kernel, by decide +kernel, by decide +kernel, by decide +kernel,
    by decide +kernel, by decide +kernel, by decide +kernel, ⟨_, rfl, rfl, rfl⟩⟩
  · rw [saveD_names.1, saveD_names.2]
    exact ⟨_, runsPlan_busy _ _ _⟩
  · have h : dPart shortSaveD = 0 ∧ dHandle shortSaveD = 9 := by decide +kernel
    rw [h.1, h.2]
    exact ⟨_, runsPlan_busy _ _ _⟩
  · have h : dPart objectSaveD = 0 ∧ dHandle objectSaveD = 9 := by decide +kernel
    rw [h.1, h.2]
    exact ⟨_, runsPlan_stored _⟩
  · rw [saveD_names.1, saveD_names.2]
    exact ⟨_, runsPlan_busy _ _ _⟩

/-! Witnesses: commands of the device. -/

/-- A NOP with its fence set, and one with a byte that must be zero. -/
def fenceD : List Byte := desc 0x0001 0xFFFF 0 [(2, 2, 1)]
@[inherit_doc fenceD]
def badNopD : List Byte := desc 0x0001 0xFFFF 0 [(127, 1, 1)]

/-- An accepted sequence command waits in the ring before the fence. -/
def fenced : State :=
  { ring up fenceD with cmds := [{ queuedCmd [] with id := 2, state := .accepted }], nextId := 4 }

theorem witness_NopCompletes :
    (Runs 0x0001 fenced 0 0 fenceD ∧ dFence fenceD = true ∧ ∃ c ∈ fenced.cmds, c.fn = 0 ∧ c.sq = 0)
    ∧ (let s := ring up badNopD
       lookAt s 0 0 = .found badNopD ∧ dOpcode badNopD = 0x0001 ∧ allZero (badNopD.drop 32) = false ∧ (s.sq 0 0).chain ≠ .broken
        ∧ orderWaits (takeHead s 0 0 badNopD).1 (takenCmd s 0 0 badNopD) = false ∧ inWindows s 0 (nextEntry s 0 0) 32 = true)
    ∧ (ring up badNopD).Inv :=
  ⟨⟨runs_of _ _ _ (by decide +kernel), by decide +kernel, by decide +kernel⟩, by decide +kernel, inv_of _ (by decide +kernel)⟩

/-- COPY of one tile in direction k. -/
def copyD (k : Nat) : List Byte := desc 0x0040 0 0 [(32, 1, k), (40, 8, 65536), (48, 8, 131072), (56, 8, 4096)]

/-- The addresses an extent list maps are apart where the extents are. -/
theorem mapAddr_one (g n x : Nat) (h : x < n * Config.granuleBytes) : mapAddr [(g, n)] x = some (g * Config.granuleBytes + x) := by
  simp [mapAddr, h]

/-- A COPY to the host beyond the partition's memory. -/
def farCopyD : List Byte := desc 0x0040 0 0 [(32, 1, 1), (40, 8, 2 ^ 50), (48, 8, 131072), (56, 8, 4096)]

theorem witness_CopyMovesBytes :
    (∀ k < 3, runsNow 0x0040 (ring (lot up) (copyD k)) (copyD k) = true
      ∧ copyStatus (startedState (ring (lot up) (copyD k)) 0 0 (copyD k)) (runningCmd (ring (lot up) (copyD k)) 0 0 (copyD k)) = none
      ∧ cpDir (copyD k) = k ∧ cpLen (copyD k) = 4096 ∧ cpDst (copyD k) = 131072
      ∧ nextEntry (ring (lot up) (copyD k)) 0 0 + 32 ≤ cpDst (copyD k))
    ∧ (let s := ring (lot up) farCopyD
       Runs 0x0040 s 0 0 farCopyD ∧ copyStatus (startedState s 0 0 farCopyD) (runningCmd s 0 0 farCopyD) = some stDenied)
    ∧ CleanEnv Env.calm ∧ (∃ r, Tab.find (lot up).parts 0 = some r ∧ r.extents = [(3, 64)]) ∧ Backed [(3, 64)] 131072 4096 := by
  refine ⟨by decide +kernel, ⟨runs_of _ _ _ (by decide +kernel), by decide +kernel⟩, ⟨rfl, rfl, rfl, rfl⟩, ⟨_, rfl, rfl⟩, ?_, ?_⟩
  · intro i hi
    rw [mapAddr_one _ _ _ (by simp [Config.granuleBytes]; omega)]
    rfl
  · intro i hi j hj h
    rw [mapAddr_one _ _ _ (by simp [Config.granuleBytes]; omega), mapAddr_one _ _ _ (by simp [Config.granuleBytes]; omega)] at h
    simp at h
    omega

/-- The footprint of a plan of nothing on one basin, and that plan's image with digest dg. -/
def footprint : List Byte := toLe 2 1 ++ List.replicate 62 0
@[inherit_doc footprint]
def emptyPlan (dg : List Byte) : List Byte :=
  bytes 128 [(0, 4, 0x4E414C50), (4, 2, 1), (8, 8, 320), (36, 2, 0xFFFF), (38, 2, 0xFFFF), (48, 8, 256), (56, 8, 256), (64, 8, 256),
    (72, 8, 256), (80, 8, 256), (88, 8, 256), (96, 8, 256)] ++ slice dg 0 64 ++ List.replicate 64 0 ++ footprint

/-- A PLAN_LOAD of 320 bytes at 65,536 as plan 9, and a PLAN_UNLOAD of it. -/
def loadD : List Byte := desc 0x0010 0 9 [(40, 8, 65536), (48, 8, 320)]
@[inherit_doc loadD]
def unloadD : List Byte := desc 0x0011 0 9 []

/-- A machine with an image at 65,536. -/
def loading (img : List Byte) : State := { ring (lot up) loadD with host := Mem.writeN (ring (lot up) loadD).host 65536 img }

/-- The digest of the empty plan. -/
def planDigest : List Byte := sha3_512 footprint

theorem emptyPlan_length (dg : List Byte) : (emptyPlan dg).length = 320 := by
  have h : (bytes 128 [(0, 4, 0x4E414C50), (4, 2, 1), (8, 8, 320), (36, 2, 0xFFFF), (38, 2, 0xFFFF), (48, 8, 256), (56, 8, 256),
    (64, 8, 256), (72, 8, 256), (80, 8, 256), (88, 8, 256), (96, 8, 256)]).length = 128 := by decide +kernel
  simp only [emptyPlan, List.length_append, slice_length, List.length_replicate, footprint, toLe_length, h]

theorem loading_reads (img : List Byte) (l : img.length = 320) : Mem.readN (loading img).host 65536 320 = img := by
  have := Mem.readN_writeN (m := (ring (lot up) loadD).host) 65536 img
  rw [l] at this
  exact this

theorem emptyPlan_passes : checkImage (emptyPlan planDigest) 320 = none := by decide +kernel

/-- A PLAN_LOAD of 320 bytes of object 5 as plan 9, and the machine whose store holds that image there. -/
def loadObjectD : List Byte := desc 0x0010 0 9 [(32, 1, 1), (40, 8, 5), (48, 8, 320)]
@[inherit_doc loadObjectD]
def loadingObject (img : List Byte) : State :=
  { ring (lot up) loadObjectD with
    fls := { online := true, capacity := 1000000 }
    medium := { formatted := some 0, objects := [(5, { someObject with bytes := img })], nextSerial := 2 } }

/-- That machine with its partition's basin withdrawn. -/
def unfit : State := (loadingObject (emptyPlan planDigest)).setBasin 0 { withdrawn := true }

theorem witness_PlansLoadAndUnload :
    (let s := loading (emptyPlan planDigest)
     Runs 0x0010 s 0 0 loadD ∧ CleanEnv Env.calm ∧ loadStatus (startedState s 0 0 loadD) (runningCmd s 0 0 loadD) = none
      ∧ plHost loadD = true ∧ Mem.readN s.host 65536 320 = emptyPlan planDigest ∧ checkImage (emptyPlan planDigest) 320 = none
      ∧ fitCheck s 0 (emptyPlan planDigest) = [])
    ∧ (let s := loadingObject (emptyPlan planDigest)
       Runs 0x0010 s 0 0 loadObjectD ∧ loadStatus (startedState s 0 0 loadObjectD) (runningCmd s 0 0 loadObjectD) = none
        ∧ plHost loadObjectD = false ∧ s.fls.online = true ∧ plSrc loadObjectD = 5
        ∧ (∃ b, readsObject s 5 = some b ∧ seesObject 0 5 b = true ∧ b.isSealed = true ∧ b.bytes = emptyPlan planDigest
          ∧ (emptyPlan planDigest).length = plLength loadObjectD) ∧ fitCheck s 0 (emptyPlan planDigest) = [])
    ∧ (Runs 0x0010 unfit 0 0 loadObjectD ∧ loadStatus (startedState unfit 0 0 loadObjectD) (runningCmd unfit 0 0 loadObjectD) = none
      ∧ readsObject unfit 5 = some { someObject with bytes := emptyPlan planDigest } ∧ fitCheck unfit 0 (emptyPlan planDigest) ≠ [])
    ∧ (let s := loading []
       Runs 0x0010 s 0 0 loadD ∧ loadStatus (startedState s 0 0 loadD) (runningCmd s 0 0 loadD) = none
        ∧ checkImage (Mem.readN s.host 65536 320) 320 = some stBadFormat ∧ stBadFormat < 65536)
    ∧ (let s := ring base unloadD
       Runs 0x0011 s 0 0 unloadD ∧ (s.plan (dPart unloadD) (dHandle unloadD)).isSome = true
        ∧ planBusy (startedState s 0 0 unloadD) (dPart unloadD) (dHandle unloadD) = false
        ∧ engineBusy s (dPart unloadD) (dHandle unloadD) = false ∧ planRequests s (dPart unloadD) (dHandle unloadD) = [])
    ∧ (let s := busy unloadD (runRec .none none)
       Runs 0x0011 s 0 0 unloadD ∧ (s.plan (dPart unloadD) (dHandle unloadD)).isSome = true
        ∧ planBusy (startedState s 0 0 unloadD) (dPart unloadD) (dHandle unloadD) = true)
    ∧ (let s := ring (lot up) unloadD
       Runs 0x0011 s 0 0 unloadD ∧ s.plan (dPart unloadD) (dHandle unloadD) = none) := by
  have read : readsObject (loadingObject (emptyPlan planDigest)) 5 = some { someObject with bytes := emptyPlan planDigest } := rfl
  have len : plLength loadObjectD = 320 := by decide +kernel
  exact ⟨⟨runs_of _ _ _ (by decide +kernel), ⟨rfl, rfl, rfl, rfl⟩, by decide +kernel, by decide +kernel,
      loading_reads _ (emptyPlan_length _), emptyPlan_passes, by decide +kernel⟩,
    ⟨runs_of _ _ _ (by decide +kernel), by decide +kernel, by decide +kernel, rfl, by decide +kernel,
      ⟨_, read, by decide +kernel, rfl, rfl, by rw [len]; exact emptyPlan_length _⟩, by decide +kernel⟩,
    ⟨runs_of _ _ _ (by decide +kernel), by decide +kernel, rfl, by decide +kernel⟩,
    ⟨runs_of _ _ _ (by decide +kernel), by decide +kernel, by decide +kernel, by decide⟩,
    ⟨runs_of _ _ _ (by decide +kernel), by decide +kernel, by decide +kernel, by decide +kernel, by decide +kernel⟩,
    ⟨runs_of _ _ _ (by decide +kernel), by decide +kernel, by decide +kernel⟩,
    ⟨runs_of _ _ _ (by decide +kernel), by decide +kernel⟩⟩

/-- A machine that serves plan 9 and holds the request of slot 2 in a state. -/
def hosting (rs : Tab Request) : State := { lot up with plans := [(planKey 0 9, planOf serving)], requests := rs }

/-- The three sequence commands of slot 2: two tokens in, one out. -/
def submitD : List Byte := desc 0x0030 0 9 [(32, 4, 2), (36, 4, 2), (40, 8, 65536), (48, 8, 69632), (56, 4, 1), (72, 8, 5)]
@[inherit_doc submitD]
def appendD : List Byte := desc 0x0031 0 9 [(32, 4, 2), (36, 4, 2), (40, 8, 65536), (48, 8, 69632), (56, 4, 1)]
@[inherit_doc submitD]
def releaseD : List Byte := desc 0x0032 0 9 [(32, 4, 2)]

/-- A submission that leaves its seed to the generator, on a machine that has one. -/
def drawD : List Byte := desc 0x0030 0 9 [(32, 4, 2), (36, 4, 2), (40, 8, 65536), (48, 8, 69632), (56, 4, 1)]
@[inherit_doc drawD]
def drawing : State := { ring (hosting []) drawD with rng := { instantiated := true, springOk := true } }

/-- An append of 62 tokens, beyond the context of 64. -/
def longAppendD : List Byte := desc 0x0031 0 9 [(32, 4, 2), (36, 4, 62), (40, 8, 65536), (48, 8, 69632), (56, 4, 1)]

/-- The machine whose step 0 has slot 2 in it. -/
def stepped : State :=
  { hosting [(reqKey 0 9 2, requestOf .decode)] with
    runs := [(0, { job := some (jobOf true), step := some { parts := [⟨2, 0, 3, 1, true⟩], startedAt := 0 } })] }

theorem witness_SequencesQueueAndRelease :
    (let s := ring (hosting []) submitD
     Runs 0x0030 s 0 0 submitD ∧ CleanEnv Env.calm ∧ s.plan (dPart submitD) (dHandle submitD) = some (planOf serving)
      ∧ (∀ k ∈ tokensOf (Mem.readN s.host (sqAddr submitD) (4 * sqLen submitD)) (sqLen submitD), k < vVocab serving)
      ∧ submitStatus (startedState s 0 0 submitD) (runningCmd s 0 0 submitD) = none ∧ sqSeed submitD ≠ 0)
    ∧ (Runs 0x0030 drawing 0 0 drawD ∧ drawing.plan (dPart drawD) (dHandle drawD) = some (planOf serving)
      ∧ submitStatus (startedState drawing 0 0 drawD) (runningCmd drawing 0 0 drawD) = none ∧ sqSeed drawD = 0
      ∧ (∀ k ∈ tokensOf (Mem.readN drawing.host (sqAddr drawD) (4 * sqLen drawD)) (sqLen drawD), k < vVocab serving)
      ∧ drbgReady drawing.rng = true)
    ∧ (let s := ring (hosting [(reqKey 0 9 2, requestOf .done)]) appendD
       Runs 0x0031 s 0 0 appendD ∧ appendStatus (startedState s 0 0 appendD) (runningCmd s 0 0 appendD) = none
        ∧ (∀ k ∈ tokensOf (Mem.readN s.host (sqAddr appendD) (4 * sqLen appendD)) (sqLen appendD), k < vVocab serving)
        ∧ s.request (dPart appendD) (dHandle appendD) (sqSlot appendD) = some (requestOf .done) ∧ (requestOf .done).held = []
        ∧ (requestOf .done).log.length + 2 ≤ vContext serving)
    ∧ (let s := ring (hosting [(reqKey 0 9 2, requestOf .done)]) longAppendD
       Runs 0x0031 s 0 0 longAppendD ∧ appendStatus (startedState s 0 0 longAppendD) (runningCmd s 0 0 longAppendD) = none
        ∧ (∀ k ∈ tokensOf (Mem.readN s.host (sqAddr longAppendD) (4 * sqLen longAppendD)) (sqLen longAppendD), k < vVocab serving)
        ∧ s.request (dPart longAppendD) (dHandle longAppendD) (sqSlot longAppendD) = some (requestOf .done)
        ∧ vContext serving < (requestOf .done).log.length + 62 ∧ sqLen longAppendD = 62)
    ∧ (let s := ring (hosting [(reqKey 0 9 2, requestOf .decode)]) appendD
       Runs 0x0031 s 0 0 appendD ∧ appendStatus (startedState s 0 0 appendD) (runningCmd s 0 0 appendD) = none
        ∧ s.request (dPart appendD) (dHandle appendD) (sqSlot appendD) = some (requestOf .decode) ∧ (requestOf .decode).state ≠ .done)
    ∧ (let s := ring (hosting [(reqKey 0 9 2, requestOf .decode)]) releaseD
       Runs 0x0032 s 0 0 releaseD ∧ hasSlot (planOf serving) releaseD = true
        ∧ s.request (dPart releaseD) (dHandle releaseD) (sqSlot releaseD) = some (requestOf .decode)
        ∧ inStep s (requestOf .decode) = false)
    ∧ (let s := ring (hosting []) releaseD
       Runs 0x0032 s 0 0 releaseD ∧ s.request (dPart releaseD) (dHandle releaseD) (sqSlot releaseD) = none)
    ∧ (let s := ring stepped releaseD
       Runs 0x0032 s 0 0 releaseD ∧ s.request (dPart releaseD) (dHandle releaseD) (sqSlot releaseD) = some (requestOf .decode)
        ∧ inStep s (requestOf .decode) = true) :=
  ⟨⟨runs_of _ _ _ (by decide +kernel), ⟨rfl, rfl, rfl, rfl⟩, by decide +kernel, by decide +kernel, by decide +kernel, by decide +kernel⟩,
    ⟨runs_of _ _ _ (by decide +kernel), by decide +kernel, by decide +kernel, by decide +kernel, by decide +kernel, by decide +kernel⟩,
    ⟨runs_of _ _ _ (by decide +kernel), by decide +kernel, by decide +kernel, by decide +kernel, rfl, by decide +kernel⟩,
    ⟨runs_of _ _ _ (by decide +kernel), by decide +kernel, by decide +kernel, by decide +kernel, by decide +kernel, by decide +kernel⟩,
    ⟨runs_of _ _ _ (by decide +kernel), by decide +kernel, by decide +kernel, by decide +kernel⟩,
    ⟨runs_of _ _ _ (by decide +kernel), by decide +kernel, by decide +kernel, by decide +kernel⟩,
    ⟨runs_of _ _ _ (by decide +kernel), by decide +kernel⟩,
    ⟨runs_of _ _ _ (by decide +kernel), by decide +kernel, by decide +kernel⟩⟩

/-- Commands of the store on objects 5 and 6. -/
def storeWriteD : List Byte := desc 0x0081 0xFFFF 0 [(32, 1, 1), (40, 8, 6), (48, 8, 65536), (56, 8, 16), (64, 8, 2 ^ 64 - 1)]
@[inherit_doc storeWriteD]
def storeDeleteD : List Byte := desc 0x0082 0xFFFF 0 [(40, 8, 5)]
@[inherit_doc storeWriteD]
def storeReadD : List Byte := desc 0x0080 0xFFFF 0 [(40, 8, 5), (56, 8, 3), (64, 8, 65536)]
@[inherit_doc storeWriteD]
def storeListD : List Byte := desc 0x0083 0xFFFF 0 [(48, 4, 4), (56, 8, 65536)]

/-- Commands of the store that move stacked memory of partition 0. -/
def storeFromHbmD : List Byte := desc 0x0081 0 0 [(32, 1, 5), (40, 8, 6), (48, 8, 0), (56, 8, 4096), (64, 8, 2 ^ 64 - 1)]
@[inherit_doc storeFromHbmD]
def storeToHbmD : List Byte := desc 0x0080 0 0 [(32, 1, 1), (40, 8, 5), (56, 8, 4096), (64, 8, 0)]

theorem witness_StoreJournalsAndReads :
    (let s := ring (stored up) storeWriteD
     Runs 0x0081 s 0 0 storeWriteD ∧ CleanEnv Env.calm
      ∧ storeWriteStatus (startedState s 0 0 storeWriteD) (runningCmd s 0 0 storeWriteD) = none
      ∧ bitOf (leAt storeWriteD 32 1) 2 = false ∧ leAt storeWriteD 56 8 ≠ 0)
    ∧ (let s := ring (stored (lot up)) storeFromHbmD
       Runs 0x0081 s 0 0 storeFromHbmD
        ∧ storeWriteStatus (startedState s 0 0 storeFromHbmD) (runningCmd s 0 0 storeFromHbmD) = none
        ∧ bitOf (leAt storeFromHbmD 32 1) 2 = true)
    ∧ (let s := ring (stored up) storeDeleteD
       Runs 0x0082 s 0 0 storeDeleteD ∧ s.fls.online = true ∧ stObject storeDeleteD = 5 ∧ systemObject 5 = false
        ∧ writesObject s 5 = some someObject ∧ seesObject 0 5 someObject = true)
    ∧ (let o : StoreOp := { object := 6, create := true, bytes := [1], seals := false, deletes := false, owner := 0, cmd := 3 }
       let s : State := { stored up with fls := { (stored up).fls with pending := [o] } }
       s.fls.pending = [o] ∧ o.deletes = false ∧ Tab.find s.medium.objects o.object = none)
    ∧ (let s := ring (stored up) storeReadD
       Runs 0x0080 s 0 0 storeReadD ∧ storeReadStatus (startedState s 0 0 storeReadD) (runningCmd s 0 0 storeReadD) = none
        ∧ bitOf (leAt storeReadD 32 1) 0 = false ∧ readsObject s (stObject storeReadD) = some someObject
        ∧ nextEntry s 0 0 + 32 ≤ leAt storeReadD 64 8)
    ∧ (let s := ring (stored (lot up)) storeToHbmD
       Runs 0x0080 s 0 0 storeToHbmD ∧ storeReadStatus (startedState s 0 0 storeToHbmD) (runningCmd s 0 0 storeToHbmD) = none
        ∧ bitOf (leAt storeToHbmD 32 1) 0 = true ∧ readsObject s (stObject storeToHbmD) = some someObject)
    ∧ (let s := ring (stored up) storeListD
       Runs 0x0083 s 0 0 storeListD ∧ s.fls.online = true ∧ leAt storeListD 48 4 = 4 ∧ leAt storeListD 56 8 = 65536
        ∧ inWindows s 0 65536 (32 + 32 * 4) = true ∧ nextEntry s 0 0 + 32 ≤ 65536 ∧ (visibleObjects s 0).length < 2 ^ 32)
    ∧ alive (stored up) = true ∧ (stored up).fls.online = true ∧ (stored up).fls.patrolEn = true
    ∧ decodeCodeword ⟨0, 72, [], false⟩ = .hard ∧ decodeCodeword ⟨0, 100000, [72], false⟩ = .reread
    ∧ decodeCodeword ⟨0, 100000, [], true⟩ = .soft ∧ decodeCodeword ⟨0, 100000, [], false⟩ = .lost
    ∧ Tab.find (stored up).medium.objects 5 = some someObject :=
  ⟨⟨runs_of _ _ _ (by decide +kernel), ⟨rfl, rfl, rfl, rfl⟩, by decide +kernel, by decide +kernel, by decide +kernel⟩,
    ⟨runs_of _ _ _ (by decide +kernel), by decide +kernel, by decide +kernel⟩,
    ⟨runs_of _ _ _ (by decide +kernel), by decide +kernel, by decide +kernel, by decide, by decide +kernel, by decide +kernel⟩,
    by decide +kernel,
    ⟨runs_of _ _ _ (by decide +kernel), by decide +kernel, by decide +kernel, by decide +kernel, by decide +kernel⟩,
    ⟨runs_of _ _ _ (by decide +kernel), by decide +kernel, by decide +kernel, by decide +kernel⟩,
    ⟨runs_of _ _ _ (by decide +kernel), by decide +kernel, by decide +kernel, by decide +kernel, by decide +kernel, by decide +kernel,
      by decide +kernel⟩,
    by decide +kernel⟩

/-- A table load of slot 0 into the inactive bank, an encode and a decode on engine 0, a plain resample. -/
def tableD : List Byte := desc 0x0050 0 0 [(32, 1, 2), (34, 2, 1), (40, 8, 65536)]
@[inherit_doc tableD]
def encodeD : List Byte :=
  desc 0x0060 0 0 [(34, 2, 64), (36, 2, 64), (38, 2, 1), (40, 4, 30), (44, 4, 1), (56, 8, 65536), (64, 8, 65536), (100, 1, 20), (101, 1, 186)]
@[inherit_doc tableD]
def decodeD : List Byte :=
  desc 0x0061 0 0 [(34, 2, 64), (36, 2, 64), (38, 2, 1), (40, 8, 65536), (48, 8, 64), (64, 8, 65536), (72, 8, 524288)]
@[inherit_doc tableD]
def resampleD : List Byte :=
  desc 0x0070 0 0 [(32, 1, 1), (33, 1, 1), (34, 1, 1), (48, 8, 4096), (64, 2, 1), (66, 2, 1), (68, 2, 1), (70, 2, 1), (72, 2, 1), (74, 2, 1)]

/-- A machine whose codec engine 0 a plan of partition 0 holds, with work current and queued. -/
def engine (current : Option EngineWork) (queue : List EngineWork) : State :=
  (lot up).setCodec 0 { holder := 9, holderPart := 0, current := current, queue := queue }

/-- A plan with a codec operation of one frame, and its job with the operation open. -/
def coding : List Byte := image 0x0A 0 [(706, 2, 64), (708, 2, 64), (710, 2, 1)]
@[inherit_doc coding]
def codingJob : Job := { jobOf false with execs := [{ op := 0, pass := 0, index := 0, total := 0 }] }
@[inherit_doc coding]
def codingState : State := (running coding codingJob).setCodec 0 { holder := 9, holderPart := 0, current := some (.op 0 0) }

theorem leNat_zeros (n : Nat) : leNat (List.replicate n 0) = 0 := by
  induction n with
  | zero => rfl
  | succ n ih => simp only [List.replicate_succ, leNat, ih]; rfl

theorem leAt_zeros (n o k : Nat) : leAt (List.replicate n 0) o k = 0 := by
  simp only [leAt, slice, List.drop_replicate, List.take_replicate, List.length_replicate, List.replicate_append_replicate]
  exact leNat_zeros _

theorem readN_zeros (m : Tab Byte) (a n : Nat) (h : ∀ i, Mem.read m (a + i) = 0) : Mem.readN m a n = List.replicate n 0 := by
  apply List.ext_getElem
  · simp [Mem.readN]
  · intro i h1 h2
    simp only [Mem.readN, List.getElem_map, List.getElem_replicate, h]

theorem zero_table (s : State) (h : s.host = Mem.writeN [] 4096 tableD) (mask n a : Nat) (ha : 4224 ≤ a) :
    badTable mask (Mem.readN s.host a n) = false := by
  have l : tableD.length = 128 := by decide +kernel
  rw [readN_zeros _ _ _ fun i => by rw [h, Mem.read_writeN_outside _ _ _ _ (by omega)]; rfl]
  simp only [badTable, leAt_zeros, List.any_eq_false]
  intro i _ hi
  simp [bitsOf] at hi

theorem ring_host (s : State) (d : List Byte) : (ring s d).host = Mem.writeN s.host 4096 d := rfl

theorem lot_host : (lot up).host = [] := rfl

theorem loads_zeros :
    badTable (tlMask tableD) (Mem.readN (ring (lot up) tableD).host (tlSrc tableD) 32768) = false := by
  have a : 4224 ≤ tlSrc tableD := by decide +kernel
  exact zero_table _ (by rw [ring_host, lot_host]) _ _ _ a

/-- Units taken never exceed the room. -/
theorem takeUnits_length (room : Nat) (ps : List CodedPicture) (used : Nat) (h : used ≤ room) :
    used + (takeUnits (fun n => decide (n ≤ room)) used ps).stream.length ≤ room := by
  induction ps generalizing used with
  | nil => simpa [takeUnits, Encoded.stream] using h
  | cons p ps ih =>
    simp only [takeUnits]
    split
    · have := ih (used + p.bytes.length) (by simp_all)
      simp only [Encoded.stream, List.flatMap_cons, List.length_append] at this ⊢
      omega
    · simpa [Encoded.stream] using h

/-- A table load that waits while a job runs. -/
def tableWaits : State :=
  (running matmul (jobOf false)).setRun 0 { epoch := 1, job := some (jobOf false), tableLoad := some 2 }

theorem witness_EnginesRunAndQueue :
    (let s := ring (lot up) tableD
     Runs 0x0050 s 0 0 tableD ∧ CleanEnv Env.calm ∧ (s.partRun (dPart tableD)).tableLoad = none
      ∧ tableStatus (startedState s 0 0 tableD) (runningCmd s 0 0 tableD) = none ∧ tlHbm tableD = false
      ∧ badTable (tlMask tableD) (Mem.readN s.host (tlSrc tableD) 32768) = false ∧ allZero (tlDigest tableD) = true)
    ∧ (let s := (up.setRun 9 { tableLoad := some 2 }); works s = true ∧ (s.partRun 9).tableLoad = some 2 ∧ atBoundary s 9 = true)
    ∧ (works tableWaits = true ∧ (tableWaits.partRun 0).tableLoad = some 2 ∧ atBoundary tableWaits 0 = false)
    ∧ (let s := ring (engine none []) encodeD
       let b := ring (engine (some (.op 0 0)) []) encodeD
       Runs 0x0060 s 0 0 encodeD ∧ encodeStatus (startedState s 0 0 encodeD) (runningCmd s 0 0 encodeD) = none
        ∧ ceObject encodeD = false ∧ 0 = ceEngine encodeD ∧ (s.codec 0).current = none ∧ (s.codec 0).queue = []
        ∧ ceReport encodeD = 0 ∧ nextEntry s 0 0 + 32 ≤ ceDst encodeD
        ∧ (∀ clip : Config.Clip,
            inWindows s 0 (ceDst encodeD) (encode encodeD clip fun n => decide (n ≤ ceCapacity encodeD)).stream.length = true)
        ∧ Runs 0x0060 b 0 0 encodeD ∧ encodeStatus (startedState b 0 0 encodeD) (runningCmd b 0 0 encodeD) = none
        ∧ (b.codec 0).current ≠ none)
    ∧ (let s := ring (engine none []) decodeD
       let b := ring (engine (some (.op 0 0)) []) decodeD
       Runs 0x0061 s 0 0 decodeD ∧ decodeStatus (startedState s 0 0 decodeD) (runningCmd s 0 0 decodeD) = none
        ∧ 0 = cdEngine decodeD ∧ (s.codec 0).current = none ∧ (s.codec 0).queue = [] ∧ cdObject decodeD = false
        ∧ Runs 0x0061 b 0 0 decodeD ∧ decodeStatus (startedState b 0 0 decodeD) (runningCmd b 0 0 decodeD) = none
        ∧ (b.codec 0).current ≠ none)
    ∧ (let s := engine none [.op 0 4]
       let u : State := { engine none [.cmd 3] with cmds := [queuedCmd encodeD], nextId := 4 }
       works s = true ∧ (s.codec 0).current = none ∧ (s.codec 0).queue = .op 0 4 :: [] ∧ works u = true
        ∧ (u.codec 0).current = none ∧ (u.codec 0).queue = .cmd 3 :: [] ∧ (u.cmd 3).isSome = true)
    ∧ (let w : Work := { workIn coding codingJob with s := codingState }
       works codingState = true ∧ (codingState.codec 0).work = some (0, 0) ∧ workOf codingState 0 = some w
        ∧ 0 < ceFrames (asDesc w.pl.image (opAt w.pl.image 0)) ∧ frameReady w 0 0 = true ∧ (w.j.exec 0).isSome = true)
    ∧ (let s := ring (lot up) resampleD
       Runs 0x0070 s 0 0 resampleD ∧ resampleStatus (startedState s 0 0 resampleD) (dPart resampleD) resampleD = none
        ∧ (s.partRun (dPart resampleD)).resampling = [] ∧ boxesOk resampleD [] = true ∧ rsCrop resampleD = false
        ∧ contested s (dPart resampleD) 0xFFFFFFFF (rsDst resampleD) (rsOutBytes resampleD) = false
        ∧ (∃ r, Tab.find s.parts (dPart resampleD) = some r ∧ r.extents = [(3, 64)]))
    ∧ (let s := ring ((lot up).setRun 0 { resampling := [.cmd 2] }) resampleD
       Runs 0x0070 s 0 0 resampleD ∧ resampleStatus (startedState s 0 0 resampleD) (dPart resampleD) resampleD = none
        ∧ (s.partRun (dPart resampleD)).resampling ≠ []) :=
  ⟨⟨runs_of _ _ _ (by decide +kernel), ⟨rfl, rfl, rfl, rfl⟩, by decide +kernel, by decide +kernel, by decide +kernel,
      loads_zeros, by decide +kernel⟩,
    by decide +kernel, by decide +kernel,
    ⟨runs_of _ _ _ (by decide +kernel), by decide +kernel, by decide +kernel, by decide +kernel, by decide +kernel, by decide +kernel,
      by decide +kernel, by decide +kernel, fun clip => by
        have c : ceCapacity encodeD = 65536 := by decide +kernel
        have a : ceDst encodeD = 65536 := by decide +kernel
        have l := takeUnits_length (ceCapacity encodeD) (codePictures encodeD clip (ceFrames encodeD)) 0 (Nat.zero_le _)
        rw [a]
        exact inWindows_whole _ rfl rfl _ _ (by unfold encode; omega),
      runs_of _ _ _ (by decide +kernel), by decide +kernel, by decide +kernel⟩,
    ⟨runs_of _ _ _ (by decide +kernel), by decide +kernel, by decide +kernel, by decide +kernel, by decide +kernel, by decide +kernel,
      runs_of _ _ _ (by decide +kernel), by decide +kernel, by decide +kernel⟩,
    by decide +kernel,
    ⟨by decide +kernel, by decide +kernel, workOf_eq rfl rfl, by decide +kernel, by decide +kernel, by decide +kernel⟩,
    ⟨runs_of _ _ _ (by decide +kernel), by decide +kernel, by decide +kernel, by decide +kernel, by decide +kernel, by decide +kernel,
      ⟨_, rfl, rfl⟩⟩,
    ⟨runs_of _ _ _ (by decide +kernel), by decide +kernel, by decide +kernel⟩⟩

/-- Commands that the physical function alone may give, and an account read of the last client. -/
def bistD : List Byte := desc 0x0090 0xFFFF 0 [(34, 2, 1498), (36, 2, 2)]
@[inherit_doc bistD]
def snapshotD : List Byte := desc 0x0091 0xFFFF 0 [(32, 1, 1), (40, 8, 65536), (48, 8, 262240)]
@[inherit_doc bistD]
def acctD : List Byte := desc 0x00A0 0xFFFF 0 [(32, 2, 4095), (34, 2, 1), (36, 1, 1), (40, 8, 65536)]
@[inherit_doc bistD]
def partitionD : List Byte := desc 0x00B0 9 0 [(33, 1, 0), (34, 2, 0x200), (40, 8, 40960001)]

/-- A NOP that waits for its time. -/
def waitingNop : State := { up with cmds := [{ queuedCmd nopD with state := .waiting }], nextId := 4 }

theorem witness_DeviceCommandsComplete :
    (let s := ring up bistD
     Runs 0x0090 s 0 0 bistD ∧ 0 < bistCount bistD ∧ bistCount bistD ≤ 1500
      ∧ (testRanges (bistKind bistD)).any (fun r => decide (r.1 ≤ bistFirst bistD ∧ bistFirst bistD + bistCount bistD ≤ r.1 + r.2)) = true
      ∧ bistAddr bistD % 64 = 0 ∧ bistAddr bistD = 0
      ∧ (∀ i < bistCount bistD, unitFree (startedState s 0 0 bistD) (bistFirst bistD + i) = true) ∧ Env.calm.tests = [])
    ∧ (let s := ring up snapshotD
       Runs 0x0091 s 0 0 snapshotD ∧ leAt snapshotD 32 1 = 1 ∧ leAt snapshotD 40 8 % 64 = 0 ∧ leAt snapshotD 48 8 = 262240
        ∧ leAt snapshotD 56 8 = 0 ∧ inWindows s 0 (leAt snapshotD 40 8) 262240 = true ∧ nextEntry s 0 0 + 32 ≤ leAt snapshotD 40 8)
    ∧ (let s := ring up acctD
       let v := (chargeCmd (startedState s 0 0 acctD) (runningCmd s 0 0 acctD) Env.calm.charge).1
       Runs 0x00A0 s 0 0 acctD ∧ bitsOf (leAt acctD 32 2) 0 12 = 4095 ∧ bitsOf (leAt acctD 34 2) 0 13 = 1
        ∧ (s.fn 0).clientBase.toNat ≤ 4095 ∧ 4095 + 1 ≤ (s.fn 0).clientBase.toNat + (s.fn 0).clientCount.toNat
        ∧ inWindows s 0 (leAt acctD 40 8) 128 = true ∧ nextEntry s 0 0 + 32 ≤ leAt acctD 40 8
        ∧ ((List.range 1).flatMap fun i => accountBytes v (4095 + i)).length = 128 * 1 ∧ bitOf (leAt acctD 36 1) 0 = true)
    ∧ (let s := ring up partitionD
       Runs 0x00B0 s 0 0 partitionD ∧ Tab.find s.parts (dPart partitionD) = none ∧ psDelete partitionD = false
        ∧ partitionStatus (startedState s 0 0 partitionD) (runningCmd s 0 0 partitionD) = none ∧ dPart partitionD < 10
        ∧ psOwner partitionD < 64
        ∧ (growExtents [] (granulesFor (psQuota partitionD)) (freeRuns 0 (usedExtents s))).2 = granulesFor (psQuota partitionD))
    ∧ (let k : Cmd := { queuedCmd nopD with state := .waiting }
       waitingNop.cmd 3 = some k ∧ takesDescriptors waitingNop = true ∧ orderWaits waitingNop k = false ∧ serialWaits waitingNop k = false
        ∧ dOpcode k.desc = 0x0001
        ∧ headerVerdict waitingNop k.fn k.desc k.takenAt = none ∧ dNotBefore k.desc ≤ waitingNop.now)
    ∧ staged waitingNop = true ∧ (waitingNop.cmd 3).isSome = true ∧ servingStart waitingNop 3 = false :=
  ⟨⟨runs_of _ _ _ (by decide +kernel), by decide +kernel, by decide +kernel, by decide +kernel, by decide +kernel, by decide +kernel,
      by decide +kernel, rfl⟩,
    ⟨runs_of _ _ _ (by decide +kernel), by decide +kernel, by decide +kernel, by decide +kernel, by decide +kernel, by decide +kernel,
      by decide +kernel⟩,
    ⟨runs_of _ _ _ (by decide +kernel), by decide +kernel, by decide +kernel, by decide +kernel, by decide +kernel, by decide +kernel,
      by decide +kernel, by decide +kernel, by decide +kernel⟩,
    ⟨runs_of _ _ _ (by decide +kernel), by decide +kernel, by decide +kernel, by decide +kernel, by decide +kernel, by decide +kernel,
      by decide +kernel⟩,
    by decide +kernel, by decide +kernel, by decide +kernel, by decide +kernel⟩

/-! Meanings on values the spec works out. -/

/-- The test vectors of 09 R212. -/
theorem test_lane_vectors : lane 0 0 0 0 0 = 0x0A4573090FE17F2A048C39DD4BB3C49B#128
    ∧ seedKey 1 = 0x5BFB5A1DE2E5A29FB5A13AF1F0C2587B#128
    ∧ lane ((seedKey 1).extractLsb' 0 64) ((seedKey 1).extractLsb' 64 64) 0x64 2 0 = 0xB1D9AC71C7DB156AB2C662EC7E503669#128 := by
  decide +kernel

/-- Three atoms of tile 1,234,567, the example of 08 R189. -/
theorem test_interleave_example : atomChannel 1234567 0 = 238 ∧ atomChannel 1234567 5 = 188 ∧ atomChannel 1234567 63 = 408
    ∧ atomIndex 1234567 = 123456 ∧ tileClass 1234568 = 9 := by decide

/-- SHA3-256 of the empty message (FIPS 202, which 18 R387 names). -/
theorem test_sha3_empty : sha3_256 [] = [0xa7, 0xff, 0xc6, 0xf8, 0xbf, 0x1e, 0xd7, 0x66, 0x51, 0xc1, 0x47, 0x56, 0xa0, 0x61, 0xd6,
    0x62, 0xf5, 0x80, 0xff, 0x4d, 0xe4, 0x3b, 0x49, 0xfa, 0x82, 0xd8, 0x0a, 0x4b, 0x80, 0xf8, 0x43, 0x4a] := by decide +kernel

/-- The activations of the example of 02 R44: the scale 0x2D and the elements 3, −1, 7, 0, −4, 2, 1, −5, 2, 1, −2, 5, 0, 4, −3, 1. -/
theorem test_quantise_example :
    quantBlock fmtN4 0x3F800000 0 [0x3F99999A, 0xBF000000, 0x40333333, 0x00000000, 0xBFD9999A, 0x3F666666, 0x3E99999A, 0xC00CCCCD,
      0x3F800000, 0x3F19999A, 0xBF4CCCCD, 0x40000000, 0xBDCCCCCD, 0x3FC00000, 0xBFA66666, 0x3ECCCCCD] (List.replicate 16 .near)
    = { scale := 0x2D, codes := [3, 0xF, 7, 0, 0xC, 2, 1, 0xB, 2, 1, 0xE, 5, 0, 4, 0xD, 1] } := by decide +kernel

/-- The atom of channel 188 index 123,457 in place of atom 79,012,293, the example of 08 R191: its address symbol is 0xA570, and
the checker finds the wrong address; two wrong symbols it cannot decode, one it corrects. -/
theorem test_address_example :
    addressSymbol 79012293 = 0xA570
    ∧ (let t := channelTile 188 123457
       let a := ((List.range 64).find? fun k => atomChannel t k == 188).getD 0
       checkWord (received State.reset 79012293 ⟨some (64 * t + a), []⟩) = .address)
    ∧ checkWord (received State.reset 79012293 ⟨none, [(7, 0x8001)]⟩) = .corrected 7
    ∧ checkWord (received State.reset 79012293 ⟨none, [(7, 1), (8, 1)]⟩) = .undecodable := by decide +kernel

/-- The identity of the device over JTAG (00 R1). -/
theorem test_idcode :
    (match exec (.jtagPinInstruction 1) up with
      | .next t => t.jtag.data
      | _ => 0) = 0x1A4009C7 := by decide +kernel

/-- The completion entry of a NOP with tag 7 on a ring's first pass: status 0, phase 1 (14 R315, R321). -/
theorem test_nop_entry :
    (match exec (.nop 0 0 Env.calm) (ring up (desc 0x0001 0xFFFF 0 [])) with
      | .next t => Mem.readN t.host 8192 8
      | _ => []) = [7, 0, 0, 0, 0, 0, 1, 0] := by decide +kernel

/-- A tail doorbell of 16 on a ring of 16 entries is an error of cause 1, one of 15 moves TAIL (14 R311). -/
theorem test_doorbell :
    (match exec (.sqTailDoorbell 0 0 16) (ring up []) with
      | .next t => ((t.sq 0 0).error, (t.sq 0 0).cause, (t.sq 0 0).tail)
      | _ => (false, 0, 0)) = (true, 1, 1)
    ∧ (match exec (.sqTailDoorbell 0 0 15) (ring up []) with
      | .next t => ((t.sq 0 0).error, (t.sq 0 0).tail)
      | _ => (true, 0)) = (false, 15) := by decide +kernel

/-- The first step of the example of 17 R380: 2,600 W above a limit of 2,200 W lowers the target from 750 to 745 mV. -/
theorem test_power_step :
    (match exec (.powerSample 2600000 []) { up with tel := { up.tel with limitW := 2200 } } with
      | .next t => vtapNow t
      | _ => 0) = 745 := by decide +kernel

/-- TEL.PWR_LIMIT holds 0 or 500 to 3,200 and keeps its value when another is written (17 R385, 20 R423). -/
theorem test_limit_range :
    (match exec (.registerWrite 0 0x70010 .full 499) up with
      | .next t => t.tel.limitW
      | _ => 0) = 3200
    ∧ (match exec (.registerWrite 0 0x70010 .full 2200) up with
      | .next t => t.tel.limitW
      | _ => 0) = 2200 := by decide +kernel

/-- GLB.CAPABILITY of a device with basin 4 withdrawn, the example of 20 R426; 0 in stage 0. -/
theorem test_capability :
    (match exec (.stage2Complete [] [] []) { one with basins := [(4, { one.basin 4 with withdrawn := true })] } with
      | .next t => regRead t 0 8
      | _ => 0) = 0x003EFF9014090510 ∧ regRead zeroed 0 8 = 0 := by decide +kernel

end Sys2Proof.Tests
end

section
/-! The CLEAR bits of a basin's windows: each is one change of the basin, made where writes to the basin act (20 R425). -/

namespace Sys2Proof.Machine

/-- A basin in service, of a device that takes writes, is changed as asked. -/
theorem onBasin_of_inService {s : State} {b : Nat} (hw : writable s = true) (hb : b < 10)
    (hin : (s.basin b).withdrawn = false) (f : Basin → Basin) : onBasin s b f = s.setBasin b (f (s.basin b)) := by
  have hguard : (writable s && decide (b < 10) && !(s.basin b).withdrawn) = true := by simp [hw, hb, hin]
  exact if_pos hguard

section ExecClear
variable (b : Nat) (s : State)

theorem exec_numClear : exec (.numClear b) s = execNumClear b s := rfl
theorem exec_rsmClear : exec (.rsmClear b) s = execRsmClear b s := rfl
theorem exec_sfuClear : exec (.sfuClear b) s = execSfuClear b s := rfl
theorem exec_wrkClear : exec (.wrkClear b) s = execWrkClear b s := rfl
theorem exec_attClear : exec (.attClear b) s = execAttClear b s := rfl
theorem exec_mereClear : exec (.mereClear b) s = execMereClear b s := rfl
theorem exec_updClear : exec (.updClear b) s = execUpdClear b s := rfl

end ExecClear

/-- Settles O6: each CLEAR is a change of its own window, and a basin in service takes the change. -/
theorem basinCountersCleared : Obligations.BasinCountersCleared := by
  intro s b hw hb hin
  have hact := onBasin_of_inService hw hb hin
  refine ⟨?num, ?rsm, ?sfu, ?wrk, ?att, ?mere, ?upd⟩
  case num => rw [exec_numClear, execNumClear, hact]
  case rsm => rw [exec_rsmClear, execRsmClear, hact]
  case sfu => rw [exec_sfuClear, execSfuClear, hact]
  case wrk => rw [exec_wrkClear, execWrkClear, hact]
  case att => rw [exec_attClear, execAttClear, hact]
  case mere => rw [exec_mereClear, execMereClear, hact]
  case upd => rw [exec_updClear, execUpdClear, hact]

end Sys2Proof.Machine
end

section
/-! How a command completes and how a request's slot is queued or freed: rules for the operations the sequence commands are made
of. -/

namespace Sys2Proof.Machine

/-! Numbers in bytes (00 R6), read back from where they were written. -/

theorem length_toLe (n v : Nat) : (toLe n v).length = n := by
  induction n generalizing v with
  | zero => rfl
  | succ n ih => simp [toLe, ih]

/-- A number that fits n bytes is read back from them. -/
theorem leNat_toLe {n v : Nat} (h : v < 256 ^ n) : leNat (toLe n v) = v := by
  induction n generalizing v with
  | zero => simp [toLe, leNat]; omega
  | succ n ih =>
    have hq : v / 256 < 256 ^ n := by rw [Nat.pow_succ] at h; omega
    simp only [toLe, leNat, ih hq, BitVec.toNat_ofNat]
    omega

theorem leNat_lt (bs : List Byte) : leNat bs < 256 ^ bs.length := by
  induction bs with
  | nil => simp [leNat]
  | cons b bs ih =>
    have hb := b.isLt
    simp only [leNat, List.length_cons, Nat.pow_succ]
    omega

theorem leAt_lt (bs : List Byte) (o n : Nat) : leAt bs o n < 256 ^ n := by
  have hl : (slice bs o n).length = n := by simp only [slice, List.length_append, List.length_take, List.length_replicate]; omega
  simpa [leAt, hl] using leNat_lt (slice bs o n)

/-- A part of the bytes written is read back from its place. -/
theorem Mem.readN_writeN_part (m : Tab Byte) (a k n : Nat) (bs : List Byte) (h : k + n ≤ bs.length) :
    Mem.readN (Mem.writeN m a bs) (a + k) n = (bs.drop k).take n := by
  apply List.ext_getElem
  · simp [Mem.readN]; omega
  · intro i h1 h2
    have hi : i < n := by simpa [Mem.readN] using h1
    simp only [Mem.readN, List.getElem_map, List.getElem_range, List.getElem_take, List.getElem_drop]
    rw [Nat.add_assoc]
    exact Mem.read_writeN_inside m a (k + i) bs (by omega)

/-! The completion entry (14 R325). -/

section Entry
variable (s : State) (c : Cmd) (phase : Bool) (status retry : Nat)

theorem completionBytes_length : (completionBytes s c phase status retry).length = 32 := by
  simp [completionBytes, length_toLe]

theorem completionBytes_tag : (completionBytes s c phase status retry).take 4 = toLe 4 (dTag c.desc) := by
  simp [completionBytes, toLe]

theorem completionBytes_status : ((completionBytes s c phase status retry).drop 4).take 2 = toLe 2 status := by
  simp [completionBytes, toLe]

end Entry

/-- Where the next entry for a command goes (14 R315). -/
def entryPlace (s : State) (c : Cmd) : Nat :=
  (s.cq c.fn c.cq).base.toNat * 4096 + (s.cq c.fn c.cq).tail.toNat * 32

/-- In this memory the entry at address a gives the command's tag and the status. -/
def EntryAt (m : Tab Byte) (a : Nat) (c : Cmd) (status : Nat) : Prop :=
  leNat (Mem.readN m a 4) = dTag c.desc ∧ leNat (Mem.readN m (a + 4) 2) = status

theorem entryAt_written (m : Tab Byte) (a : Nat) (s : State) (c : Cmd) (phase : Bool) (retry : Nat) {status : Nat}
    (h : status < 65536) : EntryAt (Mem.writeN m a (completionBytes s c phase status retry)) a c status := by
  have hl := completionBytes_length s c phase status retry
  have htag := Mem.readN_writeN_part m a 0 4 _ (by rw [hl]; omega)
  have hstatus := Mem.readN_writeN_part m a 4 2 _ (by rw [hl]; omega)
  rw [Nat.add_zero, List.drop_zero, completionBytes_tag] at htag
  rw [completionBytes_status] at hstatus
  unfold EntryAt
  rw [htag, hstatus]
  exact ⟨leNat_toLe (leAt_lt _ _ _), leNat_toLe h⟩

/-! Windows depend on the functions' registers alone. -/

theorem inWindows_congr {s t : State} (h : t.hif.fns = s.hif.fns) (f a n : Nat) : inWindows t f a n = inWindows s f a n := by
  simp only [inWindows, State.fn, h]

/-- An entry inside the windows is written, and nothing after it. -/
theorem writeEntry_host {s : State} {c : Cmd} (h : inWindows s c.fn (entryPlace s c) 32 = true) (status retry : Nat) :
    (writeEntry s c status retry).host =
      Mem.writeN s.host (entryPlace s c) (completionBytes s c (s.cq c.fn c.cq).phase status retry) := by
  unfold entryPlace at h
  simp only [writeEntry, h, if_true]
  split
  · rw [raiseVector_frame]; rfl
  · rfl

theorem entryAt_writeEntry {s t : State} {c : Cmd} (hq : t.cqs = s.cqs) (hf : t.hif.fns = s.hif.fns)
    (h : inWindows s c.fn (entryPlace s c) 32 = true) {status : Nat} (hst : status < 65536) (retry : Nat) :
    EntryAt (writeEntry t c status retry).host (entryPlace s c) c status := by
  have hp : entryPlace t c = entryPlace s c := by simp only [entryPlace, State.cq, hq]
  rw [writeEntry_host (by rwa [inWindows_congr hf, hp]), hp]
  exact entryAt_written _ _ _ _ _ _ hst

/-! Open commands. -/

theorem State.cmd_congr {s t : State} (h : t.cmds = s.cmds) (i : Nat) : t.cmd i = s.cmd i := by
  simp only [State.cmd, h]

theorem State.id_of_cmd {s : State} {i : Nat} {c : Cmd} (h : s.cmd i = some c) : c.id = i := by
  simpa using List.find?_some h

theorem State.cmd_eq_none_iff {s : State} {i : Nat} : s.cmd i = none ↔ ∀ c ∈ s.cmds, c.id ≠ i := by
  simp [State.cmd]

theorem State.cmd_setCmd (s : State) (c : Cmd) (i : Nat) :
    (s.setCmd c).cmd i = (s.cmd i).map fun d => if d.id = c.id then c else d := by
  have hid : ((fun d : Cmd => d.id == i) ∘ fun d => if d.id = c.id then c else d) = fun d => d.id == i := by
    funext d
    by_cases h : d.id = c.id <;> simp [h]
  simp only [State.cmd, State.setCmd, List.find?_map, hid]

theorem State.cmd_setCmd_self {s : State} {c d : Cmd} (h : s.cmd c.id = some d) : (s.setCmd c).cmd c.id = some c := by
  rw [State.cmd_setCmd, h, Option.map_some, if_pos (State.id_of_cmd h)]

/-- A closed command is no longer listed; every other stays as it was. -/
theorem closeCmd_cmds (s : State) (c : Cmd) (status retry : Nat) :
    (closeCmd s c status retry).cmds = s.cmds.filter fun d => d.id != c.id := by
  unfold closeCmd
  dsimp only
  split <;> simp

theorem entryAt_closeCmd {s : State} {c : Cmd} (h : inWindows s c.fn (entryPlace s c) 32 = true) {status : Nat}
    (hst : status < 65536) (retry : Nat) : EntryAt (closeCmd s c status retry).host (entryPlace s c) c status := by
  unfold closeCmd
  dsimp only
  split <;> exact entryAt_writeEntry (by simp) (by simp) h hst retry

/-! Completion: what it does to the list of open commands (14 R314). -/

theorem closeCmd_cmd_self (s : State) (c : Cmd) (status retry : Nat) : (closeCmd s c status retry).cmd c.id = none := by
  simp [State.cmd_eq_none_iff, closeCmd_cmds]

theorem closeCmd_cmd_of_none {s : State} {i : Nat} (h : s.cmd i = none) (c : Cmd) (status retry : Nat) :
    (closeCmd s c status retry).cmd i = none := by
  rw [State.cmd_eq_none_iff] at h ⊢
  intro d hd
  rw [closeCmd_cmds] at hd
  exact h d (List.mem_filter.mp hd).1

/-- The ring of a command that is over: its chain goes on or is broken (14 R314). -/
def settleChain (s : State) (c : Cmd) (status : Nat) : State :=
  let ring := s.sq c.fn c.sq
  if ring.chain = .after c.id then s.setSq c.fn c.sq { ring with chain := if status = stOk then .free else .broken } else s

theorem settleChain_frame (s : State) (c : Cmd) (status : Nat) :
    settleChain s c status = { s with sqs := (settleChain s c status).sqs } := by
  unfold settleChain; dsimp only; split <;> rfl

@[simp] theorem settleChain_cmds (s : State) (c : Cmd) (status : Nat) : (settleChain s c status).cmds = s.cmds := by
  rw [settleChain_frame]
@[simp] theorem settleChain_host (s : State) (c : Cmd) (status : Nat) : (settleChain s c status).host = s.host := by
  rw [settleChain_frame]

theorem finishN_succ (n : Nat) (s : State) (c : Cmd) (status retry : Nat) : finishN (n + 1) s c status retry =
    match (closeCmd s c status retry).cmds.find? fun d => d.pred == some c.id with
    | none => settleChain (closeCmd s c status retry) c status
    | some d =>
      if status = stOk then (settleChain (closeCmd s c status retry) c status).setCmd { d with pred := none }
      else finishN n (settleChain (closeCmd s c status retry) c status) d stCancelled 0 := by
  rw [← settleChain_cmds _ c status]
  rfl

/-- No completion opens a command. -/
theorem finishN_cmd_of_none {i : Nat} (n : Nat) {s : State} (h : s.cmd i = none) (c : Cmd) (status retry : Nat) :
    (finishN n s c status retry).cmd i = none := by
  induction n generalizing s c status retry with
  | zero => exact h
  | succ n ih =>
    have hs : (settleChain (closeCmd s c status retry) c status).cmd i = none := by
      rw [State.cmd_congr (settleChain_cmds _ _ _)]
      exact closeCmd_cmd_of_none h c status retry
    rw [finishN_succ]
    split
    · exact hs
    · split
      · rw [State.cmd_setCmd, hs, Option.map_none]
      · exact ih hs _ _ _

theorem finishN_cmd_self (n : Nat) (s : State) (c : Cmd) (status retry : Nat) :
    (finishN (n + 1) s c status retry).cmd c.id = none := by
  have hs : (settleChain (closeCmd s c status retry) c status).cmd c.id = none := by
    rw [State.cmd_congr (settleChain_cmds _ _ _)]
    exact closeCmd_cmd_self s c status retry
  rw [finishN_succ]
  split
  · exact hs
  · split
    · rw [State.cmd_setCmd, hs, Option.map_none]
    · exact finishN_cmd_of_none n hs _ _ _

theorem finish_cmd_self (s : State) (c : Cmd) (status : Nat) : (finish s c status).cmd c.id = none :=
  finishN_cmd_self _ _ _ _ _

theorem finish_cmd_of_none {s : State} {i : Nat} (h : s.cmd i = none) (c : Cmd) (status : Nat) :
    (finish s c status).cmd i = none := finishN_cmd_of_none _ h _ _ _

theorem finishId_cmd_self (s : State) (i status : Nat) : (finishId s i status).cmd i = none := by
  unfold finishId
  split
  case h_1 c hc =>
    rw [← State.id_of_cmd hc]
    exact finish_cmd_self s c status
  case h_2 h => exact h

theorem finishId_cmd_of_none {s : State} {i : Nat} (h : s.cmd i = none) (j status : Nat) :
    (finishId s j status).cmd i = none := by
  unfold finishId
  split
  · exact finish_cmd_of_none h _ _
  · exact h

theorem finishIds_cmd_of_none {s : State} {i : Nat} (h : s.cmd i = none) (ids : List Nat) (status : Nat) :
    (finishIds s ids status).cmd i = none := by
  unfold finishIds
  induction ids generalizing s with
  | nil => exact h
  | cons j ids ih => exact ih (finishId_cmd_of_none h j status)

/-- The completion of a command that no other is chained behind writes its own entry only. -/
theorem finish_host_of_alone {s : State} {c : Cmd} (h : ∀ d ∈ s.cmds, d.pred ≠ some c.id) (status : Nat) :
    (finish s c status).host = (closeCmd s c status 0).host := by
  have hnone : ((closeCmd s c status 0).cmds.find? fun d => d.pred == some c.id) = none := by
    rw [closeCmd_cmds, List.find?_eq_none]
    intro d hd
    simpa using h d (List.mem_filter.mp hd).1
  unfold finish finishWith
  rw [finishN_succ, hnone, settleChain_host]

/-! Completions in a row change what one completion may. -/

theorem finishIds_frame (s : State) (ids : List Nat) (status : Nat) :
    (finishIds s ids status).requests = s.requests ∧ (finishIds s ids status).hbm = s.hbm := by
  unfold finishIds
  induction ids generalizing s with
  | nil => exact ⟨rfl, rfl⟩
  | cons j ids ih => simpa using ih (finishId s j status)

/-! Requests, their pages and their slots (07 R161, R163). -/

theorem State.request_congr {s t : State} (h : t.requests = s.requests) (p k n : Nat) : t.request p k n = s.request p k n := by
  simp only [State.request, h]

/-- A request that is found bears the numbers it is found under. -/
theorem State.place_of_request {s : State} {p k n : Nat} {r : Request} (h : s.request p k n = some r) :
    r.part = p ∧ r.plan = k ∧ r.slot = n := by
  obtain ⟨x, -, rfl⟩ := Option.map_eq_some_iff.mp h
  exact ⟨rfl, rfl, rfl⟩

theorem State.request_setRequest {s : State} {r : Request} {p k n : Nat} (hp : r.part = p) (hk : r.plan = k) (hn : r.slot = n) :
    (s.setRequest r).request p k n = some r := by
  subst hp hk hn
  exact State.request_setRequest_self s r

theorem State.request_freeRequest {s : State} {r : Request} {p k n : Nat} (hp : r.part = p) (hk : r.plan = k) (hn : r.slot = n) :
    (s.freeRequest r).request p k n = none := by
  simp [State.request, State.freeRequest, Tab.find_del_self, hp, hk, hn]

theorem releasePages_frame (s : State) (r : Request) :
    releasePages s r = { s with nodes := (releasePages s r).nodes, plans := (releasePages s r).plans } := by
  unfold releasePages; dsimp only; split <;> rfl

theorem writeProgress_frame (s : State) (r : Request) (state reason : Nat) : writeProgress s r state reason =
    { s with host := (writeProgress s r state reason).host, hif := (writeProgress s r state reason).hif } := by
  unfold writeProgress putProgress
  split
  · split <;> rfl
  · rfl

/-- The slot of a closed request is FREE (07 R163). -/
theorem closeRequest_request {r : Request} {p k n : Nat} (hp : r.part = p) (hk : r.plan = k) (hn : r.slot = n) (s : State)
    (status : Nat) : (closeRequest s r status).request p k n = none := by
  have hfree : ((releasePages s r).freeRequest r).request p k n = none := State.request_freeRequest hp hk hn
  unfold closeRequest
  rw [State.request_congr (finishIds_frame _ _ _).1, State.request_congr (finishIds_frame _ _ _).1]
  split
  · rw [State.request_congr (finishId_requests _ _ _), hfree]
  · exact hfree

theorem closeRequest_cmd {r : Request} {k : Nat} (h : r.cmd = some k) (s : State) (status : Nat) :
    (closeRequest s r status).cmd k = none := by
  unfold closeRequest
  simp only [h]
  exact finishIds_cmd_of_none (finishIds_cmd_of_none (finishId_cmd_self _ k status) _ _) _ _

theorem closeRequest_hbm (s : State) (r : Request) (status : Nat) : (closeRequest s r status).hbm = s.hbm := by
  unfold closeRequest
  rw [(finishIds_frame _ _ _).2, (finishIds_frame _ _ _).2]
  split
  · rw [finishId_hbm, State.freeRequest_hbm, releasePages_frame]
  · rw [State.freeRequest_hbm, releasePages_frame]

theorem endRequest_hbm (s : State) (r : Request) (status reason : Nat) : (endRequest s r status reason).hbm = s.hbm := by
  rw [endRequest, closeRequest_hbm, writeProgress_frame]

/-! Requests queued (07 R163, 15 R336). -/

theorem joinIdle_frame (s : State) (p c : Nat) : joinIdle s p c = { s with runs := (joinIdle s p c).runs } := by
  unfold joinIdle
  dsimp only
  split
  · rfl
  · split <;> rfl

/-- A client that joins takes no admit_order. -/
theorem joinIdle_admitNext (s : State) (p c : Nat) : ((joinIdle s p c).partRun p).admitNext = (s.partRun p).admitNext := by
  unfold joinIdle
  dsimp only
  split
  · rfl
  · split
    · rw [State.partRun_setRun_self]
    · rfl

theorem enqueue_frame (s : State) (r : Request) :
    enqueue s r = { s with runs := (enqueue s r).runs, requests := (enqueue s r).requests } := by
  unfold enqueue
  rw [joinIdle_frame]
  rfl

@[simp] theorem enqueue_host (s : State) (r : Request) : (enqueue s r).host = s.host := by rw [enqueue_frame]
@[simp] theorem enqueue_hbm (s : State) (r : Request) : (enqueue s r).hbm = s.hbm := by rw [enqueue_frame]
@[simp] theorem enqueue_cmds (s : State) (r : Request) : (enqueue s r).cmds = s.cmds := by rw [enqueue_frame]

theorem enqueue_request {r : Request} {p k n : Nat} (hp : r.part = p) (hk : r.plan = k) (hn : r.slot = n) (s : State) :
    (enqueue s r).request p k n = some { r with state := .queued, admitOrder := (s.partRun p).admitNext } := by
  rw [← hp, ← joinIdle_admitNext s r.part r.client]
  exact State.request_setRequest rfl hk hn

/-! Seeds from the generator (09 R208, R209). -/

theorem drbgBytes_frame {s t : State} {n : Nat} {bs : List Byte} (h : drbgBytes s n = some (bs, t)) :
    t = { s with free := t.free, rng := t.rng } := by
  unfold drbgBytes at h
  split at h
  · simp at h
  · obtain ⟨-, rfl⟩ := Prod.mk.inj (Option.some.inj h)
    split <;> rfl

theorem drawSeedN_frame {k : Nat} {s t : State} {w : Word64} (h : drawSeedN k s = some (w, t)) :
    t = { s with free := t.free, rng := t.rng } := by
  induction k generalizing s with
  | zero => simp [drawSeedN] at h
  | succ k ih =>
    rw [drawSeedN] at h
    split at h
    case h_1 => simp at h
    case h_2 bs s1 hb =>
      have hs1 := drbgBytes_frame hb
      split at h
      · rw [ih h, hs1]
      · obtain ⟨-, rfl⟩ := Prod.mk.inj (Option.some.inj h)
        rw [hs1]

theorem drawSeed_frame {s t : State} {w : Word64} (h : drawSeed s = some (w, t)) :
    t = { s with free := t.free, rng := t.rng } := drawSeedN_frame h

end Sys2Proof.Machine
end

section
/-! A command under way: what its start leaves unchanged, and how it completes (14 R314, R315, R325). -/

namespace Sys2Proof.Machine

/-- Machine t is s in everything that a sequence command of function f reads or must not touch. -/
structure SameWork (f : Nat) (s t : State) : Prop where
  host : t.host = s.host
  hbm : t.hbm = s.hbm
  cqs : t.cqs = s.cqs
  plans : t.plans = s.plans
  requests : t.requests = s.requests
  runs : t.runs = s.runs
  windows : ∀ a n, inWindows t f a n = inWindows s f a n

namespace SameWork
variable {f : Nat} {s t u : State}

theorem trans (h : SameWork f s t) (h' : SameWork f t u) : SameWork f s u where
  host := h'.host.trans h.host
  hbm := h'.hbm.trans h.hbm
  cqs := h'.cqs.trans h.cqs
  plans := h'.plans.trans h.plans
  requests := h'.requests.trans h.requests
  runs := h'.runs.trans h.runs
  windows a n := (h'.windows a n).trans (h.windows a n)

theorem cq (h : SameWork f s t) (g q : Nat) : t.cq g q = s.cq g q := by simp only [State.cq, h.cqs]

theorem plan (h : SameWork f s t) (p k : Nat) : t.plan p k = s.plan p k := by simp only [State.plan, h.plans]

theorem partRun (h : SameWork f s t) (p : Nat) : t.partRun p = s.partRun p := by simp only [State.partRun, h.runs]

theorem request (h : SameWork f s t) (p k n : Nat) : t.request p k n = s.request p k n := State.request_congr h.requests p k n

theorem inStep_eq (h : SameWork f s t) (r : Request) : inStep t r = inStep s r := by simp only [inStep, h.partRun]

end SameWork

/-- Taking a descriptor changes counters of its function, never a window. -/
theorem inWindows_takeHead (s : State) (f q : Nat) (d : List Byte) (a n : Nat) :
    inWindows (takeHead s f q d).1 f a n = inWindows s f a n := by
  have hfn : ∃ cmds sq, (takeHead s f q d).1.fn f = { s.fn f with cmds := cmds, lastSq := sq } :=
    ⟨_, _, State.fn_setFn_self _ f _⟩
  obtain ⟨cmds, sq, hfn⟩ := hfn
  simp only [inWindows, hfn]

theorem sameWork_setCmd (f : Nat) (s : State) (c : Cmd) : SameWork f s (s.setCmd c) :=
  ⟨rfl, rfl, rfl, rfl, rfl, rfl, fun _ _ => rfl⟩

theorem sameWork_chargeClient (f : Nat) (s : State) (k : Nat) (ch : Charge) : SameWork f s (chargeClient s k ch) :=
  ⟨rfl, rfl, rfl, rfl, rfl, rfl, fun _ _ => rfl⟩

theorem sameWork_charge (f : Nat) (s : State) (c : Cmd) (ch : Charge) : SameWork f s (chargeCmd s c ch).1 :=
  (sameWork_chargeClient f s _ ch).trans (sameWork_setCmd f _ _)

theorem sameWork_hostRead (f : Nat) (s : State) (a n : Nat) : SameWork f s (hostRead s a n).2 :=
  ⟨rfl, rfl, rfl, rfl, rfl, rfl, fun _ _ => rfl⟩

theorem sameWork_drawSeed (f : Nat) {s t : State} {w : Word64} (h : drawSeed s = some (w, t)) : SameWork f s t := by
  rw [drawSeed_frame h]
  exact ⟨rfl, rfl, rfl, rfl, rfl, rfl, fun _ _ => rfl⟩

/-- In t the command c of descriptor d, which lay at HEAD of ring q of function f in s, is open, it is chained behind no command and
none behind it, and the work is as in s. -/
structure Underway (s : State) (f q : Nat) (d : List Byte) (t : State) (c : Cmd) : Prop where
  id : c.id = s.nextId
  fn : c.fn = f
  cq : c.cq = (s.sq f q).cq.toNat
  desc : c.desc = d
  free : c.pred = none
  found : t.cmd s.nextId = some c
  alone : ∀ e ∈ t.cmds, e.pred ≠ some s.nextId
  same : SameWork f s t

namespace Underway
variable {s t t' : State} {f q : Nat} {d : List Byte} {c c' : Cmd}

theorem place_eq (h : Underway s f q d t c) : entryPlace t c = nextEntry s f q := by
  simp only [entryPlace, nextEntry, h.same.cq, h.fn, h.cq]

/-- It stays under way while nothing of the work or of the open commands changes. -/
theorem frame (h : Underway s f q d t c) (hs : SameWork f t t') (hc : t'.cmds = t.cmds) : Underway s f q d t' c :=
  { h with
    found := (State.cmd_congr hc _).trans h.found
    alone := hc ▸ h.alone
    same := h.same.trans hs }

/-- It stays under way when its own record changes but for where it comes from. -/
theorem setCmd (h : Underway s f q d t c) (hid : c'.id = c.id) (hfn : c'.fn = c.fn) (hcq : c'.cq = c.cq)
    (hdesc : c'.desc = c.desc) (hpred : c'.pred = c.pred) : Underway s f q d (t.setCmd c') c' where
  id := hid.trans h.id
  fn := hfn.trans h.fn
  cq := hcq.trans h.cq
  desc := hdesc.trans h.desc
  free := hpred.trans h.free
  found := by
    have hi := hid.trans h.id
    rw [← hi]
    exact State.cmd_setCmd_self (hi ▸ h.found)
  alone := by
    intro e he
    obtain ⟨x, hx, rfl⟩ := List.mem_map.mp he
    split
    · rw [hpred, h.free]; simp
    · exact h.alone x hx
  same := h.same.trans (sameWork_setCmd f t c')

theorem charge (h : Underway s f q d t c) (ch : Charge) : Underway s f q d (chargeCmd t c ch).1 (chargeCmd t c ch).2 :=
  (h.frame (sameWork_chargeClient f t _ ch) rfl).setCmd rfl rfl rfl rfl rfl

theorem read (h : Underway s f q d t c) (a n : Nat) : Underway s f q d (hostRead t a n).2 c :=
  h.frame (sameWork_hostRead f t a n) rfl

theorem draw {w : Word64} (h : Underway s f q d t c) (hd : drawSeed t = some (w, t')) : Underway s f q d t' c :=
  h.frame (sameWork_drawSeed f hd) (by rw [drawSeed_frame hd])

theorem accept (h : Underway s f q d t c) : Underway s f q d (acceptCmd t c) { c with state := .accepted } :=
  h.setCmd rfl rfl rfl rfl rfl

/-- Its completion writes its entry in the place of s, and no later one over it. -/
theorem completesWith (h : Underway s f q d t c) (hfit : EntryFits s f q) {status : Nat} (hst : status < 65536) :
    CompletesWith s (finish t c status) f q d status := by
  have hwin : inWindows t c.fn (entryPlace t c) 32 = true := by rw [h.place_eq, h.fn, h.same.windows]; exact hfit
  have hentry := entryAt_closeCmd hwin hst 0
  rw [← finish_host_of_alone (h.id.symm ▸ h.alone), h.place_eq] at hentry
  obtain ⟨htag, hstatus⟩ := hentry
  exact ⟨htag.trans (by rw [h.desc]), hstatus, h.id ▸ finish_cmd_self t c status⟩

end Underway

/-- A command that ring order lets start is chained behind none. -/
theorem StartsNow.pred_eq_none {op : Nat} {s : State} {f q : Nat} {d : List Byte} (h : StartsNow op s f q d) :
    (takenCmd s f q d).pred = none := by
  have ho := h.order
  simp only [orderWaits, Bool.or_eq_false_iff] at ho
  obtain ⟨⟨-, hp⟩, -⟩ := ho
  simpa using hp

theorem takeHead_cmds (s : State) (f q : Nat) (d : List Byte) :
    (takeHead s f q d).1.cmds = s.cmds ++ [takenCmd s f q d] := rfl

@[simp] theorem takenCmd_desc (s : State) (f q : Nat) (d : List Byte) : (takenCmd s f q d).desc = d := rfl

/-- The command taken is the one open command of its number. -/
theorem cmd_takeHead {s : State} (h : s.Inv) (f q : Nat) (d : List Byte) :
    (takeHead s f q d).1.cmd s.nextId = some (takenCmd s f q d) := by
  have hold : (s.cmds.find? fun c => c.id == s.nextId) = none := by
    rw [List.find?_eq_none]
    intro c hc
    have := (h.numbered.cmds c hc).1
    simp; omega
  have hid : (takenCmd s f q d).id = s.nextId := rfl
  simp [State.cmd, takeHead_cmds, List.find?_append, hold, hid]

theorem Runs.taken {op : Nat} {s : State} {f q : Nat} {d : List Byte} (h : Runs op s f q d) :
    Underway s f q d (takeHead s f q d).1 (takenCmd s f q d) where
  id := rfl
  fn := rfl
  cq := rfl
  desc := rfl
  free := h.pred_eq_none
  found := cmd_takeHead h.inv f q d
  alone := by
    intro e he hp
    rw [takeHead_cmds, List.mem_append, List.mem_singleton] at he
    rcases he with hold | rfl
    · exact absurd ((h.inv.numbered.cmds e hold).2 _ hp) (Nat.lt_irrefl _)
    · simp [h.pred_eq_none] at hp
  same := ⟨rfl, rfl, rfl, rfl, rfl, rfl, inWindows_takeHead s f q d⟩

/-- The command of a descriptor that starts at once is under way in the machine where it starts. -/
theorem Runs.underway {op : Nat} {s : State} {f q : Nat} {d : List Byte} (h : Runs op s f q d) :
    Underway s f q d (startedState s f q d) (runningCmd s f q d) :=
  h.taken.setCmd rfl rfl rfl rfl rfl

section Start
variable {op : Nat} {s : State} {f q : Nat} {d : List Byte} (h : StartsNow op s f q d) (htwo : twoPart d = false) (env : Env)
  (early : State → Cmd → Option Nat) (run : State → Cmd → Env → State)
include h

theorem startCmd_of_startsNow : startCmd (takeHead s f q d).1 (takenCmd s f q d) env run =
    run (startedState s f q d) (runningCmd s f q d) env := by
  have hheader : headerVerdict (takeHead s f q d).1 (takenCmd s f q d).fn d (takenCmd s f q d).takenAt = none := h.header
  have htime : ¬ (takeHead s f q d).1.now < dNotBefore d := Nat.not_lt.mpr h.time
  simp only [startCmd, takenCmd_desc, hheader, ite_self, htime, if_false]
  rfl

include htwo

theorem beginCmd_of_startsNow : beginCmd (takeHead s f q d).1 (takenCmd s f q d) false env early run =
    run (startedState s f q d) (runningCmd s f q d) env := by
  have hverdict : takenVerdict (takeHead s f q d).1 (takenCmd s f q d) early = none := by
    simp only [takenVerdict, takenCmd_desc, htwo, Bool.false_eq_true, if_false]
  simp only [beginCmd, hverdict, h.order, h.serial, Bool.or_self, Bool.false_eq_true, if_false,
    startCmd_of_startsNow h]

/-- A descriptor checked in one part that starts at once does what its opcode means. -/
theorem takeRow_of_startsNow : takeRow op f q env early run s = run (startedState s f q d) (runningCmd s f q d) env := by
  have hbroken : ((s.sq f q).chain == .broken) = false := by simpa using h.unbroken
  unfold takeRow
  simp only [h.found, h.opcode_eq, decide_true, Bool.true_or, if_true, hbroken]
  exact beginCmd_of_startsNow h htwo env early run

end Start

end Sys2Proof.Machine
end

section
/-! SEQ_SUBMIT, SEQ_APPEND and SEQ_RELEASE (07 R164, R165, R169, R170). -/

namespace Sys2Proof.Machine

section Exec
variable {s : State} {f q : Nat} {d : List Byte} (env : Env)

theorem exec_seqSubmit (h : Runs 0x0030 s f q d) :
    exec (.seqSubmit f q env) s = .next (runSeqSubmit (startedState s f q d) (runningCmd s f q d) env) :=
  congrArg Host.Outcome.next (takeRow_of_startsNow h.toStartsNow (by simp [twoPart, h.opcode_eq]) env noEarly runSeqSubmit)

theorem exec_seqAppend (h : Runs 0x0031 s f q d) :
    exec (.seqAppend f q env) s = .next (runSeqAppend (startedState s f q d) (runningCmd s f q d) env) :=
  congrArg Host.Outcome.next (takeRow_of_startsNow h.toStartsNow (by simp [twoPart, h.opcode_eq]) env noEarly runSeqAppend)

theorem exec_seqRelease (h : Runs 0x0032 s f q d) :
    exec (.seqRelease f q env) s = .next (runSeqRelease (startedState s f q d) (runningCmd s f q d) env) :=
  congrArg Host.Outcome.next (takeRow_of_startsNow h.toStartsNow (by simp [twoPart, h.opcode_eq]) env noEarly runSeqRelease)

end Exec

/-- The tokens of a command are read where the host answers and each is below vocab (07 R165, R169). -/
theorem readTokens_of_clean {t : State} {c : Cmd} {env : Env} {pl : Plan} (henv : CleanEnv env)
    (hpl : t.plan (dPart c.desc) (dHandle c.desc) = some pl)
    (htoks : ∀ k ∈ tokensOf (Mem.readN t.host (sqAddr c.desc) (4 * sqLen c.desc)) (sqLen c.desc), k < vVocab pl.image) :
    readTokens t c env = ((hostRead t (sqAddr c.desc) (4 * sqLen c.desc)).2,
      some (tokensOf (Mem.readN t.host (sqAddr c.desc) (4 * sqLen c.desc)) (sqLen c.desc))) := by
  have hall : ((tokensOf (hostRead t (sqAddr c.desc) (4 * sqLen c.desc)).1 (sqLen c.desc)).all fun k =>
      decide (k < vVocab pl.image)) = true :=
    List.all_eq_true.mpr fun k hk => decide_eq_true (htoks k hk)
  simp only [readTokens, henv.host, Bool.not_true, Bool.and_false, Bool.false_eq_true, if_false, hpl, hall, if_true]
  rfl

/-- The seed of a submission: its own, or one of the generator where it gives none (07 R164, 09 R209). -/
def seedFor (s : State) (d : List Byte) : Option (Word64 × State) :=
  if sqSeed d = 0 then drawSeed s else some (BitVec.ofNat 64 (sqSeed d), s)

theorem exists_seedFor {s : State} {d : List Byte} (h : sqSeed d = 0 → (drawSeed s).isSome = true) :
    ∃ seed t, seedFor s d = some (seed, t) := by
  unfold seedFor
  split
  case isTrue h0 =>
    obtain ⟨⟨seed, t⟩, hx⟩ := Option.isSome_iff_exists.mp (h h0)
    exact ⟨seed, t, hx⟩
  case isFalse => exact ⟨_, _, rfl⟩

theorem Underway.seeded {s t t' : State} {f q : Nat} {d e : List Byte} {c : Cmd} {seed : Word64} (h : Underway s f q d t c)
    (hs : seedFor t e = some (seed, t')) : Underway s f q d t' c := by
  unfold seedFor at hs
  split at hs
  · exact h.draw hs
  · obtain ⟨-, rfl⟩ := Prod.mk.inj (Option.some.inj hs)
    exact h

section Run
variable {s g : State} {c : Cmd} {env : Env} {toks : List Nat}

/-- A submission whose checks pass queues the request it makes. -/
theorem runSeqSubmit_of_checks {t : State} {seed : Word64} (hst : submitStatus s c = none)
    (hread : readTokens (chargeCmd s c env.charge).1 (chargeCmd s c env.charge).2 env = (g, some toks))
    (hseed : seedFor g c.desc = some (seed, t)) : runSeqSubmit s c env =
      enqueue (acceptCmd t (chargeCmd s c env.charge).2) (submitted c toks seed) := by
  unfold seedFor at hseed
  simp only [runSeqSubmit, hst, hread, hseed]

/-- An append whose checks pass applies to a DONE request that holds none, and is held by any other. -/
theorem runSeqAppend_of_checks {r : Request} (hst : appendStatus s c = none)
    (hread : readTokens (chargeCmd s c env.charge).1 (chargeCmd s c env.charge).2 env = (g, some toks))
    (hr : s.request (dPart c.desc) (dHandle c.desc) (sqSlot c.desc) = some r) : runSeqAppend s c env =
      if r.state = .done ∧ r.held = [] then applyHeld [(c.id, toks)] (acceptCmd g (chargeCmd s c env.charge).2) r
      else (acceptCmd g (chargeCmd s c env.charge).2).setRequest { r with held := r.held ++ [(c.id, toks)] } := by
  simp only [runSeqAppend, hst, hread, hr, Bool.and_eq_true, decide_eq_true_eq, List.isEmpty_iff]

section Release
variable {pl : Plan} (hpl : s.plan (dPart c.desc) (dHandle c.desc) = some pl) (hslot : hasSlot pl c.desc = true)
include hpl hslot

/-- A release of a FREE slot is over at once (07 R170). -/
theorem runSeqRelease_of_free (hr : s.request (dPart c.desc) (dHandle c.desc) (sqSlot c.desc) = none) :
    runSeqRelease s c env = finish (chargeCmd s c env.charge).1 (chargeCmd s c env.charge).2 stOk := by
  have hr' := (State.request_congr (chargeCmd_requests s c env.charge) _ _ _).trans hr
  simp only [runSeqRelease, hpl, hslot, hr', Bool.not_true, Bool.false_eq_true, if_false]

/-- A release of a request acts at the end of the step it is in, or else at once (07 R170). -/
theorem runSeqRelease_of_request {r : Request} (hr : s.request (dPart c.desc) (dHandle c.desc) (sqSlot c.desc) = some r) :
    runSeqRelease s c env =
      if inStep s r then (chargeCmd s c env.charge).1.setRequest { r with releases := r.releases ++ [c.id] }
      else finishId (endRequest (chargeCmd s c env.charge).1 r stCancelled 6) c.id stOk := by
  have hr' := (State.request_congr (chargeCmd_requests s c env.charge) _ _ _).trans hr
  have hstep : inStep (chargeCmd s c env.charge).1 r = inStep s r := (sameWork_charge 0 s c env.charge).inStep_eq r
  simp only [runSeqRelease, hpl, hslot, hr', hstep, Bool.not_true, Bool.false_eq_true, if_false]

end Release

/-- One held append applies to a DONE request while the log stays within max_context, and completes with ST_BAD_DESC beyond it
(07 R169). -/
theorem applyHeld_single {i : Nat} {r : Request} (hc : s.cmd i = some c) (hh : r.held = []) : applyHeld [(i, toks)] s r =
    if contextOf s r < r.log.length + toks.length then (finish s c stBadDesc).setRequest r
    else enqueue (releasePages s r) (r.appended c toks []) := by
  have hr : { r with held := [] } = r := by rw [← hh]
  simp only [applyHeld, hc, hr]

end Run

/-- The tokens that lie in host memory for a sequence command. -/
def tokensAt (s : State) (d : List Byte) : List Nat := tokensOf (Mem.readN s.host (sqAddr d) (4 * sqLen d)) (sqLen d)

/-- The machine where a command has started and its tokens have been read. -/
def readingState (s : State) (f q : Nat) (d : List Byte) (env : Env) : State :=
  (hostRead (chargeCmd (startedState s f q d) (runningCmd s f q d) env.charge).1 (sqAddr d) (4 * sqLen d)).2

/-- The command of descriptor d, charged. -/
def chargedCmd (s : State) (f q : Nat) (d : List Byte) (env : Env) : Cmd := (runningCmd s f q d).charged env.charge

/-- That command accepted as far as fences go (14 R314). -/
def acceptedCmd (s : State) (f q : Nat) (d : List Byte) (env : Env) : Cmd := { chargedCmd s f q d env with state := .accepted }

/-- The machine where its tokens have been read and it has been accepted. -/
def acceptedState (s : State) (f q : Nat) (d : List Byte) (env : Env) : State :=
  acceptCmd (readingState s f q d env) (chargedCmd s f q d env)

section Started
variable {op : Nat} {s : State} {f q : Nat} {d : List Byte} {env : Env} {pl : Plan}

theorem underway_reading (h : Runs op s f q d) (env : Env) :
    Underway s f q d (readingState s f q d env) (chargedCmd s f q d env) :=
  (h.underway.charge env.charge).read _ _

theorem underway_accepted (h : Runs op s f q d) (env : Env) :
    Underway s f q d (acceptedState s f q d env) (acceptedCmd s f q d env) := (underway_reading h env).accept

theorem readTokens_started (h : Runs op s f q d) (henv : CleanEnv env) (hpl : s.plan (dPart d) (dHandle d) = some pl)
    (htoks : ∀ k ∈ tokensAt s d, k < vVocab pl.image) :
    readTokens (chargeCmd (startedState s f q d) (runningCmd s f q d) env.charge).1
      (chargeCmd (startedState s f q d) (runningCmd s f q d) env.charge).2 env
        = (readingState s f q d env, some (tokensAt s d)) := by
  exact readTokens_of_clean henv (((h.underway.charge env.charge).same.plan _ _).trans hpl) htoks

/-! SEQ_SUBMIT. -/

theorem exec_seqSubmit_of_checks (h : Runs 0x0030 s f q d) (henv : CleanEnv env)
    (hpl : s.plan (dPart d) (dHandle d) = some pl) (hst : submitStatus (startedState s f q d) (runningCmd s f q d) = none)
    (htoks : ∀ k ∈ tokensAt s d, k < vVocab pl.image) {seed : Word64} {g : State}
    (hseed : seedFor (readingState s f q d env) d = some (seed, g)) : exec (.seqSubmit f q env) s =
      .next (enqueue (acceptCmd g (chargedCmd s f q d env)) (submitted (runningCmd s f q d) (tokensAt s d) seed)) := by
  rw [exec_seqSubmit env h, runSeqSubmit_of_checks hst (readTokens_started h henv hpl htoks) hseed]
  rfl

theorem seqSubmit_queues (h : Runs 0x0030 s f q d) (henv : CleanEnv env) (hpl : s.plan (dPart d) (dHandle d) = some pl)
    (hst : submitStatus (startedState s f q d) (runningCmd s f q d) = none) (htoks : ∀ k ∈ tokensAt s d, k < vVocab pl.image)
    (hdraw : sqSeed d = 0 → (drawSeed (readingState s f q d env)).isSome = true) :
    ∃ t r, exec (.seqSubmit f q env) s = .next t ∧ t.request (dPart d) (dHandle d) (sqSlot d) = some r
      ∧ r.state = .queued ∧ r.log = tokensAt s d ∧ r.maxNew = sqMax d ∧ r.pages = []
      ∧ (sqSeed d ≠ 0 → r.seed = BitVec.ofNat 64 (sqSeed d))
      ∧ (sqSeed d = 0 → ∀ x, drawSeed (readingState s f q d env) = some x → r.seed = x.1)
      ∧ r.computed = 0 ∧ r.generated = 0 ∧ r.cmd = some s.nextId ∧ r.client = dClient d
      ∧ r.admitOrder = (s.partRun (dPart d)).admitNext
      ∧ (∃ k, t.cmd s.nextId = some k ∧ k.state = .accepted) ∧ t.host = s.host ∧ t.hbm = s.hbm := by
  obtain ⟨seed, g, hseed⟩ := exists_seedFor hdraw
  have hacc := ((underway_reading h env).seeded hseed).accept
  have hrun := exec_seqSubmit_of_checks h henv hpl hst htoks hseed
  have hown : sqSeed d ≠ 0 → seed = BitVec.ofNat 64 (sqSeed d) := by
    intro h0
    rw [seedFor, if_neg h0] at hseed
    exact (Prod.mk.inj (Option.some.inj hseed)).1.symm
  have hdrawn : sqSeed d = 0 → ∀ x, drawSeed (readingState s f q d env) = some x → seed = x.1 := by
    intro h0 x hx
    rw [seedFor, if_pos h0, hx] at hseed
    exact congrArg Prod.fst (Option.some.inj hseed).symm
  exact ⟨_, _, hrun, enqueue_request rfl rfl rfl _, rfl, rfl, rfl, rfl, hown, hdrawn, rfl, rfl, rfl, rfl,
    congrArg PartRun.admitNext (hacc.same.partRun _),
    ⟨_, (State.cmd_congr (enqueue_cmds _ _) _).trans hacc.found, rfl⟩,
    (enqueue_host _ _).trans hacc.same.host, (enqueue_hbm _ _).trans hacc.same.hbm⟩

/-! SEQ_APPEND. -/

section Append
variable {r : Request} (h : Runs 0x0031 s f q d) (henv : CleanEnv env) (hpl : s.plan (dPart d) (dHandle d) = some pl)
  (hst : appendStatus (startedState s f q d) (runningCmd s f q d) = none) (htoks : ∀ k ∈ tokensAt s d, k < vVocab pl.image)
  (hr : s.request (dPart d) (dHandle d) (sqSlot d) = some r)
include h henv hpl hst htoks hr

theorem exec_seqAppend_of_checks : exec (.seqAppend f q env) s = .next (
    if r.state = .done ∧ r.held = [] then
      applyHeld [(s.nextId, tokensAt s d)] (acceptedState s f q d env) r
    else (acceptedState s f q d env).setRequest
      { r with held := r.held ++ [(s.nextId, tokensAt s d)] }) := by
  rw [exec_seqAppend env h, runSeqAppend_of_checks hst (readTokens_started h henv hpl htoks)
    ((h.underway.same.request _ _ _).trans hr)]
  rfl

/-- An append to a DONE request is decided by the room its plan leaves the log (07 R169). -/
theorem exec_seqAppend_of_done (hdone : r.state = .done) (hheld : r.held = []) : exec (.seqAppend f q env) s = .next (
    if vContext pl.image < r.log.length + (tokensAt s d).length then
      (finish (acceptedState s f q d env)
        (acceptedCmd s f q d env) stBadDesc).setRequest r
    else enqueue (releasePages (acceptedState s f q d env) r)
      (r.appended (acceptedCmd s f q d env) (tokensAt s d) [])) := by
  have hacc := underway_accepted h env
  obtain ⟨hp, hk, -⟩ := State.place_of_request hr
  have hcontext : contextOf (acceptedState s f q d env) r = vContext pl.image := by
    simp only [contextOf, hacc.same.plan, hp, hk, hpl]
  rw [exec_seqAppend_of_checks h henv hpl hst htoks hr, if_pos ⟨hdone, hheld⟩, applyHeld_single hacc.found hheld, hcontext]

theorem seqAppend_requeues (hdone : r.state = .done) (hheld : r.held = [])
    (hroom : r.log.length + (tokensAt s d).length ≤ vContext pl.image) :
    ∃ t x, exec (.seqAppend f q env) s = .next t ∧ t.request (dPart d) (dHandle d) (sqSlot d) = some x
      ∧ x.state = .queued ∧ x.log = r.log ++ tokensAt s d ∧ x.maxNew = sqMax d ∧ x.generated = 0 ∧ x.cmd = some s.nextId
      ∧ x.seed = r.seed ∧ x.pages = [] ∧ x.shared = 0 ∧ x.computed = 0 ∧ t.host = s.host ∧ t.hbm = s.hbm := by
  have hacc := underway_accepted h env
  have hrun := exec_seqAppend_of_done h henv hpl hst htoks hr hdone hheld
  rw [if_neg (Nat.not_lt.mpr hroom)] at hrun
  obtain ⟨hp, hk, hn⟩ := State.place_of_request hr
  have hqueued := enqueue_request (r := r.appended (acceptedCmd s f q d env) (tokensAt s d) []) hp hk hn
    (releasePages (acceptedState s f q d env) r)
  refine ⟨_, _, hrun, hqueued, rfl, rfl, rfl, rfl, rfl, rfl, rfl, rfl, rfl, ?_, ?_⟩
  · rw [enqueue_host, releasePages_frame, hacc.same.host]
  · rw [enqueue_hbm, releasePages_frame, hacc.same.hbm]

theorem seqAppend_refuses (hdone : r.state = .done) (hheld : r.held = [])
    (hlong : vContext pl.image < r.log.length + (tokensAt s d).length) :
    ∃ t, exec (.seqAppend f q env) s = .next t ∧ CompletesWith s t f q d stBadDesc
      ∧ t.request (dPart d) (dHandle d) (sqSlot d) = some r := by
  have hrun := exec_seqAppend_of_done h henv hpl hst htoks hr hdone hheld
  rw [if_pos hlong] at hrun
  obtain ⟨hp, hk, hn⟩ := State.place_of_request hr
  exact ⟨_, hrun, (underway_accepted h env).completesWith h.fits (by decide), State.request_setRequest hp hk hn⟩

theorem seqAppend_held (hopen : r.state ≠ .done ∨ r.held ≠ []) :
    ∃ t, exec (.seqAppend f q env) s = .next t ∧ t.host = s.host
      ∧ t.request (dPart d) (dHandle d) (sqSlot d) = some { r with held := r.held ++ [(s.nextId, tokensAt s d)] }
      ∧ ∃ k, t.cmd s.nextId = some k ∧ k.state = .accepted := by
  have hacc := underway_accepted h env
  have hrun := exec_seqAppend_of_checks h henv hpl hst htoks hr
  rw [if_neg fun ⟨hd, hh⟩ => hopen.elim (· hd) (· hh)] at hrun
  obtain ⟨hp, hk, hn⟩ := State.place_of_request hr
  exact ⟨_, hrun, hacc.same.host, State.request_setRequest hp hk hn, _, hacc.found, rfl⟩

end Append

/-! SEQ_RELEASE. -/

section Release
variable (h : Runs 0x0032 s f q d) (hpl : s.plan (dPart d) (dHandle d) = some pl) (hslot : hasSlot pl d = true)
include h hpl hslot

theorem seqRelease_of_free (hr : s.request (dPart d) (dHandle d) (sqSlot d) = none) :
    ∃ t, exec (.seqRelease f q env) s = .next t ∧ CompletesWith s t f q d stOk ∧ t.requests = s.requests := by
  have hu := h.underway.charge env.charge
  have hrun := exec_seqRelease env h
  rw [runSeqRelease_of_free (c := runningCmd s f q d) ((h.underway.same.plan _ _).trans hpl) hslot
    ((h.underway.same.request _ _ _).trans hr)] at hrun
  exact ⟨_, hrun, hu.completesWith h.fits (by decide), (finish_requests _ _ _).trans hu.same.requests⟩

section Taken
variable {r : Request} (hr : s.request (dPart d) (dHandle d) (sqSlot d) = some r)
include hr

theorem exec_seqRelease_of_request : exec (.seqRelease f q env) s = .next (
    if inStep s r then
      (chargeCmd (startedState s f q d) (runningCmd s f q d) env.charge).1.setRequest
        { r with releases := r.releases ++ [s.nextId] }
    else finishId (endRequest (chargeCmd (startedState s f q d) (runningCmd s f q d) env.charge).1 r stCancelled 6)
      s.nextId stOk) := by
  rw [exec_seqRelease env h, runSeqRelease_of_request (c := runningCmd s f q d) ((h.underway.same.plan _ _).trans hpl) hslot
    ((h.underway.same.request _ _ _).trans hr), h.underway.same.inStep_eq, h.underway.id]

theorem seqRelease_frees (hstep : inStep s r = false) :
    ∃ t, exec (.seqRelease f q env) s = .next t ∧ t.request (dPart d) (dHandle d) (sqSlot d) = none
      ∧ t.cmd s.nextId = none ∧ (∀ k, r.cmd = some k → t.cmd k = none) ∧ t.hbm = s.hbm := by
  have hu := h.underway.charge env.charge
  have hrun := exec_seqRelease_of_request (env := env) h hpl hslot hr
  rw [if_neg (ne_true_of_eq_false hstep)] at hrun
  obtain ⟨hp, hk, hn⟩ := State.place_of_request hr
  refine ⟨_, hrun, ?_, finishId_cmd_self _ _ _, fun k hc => ?_, ?_⟩
  · rw [State.request_congr (finishId_requests _ _ _)]
    exact closeRequest_request hp hk hn _ _
  · exact finishId_cmd_of_none (closeRequest_cmd hc _ _) _ _
  · rw [finishId_hbm, endRequest_hbm, hu.same.hbm]

theorem seqRelease_waits (hstep : inStep s r = true) :
    ∃ t, exec (.seqRelease f q env) s = .next t ∧ (t.cmd s.nextId).isSome = true ∧ t.host = s.host
      ∧ t.request (dPart d) (dHandle d) (sqSlot d) = some { r with releases := r.releases ++ [s.nextId] } := by
  have hu := h.underway.charge env.charge
  have hrun := exec_seqRelease_of_request (env := env) h hpl hslot hr
  rw [if_pos hstep] at hrun
  obtain ⟨hp, hk, hn⟩ := State.place_of_request hr
  exact ⟨_, hrun, Option.isSome_of_eq_some hu.found, hu.same.host, State.request_setRequest hp hk hn⟩

end Taken
end Release
end Started

/-- Settles O57: each of the three sequence commands is run from the machine where its command has started, and the request it
leaves is the one its last step writes. That an append to a DONE request gives up its pages and sets computed to 0 is the model's
choice (log 82). -/
theorem sequencesQueueAndRelease : Obligations.SequencesQueueAndRelease := by
  intro s f q d env u c part h toks started pl hpl
  refine ⟨?submit, ?append, ?release⟩
  case submit =>
    intro hrun henv hst htoks hdraw
    exact seqSubmit_queues hrun henv hpl hst htoks hdraw
  case append =>
    intro hrun henv hst htoks r hr
    exact ⟨seqAppend_requeues hrun henv hpl hst htoks hr, seqAppend_refuses hrun henv hpl hst htoks hr,
      seqAppend_held hrun henv hpl hst htoks hr⟩
  case release =>
    intro hrun hslot
    exact ⟨seqRelease_of_free hrun hpl hslot,
      fun r hr => ⟨seqRelease_frees hrun hpl hslot hr, seqRelease_waits hrun hpl hslot hr⟩⟩

end Sys2Proof.Machine
end

section
/-! The interleave of the stacked memory (08 R189). -/

namespace Sys2Proof.Machine

theorem bitsOf_lt (v lo w : Nat) : bitsOf v lo w < 2 ^ w := Nat.mod_lt _ (Nat.two_pow_pos w)

theorem tileClass_lt (t : Nat) : tileClass t < 10 := Nat.mod_lt _ (by decide)

theorem tilePerm_lt (t : Nat) : tilePerm t < 2 ^ 6 := by
  have htop : bitsOf (t / 10) 24 2 < 2 ^ 6 := Nat.lt_trans (bitsOf_lt _ _ _) (by decide)
  unfold tilePerm
  exact Nat.xor_lt_two_pow (Nat.xor_lt_two_pow (Nat.xor_lt_two_pow (Nat.xor_lt_two_pow (bitsOf_lt _ _ _) (bitsOf_lt _ _ _))
    (bitsOf_lt _ _ _)) (bitsOf_lt _ _ _)) htop

/-- A channel's last decimal digit is its tile's class. -/
theorem atomChannel_mod (t a : Nat) : atomChannel t a % 10 = tileClass t := by
  have hclass := tileClass_lt t
  unfold atomChannel
  omega

theorem atomChannel_lt (t : Nat) {a : Nat} (ha : a < 64) : atomChannel t a < 640 := by
  have hplace : a ^^^ tilePerm t < 2 ^ 6 := Nat.xor_lt_two_pow ha (tilePerm_lt t)
  have hclass := tileClass_lt t
  unfold atomChannel
  omega

theorem atomChannel_inj {t a b : Nat} (h : atomChannel t a = atomChannel t b) : a = b := by
  unfold atomChannel at h
  have hplace : a ^^^ tilePerm t = b ^^^ tilePerm t := by omega
  have hback (c : Nat) : c ^^^ tilePerm t ^^^ tilePerm t = c := by rw [Nat.xor_assoc, Nat.xor_self, Nat.xor_zero]
  rw [← hback a, hplace, hback]

/-- The class of a tile gives back its place in its block of ten. -/
theorem channelTile_atomChannel (t a : Nat) : channelTile (atomChannel t a) (atomIndex t) = t := by
  rw [channelTile, atomChannel_mod, tileClass, atomIndex]
  omega

/-- Settles O36: the class of a tile is its place in its block, turned by the block's number, and an atom's place on the channels is
its number, xored with the tile's permutation. -/
theorem interleaveIsOneToOne : Obligations.InterleaveIsOneToOne := by
  intro t a b _ ha _
  exact ⟨channelTile_atomChannel t a, atomChannel_lt t ha, atomChannel_inj⟩

end Sys2Proof.Machine
end

section
/-! Rules for the state's tables and memories, and for the windows of the traffic generators (08 R204). -/

namespace Sys2Proof.Machine

/-- What every step of a fold keeps, the fold keeps. -/
theorem foldl_keeps {σ β γ : Type} {g : σ → γ} {f : σ → β → σ} (h : ∀ s x, g (f s x) = g s) (l : List β) (s : σ) :
    g (l.foldl f s) = g s := by
  induction l generalizing s with
  | nil => rfl
  | cons x l ih => exact (ih (f s x)).trans (h s x)

/-- Of two writes to one number the last stays. -/
theorem Tab.put_put {α : Type} (t : Tab α) (k : Nat) (v w : α) : Tab.put (Tab.put t k v) k w = Tab.put t k w := by
  induction t with
  | nil => simp [Tab.put]
  | cons e t ih =>
    obtain ⟨j, u⟩ := e
    by_cases hlt : k < j
    · simp [Tab.put, hlt]
    · by_cases heq : j = k
      · simp [Tab.put, heq]
      · simp [Tab.put, hlt, heq, ih]

@[simp] theorem State.setTg_setTg (s : State) (c : Nat) (v w : Tg) : (s.setTg c v).setTg c w = s.setTg c w :=
  congrArg (fun t => { s with tgs := t }) (Tab.put_put s.tgs c v w)

@[simp] theorem State.setStack_setStack (s : State) (k : Nat) (v w : Stack) : (s.setStack k v).setStack k w = s.setStack k w :=
  congrArg (fun t => { s with hbmStacks := t }) (Tab.put_put s.hbmStacks k v w)

theorem Tab.find_filter_keys {α : Type} (t : Tab α) (keep : Nat → Bool) (k : Nat) :
    Tab.find (t.filter fun e => keep e.1) k = if keep k then Tab.find t k else none := by
  induction t with
  | nil => simp [Tab.find]
  | cons e t ih =>
    obtain ⟨j, v⟩ := e
    by_cases heq : j = k
    · subst heq
      cases hkeep : keep j <;> simp [Tab.find, hkeep, ih]
    · cases hkeep : keep j <;> simp [Tab.find, hkeep, ih, heq]

/-- A memory of which some addresses are kept reads zero at the others. -/
theorem Mem.read_filter_keys (m : Tab Byte) (keep : Nat → Bool) (a : Nat) :
    Mem.read (m.filter fun e => keep e.1) a = if keep a then Mem.read m a else 0 := by
  unfold Mem.read Tab.get
  rw [Tab.find_filter_keys]
  split <;> rfl

/-! Fields of a register written whole (20 R423). -/

theorem accMerge_full (old v : Word64) : accMerge .full old v = v := by
  simp only [accMerge, accMask, BitVec.not_allOnes, BitVec.and_zero, BitVec.and_allOnes, BitVec.zero_or]

theorem wField_full (v : Word64) (w lo : Nat) (old : BitVec w) : wField .full v w lo old = BitVec.ofNat w (bitsOf v.toNat lo w) := by
  simp [wField, accField, accMerge_full]

theorem wBit_full (v : Word64) (lo : Nat) (old : Bool) : wBit .full v lo old = bitOf v.toNat lo := rfl

end Sys2Proof.Machine
end

section
/-! Stack training and the traffic generators (08 R201, R202, R204). -/

namespace Sys2Proof.Machine

theorem exec_hbmTrain (k : Nat) (ok : Bool) (s : State) : exec (.hbmTrain k ok) s = execHbmTrain k ok s := rfl
theorem exec_hbmTgStart (ch : Nat) (v : Word64) (s : State) : exec (.hbmTgStart ch v) s = .next (tgStart s ch v) := rfl
theorem exec_hbmTgStop (ch : Nat) (s : State) : exec (.hbmTgStop ch) s = .next (tgStop s ch) := rfl
theorem exec_hbmTgRunEnd (ch : Nat) (faults : List TgFault) (lat : List Nat) (s : State) :
    exec (.hbmTgRunEnd ch faults lat) s = execHbmTgRunEnd ch faults lat s := rfl

theorem hbmTrain_of_live {s : State} {k : Nat} (hk : k < 20) (hlive : s.run.failed = false) (ok : Bool) :
    exec (.hbmTrain k ok) s = .next (if s.run.phase = .stage0 then trainForTg s k ok else s) := by
  simp only [exec_hbmTrain, execHbmTrain, hk, hlive, and_true]

/-! Start and stop. -/

/-- A generator of which TG_CTRL has been written. -/
def Tg.withCtrl (g : Tg) (v : Word64) : Tg :=
  { g with
    pattern := BitVec.ofNat 3 (bitsOf v.toNat 2 3), op := BitVec.ofNat 2 (bitsOf v.toNat 5 2), continuous := bitOf v.toNat 7
    share := BitVec.ofNat 8 (bitsOf v.toNat 8 8) }

/-- A generator whose run begins at an MTC time, its results at zero. -/
def Tg.fresh (g : Tg) (now : Nat) : Tg :=
  { g with
    stop := false, errBits := 0, errAtoms := 0, firstErr := 0, rdBytes := 0, wrBytes := 0, timeNs := 0
    lat := List.replicate 16 0, startedAt := now }

theorem writeTg_ctrl (s : State) (ch : Nat) (v : Word64) : writeTg s ch 0x000 .full v = s.setTg ch ((s.tg ch).withCtrl v) := by
  simp only [writeTg, if_true, wField_full, wBit_full, Tg.withCtrl]

theorem tgRefused_setTg (s : State) (ch : Nat) (g : Tg) : tgRefused (s.setTg ch g) ch g = tgRefused s ch g := rfl

theorem tgRefused_iff (s : State) (ch : Nat) (g : Tg) : tgRefused s ch g = true ↔
    6 ≤ g.pattern.toNat ∨ g.op = 3 ∧ g.pattern ≠ 5 ∨ g.last.toNat < g.first.toNat ∨ 46875000 ≤ g.last.toNat
      ∨ g.pattern ≠ 5 ∧ noLiveData s = false ∨ (s.stack (ch / 32)).trained = false := by
  simp only [tgRefused, Bool.or_eq_true, Bool.and_eq_true, decide_eq_true_eq, beq_iff_eq, bne_iff_ne, Bool.not_eq_true', or_assoc]

/-- An idle generator of channel ch that is told to start: refused, done at once, or busy. -/
def Tg.begun (g : Tg) (s : State) (ch : Nat) : Tg :=
  if tgRefused s ch g then { g with refused := true }
  else if g.loops = 0 ∧ g.continuous = false then { g.fresh s.now with done := true }
  else { g.fresh s.now with busy := true }

section Begun
variable {g : Tg} {s : State} {ch : Nat}

theorem Tg.begun_of_refused (h : tgRefused s ch g = true) : g.begun s ch = { g with refused := true } := if_pos h

theorem Tg.begun_of_noLoops (h : ¬ tgRefused s ch g = true) (hloops : g.loops = 0) (hcont : g.continuous = false) :
    g.begun s ch = { g.fresh s.now with done := true } := (if_neg h).trans (if_pos ⟨hloops, hcont⟩)

theorem Tg.begun_of_loops (h : ¬ tgRefused s ch g = true) (hloops : g.loops ≠ 0 ∨ g.continuous = true) :
    g.begun s ch = { g.fresh s.now with busy := true } := by
  have hnot : ¬ (g.loops = 0 ∧ g.continuous = false) := fun ⟨hl, hc⟩ => hloops.elim (· hl) (by simp [hc])
  exact (if_neg h).trans (if_neg hnot)

end Begun

section Start
variable {s : State} {ch : Nat} (hw : tgWritable s ch = true) (v : Word64)
include hw

/-- What a write of TG_CTRL that holds START does to a generator that may be written. -/
theorem tgStart_of_writable : tgStart s ch v = s.setTg ch
    (if (s.tg ch).busy then (s.tg ch).withCtrl v else ((s.tg ch).withCtrl v).begun s ch) := by
  have hbusy : ((s.tg ch).withCtrl v).busy = (s.tg ch).busy := rfl
  simp only [tgStart, hw, if_true, writeTg_ctrl, State.tg_setTg_self, tgRefused_setTg, State.setTg_setTg, Bool.and_eq_true,
    beq_iff_eq, Bool.not_eq_true', hbusy, Tg.begun]
  split
  · rfl
  · split
    · rfl
    · split <;> rfl

theorem tgStart_of_busy (hbusy : (s.tg ch).busy = true) : tgStart s ch v = s.setTg ch ((s.tg ch).withCtrl v) := by
  rw [tgStart_of_writable hw, if_pos hbusy]

theorem tgStart_of_idle (hidle : (s.tg ch).busy = false) :
    tgStart s ch v = s.setTg ch (((s.tg ch).withCtrl v).begun s ch) := by
  rw [tgStart_of_writable hw, if_neg (ne_true_of_eq_false hidle)]

theorem tgStop_of_busy (hbusy : (s.tg ch).busy = true) : tgStop s ch = s.setTg ch { s.tg ch with stop := true } := by
  simp only [tgStop, hw, hbusy, Bool.and_self, if_true]

omit hw in
theorem tgStop_of_idle (hidle : (s.tg ch).busy = false) : tgStop s ch = s := by
  simp only [tgStop, hidle, Bool.and_false, Bool.false_eq_true, if_false]

end Start

/-! What the comparisons of a run find. -/

/-- The atoms in a generator's range. -/
def Tg.atoms (g : Tg) : Nat := g.last.toNat + 1 - g.first.toNat

/-- What all the reads of the run on channel ch found. -/
def runErrors (s : State) (ch reads : Nat) (faults : List TgFault) : TgErrors :=
  (tgReads (s.tg ch) reads faults).foldl (tgCompare s (s.tg ch) ch (s.tg ch).atoms faults) {}

/-- The run only compares with what HBM holds. -/
def Tg.compares (g : Tg) : Prop := g.pattern ≠ 5 ∧ g.op = 2

/-- HBM holds the pattern over a generator's range. -/
def HoldsPattern (s : State) (ch : Nat) (g : Tg) : Prop :=
  ∀ n, g.first.toNat ≤ n → n ≤ g.last.toNat → ∀ b < 512, atomBit s ch n b = tgBit g ch n b

/-- A run reads atoms of its range only. -/
theorem Tg.read_in_range {g : Tg} (hrange : g.first.toNat ≤ g.last.toNat) (i : Nat) :
    g.first.toNat + i % max 1 g.atoms ≤ g.last.toNat := by
  have hpos : 0 < max 1 g.atoms := by omega
  have hmod := Nat.mod_lt i hpos
  unfold Tg.atoms at hmod ⊢
  omega

theorem tgReads_of_not_compares {g : Tg} (h : ¬ g.compares) (reads : Nat) (faults : List TgFault) :
    tgReads g reads faults = (faults.map TgFault.read).filter (· < reads) := by
  unfold tgReads
  refine if_neg fun hc => h ?_
  simpa [Tg.compares, and_comm] using hc

/-- A read without a fault that returns the pattern adds nothing. -/
theorem tgCompare_of_holds {s : State} {ch : Nat} {g : Tg} (hheld : HoldsPattern s ch g)
    (hrange : g.first.toNat ≤ g.last.toNat) (e : TgErrors) (i : Nat) : tgCompare s g ch g.atoms [] e i = e := by
  have hbits : ∀ k ∈ List.range 512, ¬ (atomBit s ch (g.first.toNat + i % max 1 g.atoms) k
      != tgBit g ch (g.first.toNat + i % max 1 g.atoms) k) = true := by
    intro k hk
    simp [hheld _ (Nat.le_add_right _ _) (Tg.read_in_range hrange i) k (List.mem_range.mp hk)]
  simp [tgCompare, List.filter_eq_nil_iff.mpr hbits]

theorem runErrors_of_clean {s : State} {ch : Nat} (hheld : (s.tg ch).compares → HoldsPattern s ch (s.tg ch))
    (hrange : (s.tg ch).first.toNat ≤ (s.tg ch).last.toNat) (reads : Nat) : runErrors s ch reads [] = {} := by
  unfold runErrors
  by_cases hc : (s.tg ch).compares
  · exact foldl_keeps (g := id) (tgCompare_of_holds (hheld hc) hrange) _ {}
  · rw [tgReads_of_not_compares hc]
    rfl

/-- The data bits that one wrong read changed: the soak looks at its code only. -/
def Tg.changedBits (g : Tg) (e : TgFault) : Nat := if g.pattern = 5 then 0 else (e.flips.filter (· < 512)).eraseDups.length

theorem tgCompare_of_fault {g : Tg} (hc : ¬ g.compares) (s : State) (ch len : Nat) (e : TgFault) :
    tgCompare s g ch len [e] {} e.read =
      { bits := g.changedBits e, atoms := 1, first := some (g.first.toNat + e.read % max 1 len) } := by
  by_cases hp : g.pattern = 5
  · simp [tgCompare, Tg.changedBits, hp]
  · have hop : g.op ≠ 2 := fun ho => hc ⟨hp, ho⟩
    simp only [tgCompare, Tg.changedBits, if_neg hp, if_neg hop]
    simp

/-- One wrong read of a run that does not only compare is one atom. -/
theorem runErrors_of_fault {s : State} {ch reads : Nat} (e : TgFault) (hc : ¬ (s.tg ch).compares) (hread : e.read < reads) :
    runErrors s ch reads [e] =
      { bits := (s.tg ch).changedBits e, atoms := 1
        first := some ((s.tg ch).first.toNat + e.read % max 1 (s.tg ch).atoms) } := by
  have hreads : tgReads (s.tg ch) reads [e] = [e.read] := by
    rw [tgReads_of_not_compares hc]
    simp [hread]
  rw [runErrors, hreads]
  exact tgCompare_of_fault hc s ch _ e

/-! The end of a run. -/

/-- A run writes its range unless it only reads: the soak, and a run that compares. -/
def Tg.writes (g : Tg) : Bool := g.pattern != 5 && g.op != 2

/-- The generator after its run: e is what the comparisons found, reads is how many there were. -/
def Tg.ended (g : Tg) (e : TgErrors) (reads : Nat) (wrote : Word64) (now : Nat) (lat : List Nat) : Tg :=
  { g with
    busy := false, stop := false, done := true, miscompare := g.miscompare || e.atoms != 0
    errBits := BitVec.ofNat 64 e.bits, errAtoms := BitVec.ofNat 64 e.atoms
    firstErr := BitVec.ofNat 26 (e.first.getD 0), rdBytes := BitVec.ofNat 64 (64 * reads), wrBytes := wrote
    timeNs := BitVec.ofNat 64 (now - g.startedAt)
    lat := (List.range 16).map fun i => BitVec.ofNat 64 (lat.getD i 0) }

/-- Between s and t a run on channel ch ended, having found e in its reads: its generator shows that, the range it wrote is wiped,
and the rest of what the statements name is as it was. -/
structure RunEnded (s t : State) (ch reads : Nat) (e : TgErrors) (lat : List Nat) : Prop where
  tg : t.tg ch = (s.tg ch).ended e reads (tgWrote s (s.tg ch)) s.now lat
  hbm : t.hbm = if (s.tg ch).writes then (wipeAtoms s ch (s.tg ch).first.toNat (s.tg ch).last.toNat).hbm else s.hbm
  others : ∀ c, c ≠ ch → t.tg c = s.tg c
  host : t.host = s.host
  cmds : t.cmds = s.cmds
  runs : t.runs = s.runs

theorem exec_hbmTgRunEnd_of_busy {s : State} {ch : Nat} (halive : alive s = true) (hch : ch < 640) (hbusy : (s.tg ch).busy = true)
    (faults : List TgFault) (lat : List Nat) : ∃ t, exec (.hbmTgRunEnd ch faults lat) s = .next t
      ∧ RunEnded s t ch (lat.take 16).sum (runErrors s ch (lat.take 16).sum faults) lat := by
  have hguard : (alive s && decide (ch < 640) && (s.tg ch).busy) = true := by simp [halive, hch, hbusy]
  refine ⟨_, congrArg Host.Outcome.next (if_pos hguard), ?_⟩
  cases hwrites : (s.tg ch).writes
  all_goals
    have hw : ((s.tg ch).pattern != 5 && (s.tg ch).op != 2) = _ := hwrites
    simp only [hw]
    exact ⟨Tab.get_put_self _ _ _ _, by rw [hwrites]; rfl, fun c hc => Tab.get_put_ne _ _ _ hc, rfl, rfl, rfl⟩

/-- The wiped atoms read zero, and no other byte changes. -/
theorem read_wipeAtoms (s : State) (ch first last x : Nat) : Mem.read (wipeAtoms s ch first last).hbm x =
    if atomChannel (x / 4096) (x / 64 % 64) = ch ∧ first ≤ x / 40960 ∧ x / 40960 ≤ last then 0 else Mem.read s.hbm x := by
  have hread := Mem.read_filter_keys s.hbm (fun a =>
    !(atomChannel (a / 4096) (a / 64 % 64) == ch && first ≤ atomIndex (a / 4096) && atomIndex (a / 4096) ≤ last)) x
  have hindex : atomIndex (x / 4096) = x / 40960 := by unfold atomIndex; omega
  refine hread.trans ?_
  simp only [hindex, Bool.not_eq_true', ← Bool.not_eq_true, Bool.and_eq_true, beq_iff_eq, decide_eq_true_eq, ite_not, and_assoc]

/-- Settles O35: the write of TG_CTRL is decided by one chain of conditions, and the run's end by what its reads found. That a stack
which does not train keeps its information is the model's choice (log 35), as are the order of a pattern's bits (log 174) and two
of the refusals (log 36). -/
theorem trafficGeneratorRuns : Obligations.TrafficGeneratorRuns := by
  intro s k ch v ok faults lat
  refine ⟨?train, ?control, ?runEnd⟩
  case train =>
    intro hk hlive
    exact hbmTrain_of_live hk hlive ok
  case control =>
    intro hw set refused fresh
    have hrefused : tgRefused s ch ((s.tg ch).withCtrl v) = true ↔ refused := tgRefused_iff s ch _
    refine ⟨fun hbusy => ⟨?_, ?_⟩, fun hidle => ⟨?_, fun hr => ?_, fun hr hloops hcont => ?_, fun hr hruns => ?_⟩⟩
    · rw [exec_hbmTgStart, tgStart_of_busy hw v hbusy]; rfl
    · rw [exec_hbmTgStop, tgStop_of_busy hw hbusy]
    · rw [exec_hbmTgStop, tgStop_of_idle hidle]
    all_goals rw [exec_hbmTgStart, tgStart_of_idle hw v hidle]
    · rw [Tg.begun_of_refused (hrefused.mpr hr)]; rfl
    · rw [Tg.begun_of_noLoops (mt hrefused.mp hr) hloops hcont]; rfl
    · rw [Tg.begun_of_loops (mt hrefused.mp hr) hruns]; rfl
  case runEnd =>
    intro halive hch hbusy g wrote compares inRange
    obtain ⟨t, hrun, hend⟩ := exec_hbmTgRunEnd_of_busy halive hch hbusy faults lat
    have hwrites : (s.tg ch).writes = true ↔ wrote := by
      simp only [Tg.writes, Bool.and_eq_true, bne_iff_ne]; rfl
    refine ⟨t, hrun, ?_, ?_, ?_, ?_, ?_, ?clean, ?fault, ?kept, ?wiped, hend.others, hend.host, hend.cmds, hend.runs⟩
    case clean =>
      rintro rfl hheld hrange
      rw [hend.tg, runErrors_of_clean hheld hrange]
      exact ⟨rfl, rfl, Bool.or_false _⟩
    case fault =>
      rintro e rfl hnot hread
      rw [hend.tg, runErrors_of_fault e hnot hread]
      exact ⟨rfl, rfl, Bool.or_true _, rfl⟩
    case kept =>
      intro hnot
      rw [hend.hbm, if_neg (mt hwrites.mp hnot)]
    case wiped =>
      intro hwrote x
      rw [hend.hbm, if_pos (hwrites.mpr hwrote)]
      exact read_wipeAtoms s ch _ _ x
    all_goals rw [hend.tg]; rfl

end Sys2Proof.Machine
end

section
/-! How jobs end (13 R296, 15 R339) and how the device fails (13 R287, R300): what each of them changes. -/

namespace Sys2Proof.Machine

theorem State.partRun_congr {s t : State} (h : t.runs = s.runs) (p : Nat) : t.partRun p = s.partRun p := by
  simp only [State.partRun, h]

/-- Raising an event adds it to those that wait for the rings. -/
theorem raiseEvent_raised (s : State) (code source part : Nat) (detail : List Byte) :
    (raiseEvent s code source part detail).evt.raised = s.evt.raised ++ [⟨s.now, source, code, part, detail, none⟩] := by
  unfold raiseEvent raiseAs
  dsimp only
  split <;> rfl

/-! What the end of a job changes. -/

/-- The machine without the units that work for jobs. -/
def State.sansWork (s : State) : State := { s with ports := [], cores := [], basins := [], codecs := [], runs := [] }

section SansWork
variable {s t : State} (h : t.sansWork = s.sansWork)
include h

theorem State.run_of_sansWork : t.run = s.run := by
  have hkept := congrArg State.run h
  exact hkept
theorem State.cmds_of_sansWork : t.cmds = s.cmds := by
  have hkept := congrArg State.cmds h
  exact hkept
theorem State.hbmStacks_of_sansWork : t.hbmStacks = s.hbmStacks := by
  have hkept := congrArg State.hbmStacks h
  exact hkept

end SansWork

theorem sendFlit_sansWork (s : State) (f : Flit) : (sendFlit s f).sansWork = s.sansWork := by
  unfold sendFlit
  split
  · rfl
  · split
    · split <;> rfl
    · rfl

theorem sendAborts_sansWork (s : State) (p : Nat) : (sendAborts s p).sansWork = s.sansWork := by
  unfold sendAborts
  split
  · exact foldl_keeps (fun s _ => foldl_keeps (fun s _ => sendFlit_sansWork s _) _ s) _ _
  · rfl

theorem foldl_setBasin_frame (f : State → Nat → Basin) (bs : List Nat) (s : State) :
    (bs.foldl (fun t b => t.setBasin b (f t b)) s).sansWork = s.sansWork
      ∧ (bs.foldl (fun t b => t.setBasin b (f t b)) s).runs = s.runs :=
  ⟨foldl_keeps (g := State.sansWork) (f := fun t b => t.setBasin b (f t b)) (fun _ _ => rfl) bs s,
    foldl_keeps (g := State.runs) (f := fun t b => t.setBasin b (f t b)) (fun _ _ => rfl) bs s⟩

theorem setResampling_sansWork (s : State) (p : Nat) (ws : List EngineWork) : (setResampling s p ws).sansWork = s.sansWork :=
  (foldl_setBasin_frame _ _ _).1

theorem clearJob_sansWork (s : State) (p : Nat) : (clearJob s p).sansWork = s.sansWork :=
  (foldl_setBasin_frame _ _ _).1.trans (setResampling_sansWork _ p _)

theorem clearPreempted_sansWork (s : State) (p : Nat) : (clearPreempted s p).sansWork = s.sansWork := rfl

theorem clearJob_job (s : State) (p : Nat) : ((clearJob s p).partRun p).job = none := by
  unfold clearJob
  dsimp only
  rw [State.partRun_congr (foldl_setBasin_frame _ _ _).2, State.partRun_setRun_self]

/-! The end of requests leaves the partitions' runs, and a command that is over stays so. -/

theorem finishIds_runs (s : State) (ids : List Nat) (status : Nat) : (finishIds s ids status).runs = s.runs :=
  foldl_keeps (fun s i => finishId_runs s i status) ids s

theorem releasePages_runs (s : State) (r : Request) : (releasePages s r).runs = s.runs := by rw [releasePages_frame]
theorem releasePages_cmds (s : State) (r : Request) : (releasePages s r).cmds = s.cmds := by rw [releasePages_frame]

theorem closeRequest_runs (s : State) (r : Request) (status : Nat) : (closeRequest s r status).runs = s.runs := by
  unfold closeRequest
  rw [finishIds_runs, finishIds_runs]
  split
  · rw [finishId_runs, State.freeRequest_runs, releasePages_runs]
  · rw [State.freeRequest_runs, releasePages_runs]

theorem closeRequest_cmd_of_none {s : State} {i : Nat} (h : s.cmd i = none) (r : Request) (status : Nat) :
    (closeRequest s r status).cmd i = none := by
  have hfree : ((releasePages s r).freeRequest r).cmd i = none := (State.cmd_congr (releasePages_cmds s r) i).trans h
  unfold closeRequest
  refine finishIds_cmd_of_none (finishIds_cmd_of_none ?_ _ _) _ _
  split
  · exact finishId_cmd_of_none hfree _ _
  · exact hfree

theorem endRequest_runs (s : State) (r : Request) (status reason : Nat) : (endRequest s r status reason).runs = s.runs := by
  rw [endRequest, closeRequest_runs, writeProgress_frame]

theorem endRequest_cmd_of_none {s : State} {i : Nat} (h : s.cmd i = none) (r : Request) (status reason : Nat) :
    (endRequest s r status reason).cmd i = none := by
  refine closeRequest_cmd_of_none ?_ r status
  rw [writeProgress_frame]
  exact h

section Requests
variable (p h status reason : Nat) (which : Request → Bool)

theorem endRequests_runs (s : State) : (endRequests s p h status reason which).runs = s.runs :=
  foldl_keeps (fun s r => endRequest_runs s r status reason) _ s

theorem endRequests_cmd_of_none {s : State} {i : Nat} (hi : s.cmd i = none) :
    (endRequests s p h status reason which).cmd i = none :=
  List.foldlRecOn (motive := fun t : State => t.cmd i = none) _ _ hi fun _ ht r _ => endRequest_cmd_of_none ht r status reason

end Requests

/-! The end of a job. -/

/-- The command of a job that ended completes with the job's status and retry count; a serving job's is charged nothing. -/
def finishJob (s : State) (j : Job) (status : Nat) : State :=
  match s.cmd j.cmd with
  | some c => finishWith s (if j.serving then { c with engineNs := 0, bytes := 0, energyUj := 0 } else c) status j.restarts
  | none => s

theorem finishJob_runs (s : State) (j : Job) (status : Nat) : (finishJob s j status).runs = s.runs := by
  unfold finishJob
  split
  · exact finishWith_runs _ _ _ _
  · rfl

theorem finishJob_cmd (s : State) (j : Job) (status : Nat) : (finishJob s j status).cmd j.cmd = none := by
  unfold finishJob
  split
  case h_1 c hc =>
    rw [← State.id_of_cmd hc]
    split <;> exact finishN_cmd_self _ _ _ _ _
  case h_2 h => exact h

theorem endJob_of_job {s : State} {p : Nat} {j : Job} (h : (s.partRun p).job = some j) (status : Nat) : endJob s p status =
    let t := finishIds (finishJob (clearJob s p) j status) (haltCmds (s.partRun p).halt) stCancelled
    if j.serving then settleReleases t p j.handle else t := by
  simp only [endJob, h]
  rfl

/-- A job that ends leaves its partition, and its command is no longer open. -/
theorem endJob_ends {s : State} {p : Nat} {j : Job} (h : (s.partRun p).job = some j) (status : Nat) :
    ((endJob s p status).partRun p).job = none ∧ (endJob s p status).cmd j.cmd = none := by
  have hcmd := finishIds_cmd_of_none (finishJob_cmd (clearJob s p) j status) (haltCmds (s.partRun p).halt) stCancelled
  have hruns := (finishIds_runs (finishJob (clearJob s p) j status) (haltCmds (s.partRun p).halt) stCancelled).trans
    (finishJob_runs (clearJob s p) j status)
  have hjob := (congrArg PartRun.job (State.partRun_congr hruns p)).trans (clearJob_job s p)
  rw [endJob_of_job h]
  dsimp only
  split
  · refine ⟨?_, endRequests_cmd_of_none _ _ _ _ _ hcmd⟩
    rw [settleReleases, State.partRun_congr (endRequests_runs _ _ _ _ _ _), hjob]
  · exact ⟨hjob, hcmd⟩

/-! A lost tensor of a serving plan ends its job (08 R195, R196). -/

theorem endInStep_job (s : State) (r : Request) (status p : Nat) :
    ((endInStep s r status).partRun p).job = (s.partRun p).job := by
  unfold endInStep
  rw [State.partRun_congr (endRequest_runs _ _ _ _)]
  split
  · by_cases hp : p = r.part
    · subst hp
      rw [State.partRun_setRun_self]
    · rw [State.partRun_setRun_ne _ _ hp]
  · rfl

theorem planError_ends {s : State} {p : Nat} {j : Job} (h : (s.partRun p).job = some j) (k status : Nat) :
    ((planError s p k status).partRun p).job = none ∧ (planError s p k status).cmd j.cmd = none := by
  unfold planError
  refine endJob_ends ?_ _
  rw [State.partRun_congr (endRequests_runs _ _ _ _ _ _),
    foldl_keeps (g := fun t : State => (t.partRun p).job) (fun t r => endInStep_job t r status p)]
  split <;> exact h

/-! State FAILED. -/

/-- A completion other than with ST_OK opens no command. -/
theorem finishN_cmds_sublist {status : Nat} (hst : status ≠ stOk) (n : Nat) (s : State) (c : Cmd) (retry : Nat) :
    (finishN n s c status retry).cmds.Sublist s.cmds := by
  have hclose (s : State) (c : Cmd) (status retry : Nat) :
      (settleChain (closeCmd s c status retry) c status).cmds.Sublist s.cmds := by
    rw [settleChain_cmds, closeCmd_cmds]
    exact List.filter_sublist
  induction n generalizing s c status retry with
  | zero => exact List.Sublist.refl _
  | succ n ih =>
    rw [finishN_succ]
    split
    · exact hclose s c status retry
    · rw [if_neg hst]
      exact (ih (by decide) _ _ _).trans (hclose s c status retry)

/-- An open command that completes so leaves fewer open. -/
theorem finish_cmds_length_lt {s : State} {c : Cmd} (hc : c ∈ s.cmds) {status : Nat} (hst : status ≠ stOk) :
    (finish s c status).cmds.length < s.cmds.length := by
  have hsub : (finish s c status).cmds.Sublist s.cmds := finishN_cmds_sublist hst _ s c 0
  refine Nat.lt_of_le_of_ne hsub.length_le fun hlen => ?_
  have hgone := State.cmd_eq_none_iff.mp (finish_cmd_self s c status) c
  rw [hsub.eq_of_length hlen] at hgone
  exact hgone hc rfl

theorem failCommands_run_stacks (n : Nat) (s : State) :
    (failCommands n s).run = s.run ∧ (failCommands n s).hbmStacks = s.hbmStacks := by
  induction n generalizing s with
  | zero => exact ⟨rfl, rfl⟩
  | succ n ih =>
    unfold failCommands
    split
    · simpa using ih (finish s _ stDeviceFailed)
    · exact ⟨rfl, rfl⟩

/-- With fuel for every command, only those that work in FAILED are left (13 R300). -/
theorem failCommands_cmds {n : Nat} {s : State} (hn : s.cmds.length < n) :
    ∀ c ∈ (failCommands n s).cmds, worksFailed c.desc = true := by
  induction n generalizing s with
  | zero => exact absurd hn (Nat.not_lt_zero _)
  | succ n ih =>
    unfold failCommands
    split
    case h_1 c hfind =>
      have hlt := finish_cmds_length_lt (List.mem_of_find?_eq_some hfind) (show stDeviceFailed ≠ stOk by decide)
      exact ih (by omega)
    case h_2 hnone => simpa using hnone

/-- The aborts of the multi-device jobs of some partitions are sent (12 R282). -/
def abortsSent (ps : List Nat) (s : State) : State := ps.foldl sendAborts s

theorem abortsSent_sansWork (ps : List Nat) (s : State) : (abortsSent ps s).sansWork = s.sansWork :=
  foldl_keeps sendAborts_sansWork ps s

/-- The jobs and the resample work of some partitions are over. -/
def workEnded (ps : List Nat) (s : State) : State :=
  ps.foldl (fun s p => setResampling s p []) (ps.foldl (fun s p => clearPreempted (clearJob s p) p) s)

theorem workEnded_sansWork (ps : List Nat) (s : State) : (workEnded ps s).sansWork = s.sansWork :=
  (foldl_keeps (fun s p => setResampling_sansWork s p []) ps _).trans (foldl_keeps (fun s p => (clearPreempted_sansWork _ p).trans (clearJob_sansWork s p)) ps s)

/-- The failing device when its commands have completed. -/
def commandsFailed (s : State) : State :=
  failCommands (s.cmds.length + 1) { s with run := { s.run with failed := true } }

/-- The device that fails sends its aborts, completes its commands, and ends its work. -/
theorem enterFailed_frame (s : State) : enterFailed s =
    { workEnded (List.range 10) (commandsFailed (abortsSent (List.range 10) s)) with
      requests := [], codecs := (enterFailed s).codecs, fls := (enterFailed s).fls } := by
  unfold enterFailed workEnded commandsFailed abortsSent
  dsimp only

theorem commandsFailed_effect (s : State) : (commandsFailed s).run.failed = true ∧ (commandsFailed s).hbmStacks = s.hbmStacks
    ∧ ∀ c ∈ (commandsFailed s).cmds, worksFailed c.desc = true := by
  obtain ⟨hrun, hstacks⟩ := failCommands_run_stacks (s.cmds.length + 1) { s with run := { s.run with failed := true } }
  exact ⟨congrArg RunState.failed hrun, hstacks, failCommands_cmds (Nat.lt_succ_self _)⟩

/-- A device that fails is in state FAILED, its stacks as they were, and open are only the commands that work there (13 R300). -/
theorem enterFailed_effect (s : State) : (enterFailed s).run.failed = true ∧ (enterFailed s).hbmStacks = s.hbmStacks
    ∧ ∀ c ∈ (enterFailed s).cmds, worksFailed c.desc = true := by
  rw [enterFailed_frame]
  generalize List.range 10 = ps
  obtain ⟨hfailed, hstacks, hcmds⟩ := commandsFailed_effect (abortsSent ps s)
  have hwork := workEnded_sansWork ps (commandsFailed (abortsSent ps s))
  have haborts := State.hbmStacks_of_sansWork (abortsSent_sansWork ps s)
  dsimp only
  rw [State.run_of_sansWork hwork, State.cmds_of_sansWork hwork, State.hbmStacks_of_sansWork hwork, hstacks]
  exact ⟨hfailed, haborts, hcmds⟩

/-! A lost stack (08 R200). -/

/-- A stack that is lost. -/
def Stack.lost (v : Stack) (cause : StackCause) (ch : Nat) : Stack :=
  { v with
    failed := true, trained := false, inService := false
    failCause := stackCode cause, failChannel := BitVec.ofNat 5 ch }

/-- The machine in which a lost stack has been reported. -/
def lossReported (s : State) (k : Nat) (cause : StackCause) (ch : Nat) : State :=
  raiseEvent (s.setStack k ((s.stack k).lost cause ch)) evStackLost (srcStack k) 0xF
    (toLe 1 (stackCode cause).toNat ++ toLe 1 ch)

theorem loseStack_of_live {s : State} (hlive : s.run.failed = false) (k : Nat) (cause : StackCause) (ch : Nat) :
    loseStack s k cause ch = enterFailed (lossReported s k cause ch) := by
  have hrun : (lossReported s k cause ch).run = s.run := raiseEvent_run _ _ _ _ _
  exact if_neg (ne_true_of_eq_false ((congrArg RunState.failed hrun).trans hlive))

/-- A lost stack fails a device that has not failed. -/
theorem loseStack_effect {s : State} (hlive : s.run.failed = false) (k : Nat) (cause : StackCause) (ch : Nat) :
    (loseStack s k cause ch).run.failed = true ∧ (loseStack s k cause ch).stack k = (s.stack k).lost cause ch
      ∧ ∀ c ∈ (loseStack s k cause ch).cmds, worksFailed c.desc = true := by
  obtain ⟨hfailed, hstacks, hcmds⟩ := enterFailed_effect (lossReported s k cause ch)
  rw [loseStack_of_live hlive]
  refine ⟨hfailed, ?_, hcmds⟩
  rw [State.stack, hstacks, lossReported, raiseEvent_hbmStacks]
  exact State.stack_setStack_self s k _

end Sys2Proof.Machine
end

section
/-! Memory at work (08 R182, R184, R185, R191, R195, R198, R200): reads of the tier, the scrub of Mere, the patrol, lost stacks. -/

namespace Sys2Proof.Machine

theorem exec_tierRead (p tile issued joined : Nat) (reads : List AtomRead) (page : Option Nat) (s : State) :
    exec (.tierRead p tile issued joined reads page) s = execTierRead p tile issued joined reads page s := rfl
theorem exec_tierReadLate (p tile a issued : Nat) (page : Option Nat) (s : State) :
    exec (.tierReadLate p tile a issued page) s = execTierReadLate p tile a issued page s := rfl
theorem exec_mereScrub (b addr : Nat) (byRead : Bool) (found : MereFound) (s : State) :
    exec (.mereScrub b addr byRead found) s = execMereScrub b addr byRead found s := rfl
theorem exec_hbmPatrol (k : Nat) (reads : List AtomRead) (onDie retries : Nat) (done : Bool) (s : State) :
    exec (.hbmPatrol k reads onDie retries done) s = execHbmPatrol k reads onDie retries done s := rfl
theorem exec_hbmChannelTimeout (k n : Nat) (s : State) :
    exec (.hbmChannelTimeout k n) s = execHbmChannelTimeout k n s := rfl
theorem exec_stackLost (k : Nat) (cause : StackCause) (n : Nat) (s : State) :
    exec (.stackLost k cause n) s = execStackLost k cause n s := rfl

theorem staged_of_works {s : State} (h : works s = true) : staged s = true := by
  simp only [works, Bool.and_eq_true] at h
  simp only [staged, h.1, Bool.or_true]

theorem live_of_works {s : State} (h : works s = true) : s.run.failed = false := by
  simp only [works, Bool.and_eq_true, Bool.not_eq_true'] at h
  exact h.2

/-! The window of a basin's Mere. -/

theorem State.basin_congr {s t : State} (h : t.basins = s.basins) (b : Nat) : t.basin b = s.basin b := by
  simp only [State.basin, h]

theorem addRead_basin (s : State) (f : Nat → Nat) (b : Nat) : (addRead s f).basin b = s.basin b := by
  unfold addRead countStacks State.basin
  dsimp only

theorem onMere_mere (s : State) (b : Nat) (f : Mere → Mere) : ((onMere s b f).basin b).mere = f (s.basin b).mere :=
  congrArg Basin.mere (State.basin_setBasin_self s b _)

/-! An atom's read (08 R191). -/

/-- What an atom's read becomes depends on HBM alone. -/
theorem atomOutcome_congr {s t : State} (h : t.hbm = s.hbm) (r : AtomRead) : atomOutcome t r = atomOutcome s r := by
  simp only [atomOutcome, received, atomCode, atomBytes, h]

theorem tierUe_frame (s : State) (p ch n : Nat) :
    tierUe s p ch n =
      { s with hbmStacks := (tierUe s p ch n).hbmStacks, evt := (tierUe s p ch n).evt, medium := (tierUe s p ch n).medium } := by
  unfold tierUe
  rw [raiseEvent_frame]
  rfl

theorem tierLate_frame (s : State) (p ch n : Nat) :
    tierLate s p ch n =
      { s with hbmStacks := (tierLate s p ch n).hbmStacks, evt := (tierLate s p ch n).evt, medium := (tierLate s p ch n).medium } := by
  unfold tierLate
  rw [raiseEvent_frame]
  rfl

theorem tierLate_late (s : State) (p ch n : Nat) :
    ((tierLate s p ch n).stack (ch / 32)).late = satAdd (s.stack (ch / 32)).late 1 := by
  rw [tierLate, State.stack, raiseEvent_hbmStacks]
  exact congrArg Stack.late (State.stack_setStack_self s _ _)

/-- A lost atom is counted at its stack and reported. -/
theorem countAtom_of_lost {s : State} {r : AtomRead} (h : (atomOutcome s r).lost = true) (p : Nat) :
    (countAtom s p r).2 = true
      ∧ (countAtom s p r).1 = { s with
          hbmStacks := (countAtom s p r).1.hbmStacks, evt := (countAtom s p r).1.evt, medium := (countAtom s p r).1.medium }
      ∧ (countAtom s p r).1.evt.raised = s.evt.raised ++ [⟨s.now, srcStack ((atomAt r.atom).1 / 32), evHbmUe, p,
          atomDetail (atomAt r.atom).1 (atomAt r.atom).2, none⟩] := by
  refine ⟨h, ?_, ?_⟩
  all_goals simp only [countAtom, h, if_true]
  · rw [tierUe_frame]
    rfl
  · exact raiseEvent_raised _ _ _ _ _

/-! A tile read from HBM (08 R182). -/

/-- The machine in which a read of tile `tile`, and those that joined it, have missed the stream cache of basin b. -/
def missed (s : State) (b tile joined : Nat) : State :=
  onMere (addRead s fun k => 64 * stackAtoms tile k) b fun m =>
    { m with misses := satAdd m.misses 1, merges := satAdd m.merges joined }

theorem missed_frame (s : State) (b tile joined : Nat) : missed s b tile joined =
    { s with hbmStacks := (missed s b tile joined).hbmStacks, basins := (missed s b tile joined).basins } := by
  unfold missed onMere addRead countStacks State.setBasin
  dsimp only

theorem missed_atomOutcome (s : State) (b tile joined : Nat) (r : AtomRead) :
    atomOutcome (missed s b tile joined) r = atomOutcome s r := atomOutcome_congr (by rw [missed_frame]) r

theorem missed_mere (s : State) (b tile joined : Nat) : ((missed s b tile joined).basin b).mere =
    { (s.basin b).mere with misses := satAdd (s.basin b).mere.misses 1, merges := satAdd (s.basin b).mere.merges joined } := by
  rw [missed, onMere_mere, addRead_basin]

/-- The machine in which that tile has been delivered, and has entered the stream cache. -/
def delivered (s : State) (b tile joined : Nat) : State :=
  onMere (missed s b tile joined) b fun m => { m with
    writeBytes := satAdd m.writeBytes 4096, readBytes := satAdd m.readBytes (4096 * (joined + 1))
    stream := useTile (streamRoom s b) tile m.stream }

theorem delivered_frame (s : State) (b tile joined : Nat) : delivered s b tile joined =
    { s with hbmStacks := (delivered s b tile joined).hbmStacks, basins := (delivered s b tile joined).basins } := by
  unfold delivered onMere State.setBasin
  rw [missed_frame]

theorem delivered_mere (s : State) (b tile joined : Nat) : ((delivered s b tile joined).basin b).mere =
    { (s.basin b).mere with
      misses := satAdd (s.basin b).mere.misses 1, merges := satAdd (s.basin b).mere.merges joined
      writeBytes := satAdd (s.basin b).mere.writeBytes 4096
      readBytes := satAdd (s.basin b).mere.readBytes (4096 * (joined + 1))
      stream := useTile (streamRoom s b) tile (s.basin b).mere.stream } := by
  rw [delivered, onMere_mere, missed_mere]

/-- A tile all of whose atoms come is delivered. -/
theorem readTile_of_clean (s : State) (p b tile joined : Nat) :
    readTile s p b tile joined [] = (delivered s b tile joined, none) := rfl

/-- A tile of which an atom is lost is not. -/
theorem readTile_of_lost {s : State} {r : AtomRead} (h : (atomOutcome s r).lost = true) (p b tile joined : Nat) :
    readTile s p b tile joined [.atom r] = ((countAtom (missed s b tile joined) p r).1, some stEndedData) := by
  have hsame : (atomOutcome (missed s b tile joined) r).lost = true := by rwa [missed_atomOutcome]
  have hlost := (countAtom_of_lost hsame p).1
  have hstatus : tierStatus (missed s b tile joined) p [.atom r] =
      ((countAtom (missed s b tile joined) p r).1, some stEndedData) :=
    congrArg (Prod.mk (countAtom (missed s b tile joined) p r).1) (if_pos hlost)
  have hverdict : (tierStatus (missed s b tile joined) p [.atom r]).2.isSome = true := by rw [hstatus]; rfl
  exact (if_pos hverdict).trans hstatus

/-! Reads in time. -/

/-- After a read of a tile with the given status, if it has one: its loss ends the work it was for. -/
def afterRead (p : Nat) (page : Option Nat) (r : State × Option Nat) : State :=
  match r.2 with
  | some st => dataError r.1 p st page
  | none => r.1

section TierRead
variable {s : State} {p tile issued b : Nat} (hworks : works s = true) (hp : p < 10) (hpart : tilePart s tile = p)
  (hhome : homeBasin s p tile = some b) (htime : s.now ≤ issued + deadlineNs s p)
include hworks hp hpart hhome htime

/-- A read in time is a hit, or a miss that may end the work it was for. -/
theorem exec_tierRead_in_time (joined : Nat) (reads : List AtomRead) (page : Option Nat) :
    exec (.tierRead p tile issued joined reads page) s = .next (
      if (s.basin b).mere.stream.contains tile then
        onMere s b fun m => { m with hits := satAdd m.hits 1, readBytes := satAdd m.readBytes 4096,
                                     stream := useTile (streamRoom s b) tile m.stream }
      else afterRead p page (readTile s p b tile joined (ofTile tile reads))) := by
  have hguard : ¬ (!(works s && p < 10 && tilePart s tile == p) || decide (issued + deadlineNs s p < s.now)) = true := by
    simp [hworks, hp, hpart, htime]
  rw [exec_tierRead, execTierRead, if_neg hguard, hhome]
  rfl

theorem exec_tierRead_hit (hin : tile ∈ (s.basin b).mere.stream) (joined : Nat) (reads : List AtomRead) (page : Option Nat) :
    exec (.tierRead p tile issued joined reads page) s = .next (onMere s b fun m => { m with
      hits := satAdd m.hits 1, readBytes := satAdd m.readBytes 4096, stream := useTile (streamRoom s b) tile m.stream }) := by
  rw [exec_tierRead_in_time hworks hp hpart hhome htime, if_pos (List.contains_iff_mem.mpr hin)]

variable (hout : tile ∉ (s.basin b).mere.stream)
include hout

theorem exec_tierRead_delivered (joined : Nat) (page : Option Nat) :
    exec (.tierRead p tile issued joined [] page) s = .next (delivered s b tile joined) := by
  have hof : ofTile tile [] = [] := rfl
  rw [exec_tierRead_in_time hworks hp hpart hhome htime, if_neg (mt List.contains_iff_mem.mp hout), hof, readTile_of_clean,
    afterRead]

theorem exec_tierRead_lost {r : AtomRead} (hr : r.atom / 64 = tile) (hlost : (atomOutcome s r).lost = true) (joined : Nat)
    (page : Option Nat) : exec (.tierRead p tile issued joined [r] page) s =
      .next (dataError (countAtom (missed s b tile joined) p r).1 p stEndedData page) := by
  have hof : ofTile tile [r] = [.atom r] := by simp [ofTile, hr]
  rw [exec_tierRead_in_time hworks hp hpart hhome htime, if_neg (mt List.contains_iff_mem.mp hout), hof,
    readTile_of_lost hlost, afterRead]

end TierRead

/-! The work that lost data was for (08 R195, R197). -/

theorem dataError_of_noJob {s : State} {p : Nat} (h : (s.partRun p).job = none) (status : Nat) (page : Option Nat) :
    dataError s p status page = s := by
  simp only [dataError, h]

/-- An atom lost where no job runs is reported, and its tile is only counted as missed. -/
theorem missed_lost_of_noJob {s : State} {p : Nat} {r : AtomRead} (hlost : (atomOutcome s r).lost = true)
    (hjob : (s.partRun p).job = none) (b tile joined status : Nat) (page : Option Nat) :
    let t := dataError (countAtom (missed s b tile joined) p r).1 p status page
    (t.basin b).mere = { (s.basin b).mere with
        misses := satAdd (s.basin b).mere.misses 1, merges := satAdd (s.basin b).mere.merges joined }
      ∧ t.evt.raised = s.evt.raised ++ [⟨s.now, srcStack ((atomAt r.atom).1 / 32), evHbmUe, p,
          atomDetail (atomAt r.atom).1 (atomAt r.atom).2, none⟩] ∧ t.runs = s.runs := by
  have hsame : (atomOutcome (missed s b tile joined) r).lost = true := by rwa [missed_atomOutcome]
  obtain ⟨-, hframe, hraised⟩ := countAtom_of_lost hsame p
  have hevt : (missed s b tile joined).evt = s.evt := by rw [missed_frame]
  have hmtc : (missed s b tile joined).mtc = s.mtc := by rw [missed_frame]
  have hruns : (countAtom (missed s b tile joined) p r).1.runs = s.runs := by rw [hframe, missed_frame]
  dsimp only
  rw [dataError_of_noJob ((congrArg PartRun.job (State.partRun_congr hruns p)).trans hjob)]
  refine ⟨?_, ?_, hruns⟩
  · have hbasins : (countAtom (missed s b tile joined) p r).1.basins = (missed s b tile joined).basins := by rw [hframe]
    rw [State.basin_congr hbasins, missed_mere]
  · rw [hraised, hevt, State.now, hmtc]
    rfl

/-- Where nothing else happens at that time, lost data ends a job that is not restarting: a serving one with a tensor, any other
in every case. -/
theorem dataError_ends {s : State} {p : Nat} {j : Job} (hjob : (s.partRun p).job = some j) (hhalt : (s.partRun p).halt = .none)
    (halone : s.pending = []) {page : Option Nat} (hpage : page = none ∨ j.serving = false) (status : Nat) :
    ((dataError s p status page).partRun p).job = none ∧ (dataError s p status page).cmd j.cmd = none := by
  have hfault : faultComing s p = false := by rw [faultComing, halone, List.any_nil]
  simp only [dataError, hjob, hhalt, hfault, Bool.false_eq_true, if_false]
  cases hserving : j.serving
  · exact endJob_ends hjob status
  · obtain rfl : page = none := hpage.resolve_right (by simp [hserving])
    exact planError_ends hjob j.handle status

theorem exec_tierReadLate_of_due {s : State} {p tile a issued : Nat} (hworks : works s = true) (hp : p < 10)
    (hpart : tilePart s tile = p) (ha : a < 64) (htime : issued + deadlineNs s p ≤ s.now) (page : Option Nat) :
    exec (.tierReadLate p tile a issued page) s = .next (
      if lossComing s p page then tierLate s p (atomChannel tile a) (atomIndex tile)
      else dataError (tierLate s p (atomChannel tile a) (atomIndex tile)) p stTierLate page) := by
  have hguard : (works s && p < 10 && tilePart s tile == p && a < 64 && issued + deadlineNs s p ≤ s.now) = true := by
    simp [hworks, hp, hpart, ha, htime]
  rw [exec_tierReadLate, execTierReadLate, if_pos hguard]

/-! The scrub, and reads of Mere (08 R184). -/

theorem exec_mereScrub_of_off {s : State} {b : Nat} {byRead : Bool} (hread : byRead = false)
    (hoff : (s.basin b).mere.scrubEn = false) (addr : Nat) (found : MereFound) :
    exec (.mereScrub b addr byRead found) s = .next s := by
  simp [exec_mereScrub, execMereScrub, hread, hoff]

theorem exec_mereScrub_of_on {s : State} {b addr : Nat} {byRead : Bool} (hworks : works s = true) (hb : b < 10)
    (hin : (s.basin b).withdrawn = false) (haddr : addr < 2 ^ 30) (hon : byRead = true ∨ (s.basin b).mere.scrubEn = true) :
    exec (.mereScrub b addr byRead .corrected) s = .next (onMere s b fun m => { m with ce := satAdd m.ce 1 })
    ∧ exec (.mereScrub b addr byRead (.uncorrectable .free)) s = .next (
        raiseEvent (onMere s b fun m => { m with ue := satAdd m.ue 1, ueLast := BitVec.ofNat 30 (addr / 8 * 8) })
          evMereUe (srcBasin b) (basinPart s b) (toLe 8 addr)) := by
  have hsize : addr < Config.mereBytes := haddr
  have hon' : (byRead || (s.basin b).mere.scrubEn) = true := by simpa using hon
  have hguard : ¬ (!(works s && b < 10 && addr < Config.mereBytes && (byRead || (s.basin b).mere.scrubEn)
      && !(s.basin b).withdrawn)) = true := by simp [hworks, hb, hsize, hin, hon']
  exact ⟨congrArg Host.Outcome.next (if_neg hguard), congrArg Host.Outcome.next (if_neg hguard)⟩

/-! The patrol and lost stacks (08 R185, R198, R200). -/

theorem exec_hbmPatrol_of_inService {s : State} {k : Nat} (hstaged : staged s = true) (hk : k < 20)
    (hin : (s.stack k).inService = true) (onDie retries : Nat) (done : Bool) :
    let v := { s.stack k with ce := satAdd (s.stack k).ce onDie, retried := satAdd (s.stack k).retried retries }
    exec (.hbmPatrol k [] onDie retries done) s = .next (s.setStack k (if (s.stack k).patrolEn then
      { v with readBytes := satAdd v.readBytes (if done then 96000000000 else 0)
               patrol := satAdd v.patrol (if done then 1 else 0) } else v)) := by
  have hguard : (staged s && k < 20 && (s.stack k).inService) = true := by simp [hstaged, hk, hin]
  rw [exec_hbmPatrol, execHbmPatrol]
  dsimp only
  rw [if_pos hguard, State.setStack_setStack, State.stack_setStack_self]
  split <;> rfl

section Lost
variable {s : State} {k n : Nat} (hstaged : staged s = true) (hk : k < 20) (hn : n < 32) (hup : (s.stack k).failed = false)
include hstaged hk hn hup

theorem exec_stackLost_of_up (cause : StackCause) : exec (.stackLost k cause n) s = .next (loseStack s k cause n) := by
  have hguard : (staged s && k < 20 && n < 32 && !(s.stack k).failed) = true := by simp [hstaged, hk, hn, hup]
  rw [exec_stackLost, execStackLost, if_pos hguard]

theorem exec_hbmChannelTimeout_of_up : exec (.hbmChannelTimeout k n) s = .next (loseStack s k .timeout n) :=
  exec_stackLost_of_up hstaged hk hn hup .timeout

end Lost

/-- Settles O45. What READ_BYTES counts of a patrol pass (log 125), and when reads, bytes and merges count (logs 107, 109, 192), are
the model's choices. -/
theorem memoryErrorsCounted : Obligations.MemoryErrorsCounted := by
  intro s p tile a b k n issued joined onDie retries addr byRead done page r cause hworks hp ha hk hn m channel
  have hstaged := staged_of_works hworks
  refine ⟨?inTime, ?late, ?scrub, ?patrol, ?lost⟩
  case inTime =>
    intro hpart hhome htime
    refine ⟨fun hin reads => exec_tierRead_hit hworks hp hpart hhome htime hin joined reads page, fun hout => ?_,
      fun hout hr hlost hjob => ⟨_, exec_tierRead_lost hworks hp hpart hhome htime hout hr hlost joined page,
        missed_lost_of_noJob hlost hjob b tile joined _ page⟩⟩
    have hframe := delivered_frame s b tile joined
    exact ⟨_, exec_tierRead_delivered hworks hp hpart hhome htime hout joined page, delivered_mere s b tile joined,
      by rw [hframe], by rw [hframe], by rw [hframe]⟩
  case late =>
    intro hpart htime
    have hframe := tierLate_frame s p channel (atomIndex tile)
    have hruns : (tierLate s p channel (atomIndex tile)).runs = s.runs := by rw [hframe]
    have hpartRun := State.partRun_congr hruns p
    have hrun := exec_tierReadLate_of_due hworks hp hpart ha htime page
    refine ⟨fun hjob => ?_, fun j hjob hhalt halone hpage => ?_⟩
    · rw [dataError_of_noJob ((congrArg PartRun.job hpartRun).trans hjob), ite_self] at hrun
      exact ⟨_, hrun, tierLate_late _ _ _ _, raiseEvent_raised _ _ _ _ _, by rw [hframe], by rw [hframe], hruns⟩
    · have hloss : ¬ lossComing s p page = true := by simp [lossComing, halone]
      have halone' : (tierLate s p channel (atomIndex tile)).pending = [] := by rw [hframe]; exact halone
      rw [if_neg hloss] at hrun
      exact ⟨_, hrun, dataError_ends ((congrArg PartRun.job hpartRun).trans hjob) ((congrArg PartRun.halt hpartRun).trans hhalt)
        halone' hpage _⟩
  case scrub =>
    intro hb hin haddr
    refine ⟨fun hread hoff found => exec_mereScrub_of_off hread hoff addr found, fun hon => ?_⟩
    obtain ⟨hcorrected, hlost⟩ := exec_mereScrub_of_on hworks hb hin haddr hon
    refine ⟨hcorrected, _, hlost, ?_, raiseEvent_raised _ _ _ _ _, raiseEvent_runs _ _ _ _ _, raiseEvent_host _ _ _ _ _,
      raiseEvent_hbm _ _ _ _ _⟩
    rw [State.basin_congr (raiseEvent_basins _ _ _ _ _), onMere_mere]
  case patrol =>
    intro hin
    exact exec_hbmPatrol_of_inService hstaged hk hin onDie retries done
  case lost =>
    intro hup
    have heffect := loseStack_effect (live_of_works hworks) k
    refine ⟨⟨_, exec_hbmChannelTimeout_of_up hstaged hk hn hup, ?_⟩, ⟨_, exec_stackLost_of_up hstaged hk hn hup cause, ?_⟩⟩
    · obtain ⟨hfailed, hstack, hcmds⟩ := heffect .timeout n
      rw [hstack]
      exact ⟨hfailed, rfl, rfl, rfl, hcmds⟩
    · obtain ⟨hfailed, hstack, hcmds⟩ := heffect cause n
      rw [hstack]
      exact ⟨hfailed, rfl, rfl, hcmds⟩

end Sys2Proof.Machine
end

section
/-! Spring: its health tests, its output and its restarts (09 R205 to R207). -/

namespace Sys2Proof.Machine

theorem exec_springBlock (raw : List Bool) (s : State) : exec (.springBlock raw) s = execSpringBlock raw s := rfl
theorem exec_springRetry (raw : List Bool) (s : State) : exec (.springRetry raw) s = execSpringRetry raw s := rfl
theorem exec_rngRetest (raw : List Bool) (s : State) : exec (.rngRetest raw) s = execRngRetest raw s := rfl

/-! The repetition count (R206). -/

/-- How many bits equal to b stand in a row before the next bit. -/
def repeats (b last : Bool) (run : Nat) : Nat := if b == last then run else 0

@[simp] theorem repeats_self (b : Bool) (run : Nat) : repeats b b run = run := by simp [repeats]

/-- A bit that equals the first of its window. -/
theorem healthBits_first (b : Bool) (bs : List Bool) (i n : Nat) (last : Bool) (run : Nat) :
    healthBits b (b :: bs) i n last run =
      if 41 ≤ repeats b last run + 1 then ⟨b, repeats b last run + 1, some (i, 1)⟩
      else if 796 ≤ n + 1 then ⟨b, repeats b last run + 1, some (i, 2)⟩
      else healthBits b bs (i + 1) (n + 1) b (repeats b last run + 1) := by
  have hrun : (if b == last then run + 1 else 1) = repeats b last run + 1 := by
    unfold repeats
    split <;> rfl
  simp only [healthBits, hrun, BEq.rfl, if_true]

/-- Equal bits fail the repetition count once 41 of them stand in a row, those before the window among them. The first bit of the
window has then recurred too seldom to fail the adaptive proportion. -/
theorem healthBits_replicate_fail (b : Bool) {m n run : Nat} {last : Bool} (hpos : 0 < m) (hn : n ≤ repeats b last run)
    (hm : 41 ≤ repeats b last run + m) (i : Nat) :
    ∃ j, (healthBits b (List.replicate m b) i n last run).fail = some (j, 1) := by
  induction m generalizing i n run last with
  | zero => omega
  | succ m ih =>
    rw [List.replicate_succ, healthBits_first]
    by_cases hrow : 41 ≤ repeats b last run + 1
    · exact ⟨i, by rw [if_pos hrow]⟩
    · have hseldom : ¬ 796 ≤ n + 1 := by omega
      rw [if_neg hrow, if_neg hseldom]
      exact ih (by omega) (by rw [repeats_self]; omega) (by rw [repeats_self]; omega) (i + 1)

/-- What fails in the first window is what fails. -/
theorem health_of_first_window (r : Rng) (raw : List Bool) {f : Nat × Nat}
    (h : (healthBits (raw.headD false) (raw.take 1024) 0 0 r.lastBit r.runLen).fail = some f) : (health r raw).fail = some f := by
  simp only [health, healthWindows, h]

theorem health_replicate_fail (r : Rng) (b : Bool) {m : Nat} (hm : 41 ≤ m) :
    ∃ i, (health r (List.replicate m b)).fail = some (i, 1) := by
  have hhead : (List.replicate m b).headD false = b := by
    cases m with
    | zero => omega
    | succ m => rfl
  obtain ⟨i, hi⟩ := healthBits_replicate_fail b (m := min 1024 m) (n := 0) (run := r.runLen) (last := r.lastBit) (by omega)
    (Nat.zero_le _) (by omega) 0
  exact ⟨i, health_of_first_window r _ (by rw [hhead, List.take_replicate, hi])⟩

/-! A test fails (R207). -/

section Fails
variable (s : State) (test kind : Nat)

theorem springFails_rng : (springFails s test kind).rng = { s.rng with
    springOk := false, springFail := true, failTest := BitVec.ofNat 2 test, failedAt := some s.now, runLen := 0
    rctFails := if kind = 1 then satAdd s.rng.rctFails 1 else s.rng.rctFails
    aptFails := if kind = 2 then satAdd s.rng.aptFails 1 else s.rng.aptFails } :=
  raiseEvent_rng _ _ _ _ _

theorem springFails_raised : (springFails s test kind).evt.raised =
    s.evt.raised ++ [⟨s.now, srcSec, evSpringFail, 0xF, toLe 1 test, none⟩] :=
  raiseEvent_raised _ _ _ _ _

end Fails

/-! A block in service (R205). -/

/-- Spring of which n raw bits more have been sampled. -/
def Rng.sampled (r : Rng) (n : Nat) : Rng := { r with rawBits := satAdd r.rawBits n }

section Block
variable {s : State} {raw : List Bool} (hok : s.rng.springOk = true) (hlen : raw.length = 2048)
include hok hlen

theorem springBlock_of_pass (hpass : (health s.rng raw).fail = none) : springBlock s raw =
    { s with rng := { s.rng.sampled raw.length with
        lastBit := (health s.rng raw).lastBit, runLen := (health s.rng raw).runLen
        pool := s.rng.pool ++ sha3_512 (packBits 256 raw) } } := by
  have hguard : (s.rng.springOk && raw.length == 2048) = true := by simp [hok, hlen]
  have hhealth : health { s.rng with rawBits := satAdd s.rng.rawBits raw.length } raw = health s.rng raw := rfl
  simp only [springBlock, if_pos hguard, hhealth, hpass, Rng.sampled]

theorem springBlock_of_fail {i k : Nat} (hfail : (health s.rng raw).fail = some (i, k)) : springBlock s raw =
    let t := springFails { s with rng := s.rng.sampled raw.length } k k
    { t with rng := { t.rng with attempts := 0 } } := by
  have hguard : (s.rng.springOk && raw.length == 2048) = true := by simp [hok, hlen]
  have hhealth : health { s.rng with rawBits := satAdd s.rng.rawBits raw.length } raw = health s.rng raw := rfl
  simp only [springBlock, if_pos hguard, hhealth, hfail, Rng.sampled]

end Block

/-! The start-up test (R206). -/

/-- The health tests over the bits of a start-up test. -/
def startTests (r : Rng) (raw : List Bool) : Health := health { r with runLen := 0 } (raw.take 4096)

/-- Spring of which the bits of a start-up test have been sampled. -/
def Rng.started (r : Rng) (raw : List Bool) : Rng := { r.sampled (raw.take 4096).length with runLen := 0 }

section StartUp
variable {s : State} {raw : List Bool}

theorem startUp_of_fail {i k : Nat} (hfail : (startTests s.rng raw).fail = some (i, k)) :
    startUp s raw = springFails { s with rng := s.rng.started raw } 3 k := by
  have hhealth : health (s.rng.started raw) (raw.take 4096) = startTests s.rng raw := rfl
  simp only [Rng.started, Rng.sampled] at hhealth ⊢
  simp only [startUp, hhealth, hfail]

variable (hpass : (startTests s.rng raw).fail = none)
include hpass

theorem startUp_of_pass : startUp s raw = { s with rng := { s.rng.started raw with
    springOk := if raw.length < 4096 then s.rng.springOk else true
    failedAt := if raw.length < 4096 then s.rng.failedAt else none
    lastBit := (startTests s.rng raw).lastBit, runLen := (startTests s.rng raw).runLen } } := by
  have hhealth : health (s.rng.started raw) (raw.take 4096) = startTests s.rng raw := rfl
  have hshort : (raw.take 4096).length < 4096 ↔ raw.length < 4096 := by rw [List.length_take]; omega
  simp only [Rng.started, Rng.sampled] at hhealth ⊢
  simp only [startUp, hhealth, hpass, hshort]
  split <;> rfl

end StartUp
/-! Restarts (R207). -/

/-- The machine with Spring's count of attempts as given. -/
def State.withAttempts (s : State) (n : BitVec 2) : State := { s with rng := { s.rng with attempts := n } }

section Restart
variable {s : State} {raw : List Bool}

theorem exec_springBlock_of_staged (h : staged s = true) : exec (.springBlock raw) s = .next (springBlock s raw) := by
  rw [exec_springBlock, execSpringBlock, if_pos h]

theorem exec_springRetry_of_waiting {u : Nat} (hat : s.rng.failedAt = some u)
    (h : s.now < u + 1000000 ∨ 3 ≤ s.rng.attempts.toNat) : exec (.springRetry raw) s = .next s := by
  have hguard : ¬ (staged s && u + 1000000 ≤ s.now && s.rng.attempts.toNat < 3) = true := by
    simp only [Bool.and_eq_true, decide_eq_true_eq]
    omega
  simp only [exec_springRetry, execSpringRetry, hat, if_neg hguard]

theorem exec_springRetry_of_due {u : Nat} (hstaged : staged s = true) (hat : s.rng.failedAt = some u) (hdue : u + 1000000 ≤ s.now)
    (hleft : s.rng.attempts.toNat < 3) : exec (.springRetry raw) s =
      .next (startUp (s.withAttempts (s.rng.attempts + 1)) raw) := by
  have hguard : (staged s && u + 1000000 ≤ s.now && s.rng.attempts.toNat < 3) = true := by simp [hstaged, hdue, hleft]
  simp only [exec_springRetry, execSpringRetry, hat, if_pos hguard, State.withAttempts]

theorem exec_rngRetest_of_writable (h : writable s = true) :
    exec (.rngRetest raw) s = .next (startUp (s.withAttempts 0) raw) := by
  rw [exec_rngRetest, execRngRetest, if_pos h, State.withAttempts]

/-- The tests of a start-up do not look at the attempts made. -/
theorem startTests_withAttempts (n : BitVec 2) : startTests (s.withAttempts n).rng raw = startTests s.rng raw := rfl

end Restart

end Sys2Proof.Machine
end

section
/-! The lane test port (09 R217). -/

namespace Sys2Proof.Machine

theorem exec_laneTest_of_writable {s : State} (h : writable s = true) (v : Word64) :
    exec (.laneTest v) s = .next (laneTest v s) :=
  congrArg Host.Outcome.next (if_pos h)

theorem ltBadCore_iff (s : State) (c : Nat) :
    ltBadCore s c = true ↔ 1500 ≤ c ∨ (s.core c).role = 2 ∨ (s.core c).role = 3 := by
  simp only [ltBadCore, Bool.or_eq_true, decide_eq_true_eq, beq_iff_eq, or_assoc]

/-- The numbers of core and lane that a write of LT_CTRL sets. -/
def Rng.withUnit (r : Rng) (v : Word64) : Rng :=
  { r with ltCore := BitVec.ofNat 11 (bitsOf v.toNat 0 11), ltLane := BitVec.ofNat 8 (bitsOf v.toNat 11 8) }

section LaneTest
variable {s : State} {v : Word64}

theorem laneTest_of_badCore (h : ltBadCore s (bitsOf v.toNat 0 11) = true) :
    laneTest v s = { s with rng := { s.rng.withUnit v with ltDone := s.rng.ltDone && !bitOf v.toNat 20 } } :=
  if_pos h

theorem laneTest_of_core (h : ¬ ltBadCore s (bitsOf v.toNat 0 11) = true) : laneTest v s =
    let d := lane s.rng.ltKey0 s.rng.ltKey1 s.rng.ltIndex s.rng.ltStream s.rng.ltDraw
    { s with rng := { s.rng.withUnit v with ltDone := true, ltOut0 := d.extractLsb' 0 64, ltOut1 := d.extractLsb' 64 64 } } :=
  if_neg h

end LaneTest

theorem b2n_le_one (b : Bool) : b2n b ≤ 1 := by cases b <;> decide

theorem packFields_nil : packFields [] = 0 := rfl

theorem packFields_cons (pos v : Nat) (fs : List (Nat × Nat)) : packFields ((pos, v) :: fs) = v * 2 ^ pos + packFields fs := by
  simp only [packFields, List.map_cons, List.sum_cons]

theorem regRead_ltCtrl (s : State) : regRead s 0 0x680060 = regWord [(0, s.rng.ltCore.toNat), (11, s.rng.ltLane.toNat),
    flag 20 s.rng.ltDone, flag 21 (ltBadCore s s.rng.ltCore.toNat)] := by
  simp only [regRead, readPf, readRng, Nat.reduceLT, Nat.reduceSub, Nat.reduceEqDiff, if_true, if_false]

/-- Of four fields one above the other, as LT_CTRL has them, the highest is read back. -/
theorem bitOf_ltCtrl_top {core lane : Nat} (hcore : core < 2 ^ 11) (hlane : lane < 2 ^ 8) (done bad : Bool) :
    bitOf (regWord [(0, core), (11, lane), flag 20 done, flag 21 bad]).toNat 21 = bad := by
  have hdone := b2n_le_one done
  have hfields : packFields [(0, core), (11, lane), flag 20 done, flag 21 bad] =
      core + (lane * 2 ^ 11 + (b2n done * 2 ^ 20 + b2n bad * 2 ^ 21)) := by
    rw [flag, flag, packFields_cons, packFields_cons, packFields_cons, packFields_cons, packFields_nil, Nat.pow_zero, Nat.mul_one,
      Nat.add_zero]
  rw [regWord, BitVec.toNat_ofNat, hfields]
  cases bad
  · have hbit : (core + (lane * 2 ^ 11 + (b2n done * 2 ^ 20 + 0 * 2 ^ 21))) % 2 ^ 64 / 2 ^ 21 % 2 ≠ 1 := by omega
    exact beq_eq_false_iff_ne.mpr hbit
  · have hbit : (core + (lane * 2 ^ 11 + (b2n done * 2 ^ 20 + 1 * 2 ^ 21))) % 2 ^ 64 / 2 ^ 21 % 2 = 1 := by omega
    exact beq_iff_eq.mpr hbit

/-- Bit 21 of LT_CTRL is BAD_CORE. -/
theorem regRead_ltCtrl_badCore (s : State) : bitOf (regRead s 0 0x680060).toNat 21 = ltBadCore s s.rng.ltCore.toNat := by
  rw [regRead_ltCtrl]
  exact bitOf_ltCtrl_top s.rng.ltCore.isLt s.rng.ltLane.isLt _ _

/-- Settles O37. How raw bits are packed (log 26) is the model's choice. -/
theorem springHealthTests : Obligations.SpringHealthTests := by
  intro s raw v hstaged first
  refine ⟨fun hok hlen => ⟨fun hpass => ?pass, fun i k hfail => ?fail, fun hraw => ?repetition⟩,
    fun u hat => exec_springRetry_of_waiting hat, fun u hat hdue hleft => ?retry, fun hw hpass hlen => ?retest,
    fun hw => ?laneTest⟩
  case pass =>
    have hrun := springBlock_of_pass hok hlen hpass
    exact ⟨_, exec_springBlock_of_staged hstaged, by rw [hrun]; exact hok, by rw [hrun], by rw [hrun]⟩
  case fail =>
    have hrun := springBlock_of_fail hok hlen hfail
    refine ⟨_, exec_springBlock_of_staged hstaged, ?_⟩
    rw [hrun]
    dsimp only
    rw [springFails_rng, springFails_raised]
    exact ⟨rfl, rfl, rfl, rfl, rfl, rfl, rfl⟩
  case repetition =>
    rw [hraw]
    exact health_replicate_fail s.rng true (by decide)
  case retry =>
    have htests : startTests (s.withAttempts (s.rng.attempts + 1)).rng raw = first := startTests_withAttempts _
    refine ⟨_, exec_springRetry_of_due hstaged hat hdue hleft, ?_⟩
    match hfirst : first.fail with
    | none =>
      rw [startUp_of_pass (htests ▸ hfirst)]
      refine ⟨rfl, fun _ hlong => ?_, fun _ hshort => ?_, fun h => absurd rfl h⟩
      · have hnot : ¬ raw.length < 4096 := Nat.not_lt.mpr hlong
        exact ⟨if_neg hnot, if_neg hnot⟩
      · exact ⟨if_pos hshort, (if_pos hshort).trans hat⟩
    | some (i, k) =>
      rw [startUp_of_fail (htests ▸ hfirst), springFails_rng, springFails_raised]
      exact ⟨rfl, nofun, nofun, fun _ => ⟨rfl, rfl, rfl, rfl⟩⟩
  case retest =>
    have htests : startTests (s.withAttempts 0).rng raw = first := startTests_withAttempts _
    have hnot : ¬ raw.length < 4096 := Nat.not_lt.mpr hlen
    refine ⟨_, exec_rngRetest_of_writable hw, ?_⟩
    rw [startUp_of_pass (htests ▸ hpass)]
    exact ⟨if_neg hnot, rfl, if_neg hnot⟩
  case laneTest =>
    intro c d r
    have hc : (BitVec.ofNat 11 c).toNat = c := by
      rw [BitVec.toNat_ofNat]
      exact Nat.mod_eq_of_lt (bitsOf_lt v.toNat 0 11)
    rw [exec_laneTest_of_writable hw]
    refine ⟨fun hlt hdead hgone => ?_, fun hbad => ?_⟩
    · have hgood : ¬ ltBadCore s c = true := by
        rw [ltBadCore_iff]
        rintro (h | h | h)
        · exact absurd hlt (Nat.not_lt.mpr h)
        · exact hdead h
        · exact hgone h
      rw [laneTest_of_core hgood]
      rfl
    · have hbad' := (ltBadCore_iff s c).mpr hbad
      refine ⟨_, rfl, laneTest_of_badCore hbad', ?_⟩
      rw [laneTest_of_badCore hbad', regRead_ltCtrl_badCore]
      exact (congrArg (ltBadCore s) hc).trans hbad'

end Sys2Proof.Machine
end

section
/-! The CLEAR bits of the device's own windows: four act wherever stage 0 has been reached, the others only where the device has not
failed, and that of a codec engine only on a die in service (20 R425). -/

namespace Sys2Proof.Machine

section ExecDeviceClear
variable (s : State)

theorem exec_cdcClear (c : Nat) : exec (.cdcClear c) s = execCdcClear c s := rfl
theorem exec_hifClear : exec .hifClear s = execHifClear s := rfl
theorem exec_schedClear : exec .schedClear s = execSchedClear s := rfl
theorem exec_acctClearAll : exec .acctClearAll s = execAcctClearAll s := rfl
theorem exec_flsClear : exec .flsClear s = execFlsClear s := rfl
theorem exec_telClear : exec .telClear s = execTelClear s := rfl
theorem exec_secClear : exec .secClear s = execSecClear s := rfl
theorem exec_rngClear : exec .rngClear s = execRngClear s := rfl

end ExecDeviceClear

/-- Settles O7: each CLEAR is a change of its own window, made where writes to the window act. -/
theorem deviceCountersCleared : Obligations.DeviceCountersCleared := by
  intro s c hstaged
  refine ⟨fun hw hc hin => ?cdc, ?hif, fun hw => ?sched, ?acct, fun hw => ?fls, ?tel, ?sec, fun hw => ?rng⟩
  case cdc =>
    have hguard : (writable s && decide (c < 4) && !(s.basin (c + 6)).withdrawn) = true := by simp [hw, hc, hin]
    rw [exec_cdcClear, execCdcClear, if_pos hguard]
  case hif =>
    rw [exec_hifClear, execHifClear, if_pos hstaged, Tab.map]
  case sched =>
    rw [exec_schedClear, execSchedClear, if_pos hw, Tab.map]
  case acct => rw [exec_acctClearAll, execAcctClearAll, if_pos hstaged]
  case fls => rw [exec_flsClear, execFlsClear, if_pos hw]
  case tel => rw [exec_telClear, execTelClear, if_pos hstaged, telClear]
  case sec => rw [exec_secClear, execSecClear, if_pos hstaged]
  case rng => rw [exec_rngClear, execRngClear, if_pos hw]

end Sys2Proof.Machine
end

section
/-! What sending flits changes (12 R265, R266, R282), and what the loss of a peer leaves as it was. -/

namespace Sys2Proof.Machine

@[simp] theorem State.setPort_setPort (s : State) (q : Nat) (v w : Port) : (s.setPort q v).setPort q w = s.setPort q w :=
  congrArg (fun ports => { s with ports := ports }) (Tab.put_put s.ports q v w)

theorem State.port_congr {s t : State} (h : t.ports = s.ports) (q : Nat) : t.port q = s.port q := by simp only [State.port, h]

/-- A port without what sending changes: its queues, numbers, turns, credits and count. -/
def Port.sansSent (r : Port) : Port :=
  { r with waiting := [], retained := [], nextSeq := 0, turn := 0, credits := [], tx := 0 }

/-- The machine without its ports, and each port without what sending changes. -/
def State.sansSent (s : State) : State × (Nat → Port) := ({ s with ports := [] }, fun q => (s.port q).sansSent)

section SansSent
variable {s t : State} (h : t.sansSent = s.sansSent)
include h

theorem State.frame_of_sansSent : t = { s with ports := t.ports } :=
  congrArg (fun u : State × (Nat → Port) => { u.1 with ports := t.ports }) h

theorem State.port_of_sansSent (q : Nat) : (t.port q).sansSent = (s.port q).sansSent := congrFun (congrArg Prod.snd h) q

end SansSent

section Ports
variable {r r' : Port} (h : r.sansSent = r'.sansSent)
include h

theorem Port.peerLost_of_sansSent : r.peerLost = r'.peerLost := by
  have hkept := congrArg Port.peerLost h
  exact hkept

theorem Port.delay_of_sansSent : r.delay = r'.delay := by
  have hkept := congrArg Port.delay h
  exact hkept

end Ports

theorem pumpPort_sansSent (n : Nat) (r : Port) : (pumpPort n r).sansSent = r.sansSent := by
  induction n generalizing r with
  | zero => rfl
  | succ n ih =>
    unfold pumpPort
    split
    · split
      · exact ih _
      · rfl
    · rfl

theorem State.setPort_sansSent {s : State} {q : Nat} {v : Port} (h : v.sansSent = (s.port q).sansSent) :
    (s.setPort q v).sansSent = s.sansSent := by
  refine Prod.ext rfl (funext fun k => ?_)
  by_cases hk : k = q
  · subst hk
    exact (congrArg Port.sansSent (State.port_setPort_self s k v)).trans h
  · exact congrArg Port.sansSent (State.port_setPort_ne s v hk)

theorem sendOn_sansSent (s : State) (q : Nat) (f : Flit) : (sendOn s q f).sansSent = s.sansSent :=
  (State.setPort_sansSent (pumpPort_sansSent _ _)).trans (State.setPort_sansSent rfl)

theorem sendFlit_sansSent (s : State) (f : Flit) : (sendFlit s f).sansSent = s.sansSent := by
  unfold sendFlit
  split
  · exact sendOn_sansSent _ _ _
  · split
    · split
      · exact sendOn_sansSent _ _ _
      · rfl
    · rfl

theorem sendAborts_sansSent (s : State) (p : Nat) : (sendAborts s p).sansSent = s.sansSent := by
  unfold sendAborts
  split
  · exact foldl_keeps (fun s _ => foldl_keeps (fun s _ => sendFlit_sansSent s _) _ s) _ _
  · rfl

theorem sendAborts_runs (s : State) (p : Nat) : (sendAborts s p).runs = s.runs := by
  rw [State.frame_of_sansSent (sendAborts_sansSent s p)]

/-! The end of a job leaves the ports and machine time as they are. -/

/-- The ports and the machine time controller. -/
def State.links (s : State) : Tab Port × Mtc := (s.ports, s.mtc)

theorem finishIds_links (s : State) (ids : List Nat) (status : Nat) : (finishIds s ids status).links = s.links :=
  foldl_keeps (fun s i => by simp only [State.links, finishId_ports, finishId_mtc]) ids s

theorem setResampling_links (s : State) (p : Nat) (ws : List EngineWork) : (setResampling s p ws).links = s.links :=
  foldl_keeps (f := fun (t : State) b => t.setBasin b _) (fun _ _ => rfl) _ _

theorem clearJob_links (s : State) (p : Nat) : (clearJob s p).links = s.links :=
  (foldl_keeps (f := fun (t : State) b => t.setBasin b (t.basin b).rest) (fun _ _ => rfl) _ _).trans (setResampling_links _ p _)

theorem finishJob_links (s : State) (j : Job) (status : Nat) : (finishJob s j status).links = s.links := by
  unfold finishJob
  split
  · simp only [State.links, finishWith_ports, finishWith_mtc]
  · rfl

theorem closeRequest_links (s : State) (r : Request) (status : Nat) : (closeRequest s r status).links = s.links := by
  have hfree : ((releasePages s r).freeRequest r).links = s.links := by
    rw [releasePages_frame]
    rfl
  unfold closeRequest
  rw [finishIds_links, finishIds_links]
  split
  · simpa only [State.links, finishId_ports, finishId_mtc] using hfree
  · exact hfree

theorem endRequests_links (s : State) (p h status reason : Nat) (which : Request → Bool) :
    (endRequests s p h status reason which).links = s.links := by
  refine foldl_keeps (fun s r => ?_) _ s
  rw [endRequest, closeRequest_links, writeProgress_frame]
  rfl

theorem endJob_links (s : State) (p status : Nat) : (endJob s p status).links = s.links := by
  cases hj : (s.partRun p).job with
  | none => simp only [endJob, hj]
  | some j =>
    rw [endJob_of_job hj]
    dsimp only
    split
    · rw [settleReleases, endRequests_links, finishIds_links, finishJob_links, clearJob_links]
    · rw [finishIds_links, finishJob_links, clearJob_links]

/-! The loss of a peer (12 R282). -/

section PeerLoss
variable {s : State} {p : Nat} {j : Job} (hjob : (s.partRun p).job = some j) (hranks : j.ranks ≠ [])
include hjob hranks

theorem peerLoss_of_ranks : peerLoss s p = endJob (sendAborts s p) p stPeerLost := by
  have hmulti : multiJob s p = true := by simpa [multiJob, hjob] using hranks
  exact if_pos hmulti

/-- The loss of a peer ends the multi-device job of a partition. -/
theorem peerLoss_ends : ((peerLoss s p).partRun p).job = none ∧ (peerLoss s p).cmd j.cmd = none := by
  rw [peerLoss_of_ranks hjob hranks]
  exact endJob_ends ((congrArg PartRun.job (State.partRun_congr (sendAborts_runs s p) p)).trans hjob) _

end PeerLoss

/-- It leaves machine time as it is, and of the ports everything but what sending changes. -/
theorem peerLoss_links (s : State) (p : Nat) : (peerLoss s p).mtc = s.mtc
    ∧ ∀ q, ((peerLoss s p).port q).sansSent = (s.port q).sansSent := by
  have hsent := sendAborts_sansSent s p
  have hend := endJob_links (sendAborts s p) p stPeerLost
  unfold peerLoss
  split
  · have hmtc := congrArg State.mtc (State.frame_of_sansSent hsent)
    refine ⟨(congrArg Prod.snd hend).trans hmtc, fun q => ?_⟩
    rw [State.port_congr (congrArg Prod.fst hend)]
    exact State.port_of_sansSent hsent q
  · exact ⟨rfl, fun _ => rfl⟩

end Sys2Proof.Machine
end

section
/-! A job's open executions and the chunks of its collectives, as they are changed. -/

namespace Sys2Proof.Machine

/-- The job with the open execution of an operation changed. -/
def Job.onExec (j : Job) (op : Nat) (f : Exec → Exec) : Job :=
  { j with execs := j.execs.map fun e => if e.op == op then f e else e }

/-- The execution with a chunk changed. -/
def Exec.onChunk (e : Exec) (chunk : Nat) (g : Chunk → Chunk) : Exec :=
  { e with chunks := Tab.mod e.chunks chunk ({} : Chunk) g }

theorem Exec.get_onChunk (e : Exec) (chunk : Nat) (g : Chunk → Chunk) :
    Tab.get (e.onChunk chunk g).chunks chunk ({} : Chunk) = g (Tab.get e.chunks chunk ({} : Chunk)) := Tab.get_put_self _ _ _ _

/-- A change that keeps an execution's operation is what the job finds there afterwards. -/
theorem Job.exec_onExec {j : Job} {op : Nat} {e : Exec} {f : Exec → Exec} (he : j.exec op = some e)
    (hf : ∀ d, (f d).op = d.op) : (j.onExec op f).exec op = some (f e) := by
  have hsame : ((fun d : Exec => d.op == op) ∘ fun d => if d.op == op then f d else d) = fun d => d.op == op := by
    funext d
    by_cases hd : d.op = op <;> simp [hd, hf]
  have hop : (e.op == op) = true := List.find?_some (p := fun d : Exec => d.op == op) he
  have hfound : j.execs.find? (fun d => d.op == op) = some e := he
  simp only [Job.exec, Job.onExec, List.find?_map, hsame, hfound, Option.map_some, hop, if_true]

theorem onExec_of_job {s : State} {p : Nat} {j : Job} (h : (s.partRun p).job = some j) (op : Nat) (f : Exec → Exec) :
    onExec s p op f = s.setRun p { s.partRun p with job := some (j.onExec op f) } := by
  simp only [onExec, h]
  rfl

theorem RunsJob.trans {s t u : State} {p : Nat} {j k : Job} (h : RunsJob s t p j) (h' : RunsJob t u p k) : RunsJob s u p k where
  job := h'.job
  host := h'.host.trans h.host
  hbm := h'.hbm.trans h.hbm
  cmds := h'.cmds.trans h.cmds
  parts := h'.parts.trans h.parts
  fuses := h'.fuses.trans h.fuses
  mtc := h'.mtc.trans h.mtc

theorem runsJob_of_frame {s t : State} {p : Nat} {j : Job} (h : (s.partRun p).job = some j)
    (ht : t = { s with ports := t.ports }) : RunsJob s t p j := by
  rw [ht]
  exact ⟨h, rfl, rfl, rfl, rfl, rfl, rfl⟩

theorem runsJob_onExec {s : State} {p : Nat} {j : Job} (h : (s.partRun p).job = some j) (op : Nat) (f : Exec → Exec) :
    RunsJob s (onExec s p op f) p (j.onExec op f) := by
  rw [onExec_of_job h]
  exact ⟨congrArg PartRun.job (State.partRun_setRun_self s p _), rfl, rfl, rfl, rfl, rfl, rfl⟩

/-- Partition p runs a job in t that has chunk c of this number in the open execution of operation op; the rest is as in s. -/
def RunsChunk (s t : State) (p op chunk : Nat) (c : Chunk) : Prop :=
  ∃ j d, RunsJob s t p j ∧ j.exec op = some d ∧ Tab.get d.chunks chunk ({} : Chunk) = c

theorem RunsChunk.trans {s t u : State} {p op chunk : Nat} {j : Job} {c : Chunk} (h' : RunsChunk t u p op chunk c)
    (h : RunsJob s t p j) : RunsChunk s u p op chunk c := by
  obtain ⟨k, d, hk, hd, hc⟩ := h'
  exact ⟨k, d, h.trans hk, hd, hc⟩

/-- Sending flits changes no job. -/
theorem RunsChunk.sent {s t u : State} {p op chunk : Nat} {c : Chunk} (h : RunsChunk s t p op chunk c)
    (hu : u.sansSent = t.sansSent) : RunsChunk s u p op chunk c := by
  obtain ⟨j, d, hj, hd, hc⟩ := h
  exact ⟨j, d, hj.trans (runsJob_of_frame hj.job (State.frame_of_sansSent hu)), hd, hc⟩

theorem runsChunk_onChunk {s : State} {p op : Nat} {j : Job} {e : Exec} (hj : (s.partRun p).job = some j)
    (he : j.exec op = some e) (chunk : Nat) (g : Chunk → Chunk) :
    RunsChunk s (onExec s p op fun d => d.onChunk chunk g) p op chunk (g (Tab.get e.chunks chunk ({} : Chunk))) :=
  ⟨_, _, runsJob_onExec hj op _, Job.exec_onExec he fun _ => rfl, Exec.get_onChunk e chunk g⟩

/-! A job at work on its plan. -/

theorem workOf_of_job {s : State} {p : Nat} {j : Job} {pl : Plan} (hj : (s.partRun p).job = some j)
    (hpl : s.plan p j.handle = some pl) : workOf s p = some { s := s, p := p, pl := pl, j := j } := by
  simp only [workOf, hj, hpl, Option.map_some]

theorem job_of_workOf {s : State} {p : Nat} {w : Work} (h : workOf s p = some w) :
    (s.partRun p).job = some w.j ∧ s.plan p w.j.handle = some w.pl := by
  unfold workOf at h
  split at h
  case h_1 j hj =>
    obtain ⟨pl, hpl, rfl⟩ := Option.map_eq_some_iff.mp h
    exact ⟨hj, hpl⟩
  case h_2 => simp at h

/-- Its plan stays when one of its executions is changed. -/
theorem workOf_onExec {s : State} {p : Nat} {w : Work} (h : workOf s p = some w) (op : Nat) (f : Exec → Exec) :
    workOf (onExec s p op f) p = some { s := onExec s p op f, p := p, pl := w.pl, j := w.j.onExec op f } := by
  obtain ⟨hj, hpl⟩ := job_of_workOf h
  refine workOf_of_job (runsJob_onExec hj op f).job ?_
  rw [onExec_of_job hj]
  exact hpl

theorem chunkOf_eq_some {s : State} {p op chunk : Nat} {w : Work} {e : Exec} {c : Chunk}
    (h : chunkOf s p op chunk = some (w, e, c)) : workOf s p = some w ∧ w.j.exec op = some e
      ∧ c = Tab.get e.chunks chunk ({} : Chunk)
      ∧ ((opAt w.pl.image op).kind == 0x0C && chunk < kChunks (collBlock w.pl.image op)) = true := by
  unfold chunkOf at h
  split at h
  case h_1 => simp at h
  case h_2 v hv =>
    split at h
    case isTrue hkind =>
      obtain ⟨d, hd, heq⟩ := Option.map_eq_some_iff.mp h
      cases heq
      exact ⟨hv, hd, rfl, hkind⟩
    case isFalse => simp at h

end Sys2Proof.Machine
end

section
/-! Collectives: ready marks, starts, timeouts and aborts (12 R281, R282). -/

namespace Sys2Proof.Machine

section Exec
variable (p mjob op chunk rank time : Nat) (s : State)

theorem exec_readyMark : exec (.readyMark mjob op chunk rank time) s = execReadyMark mjob op chunk rank time s := rfl
theorem exec_startTimeReceive : exec (.startTimeReceive mjob op chunk time) s = execStartTimeReceive mjob op chunk time s := rfl
theorem exec_collectiveChunkStart : exec (.collectiveChunkStart p op chunk) s = execCollectiveChunkStart p op chunk s := rfl
theorem exec_collectiveTimeout : exec (.collectiveTimeout p op chunk) s = execCollectiveTimeout p op chunk s := rfl
theorem exec_peerAbort : exec (.peerAbort mjob) s = execPeerAbort mjob s := rfl

end Exec

/-! Aborts (R282). -/

theorem exec_peerAbort_of_unknown {s : State} {mjob : Nat} (h : mjobPart s mjob = none) :
    exec (.peerAbort mjob) s = .next s := by
  simp only [exec_peerAbort, execPeerAbort, h]

theorem exec_peerAbort_of_known {s : State} {mjob p : Nat} (hworks : works s = true) (h : mjobPart s mjob = some p) :
    exec (.peerAbort mjob) s = .next (endJob s p stPeerLost) := by
  simp only [exec_peerAbort, execPeerAbort, h, hworks, if_true]

/-! Marks (R281). -/

/-- The chunk has the mark of every rank. -/
def Chunk.allMarked (c : Chunk) (r : Ranks) : Bool :=
  (List.range r.devices.length).all fun k => c.marks.any fun m => m.1 == k

/-- A chunk with marks at rank 0: its start is set as soon as it has them all. -/
def Chunk.agreed (c : Chunk) (b : List Byte) (r : Ranks) (now : Nat) : Chunk :=
  if c.allMarked r then { c with start := some (agreedStart b (c.marks.map Prod.snd) now) } else c

/-- A chunk that has one more rank's mark. -/
def Chunk.marked (c : Chunk) (rank time : Nat) : Chunk := { c with marks := c.marks ++ [(rank, time)] }

@[inherit_doc Chunk.marked]
def Exec.withMark (e : Exec) (chunk rank time : Nat) : Exec := e.onChunk chunk fun c => c.marked rank time

/-- The execution in which chunk c has its start. -/
def Exec.withStart (e : Exec) (chunk : Nat) (c : Chunk) (start : Nat) : Exec :=
  e.onChunk chunk fun _ => { c with start := some start }

/-- Rank 0 tells the other ranks the start of a chunk. -/
def sendStart (s : State) (r : Ranks) (op index chunk start : Nat) : State :=
  r.devices.zipIdx.foldl (fun s d =>
    if d.1 = devnum s then s else sendFlit s (controlFlit s r.mjob d.1 op index chunk d.2 start)) s

theorem sendStart_sansSent (s : State) (r : Ranks) (op index chunk start : Nat) :
    (sendStart s r op index chunk start).sansSent = s.sansSent := by
  refine foldl_keeps (fun t d => ?_) _ s
  split
  · rfl
  · exact sendFlit_sansSent _ _

section Marks
variable {s : State} {p op chunk : Nat} {w : Work} {e : Exec} (hw : workOf s p = some w) (he : w.j.exec op = some e)
include hw he

theorem tryAgree_of_workOf {c : Chunk} (hc : c = Tab.get e.chunks chunk ({} : Chunk)) (b : List Byte) (r : Ranks) :
    tryAgree s p op chunk b r =
      let start := agreedStart b (c.marks.map Prod.snd) s.now
      if c.start.isNone && c.allMarked r then
        sendStart (onExec s p op (·.withStart chunk c start)) r op e.index chunk start
      else s := by
  subst hc
  simp only [tryAgree, hw, Option.bind_some, he]
  rfl

theorem tryAgree_chunk {c : Chunk} (hc : c = Tab.get e.chunks chunk ({} : Chunk)) (hstart : c.start = none) (b : List Byte)
    (r : Ranks) : RunsChunk s (tryAgree s p op chunk b r) p op chunk (c.agreed b r s.now) := by
  obtain ⟨hj, -⟩ := job_of_workOf hw
  rw [tryAgree_of_workOf hw he hc, hstart, Option.isNone_none, Bool.true_and, Chunk.agreed]
  dsimp only
  split
  · exact (runsChunk_onChunk hj he chunk fun _ => { c with start := _ }).sent (sendStart_sansSent _ _ _ _ _ _)
  · exact ⟨_, e, runsJob_of_frame hj rfl, he, hc.symm⟩

theorem takeMark_chunk {c : Chunk} (hc : c = Tab.get e.chunks chunk ({} : Chunk)) (hstart : c.start = none) {rank : Nat}
    (hnew : ∀ m ∈ c.marks, m.1 ≠ rank) (time : Nat) (b : List Byte) (r : Ranks) :
    RunsChunk s (takeMark s p { op := op, chunk := chunk, rank := rank, time := time } b r) p op chunk
      ((c.marked rank time).agreed b r s.now) := by
  obtain ⟨hj, -⟩ := job_of_workOf hw
  have hwanted : takeMark s p { op := op, chunk := chunk, rank := rank, time := time } b r =
      tryAgree (onExec s p op (·.withMark chunk rank time)) p op chunk b r := by
    have hmark : (c.marks.any fun m => m.1 == rank) = false := by simpa using hnew
    simp only [takeMark, hj, he, ← hc, hstart, hmark, Option.isNone_none, Bool.not_false, Bool.and_self, if_true]
    rfl
  have hruns := runsJob_onExec hj op (·.withMark chunk rank time)
  have hnow := congrArg (fun m : Mtc => m.now.toNat) hruns.mtc
  have hget := Exec.get_onChunk e chunk fun c => c.marked rank time
  rw [← hc] at hget
  have hagree := tryAgree_chunk (workOf_onExec hw op (·.withMark chunk rank time)) (Job.exec_onExec he fun _ => rfl) hget.symm hstart b r
  rw [State.now, hnow] at hagree
  rw [hwanted]
  exact hagree.trans hruns

end Marks

theorem exec_readyMark_of_new {s : State} {p op chunk mjob rank : Nat} {w : Work} {e : Exec} {c : Chunk} {r : Ranks}
    (hworks : works s = true) (hchunk : chunkOf s p op chunk = some (w, e, c))
    (hr : ranksOf w.j (collBlock w.pl.image op) = some r) (hpart : mjobPart s mjob = some p) (hmjob : r.mjob = mjob)
    (hop : op < hOps w.pl.image) (hown : rankOf r (devnum s) = 0) (hrank : rank < r.devices.length) (hstart : c.start = none)
    (hnew : ∀ m ∈ c.marks, m.1 ≠ rank) (time : Nat) :
    ∃ t, exec (.readyMark mjob op chunk rank time) s = .next t
      ∧ RunsChunk s t p op chunk ((c.marked rank time).agreed (collBlock w.pl.image op) r s.now) := by
  obtain ⟨hw, he, hc, hkind⟩ := chunkOf_eq_some hchunk
  refine ⟨_, ?_, takeMark_chunk hw he hc hstart hnew time (collBlock w.pl.image op) r⟩
  obtain ⟨hcoll, hcount⟩ := Bool.and_eq_true_iff.mp hkind
  simp only [exec_readyMark, execReadyMark, hpart, Option.bind_some, hw, Option.map_some, hr, hworks, hop, hcoll, hmjob, hown,
    hcount, hrank, decide_true, beq_self_eq_true, Bool.and_self, if_true]

/-! Starts (R281). -/

/-- This rank's own part of chunk c. -/
def Work.ownPart (w : Work) (op own c : Nat) : List Byte :=
  let b := collBlock w.pl.image op
  match sentFrom b own own c with
  | some k => (w.provisional b).contribution b k
  | none => []

/-- A chunk that starts with this rank's own part in place. -/
def Chunk.begun (c : Chunk) (own : Nat) (mine : List Byte) : Chunk :=
  { ({ c with parts := Tab.del c.parts own } : Chunk).take own mine with started := true }

theorem Chunk.own_begun (c : Chunk) (own : Nat) (mine : List Byte) : Tab.get (c.begun own mine).parts own [] = mine := by
  have hempty : Tab.get (Tab.del c.parts own) own [] = [] := by rw [Tab.get, Tab.find_del_self, Option.getD_none]
  exact (Tab.get_put_self _ _ _ _).trans (congrArg (· ++ mine) hempty)

/-- The parts of chunk c that the other ranks need leave. -/
def Work.sendParts (w : Work) (op index own c : Nat) (r : Ranks) (s : State) : State :=
  let b := collBlock w.pl.image op
  r.devices.zipIdx.foldl (fun s d =>
    if d.2 = own then s
    else match sentFrom b own d.2 c with
      | some k => (dataFlits s r.mjob d.1 op index c own ((w.provisional b).contribution b k)).foldl sendFlit s
      | none => s) s

theorem Work.sendParts_sansSent (w : Work) (op index own c : Nat) (r : Ranks) (s : State) :
    (w.sendParts op index own c r s).sansSent = s.sansSent := by
  refine foldl_keeps (fun t d => ?_) _ s
  split
  · rfl
  · split
    · exact foldl_keeps sendFlit_sansSent _ t
    · rfl

section Start
variable {s : State} {p op chunk : Nat} {w : Work} {e : Exec} {r : Ranks} (hw : workOf s p = some w)
  (he : w.j.exec op = some e) (hr : ranksOf w.j (collBlock w.pl.image op) = some r)
include hw he hr

theorem startChunk_of_workOf : startChunk s p op chunk =
    let own := rankOf r (devnum s)
    w.sendParts op e.index own chunk r
      (onExec s p op fun d => d.onChunk chunk fun x => x.begun own (w.ownPart op own chunk)) := by
  simp only [startChunk, hw, he, hr]
  rfl

theorem startChunk_chunk : RunsChunk s (startChunk s p op chunk) p op chunk
    ((Tab.get e.chunks chunk ({} : Chunk)).begun (rankOf r (devnum s)) (w.ownPart op (rankOf r (devnum s)) chunk)) := by
  rw [startChunk_of_workOf hw he hr]
  exact (runsChunk_onChunk (job_of_workOf hw).1 he chunk fun x => x.begun _ _).sent (Work.sendParts_sansSent _ _ _ _ _ _ _)

end Start

/-- The machine with one more chunk counted that started late. -/
def lateCounted (s : State) : State := { s with mtc := { s.mtc with lateStarts := satAdd s.mtc.lateStarts 1 } }

section Chunks
variable {s : State} {p op chunk : Nat} {w : Work} {e : Exec} {c : Chunk} {r : Ranks} (hworks : works s = true)
  (hchunk : chunkOf s p op chunk = some (w, e, c))
include hworks hchunk

theorem exec_collectiveChunkStart_of_due (hr : ranksOf w.j (collBlock w.pl.image op) = some r) {u : Nat}
    (hstart : c.start = some u) (hdue : u ≤ s.now) (hwaits : c.started = false) :
    ∃ t, exec (.collectiveChunkStart p op chunk) s = .next t ∧ RunsChunk s t p op chunk
      (c.begun (rankOf r (devnum s)) (w.ownPart op (rankOf r (devnum s)) chunk)) := by
  obtain ⟨hw, he, hc, -⟩ := chunkOf_eq_some hchunk
  have hguard : (works s && decide (u ≤ s.now) && !c.started) = true := by simp [hworks, hdue, hwaits]
  refine ⟨startChunk s p op chunk, ?_, hc ▸ startChunk_chunk hw he hr⟩
  simp only [exec_collectiveChunkStart, execCollectiveChunkStart, hchunk, hstart]
  rw [if_pos hguard]

/-- The loss of the peers that did not send in time ends the job (R282). -/
theorem exec_collectiveTimeout_of_due {u : Nat} (hstart : c.start = some u)
    (hdue : u + zeroSelects s.mtc.collMs 100 * 1000000 < s.now) (hopen : chunkDone s w op c = false) :
    exec (.collectiveTimeout p op chunk) s = .next (peerLoss s p) := by
  have hguard : (works s && decide (u + zeroSelects s.mtc.collMs 100 * 1000000 < s.now) && !chunkDone s w op c) = true := by
    simp [hworks, hdue, hopen]
  simp only [exec_collectiveTimeout, execCollectiveTimeout, hchunk, hstart]
  rw [if_pos hguard]

/-! The start time another rank learns. -/

variable {mjob : Nat} (hpart : mjobPart s mjob = some p) (hready : c.ready = true) (hunset : c.start = none)
include hpart hready hunset

theorem exec_startTimeReceive_of_ready (start : Nat) : exec (.startTimeReceive mjob op chunk start) s = .next (
    let t := onExec s p op (·.withStart chunk c start)
    if start < s.now then startChunk (lateCounted t) p op chunk else t) := by
  have hguard : ¬ (!(works s && c.ready && c.start.isNone)) = true := by simp [hworks, hready, hunset]
  simp only [exec_startTimeReceive, execStartTimeReceive, hpart, Option.bind_some, hchunk, Option.map_some]
  rw [if_neg hguard]
  rfl

theorem exec_startTimeReceive_of_early {start : Nat} (hearly : s.now ≤ start) :
    ∃ t, exec (.startTimeReceive mjob op chunk start) s = .next t
      ∧ RunsChunk s t p op chunk { c with start := some start } := by
  obtain ⟨hw, he, -, -⟩ := chunkOf_eq_some hchunk
  have hrun := exec_startTimeReceive_of_ready hworks hchunk hpart hready hunset start
  dsimp only at hrun
  rw [if_neg (Nat.not_lt.mpr hearly)] at hrun
  exact ⟨_, hrun, runsChunk_onChunk (job_of_workOf hw).1 he chunk fun _ => { c with start := some start }⟩

theorem exec_startTimeReceive_of_late (hr : ranksOf w.j (collBlock w.pl.image op) = some r) {start : Nat}
    (hlate : start < s.now) : ∃ t j d, exec (.startTimeReceive mjob op chunk start) s = .next t
      ∧ (t.partRun p).job = some j ∧ j.exec op = some d
      ∧ (Tab.get d.chunks chunk ({} : Chunk)).start = some start ∧ (Tab.get d.chunks chunk ({} : Chunk)).started = true
      ∧ t.mtc.lateStarts = satAdd s.mtc.lateStarts 1 := by
  obtain ⟨hw, he, -, -⟩ := chunkOf_eq_some hchunk
  have hrun := exec_startTimeReceive_of_ready hworks hchunk hpart hready hunset start
  dsimp only at hrun
  rw [if_pos hlate] at hrun
  have htold := runsJob_onExec (job_of_workOf hw).1 op (·.withStart chunk c start)
  obtain ⟨hjob, hplan⟩ := job_of_workOf (workOf_onExec hw op (·.withStart chunk c start))
  obtain ⟨j, d, hruns, hd, hbegun⟩ := startChunk_chunk (s := lateCounted _) (chunk := chunk) (workOf_of_job hjob hplan)
    (Job.exec_onExec he fun _ => rfl) hr
  rw [Exec.withStart, Exec.get_onChunk] at hbegun
  refine ⟨_, j, d, hrun, hruns.job, hd, congrArg Chunk.start hbegun, congrArg Chunk.started hbegun, ?_⟩
  have hlates := congrArg Mtc.lateStarts hruns.mtc
  exact hlates.trans (congrArg (fun m : Mtc => satAdd m.lateStarts 1) htold.mtc)

end Chunks

/-- Settles O49: a mark, a start and a start time each change one chunk of the running job, and sending changes ports alone. -/
theorem collectivesStartAndAbort : Obligations.CollectivesStartAndAbort := by
  intro s p op chunk mjob rank now w e c r hworks
  refine ⟨exec_peerAbort_of_unknown, ?abort, fun hchunk hr => ⟨?mark, ?told, ?start, ?timeout⟩⟩
  case abort =>
    intro hpart j hj
    exact ⟨_, exec_peerAbort_of_known hworks hpart, endJob_ends hj _⟩
  case mark =>
    intro hpart hmjob hop hown hrank hstart hnew
    obtain ⟨t, hrun, j, d, hruns, hd, hc⟩ :=
      exec_readyMark_of_new hworks hchunk hr hpart hmjob hop hown hrank hstart hnew now
    exact ⟨t, j, d, hrun, hruns, hd, hc⟩
  case told =>
    intro hpart hready hunset
    refine ⟨fun hearly => ?_, exec_startTimeReceive_of_late hworks hchunk hpart hready hunset hr⟩
    obtain ⟨t, hrun, j, d, hruns, hd, hc⟩ := exec_startTimeReceive_of_early hworks hchunk hpart hready hunset hearly
    exact ⟨t, j, d, hrun, hruns, hd, hc⟩
  case start =>
    intro u hstart hdue hwaits
    obtain ⟨t, hrun, j, d, hruns, hd, hc⟩ := exec_collectiveChunkStart_of_due hworks hchunk hr hstart hdue hwaits
    refine ⟨t, j, d, hrun, hruns, hd, congrArg Chunk.started hc, ?_⟩
    rw [hc, Chunk.own_begun]
    rfl
  case timeout =>
    intro u hstart hdue hopen
    obtain ⟨hw, -, -, -⟩ := chunkOf_eq_some hchunk
    exact ⟨_, exec_collectiveTimeout_of_due hworks hchunk hstart hdue hopen,
      peerLoss_ends (job_of_workOf hw).1 (List.ne_nil_of_mem (List.mem_of_find?_eq_some hr))⟩

end Sys2Proof.Machine
end

section
/-! Machine time: the tick of an empty queue, resyncs and time waves (12 R273, R274, R283). -/

namespace Sys2Proof.Machine

theorem step_of_empty {s : State} (h : s.pending = []) : step s = .next (tick s) := by
  simp only [step, h]

theorem tick_now (s : State) : (tick s).mtc.now = if alive s then s.mtc.now + 1 else s.mtc.now := by
  unfold tick
  split <;> rfl

/-- A tick changes machine time and the time counters of TEL at most. -/
theorem tick_frame (s : State) : tick s =
    { s with
      mtc := { s.mtc with now := (tick s).mtc.now }
      tel := { s.tel with
        capNs := (tick s).tel.capNs, thermNs := (tick s).tel.thermNs, throttleNs := (tick s).tel.throttleNs } } := by
  unfold tick
  split <;> rfl

/-- Settles O2: a step on an empty queue is a tick. That time passes there and nowhere else is the model's choice (log 4). -/
theorem emptyQueueTicks : Obligations.EmptyQueueTicks := fun s hempty =>
  ⟨tick s, step_of_empty hempty, tick_now s, tick_frame s⟩

section Exec
variable (s : State)

theorem exec_mtcResync : exec .mtcResync s = execMtcResync s := rfl
theorem exec_timeWaveSend : exec .timeWaveSend s = execTimeWaveSend s := rfl
theorem exec_timeWaveReceive (q : Nat) (t1 t2 t3 t4 : Int) :
    exec (.timeWaveReceive q t1 t2 t3 t4) s = execTimeWaveReceive q t1 t2 t3 t4 s := rfl

end Exec

theorem exec_timeWaveSend_of_root {s : State} (hstaged : staged s = true) (hroot : s.mtc.root = true) :
    exec .timeWaveSend s = .next (if s.census.waveDue ≤ s.now then
      { s with census := { s.census with waveDue := s.now + zeroSelects s.mtc.syncPeriod 1000 * 1000 } } else s) := by
  simp only [exec_timeWaveSend, execTimeWaveSend, hstaged, hroot, Bool.and_self, Bool.true_and, decide_eq_true_eq]

/-! How a wave is applied (R274). -/

/-- Before the census closes, and on a standalone device, machine time steps. -/
theorem applyWave_of_unclosed {s : State} (h : s.mtc.census = 0 ∨ s.mtc.standalone = true) (offset : Int) :
    applyWave s offset = stepMtc s offset := by
  have hguard : (s.mtc.census == 0 || s.mtc.standalone) = true := by simpa using h
  exact if_pos hguard

section Synchronised
variable {s : State} {offset : Int} (hclosed : s.mtc.census ≠ 0) (halone : s.mtc.standalone = false) (hsync : s.mtc.sync = true)
  (hresync : s.mtc.resync = false)
include hclosed halone hsync hresync

theorem applyWave_of_synchronised : applyWave s offset =
    if offset < -256000 ∨ 256000 < offset then unsync s offset
    else { s with mtc := { s.mtc with trim := limitTrim (Config.trimAfter s.mtc.trim offset) } } := by
  have hopen : (s.mtc.census == 0) = false := beq_eq_false_iff_ne.mpr hclosed
  have hstep : ¬ (s.mtc.census == 0 || s.mtc.standalone) = true := by rw [hopen, halone]; decide
  have hfree : ¬ ((!s.mtc.sync || s.mtc.resync) && !(List.range 10).any (multiJob s)) = true := by simp [hsync, hresync]
  rw [applyWave, if_neg hstep, if_neg hfree]
  simp only [hsync, Bool.true_and, Bool.or_eq_true, decide_eq_true_eq, or_comm]

end Synchronised

/-- The loss of synchronism ends jobs, and machine time goes on as it was. -/
theorem unsync_mtc (s : State) (offset : Int) :
    (unsync s offset).mtc = { s.mtc with sync := false, unsync := true } := by
  unfold unsync
  rw [foldl_keeps (g := State.mtc) fun t p => (peerLoss_links t p).1]
  exact raiseEvent_mtc _ _ _ _ _

theorem unsync_delay (s : State) (offset : Int) (q : Nat) : ((unsync s offset).port q).delay = (s.port q).delay := by
  unfold unsync
  rw [foldl_keeps (g := fun t : State => (t.port q).delay) fun t p => Port.delay_of_sansSent ((peerLoss_links t p).2 q)]
  exact congrArg Port.delay (State.port_congr (raiseEvent_ports _ _ _ _ _) q)

/-- What applying a wave leaves as it is: the counters and registers of the wave itself, and the delays of the ports. -/
theorem applyWave_keeps (s : State) (offset : Int) (q : Nat) :
    ((applyWave s offset).port q).delay = (s.port q).delay ∧ (applyWave s offset).mtc.waves = s.mtc.waves := by
  unfold applyWave
  dsimp only
  split
  · exact ⟨rfl, rfl⟩
  split
  · exact ⟨rfl, rfl⟩
  split
  · exact ⟨unsync_delay s offset q, by rw [unsync_mtc]⟩
  · exact ⟨rfl, rfl⟩

/-! A wave as it comes. -/

/-- The machine in which a wave over port q has been applied and entered the registers. -/
def waveTaken (s : State) (q : Nat) (offset delay : Int) : State :=
  let t := applyWave (s.setPort q { s.port q with delay := signed32 delay }) offset
  { t with mtc := { t.mtc with
      offset := signed32 offset, waves := satAdd t.mtc.waves 1
      hops := BitVec.ofNat 8 (hopsTo s (rootDevice s)), parentPort := BitVec.ofNat 4 q } }

section Wave
variable {s : State} {q : Nat} (t1 t2 t3 t4 : Int)

theorem exec_timeWaveReceive_of_parent (hstaged : staged s = true) (hparent : parentOf s = some q) :
    exec (.timeWaveReceive q t1 t2 t3 t4) s =
      .next (waveTaken s q (((t2 - t1) - (t4 - t3)) / 2) (((t4 - t1) - (t3 - t2)) / 2)) := by
  have hguard : (staged s && parentOf s == some q) = true := by simp [hstaged, hparent]
  exact congrArg Host.Outcome.next (if_pos hguard)

theorem exec_timeWaveReceive_of_other (hother : parentOf s ≠ some q) :
    exec (.timeWaveReceive q t1 t2 t3 t4) s = .next s := by
  have hguard : ¬ (staged s && parentOf s == some q) = true := by simp [hother]
  exact congrArg Host.Outcome.next (if_neg hguard)

end Wave

section Taken
variable (s : State) (q : Nat) (offset delay : Int)

theorem waveTaken_registers : (waveTaken s q offset delay).mtc.offset = BitVec.ofInt 32 offset
    ∧ ((waveTaken s q offset delay).port q).delay = BitVec.ofInt 32 delay
    ∧ (waveTaken s q offset delay).mtc.waves = satAdd s.mtc.waves 1
    ∧ (waveTaken s q offset delay).mtc.parentPort = BitVec.ofNat 4 q := by
  obtain ⟨hdelay, hwaves⟩ := applyWave_keeps (s.setPort q { s.port q with delay := signed32 delay }) offset q
  refine ⟨rfl, hdelay.trans ?_, congrArg (satAdd · 1) hwaves, rfl⟩
  rw [State.port_setPort_self]
  rfl

theorem waveTaken_of_unclosed (h : s.mtc.census = 0 ∨ s.mtc.standalone = true) :
    (waveTaken s q offset delay).mtc.now = BitVec.ofInt 64 ((s.now : Int) - offset / 256)
    ∧ (waveTaken s q offset delay).mtc.sync = true
    ∧ waveTaken s q offset delay =
        { s with mtc := (waveTaken s q offset delay).mtc, ports := (waveTaken s q offset delay).ports } := by
  have happly := applyWave_of_unclosed (s := s.setPort q { s.port q with delay := signed32 delay }) h offset
  simp only [waveTaken, happly]
  exact ⟨rfl, rfl, rfl⟩

theorem waveTaken_of_synchronised (hclosed : s.mtc.census ≠ 0) (halone : s.mtc.standalone = false) (hsync : s.mtc.sync = true)
    (hresync : s.mtc.resync = false) : (waveTaken s q offset delay).mtc.now = s.mtc.now
    ∧ (-256000 ≤ offset → offset ≤ 256000 → (waveTaken s q offset delay).mtc.sync = true ∧ waveTaken s q offset delay =
        { s with mtc := (waveTaken s q offset delay).mtc, ports := (waveTaken s q offset delay).ports })
    ∧ (offset < -256000 ∨ 256000 < offset →
        (waveTaken s q offset delay).mtc.sync = false ∧ (waveTaken s q offset delay).mtc.unsync = true) := by
  have happly := applyWave_of_synchronised (s := s.setPort q { s.port q with delay := signed32 delay }) (offset := offset)
    hclosed halone hsync hresync
  by_cases hlarge : offset < -256000 ∨ 256000 < offset
  · have hmtc := unsync_mtc (s.setPort q { s.port q with delay := signed32 delay }) offset
    rw [if_pos hlarge] at happly
    simp only [waveTaken, happly, hmtc]
    exact ⟨rfl, fun hlow hhigh => absurd hlarge (by omega), fun _ => ⟨trivial, trivial⟩⟩
  · rw [if_neg hlarge] at happly
    simp only [waveTaken, happly]
    exact ⟨rfl, fun _ _ => ⟨hsync, rfl⟩, fun h => absurd h hlarge⟩

end Taken

/-- Settles O38: a wave counts from the parent's port alone, and steps machine time, adjusts its trim or ends synchronism. The step by
the offset's whole ticks (log 123) and the halves rounded down (log 193) are the model's choices. -/
theorem timeWavesSetTheClock : Obligations.TimeWavesSetTheClock := by
  intro s q t1 t2 t3 t4 offset delay
  refine ⟨fun hw => ?resync, fun hstaged hroot => exec_timeWaveSend_of_root hstaged hroot, fun hstaged hparent => ?wave,
    exec_timeWaveReceive_of_other t1 t2 t3 t4⟩
  case resync => rw [exec_mtcResync, execMtcResync, if_pos hw]
  case wave =>
    obtain ⟨hoffset, hdelay, hwaves, hport⟩ := waveTaken_registers s q offset delay
    exact ⟨_, exec_timeWaveReceive_of_parent t1 t2 t3 t4 hstaged hparent, hoffset, hdelay, hwaves, hport,
      waveTaken_of_unclosed s q offset delay, waveTaken_of_synchronised s q offset delay⟩

end Sys2Proof.Machine
end

section
/-! The census: reports, its end, and its result as other devices hear it (12 R271, R272). -/

namespace Sys2Proof.Machine

section Exec
variable (byTime : Bool) (s : State)

theorem exec_censusReport (dev : Nat) (peers : List (Nat × Nat)) :
    exec (.censusReport dev peers) s = execCensusReport dev peers s := rfl
theorem exec_censusClose : exec (.censusClose byTime) s = execCensusClose byTime s := rfl
theorem exec_censusReceive (states blocks : List (Nat × Nat)) (mx my mz : Nat) :
    exec (.censusReceive states mx my mz blocks byTime) s = execCensusReceive states mx my mz blocks byTime s := rfl

end Exec

/-! Tables filled entry by entry. -/

theorem Tab.get_foldl_put_of_not_mem {α β : Type} {l : List (Nat × β)} {k : Nat} (h : k ∉ l.map Prod.fst) (f : β → α)
    (t : Tab α) (d : α) : Tab.get (l.foldl (fun t e => Tab.put t e.1 (f e.2)) t) k d = Tab.get t k d := by
  induction l generalizing t with
  | nil => rfl
  | cons e l ih =>
    obtain ⟨hne, hl⟩ := not_or.mp (mt List.mem_cons.mpr h)
    exact (ih hl _).trans (Tab.get_put_ne t _ d hne)

/-- Where no number comes twice, every entry is found as it was put. -/
theorem Tab.get_foldl_put_of_mem {α β : Type} {l : List (Nat × β)} (hn : (l.map Prod.fst).Nodup) {e : Nat × β} (he : e ∈ l)
    (f : β → α) (t : Tab α) (d : α) : Tab.get (l.foldl (fun t e => Tab.put t e.1 (f e.2)) t) e.1 d = f e.2 := by
  induction l generalizing t with
  | nil => simp at he
  | cons x l ih =>
    obtain ⟨hx, hl⟩ := List.nodup_cons.mp hn
    rcases List.mem_cons.mp he with rfl | he
    · exact (Tab.get_foldl_put_of_not_mem hx f _ d).trans (Tab.get_put_self t _ _ d)
    · exact ih hl he _

/-! The state of a device in the census. -/

theorem isolatedState_iff (x : BitVec 2) : (x == 2) = true ↔ x.toNat = 2 := by
  rw [beq_iff_eq]
  bv_omega

/-! Isolated devices (R271). -/

theorem isolate_census (s : State) (d : Nat) :
    (isolate s d).census = { s.census with states := Tab.put s.census.states d 2 } := by
  unfold isolate
  dsimp only
  split
  · exact raiseEvent_census _ _ _ _ _
  · rfl

/-- What an isolation leaves as it is. -/
def State.sansIsolation (s : State) : Tab (List (Nat × Nat)) × BitVec 2 × Tab Byte × List Cmd :=
  (s.census.reports, s.mtc.census, s.host, s.cmds)

theorem isolate_sansIsolation (s : State) (d : Nat) : (isolate s d).sansIsolation = s.sansIsolation := by
  unfold isolate
  dsimp only
  split
  · simp only [State.sansIsolation, raiseEvent_census, raiseEvent_mtc, raiseEvent_host, raiseEvent_cmds]
  · rfl

/-- A device not yet isolated is isolated. -/
def isolateOnce (s : State) (d : Nat) : State := if censusState s d == 2 then s else isolate s d

theorem isolateOnce_self (s : State) (d : Nat) : censusState (isolateOnce s d) d = 2 := by
  unfold isolateOnce
  split
  case isTrue h => exact beq_iff_eq.mp h
  case isFalse => rw [censusState, isolate_census, Tab.get_put_self]; rfl

/-- No isolation ends another. -/
theorem isolateOnce_of_isolated {s : State} {d : Nat} (h : censusState s d = 2) (k : Nat) :
    censusState (isolateOnce s k) d = 2 := by
  unfold isolateOnce
  split
  · exact h
  · by_cases hd : d = k
    · rw [hd, censusState, isolate_census, Tab.get_put_self]; rfl
    · rw [censusState, isolate_census, Tab.get_put_ne _ _ _ hd]
      exact h

theorem isolateOnce_sansIsolation (s : State) (d : Nat) : (isolateOnce s d).sansIsolation = s.sansIsolation := by
  unfold isolateOnce
  split
  · rfl
  · exact isolate_sansIsolation s d

/-! Reports (R271). -/

/-- The device has made another report under its number. -/
def heardOtherwise (s : State) (dev : Nat) (peers : List (Nat × Nat)) : Bool :=
  match Tab.find s.census.reports dev with
  | some r => r != peers
  | none => false

theorem heardOtherwise_eq_false_iff (s : State) (dev : Nat) (peers : List (Nat × Nat)) :
    heardOtherwise s dev peers = false ↔ ∀ r, Tab.find s.census.reports dev = some r → r = peers := by
  unfold heardOtherwise
  cases Tab.find s.census.reports dev <;> simp

/-- The peers of a report that the strap rule does not accept. -/
def misfits (dev : Nat) (peers : List (Nat × Nat)) : List (Nat × Nat) := peers.filter fun e => !peerFits dev e

theorem misfits_eq_nil_iff (dev : Nat) (peers : List (Nat × Nat)) :
    misfits dev peers = [] ↔ ∀ e ∈ peers, peerFits dev e = true := by
  simp [misfits]

/-- The machine in which a report has been entered. -/
def reportEntered (s : State) (dev : Nat) (peers : List (Nat × Nat)) : State :=
  { s with census := { s.census with
      reports := Tab.put s.census.reports dev peers
      states := if censusState s dev == 2 then s.census.states else Tab.put s.census.states dev 1 } }

section Report
variable {s : State} {dev : Nat} {peers : List (Nat × Nat)} (hstaged : staged s = true) (hopen : s.mtc.census = 0)
  (hroot : s.mtc.root = true ∨ devnum s % 64 = 0 ∧ dev / 64 = devnum s / 64) (hdev : dev < 4096)
include hstaged hopen hroot hdev

/-- A report is entered, and the devices that it shows to be misplaced are isolated. -/
theorem exec_censusReport_of_root : exec (.censusReport dev peers) s = .next (
    ((if heardOtherwise s dev peers || !(misfits dev peers).isEmpty then [dev] else [])
      ++ (misfits dev peers).map Prod.snd).foldl isolateOnce (reportEntered s dev peers)) := by
  have hguard : (staged s && s.mtc.census == 0 && dev < 4096
      && (s.mtc.root || (devnum s % 64 == 0 && dev / 64 == devnum s / 64))) = true := by
    simpa [hstaged, hopen, hdev] using hroot
  exact congrArg Host.Outcome.next (if_pos hguard)

theorem exec_censusReport_of_clean (hfits : ∀ e ∈ peers, peerFits dev e = true)
    (hsame : ∀ r, Tab.find s.census.reports dev = some r → r = peers) :
    exec (.censusReport dev peers) s = .next (reportEntered s dev peers) := by
  rw [exec_censusReport_of_root hstaged hopen hroot hdev, (heardOtherwise_eq_false_iff s dev peers).mpr hsame,
    (misfits_eq_nil_iff dev peers).mpr hfits]
  rfl

theorem exec_censusReport_of_unclean
    (h : ¬ ((∀ e ∈ peers, peerFits dev e = true) ∧ ∀ r, Tab.find s.census.reports dev = some r → r = peers)) :
    ∃ t, exec (.censusReport dev peers) s = .next t ∧ censusState t dev = 2
      ∧ t.sansIsolation = (reportEntered s dev peers).sansIsolation := by
  have hgone : (heardOtherwise s dev peers || !(misfits dev peers).isEmpty) = true := by
    rw [← misfits_eq_nil_iff, ← heardOtherwise_eq_false_iff] at h
    cases hheard : heardOtherwise s dev peers with
    | true => rfl
    | false => simpa [hheard] using h
  refine ⟨_, exec_censusReport_of_root hstaged hopen hroot hdev, ?_, foldl_keeps isolateOnce_sansIsolation _ _⟩
  rw [if_pos hgone, List.foldl_append]
  exact List.foldlRecOn (motive := fun t : State => censusState t dev = 2) _ _ (isolateOnce_self _ dev)
    fun _ ht d _ => isolateOnce_of_isolated ht d

end Report

/-! The end of the census (R271, R272). -/

/-- The root closes its census with itself present, unless it is isolated. -/
def ownStates (s : State) : Tab (BitVec 2) :=
  if censusState s (devnum s) == 2 then s.census.states else Tab.put s.census.states (devnum s) 1

theorem get_ownStates_ne_zero (s : State) : (Tab.get (ownStates s) (devnum s) 0).toNat ≠ 0 := by
  unfold ownStates
  split
  case isTrue h =>
    have hown : (Tab.get s.census.states (devnum s) 0).toNat = 2 := beq_iff_eq.mp h
    rw [hown]
    decide
  case isFalse =>
    rw [Tab.get_put_self]
    decide

/-- The machine whose census this root closes. -/
def censusClosed (s : State) (byTime : Bool) : State :=
  let blocks := spreadBlocks (blockLinks s) 64 [(devnum s / 64, 0)]
  closeCensus { s with mtc := { s.mtc with root := true } } (ownStates s) blocks (extent blocks 0) (extent blocks 1)
    (extent blocks 2) byTime

theorem exec_censusClose_of_due {s : State} {byTime : Bool} (hstaged : staged s = true) (hopen : s.mtc.census = 0)
    (hacts : actsRoot s = true) (hdue : if byTime then 18000000000 ≤ s.now else censusComplete s = true) :
    exec (.censusClose byTime) s = .next (censusClosed s byTime) := by
  have hdue' : (if byTime then decide (18000000000 ≤ s.now) else censusComplete s) = true := by
    cases byTime <;> simpa using hdue
  have hguard : (staged s && s.mtc.census == 0 && actsRoot s
      && (if byTime then decide (18000000000 ≤ s.now) else censusComplete s)) = true := by
    rw [hstaged, hopen, hacts, hdue']
    decide
  exact congrArg Host.Outcome.next (if_pos hguard)

/-- The machine that hears the result of the census. -/
def censusHeard (s : State) (states : List (Nat × Nat)) (mx my mz : Nat) (blocks : List (Nat × Nat)) (byTime : Bool) : State :=
  closeCensus s (states.foldl (fun t e => Tab.put t e.1 (BitVec.ofNat 2 e.2)) [])
    (blocks.foldl (fun t e => Tab.put t e.1 (BitVec.ofNat 6 e.2)) []) mx my mz byTime

section Heard
variable {s : State} (states : List (Nat × Nat)) (mx my mz : Nat) (blocks : List (Nat × Nat)) (byTime : Bool)

theorem exec_censusReceive_of_root (hroot : s.mtc.root = true) :
    exec (.censusReceive states mx my mz blocks byTime) s = .next s := by
  have hguard : ¬ (staged s && !s.mtc.root) = true := by simp [hroot]
  exact congrArg Host.Outcome.next (if_neg hguard)

theorem exec_censusReceive_of_other (hstaged : staged s = true) (hother : s.mtc.root = false) :
    exec (.censusReceive states mx my mz blocks byTime) s = .next (censusHeard s states mx my mz blocks byTime) := by
  have hguard : (staged s && !s.mtc.root) = true := by simp [hstaged, hother]
  exact congrArg Host.Outcome.next (if_pos hguard)

theorem censusHeard_state (hn : (states.map Prod.fst).Nodup) {e : Nat × Nat} (he : e ∈ states) (hsmall : e.2 < 4) :
    censusState (censusHeard s states mx my mz blocks byTime) e.1 = e.2 := by
  have hput : Tab.get (censusHeard s states mx my mz blocks byTime).census.states e.1 0 = BitVec.ofNat 2 e.2 :=
    Tab.get_foldl_put_of_mem hn he _ _ _
  rw [censusState, hput, BitVec.toNat_ofNat]
  exact Nat.mod_eq_of_lt hsmall

end Heard

/-- A closed census holds down the ports to isolated devices. -/
theorem closeCensus_ports {s : State} {states : Tab (BitVec 2)} {blocks : Tab (BitVec 6)} {mx my mz : Nat} {byTime : Bool}
    {e : Nat × Port} (he : e ∈ (closeCensus s states blocks mx my mz byTime).ports) (hvalid : e.2.peerValid = true)
    (hgone : (Tab.get states e.2.peerDev.toNat 0).toNat = 2) : e.2.isolated = true ∧ e.2.linkUp = false := by
  obtain ⟨⟨q, r⟩, -, rfl⟩ := List.mem_map.mp he
  have hout : (r.peerValid && Tab.get states r.peerDev.toNat 0 == 2) = true :=
    Bool.and_eq_true_iff.mpr ⟨hvalid, (isolatedState_iff _).mpr hgone⟩
  dsimp only
  rw [hout]
  exact ⟨rfl, Bool.and_false _⟩

/-- Settles O39: a report is entered with the isolations it calls for, and a census closes on the same registers at the root and at
the devices that hear it. -/
theorem censusEntersAndCloses : Obligations.CensusEntersAndCloses := by
  intro s dev peers states blocks mx my mz byTime hstaged
  refine ⟨fun hopen hroot hdev => ⟨fun ⟨hfits, hsame⟩ => ?clean, fun hunclean => ?unclean⟩, fun hopen hacts hdue => ?closes,
    exec_censusReceive_of_root states mx my mz blocks byTime, fun hother => ?hears⟩
  case clean =>
    rw [exec_censusReport_of_clean hstaged hopen hroot hdev hfits hsame, reportEntered]
    simp only [beq_iff_eq]
  case unclean =>
    obtain ⟨t, hrun, hstate, hkept⟩ := exec_censusReport_of_unclean hstaged hopen hroot hdev hunclean
    obtain ⟨hreports, hcensus, hhost, hcmds⟩ := by simpa only [State.sansIsolation, Prod.mk.injEq] using hkept
    refine ⟨t, hrun, hstate, ?_, hcensus.trans hopen, hhost, hcmds⟩
    rw [hreports]
    exact Tab.find_put_self _ _ _
  case closes =>
    exact ⟨_, exec_censusClose_of_due hstaged hopen hacts hdue, rfl, rfl, rfl, rfl, get_ownStates_ne_zero s, rfl, rfl, rfl, rfl⟩
  case hears =>
    exact ⟨_, exec_censusReceive_of_other states mx my mz blocks byTime hstaged hother, rfl, rfl, rfl, rfl,
      fun hn e he hsmall => censusHeard_state states mx my mz blocks byTime hn he hsmall, rfl, isolatedState_iff _,
      fun e he hvalid hgone => closeCensus_ports he hvalid hgone, rfl, rfl, rfl⟩

end Sys2Proof.Machine
end

section
/-! Ports that go down, retrain and are fenced (12 R265, R267, R282, R284). -/

namespace Sys2Proof.Machine

section Exec
variable (q : Nat) (s : State)

theorem exec_optEnable (on : Bool) : exec (.optEnable q on) s = execOptEnable q on s := rfl
theorem exec_optRetrain : exec (.optRetrain q) s = execOptRetrain q s := rfl
theorem exec_optFence : exec (.optFence q) s = execOptFence q s := rfl
theorem exec_retrainTimeout : exec (.retrainTimeout q) s = execRetrainTimeout q s := rfl
theorem exec_linkDown : exec (.linkDown q) s = execLinkDown q s := rfl

end Exec

/-! A lost peer (R267). -/

/-- A port whose peer is marked lost. -/
def Port.lost (r : Port) : Port :=
  { r with peerLost := true, epoch := nextEpoch r.epoch, retained := [], nextSeq := 0, lastIn := none, replays := 0, downAt := none }

theorem nextEpoch_eq (e : BitVec 8) : nextEpoch e = if e = 0xFF then 1 else e + 1 := by
  simp only [nextEpoch, beq_iff_eq]

/-- The machine in which the peer of port q is lost to the port alone. -/
def portLost (s : State) (q : Nat) : State := s.setPort q (s.port q).lost

section MarkLost
variable {s : State} {q : Nat}

/-- The partition of the plan that holds port q. -/
def holderOf (s : State) (q : Nat) : Nat := (s.port q).holderPart.toNat

theorem markLost_of_unheld (h : ∀ j, (s.partRun (holderOf s q)).job = some j →
    (s.port q).holder = 0 ∨ j.handle ≠ (s.port q).holder.toNat) : markLost s q = portLost s q := by
  unfold markLost
  dsimp only
  split
  case h_1 j hj =>
    have hheld : ¬ ((s.port q).holder != 0 && j.handle == (s.port q).holder.toNat) = true := by
      rcases h j hj with h | h <;> simp [h]
    exact if_neg hheld
  case h_2 => rfl

theorem markLost_of_held {j : Job} (hj : (s.partRun (holderOf s q)).job = some j) (hholder : (s.port q).holder ≠ 0)
    (hhandle : j.handle = (s.port q).holder.toNat) : markLost s q = peerLoss (portLost s q) (holderOf s q) := by
  have hj' : ((portLost s q).partRun (s.port q).holderPart.toNat).job = some j := hj
  have hheld : ((s.port q).holder != 0 && j.handle == (s.port q).holder.toNat) = true := by
    rw [Bool.and_eq_true_iff]
    exact ⟨bne_iff_ne.mpr hholder, beq_iff_eq.mpr hhandle⟩
  unfold portLost Port.lost at hj'
  simp only [markLost, hj']
  exact if_pos hheld

/-- A peer that is marked lost stays so, whatever ends with it. -/
theorem markLost_peerLost (s : State) (q : Nat) : ((markLost s q).port q).peerLost = true := by
  have hlost : ((portLost s q).port q).peerLost = true := congrArg Port.peerLost (State.port_setPort_self s q _)
  have hloss := Port.peerLost_of_sansSent ((peerLoss_links (portLost s q) (holderOf s q)).2 q)
  unfold markLost
  dsimp only
  split
  · split
    · exact hloss.trans hlost
    · exact hlost
  · exact hlost

theorem markLost_ends {j : Job} (hj : (s.partRun (holderOf s q)).job = some j) (hholder : (s.port q).holder ≠ 0)
    (hhandle : j.handle = (s.port q).holder.toNat) (hranks : j.ranks ≠ []) :
    ((markLost s q).partRun (holderOf s q)).job = none ∧ (markLost s q).cmd j.cmd = none
      ∧ ((markLost s q).port q).peerLost = true := by
  have hlost := markLost_peerLost s q
  rw [markLost_of_held hj hholder hhandle] at hlost ⊢
  obtain ⟨hjob, hcmd⟩ := peerLoss_ends (s := portLost s q) (p := holderOf s q) hj hranks
  exact ⟨hjob, hcmd, hlost⟩

end MarkLost

/-! Writes to a port's window (R284). -/

section Writes
variable {s : State} {q : Nat} (hw : writable s = true) (hq : q < 16) (hin : (s.basin (q / 2 + 1)).withdrawn = false)
include hw hq hin

theorem portWrite_acts : (writable s && q < 16 && !(s.basin (q / 2 + 1)).withdrawn) = true := by simp [hw, hq, hin]

theorem exec_optEnable_of_inService (on : Bool) : exec (.optEnable q on) s = .next (s.setPort q { s.port q with
    enable := on, linkUp := (s.port q).linkUp && on
    downAt := if (s.port q).linkUp && !on then some s.now else (s.port q).downAt }) := by
  rw [exec_optEnable, execOptEnable, if_pos (portWrite_acts hw hq hin)]

theorem exec_optRetrain_of_inService : exec (.optRetrain q) s = .next (s.setPort q { s.port q with
    linkUp := false, retrains := satAdd (s.port q).retrains 1
    downAt := if (s.port q).linkUp then some s.now else (s.port q).downAt }) := by
  rw [exec_optRetrain, execOptRetrain, if_pos (portWrite_acts hw hq hin)]

theorem exec_optFence_of_inService : exec (.optFence q) s = .next (markLost s q) := by
  rw [exec_optFence, execOptFence, if_pos (portWrite_acts hw hq hin)]

end Writes

/-! Links that go down (R265, R267). -/

theorem exec_retrainTimeout_of_overdue {s : State} {q u : Nat} (hstaged : staged s = true) (hq : q < 16)
    (hdown : (s.port q).linkUp = false) (hat : (s.port q).downAt = some u)
    (hdue : u + zeroSelects s.mtc.retrainMs 200 * 1000000 < s.now) : exec (.retrainTimeout q) s = .next (markLost s q) := by
  have hguard : (staged s && q < 16 && !(s.port q).linkUp && u + zeroSelects s.mtc.retrainMs 200 * 1000000 < s.now) = true := by
    simp [hstaged, hq, hdown, hdue]
  simp only [exec_retrainTimeout, execRetrainTimeout, hat]
  rw [if_pos hguard]

theorem exec_linkDown_of_up {s : State} {q : Nat} (hstaged : staged s = true) (hq : q < 16) (hup : (s.port q).linkUp = true) :
    exec (.linkDown q) s = .next (downLink s q) := by
  have hguard : (staged s && q < 16 && (s.port q).linkUp) = true := by simp [hstaged, hq, hup]
  rw [exec_linkDown, execLinkDown, if_pos hguard]

/-- A link that goes down changes its port, and is reported with the epoch it had. -/
theorem downLink_effect (s : State) (q : Nat) :
    let r := s.port q
    (downLink s q).ports = (s.setPort q { r with
        linkUp := false, downAt := some s.now, replays := 0, retrains := satAdd r.retrains 1 }).ports
      ∧ (downLink s q).evt.raised = s.evt.raised ++ [⟨s.now, srcPort q, evLinkDown, 0xF, toLe 1 r.epoch.toNat, none⟩]
      ∧ (downLink s q).host = s.host ∧ (downLink s q).hbm = s.hbm ∧ (downLink s q).cmds = s.cmds
      ∧ (downLink s q).mtc = s.mtc ∧ (downLink s q).runs = s.runs := by
  exact ⟨raiseEvent_ports _ _ _ _ _, raiseEvent_raised _ _ _ _ _, raiseEvent_host _ _ _ _ _, raiseEvent_hbm _ _ _ _ _,
    raiseEvent_cmds _ _ _ _ _, raiseEvent_mtc _ _ _ _ _, raiseEvent_runs _ _ _ _ _⟩

/-- Settles O40: a disable and a retrain change their port alone; a fence and a time-out both mark the peer lost. That a disable, a
retrain and a fence raise no EV_LINK_DOWN is the model's choice (log 120). -/
theorem portsGoDownAndFence : Obligations.PortsGoDownAndFence := by
  intro s q on hq r p lost unheld ends overdue
  have hlost : lost = portLost s q := by
    simp only [portLost, Port.lost, nextEpoch_eq]
    rfl
  have hunheld {c : Instr} (hrun : exec c s = .next (markLost s q)) : unheld → exec c s = .next lost := by
    intro h
    rw [hrun, hlost, markLost_of_unheld h]
  have hends {c : Instr} (hrun : exec c s = .next (markLost s q)) : ends c :=
    fun j hj hholder hhandle hranks => ⟨_, hrun, markLost_ends hj hholder hhandle hranks⟩
  refine ⟨fun hw hin => ?writes, fun hstaged ⟨hdown, u, hat, hdue⟩ => ?overdue, fun hstaged hup => ?down⟩
  case writes =>
    have hfence := exec_optFence_of_inService hw hq hin
    exact ⟨exec_optEnable_of_inService hw hq hin on, exec_optRetrain_of_inService hw hq hin, hunheld hfence, hends hfence⟩
  case overdue =>
    have hrun := exec_retrainTimeout_of_overdue hstaged hq hdown hat hdue
    exact ⟨hunheld hrun, hends hrun⟩
  case down => exact ⟨_, exec_linkDown_of_up hstaged hq hup, downLink_effect s q⟩

end Sys2Proof.Machine
end

section
/-! Laser light, and hellos of peers (12 R262, R267). -/

namespace Sys2Proof.Machine

section Exec
variable (q w power : Nat) (s : State)

theorem exec_laserLightLow : exec (.laserLightLow q w power) s = execLaserLightLow q w power s := rfl
theorem exec_laserLightRestored : exec (.laserLightRestored q w power) s = execLaserLightRestored q w power s := rfl
theorem exec_optHello (h : Hello) : exec (.optHello q h) s = execOptHello q h s := rfl

end Exec

/-! Light (R262). -/

section Light
variable {s : State} {q w : Nat} (halive : alive s = true) (hq : q < 16) (hw : w < 8) (power : Nat)
include halive hq hw

theorem lightGuard : (alive s && q < 16 && w < 8) = true := by simp [halive, hq, hw]

theorem exec_laserLightLow_of_alive : exec (.laserLightLow q w power) s = .next (raiseEvent (s.setPort q { s.port q with
    lightOk := (s.port q).lightOk &&& ~~~ BitVec.ofNat 8 (2 ^ w), laserPower := setLaser (s.port q) w power })
    evLaserLow (srcPort q) 0xF (toLe 1 (2 ^ w))) := by
  rw [exec_laserLightLow, execLaserLightLow, if_pos (lightGuard halive hq hw)]

theorem exec_laserLightRestored_of_alive : exec (.laserLightRestored q w power) s = .next (s.setPort q { s.port q with
    lightOk := (s.port q).lightOk ||| BitVec.ofNat 8 (2 ^ w), laserPower := setLaser (s.port q) w power }) := by
  rw [exec_laserLightRestored, execLaserLightRestored, if_pos (lightGuard halive hq hw)]

end Light

/-! A port trains (R267). -/

theorem takeSpring_frame (s : State) (n : Nat) : (takeSpring s n).2 =
    { s with free := (takeSpring s n).2.free, rng := (takeSpring s n).2.rng } := by
  rfl

theorem drawSession_frame (s : State) : (drawSession s).2 =
    { s with free := (drawSession s).2.free, rng := (drawSession s).2.rng } := by
  unfold drawSession
  split
  case h_1 bs t hb => exact drbgBytes_frame hb
  case h_2 => exact takeSpring_frame s 8

/-- The machine in which the link of port q is up, trained where it was not. -/
def linked (s : State) (q : Nat) : State :=
  if (s.port q).linkUp then s
  else if (s.port q).session == 0 then trainPort s q else s.setPort q { s.port q with linkUp := true }

theorem linked_frame (s : State) (q : Nat) : linked s q =
    { s with free := (linked s q).free, rng := (linked s q).rng, ports := (linked s q).ports } := by
  unfold linked
  split
  · rfl
  · split
    · unfold trainPort
      dsimp only
      rw [drawSession_frame]
      rfl
    · rfl

/-- Training brings the link up and changes nothing of who the peer is. -/
theorem linked_port (s : State) (q : Nat) : (linked s q).port q = { s.port q with
    linkUp := true, session := ((linked s q).port q).session, downAt := ((linked s q).port q).downAt } := by
  unfold linked
  split
  case isTrue hup => rw [← hup]
  case isFalse =>
    split
    · unfold trainPort
      dsimp only
      rw [State.port_setPort_self, drawSession_frame]
      rfl
    · rw [State.port_setPort_self]

/-! A hello (R267). -/

theorem censusChange_frame (s : State) (d : Nat) :
    censusChange s d = { s with census := (censusChange s d).census, mtc := (censusChange s d).mtc } := by
  unfold censusChange
  split <;> rfl

theorem censusChange_port (s : State) (d q : Nat) : (censusChange s d).port q = s.port q := by
  rw [censusChange_frame]
  rfl

/-- The machine after a hello has named or lost the peer of port q. -/
def greeted (s : State) (q : Nat) (h : Hello) : State := helloPeer (linked s q) q h

section Hello
variable {s : State} {q : Nat} {h : Hello}

section Trains
variable (hphase : s.run.phase = .stage1) (hq : q < 16) (htrain : canTrain (s.port q) = true)
include hphase hq htrain

theorem exec_optHello_of_canTrain : exec (.optHello q h) s = .next (
    if ((greeted s q h).port q).peerLost then greeted s q h else censusChange (greeted s q h) h.devnum) :=
  congrArg Host.Outcome.next (if_pos ⟨hphase, hq, htrain⟩)

/-- After the hello of a peer that is not lost the census may reopen. -/
theorem exec_optHello_of_found (hfound : ((greeted s q h).port q).peerLost = false) :
    exec (.optHello q h) s = .next (censusChange (greeted s q h) h.devnum) := by
  rw [exec_optHello_of_canTrain hphase hq htrain, if_neg (ne_true_of_eq_false hfound)]

theorem exec_optHello_of_lost (hlost : ((greeted s q h).port q).peerLost = true) :
    exec (.optHello q h) s = .next (greeted s q h) := by
  rw [exec_optHello_of_canTrain hphase hq htrain, if_pos hlost]

end Trains

/-- The hello of a port's first peer names it. -/
theorem greeted_of_first (hfirst : (s.port q).peerValid = false) (h : Hello) :
    greeted s q h = (linked s q).setPort q (takePeer ((linked s q).port q) h) := by
  have hguard : (!((linked s q).port q).peerValid) = true := by rw [linked_port, hfirst]; rfl
  exact if_pos hguard

section Changed
variable (hknown : (s.port q).peerValid = true) (hkept : (s.port q).peerLost = false)
  (hother : (s.port q).peerDev.toNat ≠ h.devnum ∨ (s.port q).peerSession ≠ h.session)
include hknown hkept hother

/-- The hello of another identity marks a known peer lost, and readmits one of another session whose BIST passed. -/
theorem greeted_of_changed : greeted s q h =
    let t := markLost (linked s q) q
    if h.session != (s.port q).peerSession && h.bist then t.setPort q (takePeer (t.port q) h) else t := by
  have hsame : ((s.port q).peerDev.toNat == h.devnum && (s.port q).peerSession == h.session) = false := by
    rcases hother with hne | hne <;> simp [hne]
  have hport := linked_port s q
  have hvalid := (congrArg Port.peerValid hport).trans hknown
  have hlost := (congrArg Port.peerLost hport).trans hkept
  have hdev := congrArg Port.peerDev hport
  have hsession := congrArg Port.peerSession hport
  simp only [greeted, helloPeer, hvalid, hlost, hdev, hsession, hsame, Bool.not_true, Bool.not_false, Bool.and_false,
    Bool.false_and, Bool.false_eq_true, if_false]

theorem greeted_readmits (hnew : h.session ≠ (s.port q).peerSession) (hbist : h.bist = true) :
    (greeted s q h).port q = takePeer ((markLost (linked s q) q).port q) h := by
  have hguard : (h.session != (s.port q).peerSession && h.bist) = true := by simp [hnew, hbist]
  rw [greeted_of_changed hknown hkept hother]
  dsimp only
  rw [if_pos hguard, State.port_setPort_self]

theorem greeted_loses (hold : ¬ (h.session ≠ (s.port q).peerSession ∧ h.bist = true)) :
    ((greeted s q h).port q).peerLost = true := by
  have hguard : ¬ (h.session != (s.port q).peerSession && h.bist) = true := by simpa using hold
  rw [greeted_of_changed hknown hkept hother]
  dsimp only
  rw [if_neg hguard]
  exact markLost_peerLost _ q

end Changed
end Hello

/-- Settles O41: light changes bits of its port; a hello names a first peer, and marks a changed one lost before it readmits it. That
the new identity is readmitted by a hello with its own session and numbers (log 124), and the mask byte of the event (log 121), are
the model's choices. -/
theorem lightAndHellos : Obligations.LightAndHellos := by
  intro s q w power h hq hw
  refine ⟨fun halive => ⟨⟨_, exec_laserLightLow_of_alive halive hq hw power, ?light⟩,
    exec_laserLightRestored_of_alive halive hq hw power⟩, fun hphase htrain hfirst _ => ?first,
    fun hphase htrain hknown hkept hother => ?changed⟩
  case light =>
    refine ⟨?_, raiseEvent_raised _ _ _ _ _, raiseEvent_host _ _ _ _ _, raiseEvent_cmds _ _ _ _ _, raiseEvent_runs _ _ _ _ _⟩
    rw [State.port_congr (raiseEvent_ports _ _ _ _ _), State.port_setPort_self]
  case first =>
    have hgreeted := greeted_of_first hfirst h
    have hport : (greeted s q h).port q = takePeer ((linked s q).port q) h := by rw [hgreeted, State.port_setPort_self]
    refine ⟨_, exec_optHello_of_found hphase hq htrain (congrArg Port.peerLost hport), ?_⟩
    rw [censusChange_port, hport, linked_port, censusChange_frame, hgreeted, linked_frame]
    exact ⟨rfl, rfl, rfl, rfl, rfl, rfl, rfl, rfl⟩
  case changed =>
    by_cases hnew : h.session ≠ (s.port q).peerSession ∧ h.bist = true
    · obtain ⟨hsession, hbist⟩ := hnew
      have hport := greeted_readmits hknown hkept hother hsession hbist
      refine ⟨_, exec_optHello_of_found hphase hq htrain (congrArg Port.peerLost hport), ?_⟩
      rw [censusChange_port, hport]
      exact ⟨by simp [takePeer, hsession.symm, hbist], fun _ _ => rfl⟩
    · have hlost := greeted_loses hknown hkept hother hnew
      refine ⟨_, exec_optHello_of_lost hphase hq htrain hlost, hlost.trans ?_, fun hbist hne => absurd ⟨hne.symm, hbist⟩ hnew⟩
      have hbars : ¬ (decide ((s.port q).peerSession ≠ h.session) && h.bist) = true := by
        rw [Bool.and_eq_true_iff, decide_eq_true_eq]
        exact fun ⟨hne, hbist⟩ => hnew ⟨hne.symm, hbist⟩
      rw [eq_false_of_ne_true hbars]
      rfl

end Sys2Proof.Machine
end

section
/-! Flits: acknowledgements, credits and replays (12 R265, R266). -/

namespace Sys2Proof.Machine

section Exec
variable (q ack : Nat) (s : State)

theorem exec_dataFlitReceive (f : Flit) (x : Arrival) : exec (.dataFlitReceive q f x) s = execDataFlitReceive q f x s := rfl
theorem exec_ackFlitReceive : exec (.ackFlitReceive q ack) s = execAckFlitReceive q ack s := rfl
theorem exec_creditFlitReceive (cls dateline n : Nat) :
    exec (.creditFlitReceive q cls dateline n) s = execCreditFlitReceive q cls dateline n s := rfl
theorem exec_nakReceive : exec (.nakReceive q ack) s = execNakReceive q ack s := rfl

end Exec

/-! What an acknowledgement frees. -/

/-- One that names no retained flit frees nothing. -/
theorem ackPort_of_absent {r : Port} {a : Nat} (h : ∀ e ∈ r.retained, e.seq ≠ a) : ackPort r a = r := by
  have hnone : (r.retained.findIdx? fun f => f.seq == a) = none := by simpa [List.findIdx?_eq_none_iff] using h
  simp only [ackPort, hnone]

/-- One that names a retained flit frees it and those before it. -/
theorem ackPort_of_named {r : Port} {a : Nat} {es rest : List Flit} {e : Flit} (hr : r.retained = es ++ e :: rest)
    (hes : ∀ y ∈ es, y.seq ≠ a) (he : e.seq = a) : ackPort r a = { r with retained := rest, replays := 0 } := by
  have hes' : (es.findIdx? fun f => f.seq == a) = none := by simpa [List.findIdx?_eq_none_iff] using hes
  have hfound : ((es ++ e :: rest).findIdx? fun f => f.seq == a) = some es.length := by
    rw [List.findIdx?_append, hes', List.findIdx?_cons, he]
    simp
  have hdrop : (es ++ e :: rest).drop (es.length + 1) = rest := by simp
  simp only [ackPort, hr, hfound, hdrop]

/-! Ports at which nothing waits send nothing. -/

theorem pump_setPort_of_idle {v : Port} (h : v.waiting = []) (s : State) (q : Nat) : pump (s.setPort q v) q = s.setPort q v := by
  unfold pump
  rw [State.port_setPort_self, h, State.setPort_setPort]
  rfl

/-! Credits (R266). -/

theorem creditKey_eq (cls dateline : Nat) : creditKey cls (dateline == 1) = 2 * cls + if dateline = 1 then 1 else 0 := by
  simp only [creditKey, b2n, beq_iff_eq]

/-- A port that has n more credits of a set. -/
def Port.credited (r : Port) (k n : Nat) : Port := { r with credits := Tab.put r.credits k (Tab.get r.credits k 0 + n) }

section Link
variable {s : State} {q : Nat} (hstaged : staged s = true) (hq : q < 16) (hup : (s.port q).linkUp = true)
include hstaged hq hup

theorem linkGuard : (staged s && q < 16 && (s.port q).linkUp) = true := by simp [hstaged, hq, hup]

theorem exec_ackFlitReceive_of_up (a : Nat) :
    exec (.ackFlitReceive q a) s = .next (pump (s.setPort q (ackPort (s.port q) a)) q) := by
  rw [exec_ackFlitReceive, execAckFlitReceive, if_pos (linkGuard hstaged hq hup)]

theorem exec_nakReceive_of_up (a : Nat) : exec (.nakReceive q a) s = .next (
    let p := ackPort (s.port q) a
    if p.retained.isEmpty then pump (s.setPort q p) q
    else if 8 ≤ p.replays then downLink (s.setPort q p) q
    else s.setPort q { p with replays := p.replays + 1 }) := by
  rw [exec_nakReceive, execNakReceive, if_pos (linkGuard hstaged hq hup)]

/-- A nak by which nothing more is freed replays what is retained, or, after 8 replays, takes the link down. -/
theorem exec_nakReceive_of_absent {a : Nat} (hretained : (s.port q).retained ≠ [])
    (habsent : ∀ e ∈ (s.port q).retained, e.seq ≠ a) : exec (.nakReceive q a) s = .next (
      if 8 ≤ (s.port q).replays then downLink (s.setPort q (s.port q)) q
      else s.setPort q { s.port q with replays := (s.port q).replays + 1 }) := by
  have hsome : ¬ (s.port q).retained.isEmpty = true := by simpa using hretained
  rw [exec_nakReceive_of_up hstaged hq hup, ackPort_of_absent habsent]
  dsimp only
  rw [if_neg hsome]

/-- A nak that frees some of what is retained replays the rest for the first time. -/
theorem exec_nakReceive_of_named {a : Nat} {es rest : List Flit} {e : Flit} (hr : (s.port q).retained = es ++ e :: rest)
    (hes : ∀ y ∈ es, y.seq ≠ a) (he : e.seq = a) (hrest : rest ≠ []) :
    exec (.nakReceive q a) s = .next (s.setPort q { s.port q with retained := rest, replays := 1 }) := by
  have hsome : ¬ rest.isEmpty = true := by simpa using hrest
  rw [exec_nakReceive_of_up hstaged hq hup, ackPort_of_named hr hes he]
  dsimp only
  rw [if_neg hsome, if_neg (by decide)]

/-- Credits that come add up in their class, and send nothing where nothing waits. -/
theorem exec_creditFlitReceive_of_idle {cls : Nat} (hcls : cls < 4) (hwaiting : (s.port q).waiting = []) (dateline n : Nat) :
    exec (.creditFlitReceive q cls dateline n) s =
      .next (s.setPort q ((s.port q).credited (creditKey cls (dateline == 1)) n)) := by
  have hguard : (staged s && q < 16 && cls < 4 && (s.port q).linkUp) = true := by simp [hstaged, hq, hup, hcls]
  have hpump := pump_setPort_of_idle (v := (s.port q).credited (creditKey cls (dateline == 1)) n) hwaiting s q
  exact congrArg Host.Outcome.next ((if_pos hguard).trans hpump)

end Link

end Sys2Proof.Machine
end

section
/-! Flits as they arrive (12 R264, R265, R267, R277). -/

namespace Sys2Proof.Machine

/-! The checks of a flit (R264, R265). -/

/-- The flit of an arrival bears the CRC of its bytes and a used type, and its codeword could be corrected. -/
def SoundFlit (f : Flit) (x : Arrival) : Prop := x.uncorrectable = false ∧ x.type ≤ 6 ∧ x.crc = (flitCrc x.type f).toNat

theorem checkFlit_of_uncorrectable {x : Arrival} (h : x.uncorrectable = true) (f : Flit) : checkFlit f x = .uncorrectable :=
  if_pos h

theorem checkFlit_of_sound {f : Flit} {x : Arrival} (h : SoundFlit f x) : checkFlit f x = .good := by
  obtain ⟨hword, htype, hcrc⟩ := h
  simp [checkFlit, hword, hcrc, Nat.not_lt.mpr htype]

theorem checkFlit_of_unsound {f : Flit} {x : Arrival} (hword : x.uncorrectable = false) (h : ¬ SoundFlit f x) :
    checkFlit f x = .badCrc := by
  have hbad : (6 < x.type || x.crc != (flitCrc x.type f).toNat) = true := by
    rw [Bool.or_eq_true, decide_eq_true_eq, bne_iff_ne]
    by_cases htype : x.type ≤ 6
    · exact .inr fun hcrc => h ⟨hword, htype, hcrc⟩
    · exact .inl (Nat.lt_of_not_le htype)
  rw [checkFlit, hword, hbad]
  rfl

/-- The port with the corrected codewords of an arrival counted. -/
def Port.corrected (r : Port) (x : Arrival) : Port := { r with fecCorr := satAdd r.fecCorr x.corrected }

/-- A nak asks again; the cause is counted. -/
theorem nakFlit_setPort (s : State) (q : Nat) (r : Port) (check : FlitCheck) : nakFlit (s.setPort q r) q check =
    s.setPort q { r with
      retries := satAdd r.retries 1
      crcErr := if check = .badCrc then satAdd r.crcErr 1 else r.crcErr
      fecUncorr := if check = .uncorrectable then satAdd r.fecUncorr 1 else r.fecUncorr } := by
  simp only [nakFlit, State.port_setPort_self, State.setPort_setPort]

section Arrives
variable {s : State} {q : Nat} (hstaged : staged s = true) (hq : q < 16) (hup : (s.port q).linkUp = true) {f : Flit}
  {x : Arrival}
include hstaged hq hup

/-- A flit that fails its checks asks again. -/
theorem exec_dataFlitReceive_of_bad (hbad : checkFlit f x ≠ .good) : exec (.dataFlitReceive q f x) s =
    .next (nakFlit (s.setPort q ((s.port q).corrected x)) q (checkFlit f x)) := by
  have hguard : ¬ (!(staged s && q < 16 && (s.port q).linkUp)) = true := by simp [hstaged, hq, hup]
  rw [exec_dataFlitReceive, execDataFlitReceive, if_neg hguard]
  cases hcheck : checkFlit f x with
  | good => exact absurd hcheck hbad
  | badCrc => rfl
  | uncorrectable => rfl

/-- A flit that passes them moves data where its type is that of data. -/
theorem exec_dataFlitReceive_of_sound (h : SoundFlit f x) : exec (.dataFlitReceive q f x) s = .next (
    if x.type = 1 then takeFlit (s.setPort q ((s.port q).corrected x)) q f else s.setPort q ((s.port q).corrected x)) := by
  have hguard : ¬ (!(staged s && q < 16 && (s.port q).linkUp)) = true := by simp [hstaged, hq, hup]
  rw [exec_dataFlitReceive, execDataFlitReceive, if_neg hguard, checkFlit_of_sound h]
  rfl

end Arrives

/-! Data flits (R265, R267, R277). -/

section Data
variable {s : State} {q : Nat} {r : Port} {f : Flit}

/-- One of another epoch is dropped and counted, and reported at most once a millisecond. -/
theorem fencedFlit_effect (s : State) (q : Nat) :
    ((fencedFlit s q).port q).fencedTalk = satAdd (s.port q).fencedTalk 1 ∧ ((fencedFlit s q).port q).rx = (s.port q).rx
      ∧ (fencedFlit s q).runs = s.runs ∧ (fencedFlit s q).host = s.host := by
  unfold fencedFlit
  dsimp only
  split
  · rw [State.port_congr (raiseEvent_ports _ _ _ _ _), State.port_setPort_self, raiseEvent_runs, raiseEvent_host]
    exact ⟨rfl, rfl, rfl, rfl⟩
  · rw [State.port_setPort_self]
    exact ⟨rfl, rfl, rfl, rfl⟩

theorem takeFlit_of_otherEpoch (h : f.epoch ≠ r.epoch.toNat) : takeFlit (s.setPort q r) q f = fencedFlit (s.setPort q r) q := by
  have hguard : (f.epoch != ((s.setPort q r).port q).epoch.toNat) = true := by simpa using h
  exact if_pos hguard

theorem takeFlit_of_outOfTurn (hepoch : f.epoch = r.epoch.toNat) (h : f.seq ≠ expectedSeq r) :
    takeFlit (s.setPort q r) q f = nakFlit (s.setPort q r) q .good := by
  simp [takeFlit, hepoch, h]

/-- The port that has taken the data flit of a sequence number. -/
def Port.took (r : Port) (seq : Nat) : Port := { r with lastIn := some (BitVec.ofNat 12 seq), rx := satAdd r.rx 1 }

theorem takeFlit_of_inTurn (hepoch : f.epoch = (s.port q).epoch.toNat) (hseq : f.seq = expectedSeq (s.port q)) :
    takeFlit s q f =
      let t := pump (s.setPort q (ackPort ((s.port q).took f.seq) f.ack)) q
      if f.dst != devnum s then forwardFlit t q f else if f.cls == 0 then deliverFlit t q f else t := by
  have hepoch' : ¬ (f.epoch != (s.port q).epoch.toNat) = true := by simpa using hepoch
  have hseq' : ¬ (f.seq != expectedSeq (s.port q)) = true := by simpa using hseq
  exact (if_neg hepoch').trans (if_neg hseq')

/-- The next one is taken, and is this device's; it frees nothing and nothing is sent where the port is idle. -/
theorem takeFlit_of_next (hepoch : f.epoch = r.epoch.toNat) (hseq : f.seq = expectedSeq r) (hwaiting : r.waiting = [])
    (hretained : r.retained = []) (hdst : f.dst = devnum s) : takeFlit (s.setPort q r) q f =
      if f.cls = 0 then deliverFlit (s.setPort q (r.took f.seq)) q f else s.setPort q (r.took f.seq) := by
  have hport := State.port_setPort_self s q r
  have hack : ackPort (r.took f.seq) f.ack = r.took f.seq :=
    ackPort_of_absent fun e he => absurd (hretained ▸ he) List.not_mem_nil
  have hpump := pump_setPort_of_idle (v := r.took f.seq) hwaiting s q
  have hown : ¬ (f.dst != devnum (s.setPort q r)) = true := not_not_intro hdst ∘ bne_iff_ne.mp
  rw [takeFlit_of_inTurn (hport.symm ▸ hepoch) (hport.symm ▸ hseq), hport, State.setPort_setPort, hack, hpump]
  dsimp only
  rw [if_neg hown]
  simp only [beq_iff_eq]

/-- Collective data of a machine job that no job runs is counted as stale. -/
theorem deliverFlit_of_unknown (h : mjobPart s f.mjob = none) :
    deliverFlit (s.setPort q r) q f = s.setPort q { r with stale := satAdd r.stale 1 } := by
  have hsame : mjobPart (s.setPort q r) f.mjob = none := h
  simp only [deliverFlit, hsame, State.port_setPort_self, State.setPort_setPort]

/-- Whether a plan holds a port depends on the port's holder and the running jobs. -/
theorem planHolds_setPort (hholder : r.holder = (s.port q).holder) (mjob : Nat) :
    planHolds (s.setPort q r) mjob q = planHolds s mjob q := by
  have hpart : mjobPart (s.setPort q r) mjob = mjobPart s mjob := rfl
  simp only [planHolds, hpart, State.port_setPort_self, hholder]
  rfl

/-- The execution whose chunk has the data of a flit, where the flit is one of this execution's. -/
def Exec.fed (e : Exec) (f : Flit) : Exec :=
  if e.index != f.exec then e else e.onChunk f.chunk fun c => c.take f.part f.payload

theorem Exec.fed_op (e : Exec) (f : Flit) : (e.fed f).op = e.op := by
  unfold Exec.fed
  split <;> rfl

theorem Exec.fed_of_index {e : Exec} {f : Flit} (h : e.index = f.exec) :
    e.fed f = e.onChunk f.chunk fun c => c.take f.part f.payload := by
  have hsame : ¬ (e.index != f.exec) = true := by simpa using h
  exact if_neg hsame

theorem deliverFlit_of_held {p : Nat} (hheld : planHolds s f.mjob q = true) (hpart : mjobPart s f.mjob = some p) :
    deliverFlit s q f = onExec s p f.op fun e => e.fed f := by
  simp only [deliverFlit, hpart, hheld, Bool.not_true, Bool.false_eq_true, if_false]
  rfl

/-- Collective data joins its chunk. -/
theorem deliverFlit_chunk {p : Nat} {j : Job} {e : Exec} (hheld : planHolds s f.mjob q = true)
    (hpart : mjobPart s f.mjob = some p) (hj : (s.partRun p).job = some j) (he : j.exec f.op = some e)
    (hindex : e.index = f.exec) :
    RunsChunk s (deliverFlit s q f) p f.op f.chunk ((Tab.get e.chunks f.chunk ({} : Chunk)).take f.part f.payload)
      ∧ (deliverFlit s q f).ports = s.ports := by
  rw [deliverFlit_of_held hheld hpart]
  refine ⟨⟨_, _, runsJob_onExec hj _ _, Job.exec_onExec he fun d => d.fed_op f, ?_⟩, ?_⟩
  · rw [Exec.fed_of_index hindex, Exec.get_onChunk]
  · rw [onExec_of_job hj]
    rfl

end Data

/-! A sound data flit, as it arrives. -/

section DataArrives
variable {s : State} {q : Nat} (hstaged : staged s = true) (hq : q < 16) (hup : (s.port q).linkUp = true) {f : Flit}
  {x : Arrival} (hsound : SoundFlit f x) (htype : x.type = 1)
include hstaged hq hup hsound htype

theorem exec_dataFlitReceive_of_data :
    exec (.dataFlitReceive q f x) s = .next (takeFlit (s.setPort q ((s.port q).corrected x)) q f) := by
  rw [exec_dataFlitReceive_of_sound hstaged hq hup hsound, if_pos htype]

theorem exec_dataFlitReceive_of_otherEpoch (hepoch : f.epoch ≠ (s.port q).epoch.toNat) :
    ∃ t, exec (.dataFlitReceive q f x) s = .next t ∧ (t.port q).fencedTalk = satAdd (s.port q).fencedTalk 1
      ∧ (t.port q).rx = (s.port q).rx ∧ t.runs = s.runs ∧ t.host = s.host := by
  have hrun := exec_dataFlitReceive_of_data hstaged hq hup hsound htype
  have heffect := fencedFlit_effect (s.setPort q ((s.port q).corrected x)) q
  rw [takeFlit_of_otherEpoch (r := (s.port q).corrected x) hepoch] at hrun
  rw [State.port_setPort_self] at heffect
  exact ⟨_, hrun, heffect⟩

variable (hepoch : f.epoch = (s.port q).epoch.toNat)
include hepoch

theorem exec_dataFlitReceive_of_outOfTurn (hseq : f.seq ≠ expectedSeq (s.port q)) : exec (.dataFlitReceive q f x) s =
    .next (nakFlit (s.setPort q ((s.port q).corrected x)) q .good) := by
  rw [exec_dataFlitReceive_of_data hstaged hq hup hsound htype,
    takeFlit_of_outOfTurn (r := (s.port q).corrected x) hepoch hseq]

variable (hseq : f.seq = expectedSeq (s.port q)) (hwaiting : (s.port q).waiting = []) (hretained : (s.port q).retained = [])
  (hdst : f.dst = devnum s)
include hseq hwaiting hretained hdst

theorem exec_dataFlitReceive_of_next : exec (.dataFlitReceive q f x) s = .next (
    let taken := s.setPort q (((s.port q).corrected x).took f.seq)
    if f.cls = 0 then deliverFlit taken q f else taken) := by
  rw [exec_dataFlitReceive_of_data hstaged hq hup hsound htype,
    takeFlit_of_next (r := (s.port q).corrected x) hepoch hseq hwaiting hretained hdst]

/-- The data of a collective that a running job's plan holds the port for joins its chunk. -/
theorem exec_dataFlitReceive_of_held (hcls : f.cls = 0) (hheld : planHolds s f.mjob q = true) {p : Nat} {w : Work} {e : Exec}
    (hpart : mjobPart s f.mjob = some p) (hw : workOf s p = some w) (he : w.j.exec f.op = some e) (hindex : e.index = f.exec) :
    ∃ t, exec (.dataFlitReceive q f x) s = .next t
      ∧ RunsChunk s t p f.op f.chunk ((Tab.get e.chunks f.chunk ({} : Chunk)).take f.part f.payload)
      ∧ t.port q = ((s.port q).corrected x).took f.seq := by
  have hrun := exec_dataFlitReceive_of_next hstaged hq hup hsound htype hepoch hseq hwaiting hretained hdst
  dsimp only at hrun
  rw [if_pos hcls] at hrun
  have hheld' := (planHolds_setPort (r := ((s.port q).corrected x).took f.seq) rfl f.mjob).trans hheld
  obtain ⟨hj, -⟩ := job_of_workOf hw
  obtain ⟨hchunk, hports⟩ := deliverFlit_chunk hheld' hpart hj he hindex
  refine ⟨_, hrun, hchunk.trans (runsJob_of_frame hj rfl), ?_⟩
  rw [State.port_congr hports, State.port_setPort_self]

end DataArrives

/-- Settles O42: an arrival's port is changed once for its codewords and once for what becomes of the flit; acknowledgements, credits
and naks change the port, and nothing else is sent where nothing waits. That a replay by a nak leaves TX_FLITS as it is is the model's
choice (log 119). -/
theorem flitsAcknowledgedAndReplayed : Obligations.FlitsAcknowledgedAndReplayed := by
  intro s q a n cls dateline f x hstaged hq hup r c sound
  refine ⟨fun hword => ?uncorrectable, fun hword hunsound => ?unsound, fun hsound htype => ?control, fun hsound htype => ?data,
    fun hwaiting habsent => ?ackNone, fun hwaiting es e rest hretained hes he => ?ack, fun hwaiting hcls => ?credit,
    fun hretained habsent hfew => ?nak, fun hretained habsent hmany => ?nakDown⟩
  case uncorrectable =>
    have hcheck := checkFlit_of_uncorrectable hword f
    rw [exec_dataFlitReceive_of_bad hstaged hq hup (by rw [hcheck]; decide), hcheck, nakFlit_setPort]
    rfl
  case unsound =>
    have hcheck := checkFlit_of_unsound hword hunsound
    rw [exec_dataFlitReceive_of_bad hstaged hq hup (by rw [hcheck]; decide), hcheck, nakFlit_setPort]
    rfl
  case control =>
    rw [exec_dataFlitReceive_of_sound hstaged hq hup hsound, if_neg htype]
    rfl
  case data =>
    refine ⟨exec_dataFlitReceive_of_otherEpoch hstaged hq hup hsound htype, fun hepoch hseq => ?outOfTurn,
      fun hepoch hseq hwaiting hretained hdst => ?next⟩
    case outOfTurn =>
      rw [exec_dataFlitReceive_of_outOfTurn hstaged hq hup hsound htype hepoch hseq, nakFlit_setPort]
      rfl
    case next =>
      have hrun := exec_dataFlitReceive_of_next hstaged hq hup hsound htype hepoch hseq hwaiting hretained hdst
      dsimp only at hrun
      refine ⟨fun hcls => ?_, fun hcls hstale => ?_, fun hcls hheld p w e hpart hw he hindex => ?_⟩
      · rw [if_neg hcls] at hrun
        exact hrun
      · rw [if_pos hcls, deliverFlit_of_unknown hstale] at hrun
        exact hrun
      · obtain ⟨t, hrun, ⟨j, d, hruns, hd, hc⟩, hport⟩ := exec_dataFlitReceive_of_held hstaged hq hup hsound htype hepoch
          hseq hwaiting hretained hdst hcls hheld hpart hw he hindex
        exact ⟨t, j, d, hrun, hruns, hd, hc, hport⟩
  case ackNone => rw [exec_ackFlitReceive_of_up hstaged hq hup, ackPort_of_absent habsent, pump_setPort_of_idle hwaiting]
  case ack =>
    refine ⟨?_, exec_nakReceive_of_named hstaged hq hup hretained hes he⟩
    rw [exec_ackFlitReceive_of_up hstaged hq hup, ackPort_of_named hretained hes he]
    exact congrArg Host.Outcome.next (pump_setPort_of_idle (v := { r with retained := rest, replays := 0 }) hwaiting s q)
  case credit =>
    refine ⟨_, exec_creditFlitReceive_of_idle hstaged hq hup hcls hwaiting dateline n, ?_, ?_⟩
    · rw [State.port_setPort_self, creditKey_eq]
      exact ⟨Tab.get_put_self _ _ _ _, fun i hi => Tab.get_put_ne _ _ _ hi⟩
    · rw [State.port_setPort_self]
  case nak => rw [exec_nakReceive_of_absent hstaged hq hup hretained habsent, if_neg (Nat.not_le.mpr hfew)]
  case nakDown =>
    have hrun := exec_nakReceive_of_absent hstaged hq hup hretained habsent
    rw [if_pos hmany] at hrun
    obtain ⟨hports, hraised, -⟩ := downLink_effect (s.setPort q (s.port q)) q
    have hport := State.port_congr hports q
    rw [State.port_setPort_self] at hport
    refine ⟨_, hrun, congrArg Port.linkUp hport, congrArg Port.downAt hport, ?_⟩
    rw [hraised, List.map_append]
    rfl

end Sys2Proof.Machine
end

section
/-! Work that is abandoned (13 R294), jobs that end, and the device that fails (13 R287, R300): what each leaves of runs, cores and
memory. -/

namespace Sys2Proof.Machine

theorem Tab.find_map {α : Type} (t : Tab α) (f : α → α) (k : Nat) : Tab.find (Tab.map t f) k = (Tab.find t k).map f := by
  induction t with
  | nil => rfl
  | cons e t ih =>
    obtain ⟨j, v⟩ := e
    change Tab.find ((j, f v) :: Tab.map t f) k = _
    by_cases h : j = k <;> simp [Tab.find, h, ih]

/-- Where nothing but the units that work for jobs, and runs, differs, a job runs as it is told. -/
theorem runsJob_of_sansWork {s t : State} {p : Nat} {j : Job} (h : t.sansWork = s.sansWork) (hj : (t.partRun p).job = some j) :
    RunsJob s t p j where
  job := hj
  host := by have hkept := congrArg State.host h; exact hkept
  hbm := by have hkept := congrArg State.hbm h; exact hkept
  cmds := State.cmds_of_sansWork h
  parts := by have hkept := congrArg State.parts h; exact hkept
  fuses := by have hkept := congrArg State.fuses h; exact hkept
  mtc := by have hkept := congrArg State.mtc h; exact hkept

theorem runsJob_raiseEvent {s : State} {p : Nat} {j : Job} (h : (s.partRun p).job = some j) (code source part : Nat)
    (detail : List Byte) : RunsJob s (raiseEvent s code source part detail) p j where
  job := (congrArg PartRun.job (State.partRun_congr (raiseEvent_runs s code source part detail) p)).trans h
  host := raiseEvent_host s code source part detail
  hbm := raiseEvent_hbm s code source part detail
  cmds := raiseEvent_cmds s code source part detail
  parts := raiseEvent_parts s code source part detail
  fuses := raiseEvent_fuses s code source part detail
  mtc := raiseEvent_mtc s code source part detail

/-! The queue of the resample units. -/

theorem setResampling_runs (s : State) (p : Nat) (ws : List EngineWork) :
    (setResampling s p ws).runs = (s.setRun p { s.partRun p with resampling := ws }).runs := (foldl_setBasin_frame _ _ _).2

theorem setResampling_partRun (s : State) (p : Nat) (ws : List EngineWork) :
    (setResampling s p ws).partRun p = { s.partRun p with resampling := ws } :=
  (State.partRun_congr (setResampling_runs s p ws) p).trans (State.partRun_setRun_self s p _)

theorem setResampling_job (s : State) (p : Nat) (ws : List EngineWork) (k : Nat) :
    ((setResampling s p ws).partRun k).job = (s.partRun k).job := by
  by_cases hk : k = p
  · subst hk
    rw [setResampling_partRun]
  · rw [State.partRun_congr (setResampling_runs s p ws), State.partRun_setRun_ne _ _ hk]

theorem setResampling_cores (s : State) (p : Nat) (ws : List EngineWork) : (setResampling s p ws).cores = s.cores :=
  foldl_keeps (g := State.cores) (f := fun (t : State) b => t.setBasin b _) (fun _ _ => rfl) _ _

/-! Abandoned work. -/

/-- The machine in which the strips, the codec work and the resample work of a partition's job are given up (R294 step 2). -/
def workDropped (s : State) (p : Nat) : State := dropResampleOps (idleCores (dropCodecOps s p) p) p

theorem workDropped_sansWork (s : State) (p : Nat) : (workDropped s p).sansWork = s.sansWork := setResampling_sansWork _ _ _

theorem workDropped_partRun (s : State) (p : Nat) :
    (workDropped s p).partRun p = { s.partRun p with resampling := (s.partRun p).resampling.filter fun w => !w.isOp } :=
  setResampling_partRun _ _ _

theorem Core.idle_worksFor (c : Core) (p : Nat) : c.idle.worksFor p = false := rfl

theorem Core.reset_worksFor (c p : Nat) : (Core.reset c).worksFor p = false := by
  unfold Core.reset
  split <;> rfl

theorem idleCores_worksFor (s : State) (p c : Nat) : ((idleCores s p).core c).worksFor p = false := by
  have hfind : Tab.find (idleCores s p).cores c = (Tab.find s.cores c).map fun k => if k.worksFor p then k.idle else k :=
    Tab.find_map s.cores (fun k => if k.worksFor p then k.idle else k) c
  rw [State.core, Tab.get, hfind]
  cases Tab.find s.cores c with
  | none => exact Core.reset_worksFor c p
  | some k =>
    rw [Option.map_some, Option.getD_some]
    split
    · exact k.idle_worksFor p
    · next hfree => exact eq_false_of_ne_true hfree

theorem workDropped_worksFor (s : State) (p c : Nat) : ((workDropped s p).core c).worksFor p = false := by
  rw [State.core, workDropped, dropResampleOps, setResampling_cores]
  exact idleCores_worksFor (dropCodecOps s p) p c

theorem abandonRun_of_running {s : State} {p : Nat} (h : (s.partRun p).halt = .none) :
    abandonRun s p = (workDropped s p).setRun p { (workDropped s p).partRun p with halt := .restart none } := by
  simp only [abandonRun, h]
  rfl

/-- The abandoned work of partition p waits for its restart: t differs from s in the runs and in the units that work for jobs,
none of which works for p. -/
structure Abandoned (s t : State) (p : Nat) : Prop where
  frame : t.sansWork = s.sansWork
  job : (t.partRun p).job = (s.partRun p).job
  step : (t.partRun p).step = (s.partRun p).step
  halt : (t.partRun p).halt = .restart none
  idle : ∀ c, (t.core c).worksFor p = false

theorem abandonRun_abandoned {s : State} {p : Nat} (h : (s.partRun p).halt = .none) : Abandoned s (abandonRun s p) p := by
  have hrun : (abandonRun s p).partRun p = { (workDropped s p).partRun p with halt := .restart none } := by
    rw [abandonRun_of_running h, State.partRun_setRun_self]
  rw [workDropped_partRun] at hrun
  have hdropped := abandonRun_of_running h
  exact
    { frame := by rw [hdropped]; exact workDropped_sansWork s p
      job := by rw [hrun]
      step := by rw [hrun]
      halt := by rw [hrun]
      idle := by rw [hdropped]; exact workDropped_worksFor s p }

/-! The end of a job in one partition. -/

theorem clearJob_partRun (s : State) (p : Nat) :
    (clearJob s p).partRun p =
      { s.partRun p with
        resampling := (s.partRun p).resampling.filter fun w => !w.isOp, job := none, step := none, halt := .none } := by
  unfold clearJob
  dsimp only
  rw [State.partRun_congr (foldl_setBasin_frame _ _ _).2, State.partRun_setRun_self, dropResampleOps, setResampling_partRun]
  rfl

theorem endJob_halted {s : State} {p : Nat} {j : Job} (h : (s.partRun p).job = some j) (status : Nat) :
    ((endJob s p status).partRun p).halted = (s.partRun p).halted := by
  have hruns := (finishIds_runs (finishJob (clearJob s p) j status) (haltCmds (s.partRun p).halt) stCancelled).trans
    (finishJob_runs (clearJob s p) j status)
  have hkept : ((clearJob s p).partRun p).halted = (s.partRun p).halted := by rw [clearJob_partRun]
  rw [endJob_of_job h]
  dsimp only
  split
  · rw [settleReleases, State.partRun_congr (endRequests_runs _ _ _ _ _ _), State.partRun_congr hruns, hkept]
  · rw [State.partRun_congr hruns, hkept]

/-! The device that fails. -/

/-- The end of one partition's work ends its job, and no other. -/
theorem clearRun_job (s : State) (p k : Nat) :
    ((clearPreempted (clearJob s p) p).partRun k).job = if k = p then none else (s.partRun k).job := by
  unfold clearPreempted
  split
  · next hk =>
    subst hk
    rw [State.partRun_setRun_self, clearJob_job]
  · next hk =>
    rw [State.partRun_setRun_ne _ _ hk]
    unfold clearJob
    dsimp only
    rw [State.partRun_congr (foldl_setBasin_frame _ _ _).2, State.partRun_setRun_ne _ _ hk]
    exact setResampling_job _ _ _ _

theorem foldl_clearRun_job {ps : List Nat} {k : Nat} (s : State) (h : k ∈ ps ∨ (s.partRun k).job = none) :
    ((ps.foldl (fun s p => clearPreempted (clearJob s p) p) s).partRun k).job = none := by
  induction ps generalizing s with
  | nil => simpa using h
  | cons p ps ih =>
    refine ih _ ?_
    rw [clearRun_job]
    by_cases hk : k = p
    · exact .inr (if_pos hk)
    · rw [if_neg hk]
      exact h.imp_left fun hmem => (List.mem_cons.mp hmem).resolve_left hk

/-- The partitions whose work is over run no job. -/
theorem workEnded_job {ps : List Nat} {k : Nat} (h : k ∈ ps) (s : State) : ((workEnded ps s).partRun k).job = none :=
  (foldl_keeps (g := fun t : State => (t.partRun k).job) (fun t p => setResampling_job t p [] k) ps _).trans
    (foldl_clearRun_job s (.inl h))

/-- The stacked memory and the fuses. -/
def State.stores (s : State) : Tab Byte × Fuses := (s.hbm, s.fuses)

theorem State.stores_of_sansWork {s t : State} (h : t.sansWork = s.sansWork) : t.stores = s.stores := by
  have hkept := congrArg State.stores h
  exact hkept

theorem failCommands_stores (n : Nat) (s : State) : (failCommands n s).stores = s.stores := by
  induction n generalizing s with
  | zero => rfl
  | succ n ih =>
    unfold failCommands
    split
    · rw [ih]
      simp only [State.stores, finish_hbm, finish_fuses]
    · rfl

theorem commandsFailed_stores (s : State) : (commandsFailed s).stores = s.stores := failCommands_stores _ _

/-- A device that fails ends every job and request, and keeps its memory and fuses (13 R300). -/
theorem enterFailed_ends (s : State) : (enterFailed s).requests = [] ∧ (enterFailed s).stores = s.stores
    ∧ ∀ k < 10, ((enterFailed s).partRun k).job = none := by
  have hstores : (commandsFailed (abortsSent (List.range 10) s)).stores = s.stores :=
    (commandsFailed_stores _).trans (State.stores_of_sansWork (abortsSent_sansWork _ s))
  have hended := State.stores_of_sansWork (workEnded_sansWork (List.range 10) (commandsFailed (abortsSent (List.range 10) s)))
  have hjobs := fun k (hk : k < 10) =>
    workEnded_job (List.mem_range.mpr hk) (commandsFailed (abortsSent (List.range 10) s))
  rw [enterFailed_frame]
  generalize workEnded (List.range 10) (commandsFailed (abortsSent (List.range 10) s)) = u at hended hjobs
  exact ⟨rfl, hended.trans hstores, hjobs⟩

end Sys2Proof.Machine
end

section
/-! Faults (13 R286, R287, R294, R297): what a fault does to the job of its partition, and which units fail the device. -/

namespace Sys2Proof.Machine

theorem exec_logicFault (unit : FaultUnit) (s : State) : exec (.logicFault unit) s = execLogicFault unit s := rfl
theorem exec_fabricError (source p : Nat) (s : State) : exec (.fabricError source p) s = execFabricError source p s := rfl

section Faults
variable {s : State} (hworks : works s = true)
include hworks

theorem exec_logicFault_core {k : Nat} (hk : k < 1500) :
    exec (.logicFault (.core k)) s = .next (faultFrom s k (basinPart s (coreBasin k))) := by
  simp [exec_logicFault, execLogicFault, hworks, hk]

theorem exec_logicFault_basin {b : Nat} (hb : b < 10) :
    exec (.logicFault (.basin b)) s = .next (faultFrom s (srcBasin b) (basinPart s b)) := by
  simp [exec_logicFault, execLogicFault, hworks, hb]

theorem exec_logicFault_codec {c : Nat} (hc : c < 4) : exec (.logicFault (.codec c)) s =
    .next (faultFrom s (srcCodec c) (match (s.codec c).current with | some (.op q _) => q | _ => 0xF)) := by
  have hguard : ¬ (!works s) = true := by simp [hworks]
  exact congrArg Host.Outcome.next ((if_neg hguard).trans (if_pos hc))

/-- A logic fault of a stopping unit fails the device. -/
theorem exec_logicFault_stop (source : Nat) :
    exec (.logicFault (.stop source)) s = .next (enterFailed (raiseEvent s evDeviceFailed source 0xF [])) := by
  simp [exec_logicFault, execLogicFault, hworks, failDevice, live_of_works hworks]

theorem exec_fabricError_of_part {p : Nat} (hp : p < 10) (source : Nat) :
    exec (.fabricError source p) s = .next (faultFrom s source p) := by
  simp [exec_fabricError, execFabricError, hworks, hp]

end Faults

theorem faultDetail_of_noJob {s : State} {p : Nat} (h : (s.partRun p).job = none) : faultDetail s p = List.replicate 12 0xFF := by
  simp only [faultDetail, h]

/-- A fault where no job runs is reported, and nothing more. -/
theorem faultFrom_of_noJob {s : State} {p : Nat} (h : (s.partRun p).job = none) (source : Nat) :
    faultFrom s source p = raiseEvent s evJobFault source p (List.replicate 12 0xFF) := by
  have hjob := (congrArg PartRun.job
    (State.partRun_congr (raiseEvent_runs s evJobFault source p (List.replicate 12 0xFF)) p)).trans h
  simp only [faultFrom, faultDetail_of_noJob h, jobFault, hjob]

theorem faultFrom_noJob_effect {s : State} {p : Nat} (h : (s.partRun p).job = none) (source : Nat) :
    let t := faultFrom s source p
    t.runs = s.runs ∧ t.cmds = s.cmds ∧ t.host = s.host
      ∧ t.evt.raised = s.evt.raised ++ [⟨s.now, source, evJobFault, p, List.replicate 12 0xFF, none⟩] := by
  dsimp only
  rw [faultFrom_of_noJob h]
  exact ⟨raiseEvent_runs _ _ _ _ _, raiseEvent_cmds _ _ _ _ _, raiseEvent_host _ _ _ _ _, raiseEvent_raised _ _ _ _ _⟩

/-- The machine in which a fault in partition p has been reported. -/
def faultReported (s : State) (source p : Nat) : State := raiseEvent s evJobFault source p (faultDetail s p)

theorem faultReported_partRun (s : State) (source p : Nat) : (faultReported s source p).partRun p = s.partRun p :=
  State.partRun_congr (raiseEvent_runs _ _ _ _ _) p

/-- The machine in which a fault of partition p's running step st has been counted. -/
def stepFaulted (s : State) (p : Nat) (st : ServeStep) : State :=
  s.setRun p { s.partRun p with step := some { st with faults := st.faults + 1 } }

theorem stepFaulted_partRun (s : State) (p : Nat) (st : ServeStep) :
    (stepFaulted s p st).partRun p = { s.partRun p with step := some { st with faults := st.faults + 1 } } :=
  State.partRun_setRun_self s p _

/-- The machine in which the serving of job j on partition p has been halted and reported. -/
def servingHalted (s : State) (p : Nat) (j : Job) : State :=
  (raiseEvent s evServingHalted srcSched p (toLe 4 j.handle)).setRun p
    { s.partRun p with halted := true, haltPlan := j.handle }

theorem servingHalted_partRun (s : State) (p : Nat) (j : Job) :
    (servingHalted s p j).partRun p = { s.partRun p with halted := true, haltPlan := j.handle } :=
  State.partRun_setRun_self _ p _

section JobFault
variable {s : State} {p : Nat} {j : Job} (hjob : (s.partRun p).job = some j) (hhalt : (s.partRun p).halt = .none)
include hjob hhalt

/-- The work of a clip job is abandoned. -/
theorem jobFault_of_clip (hserving : j.serving = false) : jobFault s p = abandonRun s p := by
  simp [jobFault, hjob, hhalt, hserving]

variable (hserving : j.serving = true)
include hserving

/-- A serving job between steps loses nothing. -/
theorem jobFault_between_steps (hstep : (s.partRun p).step = none) : jobFault s p = s := by
  simp [jobFault, hjob, hhalt, hserving, hstep]

/-- A run of a serving step before the fourth is abandoned, and the step counts the fault. -/
theorem jobFault_of_step {st : ServeStep} (hstep : (s.partRun p).step = some st) (hfaults : st.faults < 3) :
    jobFault s p = abandonRun (stepFaulted s p st) p := by
  simp [stepFaulted, jobFault, hjob, hhalt, hserving, hstep, Nat.not_le.mpr hfaults]

/-- The fourth faulted run of a step halts the partition, and its job ends. -/
theorem jobFault_of_fourth {st : ServeStep} (hstep : (s.partRun p).step = some st) (hfaults : 3 ≤ st.faults) :
    jobFault s p = endJob (servingHalted s p j) p stJobFault := by
  simp [servingHalted, jobFault, hjob, hhalt, hserving, hstep, hfaults]

end JobFault

/-- What an abandoned job is found as after a reported fault. -/
theorem abandoned_effect {s u t : State} {p source : Nat} {j : Job} (hjob : (s.partRun p).job = some j)
    (hu : u.sansWork = (faultReported s source p).sansWork) (hkept : (u.partRun p).job = some j) (h : Abandoned u t p) :
    RunsJob s t p j ∧ (t.partRun p).halt = .restart none ∧ (∀ c, (t.core c).worksFor p = false)
      ∧ t.evt.raised = s.evt.raised ++ [⟨s.now, source, evJobFault, p, faultDetail s p, none⟩] := by
  have hframe := h.frame.trans hu
  have hevt : t.evt = (faultReported s source p).evt := by
    have hsame := congrArg State.evt hframe
    exact hsame
  refine ⟨(runsJob_raiseEvent hjob _ _ _ _).trans (runsJob_of_sansWork hframe (h.job.trans hkept)), h.halt, h.idle, ?_⟩
  rw [hevt]
  exact raiseEvent_raised _ _ _ _ _

section FaultFrom
variable {s : State} {p : Nat} {j : Job} (hjob : (s.partRun p).job = some j) (hhalt : (s.partRun p).halt = .none) (source : Nat)
include hjob hhalt

theorem faultFrom_clip_effect (hserving : j.serving = false) :
    let t := faultFrom s source p
    RunsJob s t p j ∧ (t.partRun p).halt = .restart none ∧ (∀ c, (t.core c).worksFor p = false)
      ∧ t.evt.raised = s.evt.raised ++ [⟨s.now, source, evJobFault, p, faultDetail s p, none⟩] := by
  have hrun := faultReported_partRun s source p
  rw [← hrun] at hjob hhalt
  have hfault : faultFrom s source p = abandonRun (faultReported s source p) p := jobFault_of_clip hjob hhalt hserving
  dsimp only
  rw [hfault]
  exact abandoned_effect (hrun ▸ hjob) rfl hjob (abandonRun_abandoned hhalt)

variable (hserving : j.serving = true)
include hserving

theorem faultFrom_between_steps (hstep : (s.partRun p).step = none) : faultFrom s source p = faultReported s source p := by
  rw [← faultReported_partRun s source p] at hjob hhalt hstep
  exact jobFault_between_steps hjob hhalt hserving hstep

theorem faultFrom_step_effect {st : ServeStep} (hstep : (s.partRun p).step = some st) (hfaults : st.faults < 3) :
    let t := faultFrom s source p
    (t.partRun p).step = some { st with faults := st.faults + 1 } ∧ RunsJob s t p j ∧ (t.partRun p).halt = .restart none
      ∧ (∀ c, (t.core c).worksFor p = false)
      ∧ t.evt.raised = s.evt.raised ++ [⟨s.now, source, evJobFault, p, faultDetail s p, none⟩] := by
  have hrun := faultReported_partRun s source p
  have hcounted := stepFaulted_partRun (faultReported s source p) p st
  rw [hrun] at hcounted
  have hfault : faultFrom s source p = abandonRun (stepFaulted (faultReported s source p) p st) p :=
    jobFault_of_step (hrun ▸ hjob) (hrun ▸ hhalt) hserving (hrun ▸ hstep) hfaults
  have habandoned := abandonRun_abandoned (s := stepFaulted (faultReported s source p) p st) (p := p) (by rw [hcounted]; exact hhalt)
  dsimp only
  rw [hfault]
  refine ⟨?_, abandoned_effect (u := stepFaulted (faultReported s source p) p st) hjob rfl ?_ habandoned⟩
  · rw [habandoned.step, hcounted]
  · rw [hcounted]
    exact hjob

theorem faultFrom_fourth_effect {st : ServeStep} (hstep : (s.partRun p).step = some st) (hfaults : 3 ≤ st.faults) :
    let t := faultFrom s source p
    (t.partRun p).job = none ∧ (t.partRun p).halted = true ∧ t.cmd j.cmd = none := by
  have hrun := faultReported_partRun s source p
  have hhalted := servingHalted_partRun (faultReported s source p) p j
  rw [hrun] at hhalted
  have hfault : faultFrom s source p = endJob (servingHalted (faultReported s source p) p j) p stJobFault :=
    jobFault_of_fourth (hrun ▸ hjob) (hrun ▸ hhalt) hserving (hrun ▸ hstep) hfaults
  have hruns : ((servingHalted (faultReported s source p) p j).partRun p).job = some j := by rw [hhalted]; exact hjob
  obtain ⟨hended, hcmd⟩ := endJob_ends hruns stJobFault
  dsimp only
  rw [hfault]
  exact ⟨hended, by rw [endJob_halted hruns, hhalted], hcmd⟩

end FaultFrom

end Sys2Proof.Machine
end

section
/-! JOB_RESTART (13 R292 to R294, R297): the quick test, and the job that runs again or ends. -/

namespace Sys2Proof.Machine

theorem exec_jobRestart (p : Nat) (tested : List Nat) (env : Env) (s : State) :
    exec (.jobRestart p tested env) s = execJobRestart p tested env s := rfl

/-! The quick test of units of which no result is told (log 187). -/

/-- A unit of which no result is told does not fail. -/
theorem failUnits_of_untold (us : List Nat) (s : State) (cut : List Nat) :
    failUnits 0 0 (us.map fun u => (u, none)) s cut = (s, cut) := by
  induction us with
  | nil => rfl
  | cons u us ih =>
    have hpass : (cut.contains u || testResult s 0 0 u none != 1) = true := by simp [testResult]
    rw [List.map_cons, failUnits]
    dsimp only
    rw [if_pos hpass, ih]

theorem holdUnits_frame (s : State) (us : List Nat) (on : Bool) : holdUnits s us on = { s with cores := (holdUnits s us on).cores } :=
  congrArg (fun t : State => { t with cores := (holdUnits s us on).cores })
    (foldl_keeps (g := fun t : State => { t with cores := [] })
      (f := fun (t : State) p => t.setCore p { t.core p with underTest := on }) (fun _ _ => rfl) _ s)

theorem quickTest_frame (s : State) (us : List Nat) : (runTests s 0 0 us []).1 =
    { s with cores := (runTests s 0 0 us []).1.cores, bist := (runTests s 0 0 us []).1.bist } := by
  have huntold : (us.zipIdx.map fun u => (u.1, ([] : List TestResult)[u.2]?)) = us.map fun u => (u, none) := by
    calc us.zipIdx.map (fun u => (u.1, none)) = (us.zipIdx.map Prod.fst).map fun u => (u, none) := by
          rw [List.map_map]
          rfl
      _ = us.map fun u => (u, none) := by rw [List.zipIdx_map_fst]
  have hstate : ∃ es, (runTests s 0 0 us []).1 = recordTests (holdUnits (holdUnits s us true) us false) es := by
    unfold runTests
    dsimp only
    rw [huntold, failUnits_of_untold]
    exact ⟨_, rfl⟩
  obtain ⟨es, hes⟩ := hstate
  rw [hes, recordTests, holdUnits_frame, holdUnits_frame s]

theorem sameWork_quickTest (f : Nat) (s : State) (us : List Nat) : SameWork f s (runTests s 0 0 us []).1 := by
  rw [quickTest_frame]
  exact ⟨rfl, rfl, rfl, rfl, rfl, rfl, fun _ _ => rfl⟩

theorem sameWork_chargeJob (f : Nat) (s : State) (p : Nat) (ch : Charge) : SameWork f s (chargeJob s p ch) := by
  have hself : SameWork f s s := ⟨rfl, rfl, rfl, rfl, rfl, rfl, fun _ _ => rfl⟩
  unfold chargeJob
  split
  · split
    · exact hself
    · split
      · exact sameWork_charge f s _ ch
      · exact hself
  · exact hself

theorem SameWork.workOf_eq {f : Nat} {s t : State} (h : SameWork f s t) {p : Nat} {w : Work} (hw : workOf s p = some w) :
    workOf t p = some { w with s := t } ∧ w.p = p := by
  obtain ⟨hj, hpl⟩ := job_of_workOf hw
  have hsame := workOf_of_job hj hpl
  rw [hw, Option.some.injEq] at hsame
  have hp : w.p = p := congrArg Work.p hsame
  refine ⟨?_, hp⟩
  rw [workOf_of_job ((congrArg PartRun.job (h.partRun p)).trans hj) ((h.plan p _).trans hpl), hp]

/-- A job that waits for its restart is tried again where its work is as before. -/
theorem exec_jobRestart_of_work {s : State} {p : Nat} {w : Work} {env : Env} (hworks : works s = true) (hw : workOf s p = some w)
    (hhalt : (s.partRun p).halt = .restart none) (htests : env.tests = []) (tested : List Nat) :
    ∃ t, exec (.jobRestart p tested env) s = .next (restartJob { w with s := t } env) ∧ SameWork 0 s t := by
  have htested := sameWork_quickTest 0 s tested
  have hsame := htested.trans (sameWork_chargeJob 0 _ p env.charge)
  have hrestart : ((runTests s 0 0 tested []).1.partRun p).halt.isRestart = true := by
    rw [htested.partRun, hhalt]
    rfl
  refine ⟨_, ?_, hsame⟩
  simp only [exec_jobRestart, execJobRestart, hworks, htests, hrestart, (hsame.workOf_eq hw).1, Bool.not_true, Bool.false_eq_true,
    if_false]

/-! The copies of sampled rows (03 R59) are writes to tensors. -/

/-- The runs and the host's memory. -/
def State.outside (s : State) : Tab PartRun × Tab Byte := (s.runs, s.host)

/-- What writes to tensors leave of a job at work: its partition, itself, the runs and the host's memory. -/
def Work.unwritten (w : Work) : Nat × Job × Tab PartRun × Tab Byte := (w.p, w.j, w.s.outside)

theorem writeCopy_frame (s : State) (p t : Nat) : writeCopy s p t = { s with basins := (writeCopy s p t).basins } := by
  unfold writeCopy
  split
  · split <;> rfl
  · rfl

theorem addWritten_outside (s : State) (f : Nat → Nat) : (addWritten s f).outside = s.outside := by
  simp only [State.outside, addWritten, countStacks]

theorem writeCopy_outside (s : State) (p t : Nat) : (writeCopy s p t).outside = s.outside := by
  rw [writeCopy_frame]
  rfl

theorem countWritten_outside (s : State) (p x n : Nat) : (countWritten s p x n).outside = s.outside := by
  unfold countWritten
  dsimp only
  rw [foldl_keeps (g := State.outside) (fun s t => writeCopy_outside s p t), addWritten_outside]

theorem partWrite_outside (s : State) (p x : Nat) (bs : List Byte) : (partWrite s p x bs).outside = s.outside := by
  unfold partWrite
  split <;> rfl

theorem hbmPut_outside (s : State) (p x : Nat) (bs : List Byte) : (hbmPut s p x bs).outside = s.outside :=
  (partWrite_outside _ p x bs).trans (countWritten_outside s p x bs.length)

theorem Work.countPut_outside (w : Work) (t off n : Nat) : (w.countPut t off n).outside = w.s.outside := by
  unfold Work.countPut
  split
  · rfl
  · split
    · split <;> rfl
    · exact countWritten_outside _ _ _ _

theorem Work.put_unwritten (w : Work) (t off : Nat) (bs : List Byte) : (w.put t off bs).unwritten = w.unwritten := by
  unfold Work.put
  dsimp only
  split
  · exact congrArg (fun o => (w.p, w.j, o)) (hbmPut_outside w.s w.p _ bs)
  · exact congrArg (fun o => (w.p, w.j, o)) (w.countPut_outside t off bs.length)

theorem Work.startCopies_unwritten (w : Work) : w.startCopies.unwritten = w.unwritten :=
  foldl_keeps (fun w _ => foldl_keeps (fun w _ => (Work.put_unwritten _ _ _ _).trans (Work.put_unwritten w _ _ _)) _ w) _ w

/-! A job that runs again. -/

/-- A job that brings no open operation along leaves the engines as they are. -/
theorem reopenEngines_of_noExecs {s : State} {p : Nat} {j : Job} (hj : (s.partRun p).job = some j) (hexecs : j.execs = []) :
    reopenEngines s p = s := by
  unfold reopenEngines
  split
  · next w hw =>
    obtain rfl : j = w.j := Option.some.inj (hj.symm.trans (job_of_workOf hw).1)
    rw [hexecs, List.foldl_nil]
  · rfl

theorem dropStreams_host (s : State) (p : Nat) : (dropStreams s p).host = s.host :=
  foldl_keeps (g := State.host) (f := fun (t : State) b => onMere t b _) (fun _ _ => rfl) _ s

/-- In t partition p runs job j in the epoch after that of s, and is no longer halted; host memory is as in s. -/
structure Restarted (s t : State) (p : Nat) (j : Job) : Prop where
  job : (t.partRun p).job = some j
  epoch : (t.partRun p).epoch = epochAfter (s.partRun p).epoch
  halt : (t.partRun p).halt = .none
  host : t.host = s.host

theorem runAgain_restarted {s : State} {w : Work} (hhalt : (s.partRun w.p).halt = .restart none) (hexecs : w.j.execs = []) :
    Restarted s (runAgain s w) w.p w.j := by
  unfold runAgain
  dsimp only
  rw [reopenEngines_of_noExecs (congrArg PartRun.job (State.partRun_setRun_self _ _ _)) hexecs, hhalt]
  have hrun := State.partRun_setRun_self ((dropStreams s w.p).setPlan w.p w.j.handle w.pl) w.p
  exact
    { job := by rw [hrun]
      epoch := by rw [hrun]
      halt := by rw [hrun]; rfl
      host := dropStreams_host s w.p }

theorem Restarted.of_same {s u t : State} {p : Nat} {j : Job} (h : Restarted u t p j) (hruns : u.runs = s.runs)
    (hhost : u.host = s.host) : Restarted s t p j where
  job := h.job
  epoch := h.epoch.trans (congrArg (epochAfter ∘ PartRun.epoch) (State.partRun_congr hruns p))
  halt := h.halt
  host := h.host.trans hhost

section Restart
variable {w : Work} (env : Env)

/-- A clip job that may restart runs again from its beginning, and the restart is counted. -/
theorem restartJob_of_clip (hhalt : (w.s.partRun w.p).halt = .restart none) (hserving : w.j.serving = false)
    (hmay : mayRestart w.j w.pl = true) (horigin : w.j.origin = .start) :
    Restarted w.s (restartJob w env) w.p w.j.afresh := by
  have hagain : restartJob w env =
      let v := ({ w with pl := wipePlan w.pl, j := w.j.afresh } : Work).startCopies
      runAgain v.s v := by
    simp [restartJob, rerun, hserving, hmay, horigin]
  rw [hagain]
  have hkept := Work.startCopies_unwritten { w with pl := wipePlan w.pl, j := w.j.afresh }
  simp only [Work.unwritten, State.outside, Prod.mk.injEq] at hkept
  generalize ({ w with pl := wipePlan w.pl, j := w.j.afresh } : Work).startCopies = v at hkept
  obtain ⟨hp, hj, hruns, hhost⟩ := hkept
  have hwaits : (v.s.partRun v.p).halt = .restart none := by rw [hp, State.partRun_congr hruns, hhalt]
  have hrestarted := (runAgain_restarted hwaits (by rw [hj]; rfl)).of_same hruns hhost
  rwa [hp, hj] at hrestarted

/-- A job that must not restart ends. -/
theorem restartJob_ends (hjob : (w.s.partRun w.p).job = some w.j) (hserving : w.j.serving = false)
    (hbar : mayRestart w.j w.pl = false) :
    ((restartJob w env).partRun w.p).job = none ∧ (restartJob w env).cmd w.j.cmd = none := by
  have hend : restartJob w env = endJob (sendAborts w.s w.p) w.p stJobFault := by simp [restartJob, hserving, hbar]
  rw [hend]
  exact endJob_ends ((congrArg PartRun.job (State.partRun_congr (sendAborts_runs w.s w.p) w.p)).trans hjob) _

/-- A serving step is replayed, and no restart is counted. -/
theorem restartJob_of_serving (hhalt : (w.s.partRun w.p).halt = .restart none) (hserving : w.j.serving = true) :
    Restarted w.s (restartJob w env) w.p { w.j.afresh with restarts := w.j.restarts } := by
  have hagain : restartJob w env =
      runAgain w.s { w with pl := wipePlan w.pl, j := { w.j.afresh with restarts := w.j.restarts } } := if_pos hserving
  rw [hagain]
  exact runAgain_restarted (w := { w with pl := wipePlan w.pl, j := { w.j.afresh with restarts := w.j.restarts } }) hhalt rfl

end Restart

/-- Settles O44. A fault's effect is that of its partition's job: reported alone, abandoned, or ended; a restart is one run again of
the same job. That a unit of which no result is told passes its quick test (log 187) is the model's choice. -/
theorem faultsRestartOrFail : Obligations.FaultsRestartOrFail := by
  intro s p source unit tested env hworks hp at' faulted
  refine ⟨?stop, ?unit, ?fabric, ?restart⟩
  case stop =>
    obtain ⟨hfailed, -, hcmds⟩ := enterFailed_effect (raiseEvent s evDeviceFailed source 0xF [])
    obtain ⟨hrequests, hstores, hjobs⟩ := enterFailed_ends (raiseEvent s evDeviceFailed source 0xF [])
    obtain ⟨hhbm, hfuses⟩ := Prod.mk.inj hstores
    exact ⟨_, exec_logicFault_stop hworks source, hfailed, hrequests, hcmds, hjobs, hhbm.trans (raiseEvent_hbm _ _ _ _ _),
      hfuses.trans (raiseEvent_fuses _ _ _ _ _)⟩
  case unit =>
    intro hunit hjob
    cases unit with
    | core k => exact ⟨_, exec_logicFault_core hworks hunit, faultFrom_noJob_effect hjob _⟩
    | basin b => exact ⟨_, exec_logicFault_basin hworks hunit, faultFrom_noJob_effect hjob _⟩
    | codec c => exact ⟨_, exec_logicFault_codec hworks hunit, faultFrom_noJob_effect hjob _⟩
    | stop x => exact hunit.elim
  case fabric =>
    intro j hjob hhalt
    have hrun := exec_fabricError_of_part hworks hp source
    refine ⟨fun hserving => ⟨_, hrun, faultFrom_clip_effect hjob hhalt source hserving⟩, fun hserving hstep => ?_,
      fun hserving st hstep => ⟨fun hfaults => ?_, fun hfaults =>
        ⟨_, hrun, faultFrom_fourth_effect hjob hhalt source hserving hstep hfaults⟩⟩⟩
    · rw [faultFrom_between_steps hjob hhalt source hserving hstep] at hrun
      exact ⟨_, hrun, raiseEvent_runs _ _ _ _ _, raiseEvent_cores _ _ _ _ _, raiseEvent_cmds _ _ _ _ _,
        raiseEvent_raised _ _ _ _ _⟩
    · obtain ⟨hcounted, hruns, hwaits, hidle, hraised⟩ := faultFrom_step_effect hjob hhalt source hserving hstep hfaults
      exact ⟨_, hrun, hruns, hwaits, hcounted, hidle, hraised⟩
  case restart =>
    intro w hw hhalt htests
    obtain ⟨t, hrun, hsame⟩ := exec_jobRestart_of_work hworks hw hhalt htests tested
    obtain ⟨hw', rfl⟩ := hsame.workOf_eq hw
    have hwaits : (t.partRun w.p).halt = .restart none := by rw [hsame.partRun, hhalt]
    refine ⟨fun hserving hmay horigin => ?again, fun hserving hbar => ?ends, fun hserving => ?replay⟩
    case again =>
      obtain ⟨hjob, hepoch, hgoes, hhost⟩ := (restartJob_of_clip (w := { w with s := t }) env hwaits hserving hmay horigin).of_same
        hsame.runs hsame.host
      exact ⟨_, _, hrun, hjob, rfl, rfl, rfl, rfl, rfl, rfl, rfl, rfl, hepoch, hgoes, hhost⟩
    case ends =>
      have hnever : mayRestart w.j w.pl = false := by simp [mayRestart, hbar]
      exact ⟨_, hrun, restartJob_ends (w := { w with s := t }) env (job_of_workOf hw').1 hserving hnever⟩
    case replay =>
      obtain ⟨hjob, hepoch, hgoes, hhost⟩ := (restartJob_of_serving (w := { w with s := t }) env hwaits hserving).of_same
        hsame.runs hsame.host
      exact ⟨_, _, hrun, hjob, rfl, rfl, rfl, rfl, rfl, hepoch, hgoes, hhost⟩

end Sys2Proof.Machine
end

section
/-! The reset values of the register groups (14 R328, R329, 12 R283, R284, 06 R144, 08 R203, R204, 15 R345, 17 R385, 19 R421). -/

namespace Sys2Proof.Machine

/-! Of no unit has a register been written at reset: each shows what its kind shows at reset. -/

theorem reset_sq (f q : Nat) : State.reset.sq f q = {} := rfl
theorem reset_cq (f q : Nat) : State.reset.cq f q = {} := rfl
theorem reset_evtRing (f : Nat) : State.reset.evtRing f = {} := rfl
theorem reset_basin (b : Nat) : State.reset.basin b = {} := rfl
theorem reset_port (q : Nat) : State.reset.port q = {} := rfl
theorem reset_tg (c : Nat) : State.reset.tg c = {} := rfl
theorem reset_stack (k : Nat) : State.reset.stack k = {} := rfl

/-- VF Enable is clear at reset, so that only the physical function exists (14 R304). -/
theorem reset_fnEnabled (f : Nat) : fnEnabled State.reset f = (f == 0) := by
  simp [fnEnabled, State.reset]

/-- Settles O5: every unit's registers are those of its kind at reset, and no virtual function is enabled. -/
theorem resetRegisterValues : Obligations.ResetRegisterValues := by
  refine ⟨rfl, rfl, rfl, rfl, rfl, rfl, rfl, rfl, rfl, ?rings, ?events, ?basins, ?ports, ?generators, ?memory, rfl, ?physical,
    ?virtual, rfl, rfl⟩
  case rings => intro f q; simp [reset_sq, reset_cq]
  case events => intro f; simp [reset_evtRing]
  case basins => intro b; simp [reset_basin]
  case ports => intro q; simp [reset_port]
  case generators => intro c; simp [reset_tg]
  case memory => intro k; simp [reset_stack]
  case physical => rw [reset_fnEnabled]; rfl
  case virtual => intro f hf; rw [reset_fnEnabled]; simp; omega

end Sys2Proof.Machine
end

section
/-! Doorbells and the configuration of rings (14 R309 to R311, R317, R330, 19 R421). -/

namespace Sys2Proof.Machine

section Exec
variable (s : State) (f q v : Nat)

theorem exec_sqTailDoorbell : exec (.sqTailDoorbell f q v) s = execSqTailDoorbell f q v s := rfl
theorem exec_cqHeadDoorbell : exec (.cqHeadDoorbell f q v) s = execCqHeadDoorbell f q v s := rfl
theorem exec_sqCfgWrite (acc : RegAcc) (w : Word64) : exec (.sqCfgWrite f q acc w) s = execSqCfgWrite f q acc w s := rfl
theorem exec_cqCfgWrite (acc : RegAcc) (w : Word64) : exec (.cqCfgWrite f q acc w) s = execCqCfgWrite f q acc w s := rfl
theorem exec_evtCfgWrite (acc : RegAcc) (w : Word64) : exec (.evtCfgWrite f acc w) s = execEvtCfgWrite f acc w s := rfl
theorem exec_descriptorReadFail : exec (.descriptorReadFail f q) s = execDescriptorReadFail f q s := rfl
theorem exec_irqHoldoffEnd (ev : Bool) : exec (.irqHoldoffEnd f q ev) s = execIrqHoldoffEnd f q ev s := rfl
theorem exec_evtHeadWrite : exec (.evtHeadWrite f v) s = execEvtHeadWrite f v s := rfl
theorem exec_pcieConfigWrite (r : Nat) (vf : Option Bool) : exec (.pcieConfigWrite r f vf) s = execPcieConfigWrite r f vf s := rfl
theorem exec_foreignRequest (r : Nat) (posted : Bool) : exec (.foreignRequest r posted) s = execForeignRequest r posted s := rfl

end Exec

/-! Doorbells (R311). -/

section Doorbell
variable {s : State} {f q v : Nat} (hreach : reaches s f = true) (hq : q < 64)
include hreach hq

theorem exec_sqTailDoorbell_of_reaches : exec (.sqTailDoorbell f q v) s = .next (sqTail f q v s) := by
  simp [exec_sqTailDoorbell, execSqTailDoorbell, hreach, hq]

theorem exec_cqHeadDoorbell_of_reaches : exec (.cqHeadDoorbell f q v) s = .next (cqHead f q v s) := by
  simp [exec_cqHeadDoorbell, execCqHeadDoorbell, hreach, hq]

end Doorbell

section Bell
variable {s : State} {f q v : Nat} (hv : v < 65536)
include hv

/-- What a doorbell's 16 bits hold. -/
theorem toNat_bell : (BitVec.ofNat 16 v).toNat = v := by
  rw [BitVec.toNat_ofNat]; omega

theorem sqTail_of_enabled (hon : (s.sq f q).log2 ≠ 0) : sqTail f q v s =
    if 2 ^ (s.sq f q).log2.toNat ≤ v then
      raiseRingError (s.setSq f q { s.sq f q with bell := BitVec.ofNat 16 v, error := true, cause := 1 }) f q false 1
    else s.setSq f q { s.sq f q with bell := BitVec.ofNat 16 v, tail := BitVec.ofNat 16 v } := by
  simp only [sqTail, toNat_bell hv, beq_iff_eq, hon, if_false]

theorem cqHead_of_enabled (hon : (s.cq f q).log2 ≠ 0) : cqHead f q v s =
    if 2 ^ (s.cq f q).log2.toNat ≤ v then
      raiseRingError (s.setCq f q { s.cq f q with bell := BitVec.ofNat 16 v, error := true, cause := 1 }) f q true 1
    else s.setCq f q { s.cq f q with bell := BitVec.ofNat 16 v, head := BitVec.ofNat 16 v } := by
  simp only [cqHead, toNat_bell hv, beq_iff_eq, hon, if_false]

end Bell

/-- Settles O9: a doorbell of an enabled ring compares the value with the ring's size, and moves the index or sets ERROR. -/
theorem doorbellsMoveRings : Obligations.DoorbellsMoveRings := by
  intro s f q v hreach hq hv
  rw [exec_sqTailDoorbell_of_reaches hreach hq, exec_cqHeadDoorbell_of_reaches hreach hq]
  refine ⟨?moves, ?errs, ?headMoves, ?headErrs⟩
  case moves => intro hon hin; rw [sqTail_of_enabled hv hon, if_neg (Nat.not_le.mpr hin)]
  case errs => intro hon hout; rw [sqTail_of_enabled hv hon, if_pos hout]
  case headMoves => intro hon hin; rw [cqHead_of_enabled hv hon, if_neg (Nat.not_le.mpr hin)]
  case headErrs => intro hon hout; rw [cqHead_of_enabled hv hon, if_pos hout]

/-! Configuration (R309, R310, 19 R421). -/

/-- The fields of a submission ring's configuration word: LOG2_SIZE, the completion ring, BASE. -/
theorem sqCfg_fields {n k base : Nat} (hn : n < 32) (hk : k < 64) (hb : base < 2 ^ 52) :
    let w := (BitVec.ofNat 64 (n + k * 32 + base * 4096)).toNat
    bitsOf w 0 5 = n ∧ bitsOf w 5 6 = k ∧ bitsOf w 12 52 = base := by
  simp only [bitsOf, BitVec.toNat_ofNat]
  omega

/-- The fields of the configuration word of a completion ring or an event ring: LOG2_SIZE, BASE. -/
theorem cqCfg_fields {n base : Nat} (hn : n < 32) (hb : base < 2 ^ 52) :
    let w := (BitVec.ofNat 64 (n + base * 4096)).toNat
    bitsOf w 0 5 = n ∧ bitsOf w 12 52 = base := by
  simp only [bitsOf, BitVec.toNat_ofNat]
  omega

theorem ringSize_of_bounds {n : Nat} (h : 4 ≤ n) (h' : n ≤ 16) : ringSize n = true := by
  simp [ringSize, h, h']

section Configured
variable {s : State} {f q n base k : Nat} (hreach : reaches s f = true) (hn : n < 32) (hb : base < 2 ^ 52)
include hreach hn hb

/-- A whole write that enables a disabled submission ring, whose completion ring is enabled. -/
theorem exec_sqCfgWrite_enables (hq : q < 64) (hk : k < 64) (hmin : 4 ≤ n) (hmax : n ≤ 16) (hoff : (s.sq f q).log2 = 0)
    (hwin : inWindows s f (base * 4096) (128 * 2 ^ n) = true) (hcq : (s.cq f k).log2 ≠ 0) :
    exec (.sqCfgWrite f q .full (BitVec.ofNat 64 (n + k * 32 + base * 4096))) s = .next (s.setSq f q { s.sq f q with
      log2 := BitVec.ofNat 5 n, cq := BitVec.ofNat 6 k, base := BitVec.ofNat 52 base, head := 0, tail := 0, error := false,
      cause := 0, chain := .free }) := by
  obtain ⟨hlog2, hlink, hbase⟩ := sqCfg_fields hn hk hb
  have hpos : n ≠ 0 := by omega
  have hon : ((s.cq f k).log2 != 0) = true := bne_iff_ne.mpr hcq
  simp only [exec_sqCfgWrite, execSqCfgWrite, hreach, hq, decide_true, Bool.and_self, if_true, sqCfg, accMerge_full, hlog2, hlink,
    hbase, hpos, if_false, hoff, bne_self_eq_false, Bool.false_eq_true, ringSize_of_bounds hmin hmax, hwin, hon]

/-- A whole write to an enabled submission ring disables it where LOG2_SIZE is 0, and is ignored else. -/
theorem exec_sqCfgWrite_of_enabled (hq : q < 64) (hk : k < 64) (hon : (s.sq f q).log2 ≠ 0) :
    exec (.sqCfgWrite f q .full (BitVec.ofNat 64 (n + k * 32 + base * 4096))) s = .next (if n = 0 then
      s.setSq f q { s.sq f q with log2 := 0, cq := BitVec.ofNat 6 k, base := BitVec.ofNat 52 base } else s) := by
  obtain ⟨hlog2, hlink, hbase⟩ := sqCfg_fields hn hk hb
  have hbne : ((s.sq f q).log2 != 0) = true := bne_iff_ne.mpr hon
  simp only [exec_sqCfgWrite, execSqCfgWrite, hreach, hq, decide_true, Bool.and_self, if_true, sqCfg, accMerge_full, hlog2, hlink,
    hbase, hbne]
  by_cases hzero : n = 0
  · subst hzero; rfl
  · rw [if_neg hzero, if_neg hzero]

/-- A whole write that enables a disabled completion ring. -/
theorem exec_cqCfgWrite_enables (hq : q < 64) (hmin : 4 ≤ n) (hmax : n ≤ 16) (hoff : (s.cq f q).log2 = 0)
    (hwin : inWindows s f (base * 4096) (32 * 2 ^ n) = true) :
    exec (.cqCfgWrite f q .full (BitVec.ofNat 64 (n + base * 4096))) s = .next (s.setCq f q { s.cq f q with
      log2 := BitVec.ofNat 5 n, base := BitVec.ofNat 52 base, head := 0, tail := 0, phase := true, error := false, cause := 0,
      lastVector := none, held := false }) := by
  obtain ⟨hlog2, hbase⟩ := cqCfg_fields hn hb
  have hpos : n ≠ 0 := by omega
  simp only [exec_cqCfgWrite, execCqCfgWrite, hreach, hq, decide_true, Bool.and_self, if_true, cqCfg, accMerge_full, hlog2, hbase,
    hpos, if_false, hoff, bne_self_eq_false, Bool.false_eq_true, ringSize_of_bounds hmin hmax, hwin]

/-- A whole write that enables a disabled event ring. -/
theorem exec_evtCfgWrite_enables (hmin : 4 ≤ n) (hmax : n ≤ 16) (hoff : (s.evtRing f).log2 = 0) :
    exec (.evtCfgWrite f .full (BitVec.ofNat 64 (n + base * 4096))) s = .next (s.setEvtRing f { s.evtRing f with
      log2 := BitVec.ofNat 5 n, base := BitVec.ofNat 52 base, head := 0, tail := 0, phase := true, lost := none,
      lastVector := none, held := false }) := by
  obtain ⟨hlog2, hbase⟩ := cqCfg_fields hn hb
  have hpos : n ≠ 0 := by omega
  simp only [exec_evtCfgWrite, execEvtCfgWrite, hreach, Bool.not_true, Bool.false_eq_true, if_false, accMerge_full, hlog2, hbase,
    hpos, hoff, bne_self_eq_false, ringSize_of_bounds hmin hmax, Bool.or_self]

end Configured

/-- Settles O10: each configuration word's fields are read back from it, and the write is the case of its ring. That an event ring
starts afresh when it is enabled is the model's choice (log 20). -/
theorem ringsAreEnabled : Obligations.RingsAreEnabled := by
  intro s f q n base k hreach hq hk hn hb word
  exact ⟨exec_sqCfgWrite_enables hreach hn hb hq hk, exec_sqCfgWrite_of_enabled hreach hn hb hq hk,
    exec_cqCfgWrite_enables hreach hn hb hq, exec_evtCfgWrite_enables hreach hn hb⟩

/-! A descriptor that cannot be read (R317). -/

/-- A ring in ERROR gives no descriptor (R311). -/
theorem lookAt_of_error {s : State} {f q : Nat} (h : (s.sq f q).error = true) : lookAt s f q = .nothing := by
  have hready : ringReady s f q = false := by simp [ringReady, h]
  simp [lookAt, hready]

/-- EV_RING_ERROR is none of the events that the store keeps; it waits for the rings (19 R418). -/
theorem raiseRingError_raised (s : State) (f q : Nat) (isCq : Bool) (cause : Nat) :
    (raiseRingError s f q isCq cause).evt.raised = s.evt.raised ++
      [{ mtc := s.now, source := srcPcie, code := evRingError, part := 0xF,
         detail := toLe 1 f ++ toLe 1 q ++ toLe 1 (b2n isCq) ++ toLe 1 cause, fn := some f }] := by
  rfl

theorem exec_descriptorReadFail_of_found {s : State} {f q : Nat} {d : List Byte} (h : lookAt s f q = .found d) :
    exec (.descriptorReadFail f q) s = .next (
      raiseRingError ({ s with hif := { s.hif with hostRdErr := satAdd s.hif.hostRdErr 1 } }.setSq f q
        { s.sq f q with error := true, cause := 2 }) f q false 2) := by
  simp only [exec_descriptorReadFail, execDescriptorReadFail, h]
  rfl

/-- Settles O11: the failed read sets the ring's ERROR and raises the event, and a ring in ERROR gives no descriptor. -/
theorem descriptorReadFailure : Obligations.DescriptorReadFailure := by
  intro s f q d hfound
  refine ⟨_, exec_descriptorReadFail_of_found hfound, ?ring, ?event, ?cmds, ?host, ?hbm, fun u => lookAt_of_error⟩
  case ring => simp only [State.sq, raiseRingError_sqs]; exact State.sq_setSq_self _ f q _
  case event => rw [raiseRingError_raised]; rfl
  case cmds => simp
  case host => simp
  case hbm => simp

/-! Interrupts held back, and HEAD of an event ring (R316, 19 R418, R421). -/

section Held
variable {s : State} {f q v : Nat}

theorem exec_irqHoldoffEnd_of_cq (hheld : (s.cq f q).held = true)
    (hdue : vectorDue s.now (s.cq f q).holdoff.toNat (s.cq f q).lastVector = true) :
    exec (.irqHoldoffEnd f q false) s = .next (raiseVector
      (s.setCq f q { s.cq f q with held := false, lastVector := some s.now }) f (s.cq f q).vector.toNat) := by
  simp [exec_irqHoldoffEnd, execIrqHoldoffEnd, hheld, hdue]

theorem exec_irqHoldoffEnd_of_event (hheld : (s.evtRing f).held = true)
    (hdue : vectorDue s.now (s.evtRing f).holdoff.toNat (s.evtRing f).lastVector = true) :
    exec (.irqHoldoffEnd f q true) s = .next (raiseVector
      (s.setEvtRing f { s.evtRing f with held := false, lastVector := some s.now }) f (s.evtRing f).vector.toNat) := by
  simp [exec_irqHoldoffEnd, execIrqHoldoffEnd, hheld, hdue]

theorem exec_evtHeadWrite_of_reaches (hreach : reaches s f = true) (hv : v < 65536) :
    exec (.evtHeadWrite f v) s = .next (if v < 2 ^ (s.evtRing f).log2.toNat then
      s.setEvtRing f { s.evtRing f with head := BitVec.ofNat 16 v } else s) := by
  simp [exec_evtHeadWrite, execEvtHeadWrite, hreach, hv]

end Held

/-- Settles O12: each kind of ring raises the vector it held, and HEAD moves inside the event ring only. -/
theorem holdoffAndEventHead : Obligations.HoldoffAndEventHead :=
  fun _ _ _ _ => ⟨exec_irqHoldoffEnd_of_cq, exec_irqHoldoffEnd_of_event, exec_evtHeadWrite_of_reaches⟩

/-! Requesters (14 R302, R304). -/

section Requester
variable {s : State} (hstaged : staged s = true) (hup : s.run.pcieUp = true)
include hstaged hup

/-- A configuration write that leaves VF Enable as it is records the requester, and nothing else. -/
theorem exec_pcieConfigWrite_records {f : Nat} (hf : fnEnabled s f = true) (r : Nat) :
    exec (.pcieConfigWrite r f none) s = .next { s with hif := { s.hif with requester := some r } } := by
  simp [exec_pcieConfigWrite, execPcieConfigWrite, hstaged, hup, hf]

theorem exec_pcieConfigWrite_creates (r : Nat) : exec (.pcieConfigWrite r 0 (some true)) s =
    .next { s with hif := { s.hif with requester := some r, vfEnable := true } } := by
  simp [exec_pcieConfigWrite, execPcieConfigWrite, hstaged, hup, fnEnabled]

theorem exec_pcieConfigWrite_stays_off (hoff : s.hif.vfEnable = false) (r : Nat) : exec (.pcieConfigWrite r 0 (some false)) s =
    .next { s with hif := { s.hif with requester := some r } } := by
  simp [exec_pcieConfigWrite, execPcieConfigWrite, hstaged, hup, fnEnabled, hoff]

/-- A request of the recorded requester is not foreign; any other is rejected and counted (R302). -/
theorem exec_foreignRequest_of_up (r : Nat) (posted : Bool) : exec (.foreignRequest r posted) s =
    .next (if s.hif.requester = some r then s else { s with hif := { s.hif with
      p2pReject := satAdd s.hif.p2pReject 1, aerLogged := s.hif.aerLogged + if posted then 1 else 0 } }) := by
  by_cases hown : s.hif.requester = some r <;> simp [exec_foreignRequest, execForeignRequest, hstaged, hup, hown, b2n]

end Requester

/-- Settles O16: the three configuration writes and the foreign request, each in the one case its premises leave. -/
theorem requestersRecordedOrRejected : Obligations.RequestersRecordedOrRejected :=
  fun _ r _ posted hstaged hup => ⟨fun hf => exec_pcieConfigWrite_records hstaged hup hf r,
    exec_pcieConfigWrite_creates hstaged hup r, fun hoff => exec_pcieConfigWrite_stays_off hstaged hup hoff r,
    exec_foreignRequest_of_up hstaged hup r posted⟩

end Sys2Proof.Machine
end

section
/-! A completion whose entry lies in the windows changes the host's memory in that entry alone, and raises no event (14 R315, R325). -/

namespace Sys2Proof.Machine

/-- An entry inside the windows raises no event. -/
theorem writeEntry_quiet {s : State} {c : Cmd} (h : inWindows s c.fn (entryPlace s c) 32 = true) (status retry : Nat) :
    (writeEntry s c status retry).evt = s.evt ∧ (writeEntry s c status retry).medium = s.medium := by
  unfold entryPlace at h
  simp only [writeEntry, h, if_true]
  split <;> simp

/-- What a closed command that writes no object changes. -/
theorem closeCmd_quiet {s : State} {c : Cmd} (h : inWindows s c.fn (entryPlace s c) 32 = true)
    (hobj : objectWritten c.desc = none) (status retry : Nat) :
    (closeCmd s c status retry).evt = s.evt ∧ (closeCmd s c status retry).medium = s.medium := by
  have hsettle : settleObject s c status = s := by simp only [settleObject, hobj]
  have hquiet := writeEntry_quiet (s := { s with cmds := s.cmds.filter fun d => d.id != c.id }) (c := c) h status retry
  unfold closeCmd
  simp only [hsettle]
  split <;> exact hquiet

/-- A closed command writes the 32 bytes of its entry. -/
theorem closeCmd_host {s : State} {c : Cmd} (h : inWindows s c.fn (entryPlace s c) 32 = true) (status retry : Nat) :
    ∃ bs : List Byte, bs.length = 32 ∧ (closeCmd s c status retry).host = Mem.writeN s.host (entryPlace s c) bs := by
  have hplace : ∀ t : State, t.cqs = s.cqs → entryPlace t c = entryPlace s c := fun t ht => by
    simp only [entryPlace, State.cq, ht]
  have hentry : ∀ t : State, t.cqs = s.cqs → t.hif = s.hif → t.host = s.host → (writeEntry t c status retry).host =
      Mem.writeN s.host (entryPlace s c) (completionBytes t c (t.cq c.fn c.cq).phase status retry) := fun t hq hf hm => by
    rw [writeEntry_host (by rwa [inWindows_congr (congrArg Hif.fns hf), hplace t hq]), hplace t hq, hm]
  unfold closeCmd
  dsimp only
  split <;> exact ⟨_, completionBytes_length _ _ _ _ _, hentry _ (settleObject_cqs s c status) (settleObject_hif s c status)
    (settleObject_host s c status)⟩

/-- The completion of a command that no other is chained behind. -/
theorem finish_of_alone {s : State} {c : Cmd} (h : ∀ d ∈ s.cmds, d.pred ≠ some c.id) (status : Nat) :
    finish s c status = settleChain (closeCmd s c status 0) c status := by
  have hnone : ((closeCmd s c status 0).cmds.find? fun d => d.pred == some c.id) = none := by
    rw [closeCmd_cmds, List.find?_eq_none]
    intro d hd
    simpa using h d (List.mem_filter.mp hd).1
  unfold finish finishWith
  rw [finishN_succ, hnone]

theorem Mem.readN_writeN_outside (m : Tab Byte) {a n b : Nat} {bs : List Byte} (h : a + n ≤ b ∨ b + bs.length ≤ a) :
    Mem.readN (Mem.writeN m b bs) a n = Mem.readN m a n := by
  unfold Mem.readN
  refine List.map_congr_left fun i hi => ?_
  have hi' := List.mem_range.mp hi
  exact Mem.read_writeN_outside m b (a + i) bs (by omega)

namespace Underway
variable {s t : State} {f q : Nat} {d : List Byte} {c : Cmd} (h : Underway s f q d t c)
include h

theorem entry_fits (hfit : EntryFits s f q) : inWindows t c.fn (entryPlace t c) 32 = true := by
  rw [h.place_eq, h.fn, h.same.windows]; exact hfit

theorem finish_eq (status : Nat) : finish t c status = settleChain (closeCmd t c status 0) c status :=
  finish_of_alone (h.id.symm ▸ h.alone) status

/-- Its completion writes the 32 bytes of its entry. -/
theorem finish_host (hfit : EntryFits s f q) (status : Nat) :
    ∃ bs : List Byte, bs.length = 32 ∧ (finish t c status).host = Mem.writeN t.host (nextEntry s f q) bs := by
  obtain ⟨bs, hlen, hhost⟩ := closeCmd_host (h.entry_fits hfit) status 0
  exact ⟨bs, hlen, by rw [h.finish_eq, settleChain_host, hhost, h.place_eq]⟩

/-- Every other byte of the host's memory stays. -/
theorem finish_read (hfit : EntryFits s f q) (status : Nat) {x : Nat} (hx : NotInEntry s f q x) :
    Mem.read (finish t c status).host x = Mem.read t.host x := by
  obtain ⟨bs, hlen, hhost⟩ := h.finish_host hfit status
  rw [hhost]
  exact Mem.read_writeN_outside _ _ _ _ (by rw [hlen]; exact hx)

theorem finish_readN (hfit : EntryFits s f q) (status : Nat) {a n : Nat} (ha : ApartFromEntry s f q a n) :
    Mem.readN (finish t c status).host a n = Mem.readN t.host a n := by
  obtain ⟨bs, hlen, hhost⟩ := h.finish_host hfit status
  rw [hhost]
  exact Mem.readN_writeN_outside _ (by rw [hlen]; exact ha)

theorem finish_quiet (hfit : EntryFits s f q) (hobj : objectWritten d = none) (status : Nat) :
    (finish t c status).evt = t.evt ∧ (finish t c status).medium = t.medium := by
  rw [h.finish_eq, settleChain_frame]
  exact closeCmd_quiet (h.entry_fits hfit) (by rw [h.desc]; exact hobj) status 0

/-- The command path and the accounts alone change when it completes. -/
theorem untouched_finish (hfit : EntryFits s f q) (hobj : objectWritten d = none) (status : Nat) :
    Untouched t (finish t c status) := by
  obtain ⟨hevt, hmedium⟩ := h.finish_quiet hfit hobj status
  constructor <;> simp [hevt, hmedium]

end Underway

/-! What neither the command path nor the accounts hold. -/

theorem Untouched.trans {s t u : State} (h : Untouched s t) (h' : Untouched t u) : Untouched s u := by
  cases h; cases h'; constructor <;> simp [*]

theorem untouched_takeHead (s : State) (f q : Nat) (d : List Byte) : Untouched s (takeHead s f q d).1 := by
  constructor <;> simp

theorem untouched_setCmd (s : State) (c : Cmd) : Untouched s (s.setCmd c) := by
  constructor <;> simp

theorem untouched_charge (s : State) (c : Cmd) (ch : Charge) : Untouched s (chargeCmd s c ch).1 := by
  constructor <;> simp

theorem untouched_started (s : State) (f q : Nat) (d : List Byte) : Untouched s (startedState s f q d) :=
  (untouched_takeHead s f q d).trans (untouched_setCmd _ _)

end Sys2Proof.Machine
end

section
/-! NOP (14 R321): its completion, its refusal, and the fence before it (R314). -/

namespace Sys2Proof.Machine

section Order
variable {s : State} {f q : Nat} {d : List Byte} (h : orderWaits (takeHead s f q d).1 (takenCmd s f q d) = false)
include h

theorem pred_eq_none_of_order : (takenCmd s f q d).pred = none := by
  simp only [orderWaits, Bool.or_eq_false_iff] at h
  obtain ⟨⟨-, hp⟩, -⟩ := h
  simpa using hp

/-- A command that ring order lets start is under way as soon as it is taken. -/
theorem underway_takeHead (hinv : s.Inv) : Underway s f q d (takeHead s f q d).1 (takenCmd s f q d) where
  id := rfl
  fn := rfl
  cq := rfl
  desc := rfl
  free := pred_eq_none_of_order h
  found := cmd_takeHead hinv f q d
  alone := by
    intro e he hp
    rw [takeHead_cmds, List.mem_append, List.mem_singleton] at he
    rcases he with hold | rfl
    · exact absurd ((hinv.numbered.cmds e hold).2 _ hp) (Nat.lt_irrefl _)
    · simp [pred_eq_none_of_order h] at hp
  same := ⟨rfl, rfl, rfl, rfl, rfl, rfl, inWindows_takeHead s f q d⟩

/-- A fenced command that ring order lets start finds no earlier command of its ring open but accepted ones (R314). -/
theorem accepted_of_fence (hinv : s.Inv) (hfence : dFence d = true) {c : Cmd} (hc : c ∈ s.cmds) (hfn : c.fn = f)
    (hsq : c.sq = q) : c.state = .accepted := by
  simp only [orderWaits, Bool.or_eq_false_iff, fenceWaits, takenCmd_desc, hfence, Bool.true_and] at h
  obtain ⟨⟨hnone, -⟩, -⟩ := h
  have hearlier : c ∈ earlier (takeHead s f q d).1 (takenCmd s f q d) := by
    have hid : c.id < (takenCmd s f q d).id := (hinv.numbered.cmds c hc).1
    have hf : c.fn = (takenCmd s f q d).fn := hfn
    have hq : c.sq = (takenCmd s f q d).sq := hsq
    simp [earlier, takeHead_cmds, hc, hid, hf, hq]
  simpa using List.any_eq_false.mp hnone c hearlier

end Order

/-! Reserved bytes (00 R10). -/

theorem leNat_eq_zero_iff (bs : List Byte) : leNat bs = 0 ↔ allZero bs = true := by
  induction bs with
  | nil => simp [leNat, allZero]
  | cons b bs ih =>
    have hb : b.toNat = 0 ↔ b = 0 := ⟨fun h => BitVec.eq_of_toNat_eq h, fun h => by rw [h]; rfl⟩
    have hall : allZero (b :: bs) = true ↔ b = 0 ∧ allZero bs = true := by simp [allZero]
    rw [hall, ← hb, ← ih, leNat]
    omega

theorem leNat_append (as bs : List Byte) : leNat (as ++ bs) = leNat as + 256 ^ as.length * leNat bs := by
  induction as with
  | nil => simp [leNat]
  | cons a as ih =>
    simp only [List.cons_append, leNat, ih, List.length_cons, Nat.pow_succ]
    rw [Nat.mul_add, ← Nat.mul_assoc, Nat.mul_comm 256 (256 ^ as.length), Nat.add_assoc]

/-- A descriptor with a byte beyond n set is a number beyond n bytes. -/
theorem le_leNat_of_drop {d : List Byte} {n : Nat} (h : allZero (d.drop n) = false) : 256 ^ n ≤ leNat d := by
  have hne : leNat (d.drop n) ≠ 0 := fun h0 => by rw [(leNat_eq_zero_iff _).mp h0] at h; exact Bool.noConfusion h
  have hlen : (d.take n).length = n := by
    rw [List.length_take, Nat.min_eq_left]
    refine Nat.le_of_not_lt fun hshort => ?_
    rw [List.drop_eq_nil_of_le (by omega)] at hne
    exact hne rfl
  rw [← List.take_append_drop n d, leNat_append, hlen]
  have := Nat.le_mul_of_pos_right (256 ^ n) (Nat.pos_of_ne_zero hne)
  omega

/-- NOP gives no meaning to bytes 32 to 127 (R320). -/
theorem nop_reserved {d : List Byte} {r : OpRow} (hr : opRow 0x0001 = some r) (h : allZero (d.drop 32) = false) :
    reservedZero d r = false := by
  obtain rfl := Option.some.inj hr
  have hbig := le_leNat_of_drop h
  have hmask : fieldMask (headerFields ++ []) < 256 ^ 32 := by decide
  have hle : leNat d &&& fieldMask (headerFields ++ []) ≤ fieldMask (headerFields ++ []) := Nat.and_le_right
  simp only [reservedZero, beq_eq_false_iff_ne]
  omega

theorem nop_headerVerdict (s : State) (f taken : Nat) {d : List Byte} (hop : dOpcode d = 0x0001)
    (h : allZero (d.drop 32) = false) : headerVerdict s f d taken = some stBadDesc := by
  have hreserved : reservedZero d ⟨.forbidden, .forbidden, false, []⟩ = false := nop_reserved rfl h
  simp [headerVerdict, hop, opRow, hreserved]

section Nop
variable {s : State} {f q : Nat} {d : List Byte} (env : Env)

theorem exec_nop (h : Runs 0x0001 s f q d) : exec (.nop f q env) s = .next (
    finish (chargeCmd (startedState s f q d) (runningCmd s f q d) env.charge).1
      (chargeCmd (startedState s f q d) (runningCmd s f q d) env.charge).2 stOk) :=
  congrArg Host.Outcome.next (takeRow_of_startsNow h.toStartsNow (by simp [twoPart, h.opcode_eq]) env noEarly runNop)

/-- A NOP whose header is refused once its ring lets it start completes with that status (R319). -/
theorem exec_nop_of_refused {st : Nat} (hfound : lookAt s f q = .found d) (hop : dOpcode d = 0x0001)
    (hchain : (s.sq f q).chain ≠ .broken) (horder : orderWaits (takeHead s f q d).1 (takenCmd s f q d) = false)
    (hverdict : headerVerdict (takeHead s f q d).1 f d s.now = some st) :
    exec (.nop f q env) s = .next (finish (takeHead s f q d).1 (takenCmd s f q d) st) := by
  have hbroken : ((s.sq f q).chain == .broken) = false := by simpa using hchain
  have htwo : twoPart d = false := by simp [twoPart, hop]
  have hserial : serialWaits (takeHead s f q d).1 (takenCmd s f q d) = false := by simp [serialWaits, serialOp, hop]
  have hheader : headerVerdict (takeHead s f q d).1 (takenCmd s f q d).fn d (takenCmd s f q d).takenAt = some st := hverdict
  have htaken : takenVerdict (takeHead s f q d).1 (takenCmd s f q d) noEarly = none := by
    simp only [takenVerdict, takenCmd_desc, htwo, Bool.false_eq_true, if_false]
  have hbegin : beginCmd (takeHead s f q d).1 (takenCmd s f q d) false env noEarly runNop =
      finish (takeHead s f q d).1 (takenCmd s f q d) st := by
    simp only [beginCmd, htaken, horder, hserial, Bool.or_self, Bool.false_eq_true, if_false, startCmd, takenCmd_desc, htwo, hheader]
  refine congrArg Host.Outcome.next ?_
  unfold takeRow
  simp only [hfound, hop, decide_true, Bool.true_or, if_true, hbroken]
  exact hbegin

end Nop

/-- Settles O54: a NOP completes from where its command runs, or from where it was taken when its header is refused; that a set
reserved byte refuses it is the check of R319. -/
theorem nopCompletes : Obligations.NopCompletes := by
  intro s f q d env
  refine ⟨fun hrun => ⟨?completes, fun hfence c hc => accepted_of_fence hrun.order hrun.inv hfence hc⟩, ?refused⟩
  case completes =>
    have hu := hrun.underway.charge env.charge
    have hobj : objectWritten d = none := by simp [objectWritten, hrun.opcode_eq]
    refine ⟨_, exec_nop env hrun, hu.completesWith hrun.fits (by decide), ?_, fun x hx => ?_⟩
    · exact ((untouched_started s f q d).trans (untouched_charge _ _ _)).trans (hu.untouched_finish hrun.fits hobj stOk)
    · rw [hu.finish_read hrun.fits stOk hx, hu.same.host]
  case refused =>
    intro hfound hop hset hchain horder hfit hinv
    have hu := underway_takeHead horder hinv
    have hobj : objectWritten d = none := by simp [objectWritten, hop]
    exact ⟨_, exec_nop_of_refused env hfound hop hchain horder (nop_headerVerdict _ _ _ hop hset),
      hu.completesWith hfit (by decide), (untouched_takeHead s f q d).trans (hu.untouched_finish hfit hobj stBadDesc)⟩

end Sys2Proof.Machine
end

section
/-! Bytes written through the extents of a partition (08 R187). -/

namespace Sys2Proof.Machine

/-- A device byte that no byte of the range maps to reads as before. -/
theorem read_writeExt_outside {ext : List (Nat × Nat)} {bs : List Byte} {x y : Nat} (m : Tab Byte)
    (h : ∀ i < bs.length, mapAddr ext (x + i) ≠ some y) : Mem.read (writeExt m ext x bs) y = Mem.read m y := by
  induction bs generalizing m x with
  | nil => rfl
  | cons b bs ih =>
    have hhead : mapAddr ext x ≠ some y := h 0 (by simp)
    have htail : ∀ i < bs.length, mapAddr ext (x + 1 + i) ≠ some y := fun i hi => by
      have := h (i + 1) (by simpa using hi)
      rwa [show x + (i + 1) = x + 1 + i by omega] at this
    rw [writeExt, ih _ htail]
    split
    case h_1 d hd => exact Mem.read_write_ne m b fun hy => hhead (hy ▸ hd)
    case h_2 => rfl

/-- Byte k of the bytes written is read where it maps to, when the range maps to bytes of its own. -/
theorem read_writeExt_inside {ext : List (Nat × Nat)} {bs : List Byte} {x k y : Nat} (m : Tab Byte) (hk : k < bs.length)
    (hy : mapAddr ext (x + k) = some y)
    (hown : ∀ i < bs.length, ∀ j < bs.length, mapAddr ext (x + i) = mapAddr ext (x + j) → i = j) :
    Mem.read (writeExt m ext x bs) y = bs[k] := by
  induction bs generalizing m x k with
  | nil => simp at hk
  | cons b bs ih =>
    have hshift : ∀ i, x + 1 + i = x + (i + 1) := fun i => by omega
    rw [writeExt]
    cases k with
    | zero =>
      simp only [Nat.add_zero] at hy
      rw [read_writeExt_outside]
      · simp only [hy, Mem.read_write_self, List.getElem_cons_zero]
      · intro i hi hmap
        rw [hshift] at hmap
        have := hown 0 (by simp) (i + 1) (by simpa using hi) (by rw [Nat.add_zero, hy, hmap])
        omega
    | succ k =>
      refine ih _ (by simpa using hk) (by rw [hshift]; exact hy) fun i hi j hj hmap => ?_
      rw [hshift, hshift] at hmap
      have := hown (i + 1) (by simpa using hi) (j + 1) (by simpa using hj) hmap
      omega

theorem partRead_length (s : State) (p x n : Nat) : (partRead s p x n).length = n := by
  simp [partRead]

theorem partRead_congr {s t : State} (hparts : t.parts = s.parts) (hhbm : t.hbm = s.hbm) (p x n : Nat) :
    partRead t p x n = partRead s p x n := by
  simp only [partRead, partByte, hparts, hhbm]

/-- What was written to a backed range of partition memory is what is read there. -/
theorem partRead_of_written {t : State} {p x : Nat} {r : Partition} {m : Tab Byte} {bs : List Byte}
    (hr : Tab.find t.parts p = some r) (hm : t.hbm = writeExt m r.extents x bs) (hback : Backed r.extents x bs.length) :
    partRead t p x bs.length = bs := by
  obtain ⟨hsome, hown⟩ := hback
  apply List.ext_getElem
  · exact partRead_length t p x _
  · intro k h1 h2
    obtain ⟨y, hy⟩ := Option.isSome_iff_exists.mp (hsome k h2)
    simp only [partRead, List.getElem_map, List.getElem_range, partByte, hr, hy, hm]
    exact read_writeExt_inside m h2 hy hown

end Sys2Proof.Machine
end

section
/-! COPY (14 R322). -/

namespace Sys2Proof.Machine

/-- A check that gives a status below n, before checks that give only such. -/
theorem lt_of_ite_some {p : Prop} [Decidable p] {a n st : Nat} {later : Option Nat} (ha : a < n)
    (hlater : later = some st → st < n) (h : (if p then some a else later) = some st) : st < n := by
  by_cases hp : p
  · rw [if_pos hp, Option.some.injEq] at h
    exact h ▸ ha
  · rw [if_neg hp] at h
    exact hlater h

/-- The checks of a COPY give three statuses. -/
theorem copyStatus_lt {s : State} {c : Cmd} {st : Nat} (h : copyStatus s c = some st) : st < 65536 := by
  unfold copyStatus at h
  dsimp only at h
  refine lt_of_ite_some (by decide : stBadDesc < 65536) (fun hlen => ?_) h
  refine lt_of_ite_some (by decide : stOk < 65536) (fun hform => ?_) hlen
  refine lt_of_ite_some (by decide : stBadDesc < 65536) (fun hrange => ?_) hform
  exact lt_of_ite_some (by decide : stDenied < 65536) (fun hnone => by cases hnone) hrange

/-- The bytes a COPY moves, and the machine that has read them. -/
def copySource (s : State) (d : List Byte) : List Byte × State :=
  if cpDir d = 0 then hostRead s (cpSrc d) (cpLen d) else hbmGet s (dPart d) (cpSrc d) (cpLen d)

section Source
variable (s : State) (d : List Byte)

theorem copySource_bytes : (copySource s d).1 =
    if cpDir d = 0 then Mem.readN s.host (cpSrc d) (cpLen d) else partRead s (dPart d) (cpSrc d) (cpLen d) := by
  unfold copySource
  split <;> rfl

theorem copySource_length : (copySource s d).1.length = cpLen d := by
  rw [copySource_bytes]
  split
  · simp [Mem.readN]
  · exact partRead_length _ _ _ _

/-- What moves of bytes leave alone: the open commands, the completion rings, the functions' registers, the partitions and their
work. -/
def State.unmoved (s : State) :
    List Cmd × Tab CompRing × Tab FnRegs × Tab Partition × Tab PartRun × Tab Plan × Tab Request :=
  (s.cmds, s.cqs, s.hif.fns, s.parts, s.runs, s.plans, s.requests)

theorem State.parts_of_unmoved {s t : State} (h : t.unmoved = s.unmoved) : t.parts = s.parts := congrArg (fun u => u.2.2.2.1) h

theorem addRead_stores (f : Nat → Nat) :
    (addRead s f).unmoved = s.unmoved ∧ (addRead s f).host = s.host ∧ (addRead s f).hbm = s.hbm := by
  simp only [State.unmoved, addRead, countStacks, and_self]

/-- Reading counts bytes, and changes nothing of these nor of the memories. -/
theorem copySource_stores : (copySource s d).2.unmoved = s.unmoved ∧ (copySource s d).2.host = s.host
    ∧ (copySource s d).2.hbm = s.hbm := by
  by_cases hdir : cpDir d = 0
  · rw [copySource, if_pos hdir]; exact ⟨rfl, rfl, rfl⟩
  · rw [copySource, if_neg hdir]; exact addRead_stores s _

end Source

section Target
variable (s : State) (d bs : List Byte)

/-- A write of tiles counts bytes in Mere and at the stacks, and changes nothing of these nor of the memories. -/
theorem countWritten_stores (p x n : Nat) : (countWritten s p x n).unmoved = s.unmoved ∧ (countWritten s p x n).hbm = s.hbm := by
  have hcopies : ∀ (ts : List Nat) (u : State), (ts.foldl (fun s t => writeCopy s p t) u).unmoved = u.unmoved
      ∧ (ts.foldl (fun s t => writeCopy s p t) u).hbm = u.hbm := fun ts u =>
    ⟨foldl_keeps (g := State.unmoved) (fun s t => by rw [writeCopy_frame]; rfl) ts u,
      foldl_keeps (g := State.hbm) (fun s t => by rw [writeCopy_frame]) ts u⟩
  obtain ⟨hunmoved, hhbm⟩ := hcopies (tilesOf s p x n) (addWritten s (tilesOnStack (tilesOf s p x n)))
  exact ⟨hunmoved.trans (by simp only [State.unmoved, addWritten, countStacks]),
    hhbm.trans (by simp only [addWritten, countStacks])⟩

theorem hbmPut_unmoved (p x : Nat) : (hbmPut s p x bs).unmoved = s.unmoved := by
  have hcount := (countWritten_stores s p x bs.length).1
  unfold hbmPut partWrite
  split <;> exact hcount

theorem hbmPut_hbm {p x : Nat} {r : Partition} (hr : Tab.find s.parts p = some r) :
    (hbmPut s p x bs).hbm = writeExt s.hbm r.extents x bs := by
  obtain ⟨hunmoved, hhbm⟩ := countWritten_stores s p x bs.length
  simp only [hbmPut, partWrite, State.parts_of_unmoved hunmoved, hr, hhbm]

theorem copyTo_unmoved : (copyTo s d bs).unmoved = s.unmoved := by
  unfold copyTo
  split
  · rfl
  · exact hbmPut_unmoved s bs _ _

theorem copyTo_host : (copyTo s d bs).host = if cpDir d = 1 then Mem.writeN s.host (cpDst d) bs else s.host := by
  unfold copyTo
  split
  · rfl
  · exact congrArg Prod.snd (hbmPut_outside s (dPart d) (cpDst d) bs)

theorem copyTo_hbm {r : Partition} (hr : Tab.find s.parts (dPart d) = some r) :
    (copyTo s d bs).hbm = if cpDir d = 1 then s.hbm else writeExt s.hbm r.extents (cpDst d) bs := by
  unfold copyTo
  split
  · rfl
  · exact hbmPut_hbm s bs hr

end Target

section Copy
variable {s : State} {c : Cmd} {env : Env}

theorem runCopy_of_status {st : Nat} (h : copyStatus s c = some st) : runCopy s c env = finish s c st := by
  simp only [runCopy, h]

/-- A COPY whose checks pass moves its bytes when nothing outside fails. -/
theorem runCopy_of_clean (h : copyStatus s c = none) (henv : CleanEnv env) : runCopy s c env =
    finish (copyTo (copySource (chargeCmd s c env.charge).1 c.desc).2 c.desc (copySource (chargeCmd s c env.charge).1 c.desc).1)
      (chargeCmd s c env.charge).2 stOk := by
  by_cases hdir : cpDir c.desc = 0
  · simp [runCopy, h, henv.fault, henv.host, copySource, hdir]
  · simp [runCopy, h, henv.fault, henv.tier, copySource, hdir, tierStatus]

end Copy

/-- A command stays under way, of a machine that differs from s in its memories only, while its work changes those. -/
theorem Underway.moved {s t t' : State} {f q : Nat} {d : List Byte} {c : Cmd} (h : Underway s f q d t c)
    (hsame : t'.unmoved = t.unmoved) : Underway { s with host := t'.host, hbm := t'.hbm } f q d t' c := by
  simp only [State.unmoved, Prod.mk.injEq] at hsame
  obtain ⟨hcmds, hcqs, hfns, -, hruns, hplans, hreqs⟩ := hsame
  exact { h with
    found := (State.cmd_congr hcmds _).trans h.found
    alone := hcmds ▸ h.alone
    same := ⟨rfl, rfl, hcqs.trans h.same.cqs, hplans.trans h.same.plans, hreqs.trans h.same.requests, hruns.trans h.same.runs,
      fun a n => (inWindows_congr hfns f a n).trans (h.same.windows a n)⟩ }

/-- The machine that has made a COPY's writes. -/
def copiedState (s : State) (f q : Nat) (d : List Byte) (env : Env) : State :=
  let u := (chargeCmd (startedState s f q d) (runningCmd s f q d) env.charge).1
  copyTo (copySource u d).2 d (copySource u d).1

theorem copied_unmoved (s : State) (f q : Nat) (d : List Byte) (env : Env) : (copiedState s f q d env).unmoved =
    (chargeCmd (startedState s f q d) (runningCmd s f q d) env.charge).1.unmoved :=
  (copyTo_unmoved _ d _).trans (copySource_stores _ d).1

theorem copied_parts_runs (s : State) (f q : Nat) (d : List Byte) (env : Env) :
    (copiedState s f q d env).parts = s.parts ∧ (copiedState s f q d env).runs = s.runs := by
  have hunmoved := copied_unmoved s f q d env
  simp only [State.unmoved, Prod.mk.injEq] at hunmoved
  obtain ⟨-, -, -, hparts, hruns, -, -⟩ := hunmoved
  rw [hparts, hruns]
  simp [startedState]

section Started
variable {s : State} {f q : Nat} {d : List Byte} {env : Env} (h : Runs 0x0040 s f q d)
include h

theorem exec_copy (env : Env) :
    exec (.copy f q env) s = .next (runCopy (startedState s f q d) (runningCmd s f q d) env) :=
  congrArg Host.Outcome.next (takeRow_of_startsNow h.toStartsNow (by simp [twoPart, h.opcode_eq]) env noEarly runCopy)

theorem exec_copy_of_status {st : Nat} (hst : copyStatus (startedState s f q d) (runningCmd s f q d) = some st) (env : Env) :
    exec (.copy f q env) s = .next (finish (startedState s f q d) (runningCmd s f q d) st) := by
  rw [exec_copy h, runCopy_of_status hst]

theorem exec_copy_of_clean (hst : copyStatus (startedState s f q d) (runningCmd s f q d) = none) (henv : CleanEnv env) :
    exec (.copy f q env) s = .next (finish (copiedState s f q d env) (chargedCmd s f q d env) stOk) := by
  rw [exec_copy h, runCopy_of_clean hst henv]
  rfl

/-- The command is under way when its bytes are written, of s with the memories written. -/
theorem underway_copied (env : Env) :
    Underway { s with host := (copiedState s f q d env).host, hbm := (copiedState s f q d env).hbm } f q d
      (copiedState s f q d env) (chargedCmd s f q d env) :=
  (h.underway.charge env.charge).moved (copied_unmoved s f q d env)

theorem copied_source_bytes (env : Env) :
    (copySource (chargeCmd (startedState s f q d) (runningCmd s f q d) env.charge).1 d).1 = (copySource s d).1 := by
  have hsame := (h.underway.charge env.charge).same
  have hparts : (chargeCmd (startedState s f q d) (runningCmd s f q d) env.charge).1.parts = s.parts := by simp [startedState]
  rw [copySource_bytes, copySource_bytes, hsame.host, partRead_congr hparts hsame.hbm]

theorem copied_host (env : Env) : (copiedState s f q d env).host =
    if cpDir d = 1 then Mem.writeN s.host (cpDst d) (copySource s d).1 else s.host := by
  rw [copiedState, copyTo_host, copied_source_bytes h, (copySource_stores _ d).2.1, (h.underway.charge env.charge).same.host]

theorem copied_hbm (env : Env) {r : Partition} (hr : Tab.find s.parts (dPart d) = some r) : (copiedState s f q d env).hbm =
    if cpDir d = 1 then s.hbm else writeExt s.hbm r.extents (cpDst d) (copySource s d).1 := by
  obtain ⟨hunmoved, -, hhbm⟩ := copySource_stores (chargeCmd (startedState s f q d) (runningCmd s f q d) env.charge).1 d
  have hparts : (copySource (chargeCmd (startedState s f q d) (runningCmd s f q d) env.charge).1 d).2.parts = s.parts := by
    rw [State.parts_of_unmoved hunmoved]
    simp [startedState]
  rw [copiedState, copyTo_hbm (r := r) (hr := by rw [hparts]; exact hr), copied_source_bytes h, hhbm,
    (h.underway.charge env.charge).same.hbm]

end Started

/-- Settles O55: a COPY that its checks end completes from where it started; one they let pass completes from where its bytes are
written, and the completion changes no memory but its entry. -/
theorem copyMovesBytes : Obligations.CopyMovesBytes := by
  intro s f q d env h
  refine ⟨fun st hst => ?refused, fun hst henv r hr => ?moved⟩
  case refused =>
    have hu := h.underway
    refine ⟨_, exec_copy_of_status h hst env, hu.completesWith h.fits (copyStatus_lt hst), ?_, fun x hx => ?_⟩
    · rw [finish_hbm, hu.same.hbm]
    · rw [hu.finish_read h.fits st hx, hu.same.host]
  case moved =>
    intro p n
    have hu := underway_copied h env
    have hfits : EntryFits { s with host := (copiedState s f q d env).host, hbm := (copiedState s f q d env).hbm } f q := h.fits
    obtain ⟨hparts, hruns⟩ := copied_parts_runs s f q d env
    have hhost := copied_host h env
    have hhbm := copied_hbm h env hr
    have hlen := copySource_length s d
    have hbytes := copySource_bytes s d
    have hread : ∀ x, NotInEntry s f q x → Mem.read (finish (copiedState s f q d env) (chargedCmd s f q d env) stOk).host x =
        Mem.read (copiedState s f q d env).host x := fun x hx => hu.finish_read hfits stOk hx
    refine ⟨_, exec_copy_of_clean h hst henv, hu.completesWith hfits (by decide), ?_, ?_, fun hdir => ?toHost, fun hdir => ?toHbm⟩
    · rw [finish_parts, hparts]
    · rw [finish_runs, hruns]
    case toHost =>
      rw [if_pos hdir] at hhost hhbm
      refine ⟨by rw [finish_hbm, hhbm], fun hapart => ?_, fun x hx hout => ?_⟩
      · have hdst := hu.finish_readN hfits stOk hapart
        rw [hdst, hhost]
        have hwritten := Mem.readN_writeN s.host (cpDst d) (copySource s d).1
        rw [hlen] at hwritten
        rw [hwritten, hbytes, if_neg (by omega)]
      · rw [hread x hx, hhost]
        exact Mem.read_writeN_outside _ _ _ _ (by rw [hlen]; exact hout)
    case toHbm =>
      rw [if_neg hdir] at hhost hhbm
      refine ⟨fun x hx => by rw [hread x hx, hhost], fun y hy => ?_, fun hback => ?_⟩
      · rw [finish_hbm, hhbm]
        exact read_writeExt_outside _ (by rw [hlen]; exact hy)
      · rw [← hbytes]
        have hwritten := partRead_of_written (t := finish (copiedState s f q d env) (chargedCmd s f q d env) stOk) (p := dPart d)
          (by rw [finish_parts, hparts]; exact hr) ((finish_hbm _ _ _).trans hhbm) (by rw [hlen]; exact hback)
        rwa [hlen] at hwritten

end Sys2Proof.Machine
end

section
/-! What is left of a partition that is wiped (14 R308, 17 R379). -/

namespace Sys2Proof.Machine

/-- What each step of a fold brings about for its element, and no step undoes, holds of every element at the end. -/
theorem foldl_establishes {σ α : Type} {f : σ → α → σ} {I : σ → Prop} {P : σ → α → Prop} (hI : ∀ s a, I s → I (f s a))
    (hstep : ∀ s a, I s → P (f s a) a) (hkeep : ∀ s a b, P s b → P (f s a) b) {l : List α} {b : α} (hb : b ∈ l) {s : σ}
    (hs : I s) : P (l.foldl f s) b := by
  induction l generalizing s with
  | nil => simp at hb
  | cons a l ih =>
    rcases List.mem_cons.mp hb with rfl | hb
    · exact List.foldlRecOn (motive := fun t => P t b) l f (hstep s b hs) fun t ht c _ => hkeep t c b ht
    · exact ih hb (hI s a hs)

/-! Wiped granules (08 R193). -/

theorem Mem.read_wipe_of_zero {m : Tab Byte} {x : Nat} (h : Mem.read m x = 0) (a n : Nat) : Mem.read (Mem.wipe m a n) x = 0 := by
  by_cases hin : a ≤ x ∧ x < a + n
  · exact Mem.read_wipe_inside m a n x hin
  · rw [Mem.read_wipe_outside m a n x (by omega), h]

/-- The bytes of an extent's granules read zero. -/
def ExtentZero (m : Tab Byte) (e : Nat × Nat) : Prop :=
  ∀ x, e.1 * Config.granuleBytes ≤ x → x < (e.1 + e.2) * Config.granuleBytes → Mem.read m x = 0

theorem extentZero_wipe (m : Tab Byte) (e : Nat × Nat) :
    ExtentZero (Mem.wipe m (e.1 * Config.granuleBytes) (e.2 * Config.granuleBytes)) e := by
  intro x hlo hhi
  rw [Nat.add_mul] at hhi
  exact Mem.read_wipe_inside _ _ _ _ ⟨hlo, hhi⟩

theorem ExtentZero.wipe {m : Tab Byte} {e : Nat × Nat} (h : ExtentZero m e) (a n : Nat) : ExtentZero (Mem.wipe m a n) e :=
  fun x hlo hhi => Mem.read_wipe_of_zero (h x hlo hhi) a n

theorem ExtentZero.wipeExtents {m : Tab Byte} {e : Nat × Nat} (h : ExtentZero m e) (ext : List (Nat × Nat)) :
    ExtentZero (wipeExtents m ext) e :=
  List.foldlRecOn (motive := fun m => ExtentZero m e) ext _ h fun _ hm _ _ => hm.wipe _ _

theorem extentZero_wipeExtents (m : Tab Byte) {ext : List (Nat × Nat)} {e : Nat × Nat} (he : e ∈ ext) :
    ExtentZero (wipeExtents m ext) e :=
  foldl_establishes (I := fun _ => True) (P := ExtentZero) (fun _ _ _ => trivial) (fun m a _ => extentZero_wipe m a)
    (fun _ _ _ hz => hz.wipe _ _) he trivial

/-! One partition. -/

theorem clearJob_partRun_ne (s : State) {p k : Nat} (h : k ≠ p) : (clearJob s p).partRun k = s.partRun k := by
  unfold clearJob
  dsimp only
  rw [State.partRun_congr (foldl_setBasin_frame _ _ _).2, State.partRun_setRun_ne _ _ h, dropResampleOps,
    State.partRun_congr (setResampling_runs _ _ _), State.partRun_setRun_ne _ _ h]
  rfl

/-- The machine whose partition p has lost its jobs and its plans. -/
def workWiped (s : State) (p : Nat) : State :=
  (planHandles (clearPreempted (clearJob s p) p) p).foldl (fun s h => dropPlan s p h) (clearPreempted (clearJob s p) p)

/-- The machine whose partition p runs nothing and holds nothing back. -/
def runWiped (s : State) (p : Nat) : State :=
  (workWiped s p).setRun p
    { (workWiped s p).partRun p with halted := false, switchAt := none, tableLoad := none, served := [] }

/-- The machine without what a wipe of a partition changes: the units that work for jobs, the stacked memory, plans, requests and
the directory of shared pages. -/
def State.sansContent (s : State) : State :=
  { s.sansWork with hbm := [], hbmStacks := [], plans := [], requests := [], nodes := [] }

theorem workWiped_sansContent (s : State) (p : Nat) : (workWiped s p).sansContent = s.sansContent := by
  have hplans : (workWiped s p).sansContent = (clearPreempted (clearJob s p) p).sansContent :=
    foldl_keeps (g := State.sansContent) (f := fun s h => dropPlan s p h) (fun _ _ => rfl) _ _
  have hjob : (clearPreempted (clearJob s p) p).sansWork = s.sansWork :=
    (clearPreempted_sansWork _ p).trans (clearJob_sansWork s p)
  rw [hplans, State.sansContent, hjob]
  rfl

theorem workWiped_runs (s : State) (p : Nat) : (workWiped s p).runs = (clearPreempted (clearJob s p) p).runs :=
  foldl_keeps (g := State.runs) (f := fun s h => dropPlan s p h) (fun _ _ => rfl) _ _

theorem workWiped_hbm (s : State) (p : Nat) : (workWiped s p).hbm = s.hbm := by
  have hplans : (workWiped s p).hbm = (clearPreempted (clearJob s p) p).hbm :=
    foldl_keeps (g := State.hbm) (f := fun s h => dropPlan s p h) (fun _ _ => rfl) _ _
  have hjob := congrArg State.hbm (clearJob_sansWork s p)
  exact hplans.trans hjob

theorem State.parts_of_sansContent {s t : State} (h : t.sansContent = s.sansContent) : t.parts = s.parts := by
  have hkept := congrArg State.parts h
  exact hkept

/-- The machine whose memory of partition p is wiped, with what the caches and the directory of shared pages held of it. -/
def memoryWiped (s : State) (p : Nat) (q : Partition) : State :=
  { wipeGranules s q.extents with
    nodes := (wipeGranules s q.extents).nodes.filter fun n => n.part != p
    basins := (maskBasins q.mask).foldl (fun t b =>
      let v := Tab.get t b {}
      Tab.put t b { v with mere := { v.mere with stream := [] },
                           sfu := { v.sfu with loadBusy := false, switchPending := false } }) (wipeGranules s q.extents).basins }

/-- A wipe of a partition is that of its runs, then that of its memory where it has any. -/
theorem wipePartition_of_some {s : State} {p : Nat} {q : Partition} (h : Tab.find (runWiped s p).parts p = some q) :
    wipePartition s p = memoryWiped (runWiped s p) p q := by
  unfold runWiped workWiped at h
  simp only [wipePartition, h]
  rfl

theorem wipePartition_of_none {s : State} {p : Nat} (h : Tab.find (runWiped s p).parts p = none) :
    wipePartition s p = runWiped s p := by
  unfold runWiped workWiped at h
  simp only [wipePartition, h]
  rfl

theorem wipeGranules_effect (s : State) (ext : List (Nat × Nat)) : (wipeGranules s ext).sansContent = s.sansContent
    ∧ (wipeGranules s ext).runs = s.runs ∧ (wipeGranules s ext).hbm = wipeExtents s.hbm ext := by
  simp only [wipeGranules, addWritten, countStacks, State.sansContent, State.sansWork, and_self]

theorem State.sansContent_nodes_basins (s : State) (ns : List Node) (bs : Tab Basin) :
    State.sansContent { s with nodes := ns, basins := bs } = s.sansContent := rfl

theorem memoryWiped_effect (s : State) (p : Nat) (q : Partition) : (memoryWiped s p q).sansContent = s.sansContent
    ∧ (memoryWiped s p q).runs = s.runs ∧ (memoryWiped s p q).hbm = wipeExtents s.hbm q.extents := by
  obtain ⟨hkept, hruns, hhbm⟩ := wipeGranules_effect s q.extents
  exact ⟨(State.sansContent_nodes_basins _ _ _).trans hkept, hruns, hhbm⟩

theorem runWiped_effect (s : State) (p : Nat) : (runWiped s p).sansContent = s.sansContent ∧ (runWiped s p).hbm = s.hbm :=
  ⟨workWiped_sansContent s p, workWiped_hbm s p⟩

theorem wipePartition_effect (s : State) (p : Nat) :
    (wipePartition s p).sansContent = s.sansContent ∧ (wipePartition s p).runs = (runWiped s p).runs := by
  obtain ⟨hkept, -⟩ := runWiped_effect s p
  cases hq : Tab.find (runWiped s p).parts p with
  | none => rw [wipePartition_of_none hq]; exact ⟨hkept, rfl⟩
  | some q =>
    obtain ⟨hmem, hruns, -⟩ := memoryWiped_effect (runWiped s p) p q
    rw [wipePartition_of_some hq]
    exact ⟨hmem.trans hkept, hruns⟩

/-- A wiped partition runs no job, and keeps none for later. -/
theorem wipePartition_partRun_self (s : State) (p : Nat) :
    ((wipePartition s p).partRun p).job = none ∧ ((wipePartition s p).partRun p).preempted = none := by
  have hrun : (wipePartition s p).partRun p = (runWiped s p).partRun p := State.partRun_congr (wipePartition_effect s p).2 p
  have hwork : (workWiped s p).partRun p = { (clearJob s p).partRun p with preempted := none } :=
    (State.partRun_congr (workWiped_runs s p) p).trans (State.partRun_setRun_self _ _ _)
  rw [hrun, runWiped, State.partRun_setRun_self, hwork]
  exact ⟨clearJob_job s p, rfl⟩

theorem wipePartition_partRun_ne (s : State) {p k : Nat} (h : k ≠ p) : (wipePartition s p).partRun k = s.partRun k := by
  rw [State.partRun_congr (wipePartition_effect s p).2, runWiped, State.partRun_setRun_ne _ _ h,
    State.partRun_congr (workWiped_runs s p), clearPreempted, State.partRun_setRun_ne _ _ h, clearJob_partRun_ne s h]

/-- Memory that reads zero still does after a wipe. -/
theorem ExtentZero.wipePartition {s : State} {e : Nat × Nat} (h : ExtentZero s.hbm e) (p : Nat) :
    ExtentZero (wipePartition s p).hbm e := by
  obtain ⟨-, hhbm⟩ := runWiped_effect s p
  cases hq : Tab.find (runWiped s p).parts p with
  | none => rw [wipePartition_of_none hq, hhbm]; exact h
  | some q =>
    obtain ⟨-, -, hmem⟩ := memoryWiped_effect (runWiped s p) p q
    rw [wipePartition_of_some hq, hmem, hhbm]
    exact h.wipeExtents _

/-- Partition p runs nothing, keeps nothing for later, and its memory reads zero. -/
structure Wiped (s : State) (p : Nat) : Prop where
  job : (s.partRun p).job = none
  preempted : (s.partRun p).preempted = none
  zero : ∀ r, Tab.find s.parts p = some r → ∀ e ∈ r.extents, ExtentZero s.hbm e

theorem wiped_wipePartition (s : State) (p : Nat) : Wiped (wipePartition s p) p where
  job := (wipePartition_partRun_self s p).1
  preempted := (wipePartition_partRun_self s p).2
  zero := by
    intro r hr e he
    obtain ⟨hkept, -⟩ := runWiped_effect s p
    have hparts := State.parts_of_sansContent ((wipePartition_effect s p).1.trans hkept.symm)
    rw [hparts] at hr
    obtain ⟨-, -, hmem⟩ := memoryWiped_effect (runWiped s p) p r
    rw [wipePartition_of_some hr, hmem]
    exact extentZero_wipeExtents _ he

theorem Wiped.wipePartition {s : State} {k : Nat} (h : Wiped s k) (p : Nat) : Wiped (wipePartition s p) k := by
  by_cases hk : k = p
  · subst hk; exact wiped_wipePartition s k
  · have hparts := State.parts_of_sansContent (wipePartition_effect s p).1
    exact
      { job := by rw [wipePartition_partRun_ne s hk]; exact h.job
        preempted := by rw [wipePartition_partRun_ne s hk]; exact h.preempted
        zero := fun r hr e he => (h.zero r (by rw [← hparts]; exact hr) e he).wipePartition p }

/-- Partitions wiped one after the other are wiped in the end. -/
theorem wiped_wipePartitions (s : State) {ps : List Nat} {p : Nat} (h : p ∈ ps) : Wiped (ps.foldl wipePartition s) p :=
  foldl_establishes (I := fun _ => True) (P := Wiped) (fun _ _ _ => trivial) (fun t k _ => wiped_wipePartition t k)
    (fun _ k _ hw => hw.wipePartition k) h trivial

theorem wipePartitions_sansContent (s : State) (ps : List Nat) : (ps.foldl wipePartition s).sansContent = s.sansContent :=
  foldl_keeps (fun t k => (wipePartition_effect t k).1) ps s

end Sys2Proof.Machine
end

section
/-! Function-level reset (14 R308, 17 R378). -/

namespace Sys2Proof.Machine

/-! Tables of which one function's entries are dropped. -/

theorem Tab.get_filter_rings {α : Type} (t : Tab α) (f g : Nat) {q : Nat} (hq : q < 64) (d : α) :
    Tab.get (t.filter fun e => e.1 / 64 != f) (ringKey g q) d = if g = f then d else Tab.get t (ringKey g q) d := by
  have hkey : ringKey g q / 64 = g := by unfold ringKey; omega
  have hfind : Tab.find (t.filter fun e => e.1 / 64 != f) (ringKey g q) =
      if (ringKey g q / 64 != f) = true then Tab.find t (ringKey g q) else none :=
    Tab.find_filter_keys t (fun k => k / 64 != f) _
  rw [Tab.get, hfind, hkey]
  by_cases hg : g = f <;> simp [hg, Tab.get]

theorem Tab.get_del {α : Type} (t : Tab α) (f g : Nat) (d : α) :
    Tab.get (Tab.del t f) g d = if g = f then d else Tab.get t g d := by
  by_cases hg : g = f
  · simp [Tab.get, hg, Tab.find_del_self]
  · simp [Tab.get, hg, Tab.find_del_ne t hg]

/-! One function. -/

/-- The machine whose function f has no commands, and rings and latches at their reset values. -/
def fnCleared (s : State) (f : Nat) : State := resetRings (abandonCmds s f) f

/-- The partitions that a function owns. -/
def ownedParts (s : State) (f : Nat) : List Nat := (List.range 10).filter fun p => bitOf (s.fn f).owned.toNat p

theorem flrOne_of_full {s : State} (h2 : s.run.stage2 = true) (h3 : s.run.stage3 = true) (f : Nat) :
    flrOne s f = (ownedParts s f).foldl wipePartition (fnCleared s f) := by
  simp only [flrOne, h2, h3, Bool.and_self, if_true]
  rfl

theorem flrOne_of_starting {s : State} (h : s.run.stage2 = false ∨ s.run.stage3 = false) (f : Nat) :
    flrOne s f = fnCleared s f := by
  have hfull : (s.run.stage2 && s.run.stage3) = false := by rcases h with h | h <;> simp [h]
  simp only [flrOne, hfull, Bool.false_eq_true, if_false]
  rfl

/-- Of what lies outside the partitions, an FLR changes what the function's commands, rings and latches hold. -/
theorem flrOne_sansContent (s : State) (f : Nat) : (flrOne s f).sansContent = (fnCleared s f).sansContent := by
  unfold flrOne
  dsimp only
  split
  · exact wipePartitions_sansContent _ _
  · rfl

section Fields
variable (s : State) (f : Nat)

theorem flrOne_cmds : (flrOne s f).cmds = s.cmds.filter fun c => c.fn != f := by
  have hkept := congrArg State.cmds (flrOne_sansContent s f)
  exact hkept
theorem flrOne_sqs : (flrOne s f).sqs = s.sqs.filter fun e => e.1 / 64 != f := by
  have hkept := congrArg State.sqs (flrOne_sansContent s f)
  exact hkept
theorem flrOne_cqs : (flrOne s f).cqs = s.cqs.filter fun e => e.1 / 64 != f := by
  have hkept := congrArg State.cqs (flrOne_sansContent s f)
  exact hkept
theorem flrOne_latches : (flrOne s f).latches = Tab.del s.latches f := by
  have hkept := congrArg State.latches (flrOne_sansContent s f)
  exact hkept
theorem flrOne_rings : (flrOne s f).evt.rings = Tab.del s.evt.rings f := by
  have hkept := congrArg (fun t => t.evt.rings) (flrOne_sansContent s f)
  exact hkept
theorem flrOne_pba : (flrOne s f).hif.pba = s.hif.pba.filter fun e => e.1 != f := by
  have hkept := congrArg (fun t => t.hif.pba) (flrOne_sansContent s f)
  exact hkept

/-- What a function-level reset spares: the functions' registers, VF Enable, the partitions, the host's memory, the fuses, machine
time, telemetry, the run state, the accounts and the generator. -/
def State.spared (s : State) : (Tab FnRegs × Bool × Tab Partition × Tab Byte × Fuses) × Mtc × Tel × RunState × Acct × Rng :=
  ((s.hif.fns, s.hif.vfEnable, s.parts, s.host, s.fuses), s.mtc, s.tel, s.run, s.acct, s.rng)

theorem flrOne_spared : (flrOne s f).spared = s.spared := by
  have hkept := congrArg State.spared (flrOne_sansContent s f)
  exact hkept

end Fields

/-- Function g is as a reset leaves it: no commands, and rings, latched reads and pending vectors at their reset values. -/
structure FnReset (s : State) (g : Nat) : Prop where
  cmds : ∀ c ∈ s.cmds, c.fn ≠ g
  rings : ∀ q < 64, s.sq g q = {} ∧ s.cq g q = {}
  events : s.evtRing g = {}
  latch : s.latch g = {}
  pba : ∀ v, (g, v) ∉ s.hif.pba

/-- Function g has the same commands, rings, latched reads and pending vectors in t as in s. -/
structure SameFn (s t : State) (g : Nat) : Prop where
  cmds : ∀ c, c.fn = g → (c ∈ t.cmds ↔ c ∈ s.cmds)
  rings : ∀ q < 64, t.sq g q = s.sq g q ∧ t.cq g q = s.cq g q
  events : t.evtRing g = s.evtRing g
  latch : t.latch g = s.latch g
  pba : ∀ v, (g, v) ∈ t.hif.pba ↔ (g, v) ∈ s.hif.pba

theorem SameFn.trans {s t u : State} {g : Nat} (h : SameFn s t g) (h' : SameFn t u g) : SameFn s u g where
  cmds c hc := (h'.cmds c hc).trans (h.cmds c hc)
  rings q hq := ⟨(h'.rings q hq).1.trans (h.rings q hq).1, (h'.rings q hq).2.trans (h.rings q hq).2⟩
  events := h'.events.trans h.events
  latch := h'.latch.trans h.latch
  pba v := (h'.pba v).trans (h.pba v)

theorem FnReset.of_same {s t : State} {g : Nat} (h : FnReset s g) (hsame : SameFn s t g) : FnReset t g where
  cmds c hc hg := h.cmds c ((hsame.cmds c hg).mp hc) hg
  rings q hq := ⟨(hsame.rings q hq).1.trans (h.rings q hq).1, (hsame.rings q hq).2.trans (h.rings q hq).2⟩
  events := hsame.events.trans h.events
  latch := hsame.latch.trans h.latch
  pba v hv := h.pba v ((hsame.pba v).mp hv)

theorem fnReset_flrOne (s : State) (f : Nat) : FnReset (flrOne s f) f where
  cmds c hc := by rw [flrOne_cmds] at hc; simpa using (List.mem_filter.mp hc).2
  rings q hq := by
    rw [State.sq, State.cq, flrOne_sqs, flrOne_cqs, Tab.get_filter_rings _ _ _ hq, Tab.get_filter_rings _ _ _ hq, if_pos rfl,
      if_pos rfl]
    exact ⟨rfl, rfl⟩
  events := by rw [State.evtRing, flrOne_rings, Tab.get_del, if_pos rfl]
  latch := by rw [State.latch, flrOne_latches, Tab.get_del, if_pos rfl]
  pba v hv := by rw [flrOne_pba] at hv; simpa using (List.mem_filter.mp hv).2

theorem sameFn_flrOne (s : State) {f g : Nat} (h : g ≠ f) : SameFn s (flrOne s f) g where
  cmds c hc := by rw [flrOne_cmds, List.mem_filter]; simp [hc, h]
  rings q hq := by
    rw [State.sq, State.cq, flrOne_sqs, flrOne_cqs, Tab.get_filter_rings _ _ _ hq, Tab.get_filter_rings _ _ _ hq, if_neg h,
      if_neg h]
    exact ⟨rfl, rfl⟩
  events := by rw [State.evtRing, flrOne_rings, Tab.get_del, if_neg h]; rfl
  latch := by rw [State.latch, flrOne_latches, Tab.get_del, if_neg h]; rfl
  pba v := by rw [flrOne_pba, List.mem_filter]; simp [h]

theorem FnReset.flrOne {s : State} {g : Nat} (h : FnReset s g) (f : Nat) : FnReset (flrOne s f) g := by
  by_cases hg : g = f
  · subst hg; exact fnReset_flrOne s g
  · exact h.of_same (sameFn_flrOne s hg)

/-! The partitions of a function. -/

theorem fnCleared_jobs (s : State) (f p : Nat) : ((fnCleared s f).partRun p).job = (s.partRun p).job
    ∧ ((fnCleared s f).partRun p).preempted = (s.partRun p).preempted := by
  unfold fnCleared resetRings abandonCmds
  simp only [State.partRun, Tab.get, Tab.find_map]
  cases Tab.find s.runs p <;> exact ⟨rfl, rfl⟩

theorem Wiped.fnCleared {s : State} {p : Nat} (h : Wiped s p) (f : Nat) : Wiped (fnCleared s f) p where
  job := (fnCleared_jobs s f p).1.trans h.job
  preempted := (fnCleared_jobs s f p).2.trans h.preempted
  zero := h.zero

theorem Wiped.flrOne {s : State} {p : Nat} (h : Wiped s p) (f : Nat) : Wiped (flrOne s f) p := by
  unfold Machine.flrOne
  dsimp only
  split
  · exact List.foldlRecOn (motive := fun t => Wiped t p) _ _ (h.fnCleared f) fun t ht k _ => ht.wipePartition k
  · exact h.fnCleared f

/-- The partitions that function g owns are wiped. -/
def OwnedWiped (s : State) (g : Nat) : Prop := ∀ p < 10, bitOf (s.fn g).owned.toNat p = true → Wiped s p

theorem flrOne_fn (s : State) (f g : Nat) : (flrOne s f).fn g = s.fn g := by
  have hfns : (flrOne s f).hif.fns = s.hif.fns := congrArg (fun u => u.1.1) (flrOne_spared s f)
  simp only [State.fn, hfns]

theorem flrOne_run (s : State) (f : Nat) : (flrOne s f).run = s.run := by
  have hrun := flrOne_spared s f
  simp only [State.spared, Prod.mk.injEq] at hrun
  obtain ⟨-, -, -, hrun, -⟩ := hrun
  exact hrun

theorem ownedWiped_flrOne {s : State} (h2 : s.run.stage2 = true) (h3 : s.run.stage3 = true) (f : Nat) :
    OwnedWiped (flrOne s f) f := by
  intro p hp hown
  rw [flrOne_fn] at hown
  rw [flrOne_of_full h2 h3]
  exact wiped_wipePartitions _ (List.mem_filter.mpr ⟨List.mem_range.mpr hp, hown⟩)

theorem OwnedWiped.flrOne {s : State} {g : Nat} (h : OwnedWiped s g) (f : Nat) : OwnedWiped (flrOne s f) g := by
  intro p hp hown
  rw [flrOne_fn] at hown
  exact (h p hp hown).flrOne f

/-! All functions that a reset reaches. -/

/-- The functions that a reset of f resets, in order: the physical function's reaches every virtual function (R308). -/
def resetFns (s : State) (f : Nat) : List Nat :=
  if f = 0 then (if s.hif.vfEnable then (List.range 63).map (· + 1) else []) ++ [0] else [f]

theorem mem_resetFns {s : State} {f g : Nat} : g ∈ resetFns s f ↔ g = f ∨ f = 0 ∧ fnEnabled s g = true := by
  unfold resetFns fnEnabled
  by_cases hf : f = 0
  · cases s.hif.vfEnable
    · simp [hf]
    · simp only [hf, if_true, List.mem_append, List.mem_map, List.mem_range, List.mem_singleton, Bool.or_eq_true, beq_iff_eq,
        Bool.and_true, decide_eq_true_eq, true_and]
      constructor
      · rintro (⟨a, ha, rfl⟩ | rfl) <;> omega
      · intro h
        by_cases hg : g = 0
        · exact .inr hg
        · exact .inl ⟨g - 1, by omega, by omega⟩
  · simp [hf]

/-- The machine that has reset them. -/
def fnsReset (s : State) (f : Nat) : State := (resetFns s f).foldl flrOne s

theorem fnsReset_spared (s : State) (f : Nat) : (fnsReset s f).spared = s.spared :=
  foldl_keeps (fun t g => flrOne_spared t g) _ s

/-- A reset resets its functions, and clears VF Enable where it is the physical function's. -/
theorem flr_eq (s : State) (f : Nat) : flr s f =
    { fnsReset s f with hif := { (fnsReset s f).hif with vfEnable := s.hif.vfEnable && decide (f ≠ 0) } } := by
  have hvf : (fnsReset s f).hif.vfEnable = s.hif.vfEnable := congrArg (fun u => u.1.2.1) (fnsReset_spared s f)
  by_cases hf : f = 0
  · subst hf
    unfold flr fnsReset resetFns
    cases s.hif.vfEnable
    · simp
    · simp [List.foldl_map]
  · have hone : fnsReset s f = flrOne s f := by simp [fnsReset, resetFns, hf]
    simp only [flr, hf, if_false, ne_eq, not_false_eq_true, decide_true, Bool.and_true, ← hvf, ← hone]

theorem fnReset_fnsReset {s : State} {f g : Nat} (h : g ∈ resetFns s f) : FnReset (fnsReset s f) g :=
  foldl_establishes (I := fun _ => True) (P := FnReset) (fun _ _ _ => trivial) (fun t k _ => fnReset_flrOne t k)
    (fun _ k _ hr => hr.flrOne k) h trivial

theorem sameFn_fnsReset {s : State} {f g : Nat} (h : g ∉ resetFns s f) : SameFn s (fnsReset s f) g :=
  List.foldlRecOn (motive := fun t => SameFn s t g) _ _ ⟨fun _ _ => .rfl, fun _ _ => ⟨rfl, rfl⟩, rfl, rfl, fun _ => .rfl⟩
    fun t ht _ hk => ht.trans (sameFn_flrOne t fun hg => h (hg ▸ hk))

theorem ownedWiped_fnsReset {s : State} {f g : Nat} (h2 : s.run.stage2 = true) (h3 : s.run.stage3 = true)
    (h : g ∈ resetFns s f) : OwnedWiped (fnsReset s f) g :=
  foldl_establishes (I := fun t => t.run = s.run) (P := OwnedWiped) (fun t k ht => (flrOne_run t k).trans ht)
    (fun _ k ht => ownedWiped_flrOne (ht ▸ h2) (ht ▸ h3) k) (fun _ k _ ho => ho.flrOne k) h rfl

/-- Memory, plans, requests, and which job runs where. -/
def State.content (s : State) : Tab Byte × Tab Plan × Tab Request × (Nat → Option Job) :=
  (s.hbm, s.plans, s.requests, fun p => (s.partRun p).job)

/-- Before full function has been reached, a reset leaves the partitions' content (17 R378). -/
theorem fnsReset_content {s : State} (h : s.run.stage2 = false ∨ s.run.stage3 = false) (f : Nat) :
    (fnsReset s f).content = s.content := by
  have hstep : ∀ t k, t.run = s.run → (flrOne t k).content = t.content := by
    intro t k ht
    rw [flrOne_of_starting (ht ▸ h)]
    have hjobs : (fun p => ((fnCleared t k).partRun p).job) = fun p => (t.partRun p).job :=
      funext fun p => (fnCleared_jobs t k p).1
    rw [State.content, State.content, hjobs]
    rfl
  exact (List.foldlRecOn (motive := fun t => t.run = s.run ∧ t.content = s.content) _ _ ⟨rfl, rfl⟩
    fun t ht k _ => ⟨(flrOne_run t k).trans ht.1, (hstep t k ht.1).trans ht.2⟩).2

theorem exec_pcieFlr_of_enabled {s : State} {f : Nat} (hstaged : staged s = true) (hup : s.run.pcieUp = true)
    (hf : fnEnabled s f = true) : exec (.pcieFlr f) s = .next (flr s f) := by
  change execPcieFlr f s = _
  simp only [execPcieFlr, hstaged, hup, hf, Bool.and_self, if_true]

/-- Settles O20: a reset is the reset of its functions one after the other, each of which clears its own function and wipes what it
owns, and no later one gives anything back. That memory, plans and jobs stay before full function while commands and rings are
cleared is the model's choice (log 195). -/
theorem functionResetWipesFunction : Obligations.FunctionResetWipesFunction := by
  intro s f hstaged hup hf reset
  have hmem : ∀ g, reset g ↔ g ∈ resetFns s f := fun g => mem_resetFns.symm
  have hspared := fnsReset_spared s f
  simp only [State.spared, Prod.mk.injEq] at hspared
  obtain ⟨⟨hfns, -, hparts, hhost, hfuses⟩, hmtc, htel, hrun, hacct, hrng⟩ := hspared
  refine ⟨_, exec_pcieFlr_of_enabled hstaged hup hf, ?_⟩
  rw [flr_eq]
  refine ⟨fun g hg => ?cleared, fun g hg => ?others, fun h2 h3 g hg p hp hown => ?wiped, fun hstart => ?starting, rfl, hfns,
    hparts, hhost, hfuses, hmtc, htel, hrun, hacct, hrng⟩
  case cleared =>
    have h := fnReset_fnsReset ((hmem g).mp hg)
    exact ⟨h.cmds, h.rings, h.events, h.latch, h.pba⟩
  case others =>
    have h := sameFn_fnsReset (fun hin => hg ((hmem g).mpr hin))
    exact ⟨h.cmds, h.rings, h.events, h.latch, h.pba⟩
  case wiped =>
    have hfn : (fnsReset s f).fn g = s.fn g := by simp only [State.fn, hfns]
    have h := ownedWiped_fnsReset h2 h3 ((hmem g).mp hg) p hp (by rw [hfn]; exact hown)
    exact ⟨h.job, h.preempted, fun r hr => h.zero r (by rw [hparts]; exact hr)⟩
  case starting =>
    have hcontent := fnsReset_content hstart f
    simp only [State.content, Prod.mk.injEq] at hcontent
    obtain ⟨hhbm, hplans, hreqs, hjobs⟩ := hcontent
    exact ⟨hhbm, hplans, hreqs, congrFun hjobs⟩

end Sys2Proof.Machine
end

section
/-! JOB_CANCEL (14 R324) where two open commands bear one number, which the invariant of Safety.lean does not rule out. -/

namespace Sys2Proof.Machine

/-- The host's memory: a JOB_CANCEL of plan 1 of partition 0 at address 0. -/
def twinHost : Tab Byte := [(0, 0x23), (12, 1)]

/-- That descriptor. -/
def twinCancel : List Byte := Mem.readN twinHost 0 128

/-- The release that waits for the end of the serving step of slot 0 (07 R170). -/
def twinRelease : Cmd := { id := 1, fn := 0, sq := 1, cq := 1, desc := [], state := .running }

/-- A command chained behind the release. -/
def twinChained : Cmd := { id := 2, fn := 0, sq := 1, cq := 1, desc := [], pred := some 1 }

/-- A waiting JOB_START of plan 1 of partition 0, under the number of the chained command. -/
def twinStart : Cmd := { id := 2, fn := 0, sq := 2, cq := 1, desc := [0x20, 0, 0, 0, 0, 0, 0, 0, 0, 0, 0, 0, 1] }

/-- The serving job of plan 1; its own command has completed. -/
def twinJob : Job :=
  { handle := 1, cmd := 3, serving := true, seed := 0, bindings := [], ranks := [], restartAllowed := false }

def twinPlan : Plan := { part := 0, handle := 1, image := [], measure := [], loadedAt := 0, held := [] }

/-- The request of slot 0, in the log of which nothing is left to do but the release. -/
def twinRequest : Request :=
  { state := .done, priority := 0, retain := false, endOnPark := false, part := 0, plan := 1, slot := 0, log := [], maxNew := 0,
    seed := 0, outAddr := 0, progressAddr := 0, admitOrder := 0, client := 0, fn := 0, cmd := none, topK := 0, temperature := 0,
    topP := 0, stop := [], releases := [1] }

/-- A device in service that runs the serving job, with the release, the command chained behind it, and the JOB_START open. -/
def twinState : State :=
  { nextId := 10, run := { phase := .stage1, stage2 := true, stage3 := true, pcieUp := true },
    hif := { fns := [(0, { FnRegs.reset 0 with owned := 1 })] }, sqs := [(0, { log2 := 4, tail := 1 })],
    cqs := [(0, { log2 := 4, base := 1 })], cmds := [twinRelease, twinChained, twinStart], host := twinHost,
    runs := [(0, { job := some twinJob })], plans := [(planKey 0 1, twinPlan)], requests := [(reqKey 0 1 0, twinRequest)],
    fuses := Fuses.shipped }

theorem twinState_inv : twinState.Inv where
  host := by decide
  hbm := by decide
  window := by decide
  log := by decide
  numbered := ⟨by decide, by simp [twinState]⟩
  slots := by decide

theorem twinState_runs : Runs 0x0023 twinState 0 0 twinCancel where
  found := by decide +kernel
  opcode_eq := by decide +kernel
  unbroken := by decide +kernel
  header := by decide +kernel
  order := by decide +kernel
  serial := by decide +kernel
  time := by decide +kernel
  fits := by unfold EntryFits; decide +kernel
  inv := twinState_inv

/-- The JOB_START is one that JOB_CANCEL is to end. -/
theorem twinStart_waits : twinStart ∈ waitingStarts twinState 0 1 := by decide +kernel

/-- The end of the job lets the release complete, the chained command loses its predecessor, and is written over both entries
of its number: the JOB_START is no longer found, and a command of its number stays open. -/
theorem twinNumber_stays {t : State} (h : exec (.jobCancel 0 0 Env.calm) twinState = .next t) : t.cmd 2 ≠ none := by
  have hopen : (match exec (.jobCancel 0 0 Env.calm) twinState with
      | .next u => (u.cmd 2).isSome
      | _ => false) = true := by decide +kernel
  rw [h] at hopen
  exact Option.isSome_iff_ne_none.mp hopen

/-- Refutes O52: `State.Inv` says that the numbers of open commands have been given out, not that they differ. Where a waiting
JOB_START shares its number with a command chained behind a release that the end of the serving job completes, JOB_CANCEL leaves a
command of that number open. The statement lacks the premise that open commands bear different numbers. -/
theorem not_preemptionAndCancellation : ¬ Obligations.PreemptionAndCancellation := by
  intro hall
  obtain ⟨-, -, hcancel⟩ := hall twinState 0 0 0 0 twinCancel Env.calm { s := twinState, p := 0, pl := twinPlan, j := twinJob }
  obtain ⟨-, hends⟩ := hcancel twinState_runs
  obtain ⟨t, hrun, -, -, -, hwaiting, -⟩ := hends (by decide +kernel)
  exact twinNumber_stays hrun (hwaiting twinStart twinStart_waits)

end Sys2Proof.Machine
end

section
/-! What requests change (07 R159 to R170, R174): pages, nodes, records and commands, and of the partitions' runs no more than the
served counts and the next admit_order. -/

namespace Sys2Proof.Machine

/-- A partition's run without what a request that queues changes. -/
def PartRun.sansQueue (r : PartRun) : PartRun := { r with served := [], admitNext := 0 }

/-- What no change of a request touches: machine time, memory, fuses, and the partitions' runs but for their queues. -/
def State.sansRequests (s : State) : Mtc × Tab Byte × Fuses × (Nat → PartRun) :=
  (s.mtc, s.hbm, s.fuses, fun p => (s.partRun p).sansQueue)

theorem State.sansRequests_congr {s t : State} (hmtc : t.mtc = s.mtc) (hhbm : t.hbm = s.hbm) (hfuses : t.fuses = s.fuses)
    (hruns : t.runs = s.runs) : t.sansRequests = s.sansRequests := by
  simp only [State.sansRequests, State.partRun, hmtc, hhbm, hfuses, hruns]

section Kept
variable {s t : State} (h : t.sansRequests = s.sansRequests)
include h

theorem State.mtc_of_sansRequests : t.mtc = s.mtc := congrArg Prod.fst h

theorem State.hbm_of_sansRequests : t.hbm = s.hbm := congrArg (fun v => v.2.1) h

theorem State.fuses_of_sansRequests : t.fuses = s.fuses := congrArg (fun v => v.2.2.1) h

theorem State.partRun_of_sansRequests (p : Nat) : (t.partRun p).sansQueue = (s.partRun p).sansQueue :=
  congrFun (congrArg (fun v => v.2.2.2) h) p

end Kept

/-! Completions and the end of requests. -/

theorem finish_sansRequests (s : State) (c : Cmd) (status : Nat) : (finish s c status).sansRequests = s.sansRequests :=
  State.sansRequests_congr (finish_mtc _ _ _) (finish_hbm _ _ _) (finish_fuses _ _ _) (finish_runs _ _ _)

theorem finishId_sansRequests (s : State) (i status : Nat) : (finishId s i status).sansRequests = s.sansRequests :=
  State.sansRequests_congr (finishId_mtc _ _ _) (finishId_hbm _ _ _) (finishId_fuses _ _ _) (finishId_runs _ _ _)

theorem finishIds_sansRequests (s : State) (ids : List Nat) (status : Nat) :
    (finishIds s ids status).sansRequests = s.sansRequests :=
  foldl_keeps (fun s i => finishId_sansRequests s i status) ids s

theorem releasePages_sansRequests (s : State) (r : Request) : (releasePages s r).sansRequests = s.sansRequests := by
  rw [releasePages_frame]
  rfl

theorem writeProgress_sansRequests (s : State) (r : Request) (state reason : Nat) :
    (writeProgress s r state reason).sansRequests = s.sansRequests := by
  rw [writeProgress_frame]
  rfl

theorem closeRequest_sansRequests (s : State) (r : Request) (status : Nat) :
    (closeRequest s r status).sansRequests = s.sansRequests := by
  unfold closeRequest
  rw [finishIds_sansRequests, finishIds_sansRequests, ← releasePages_sansRequests s r]
  split
  · exact finishId_sansRequests _ _ _
  · rfl

theorem endRequest_sansRequests (s : State) (r : Request) (status reason : Nat) :
    (endRequest s r status reason).sansRequests = s.sansRequests :=
  (closeRequest_sansRequests _ r status).trans (writeProgress_sansRequests s r 0 reason)

theorem settleReleases_sansRequests (s : State) (p h : Nat) : (settleReleases s p h).sansRequests = s.sansRequests :=
  foldl_keeps (fun s r => endRequest_sansRequests s r stCancelled 6) _ s

/-! The pool and the directory (07 R158 to R161). -/

theorem dropPage_sansRequests (s : State) (p h k : Nat) : (dropPage s p h k).sansRequests = s.sansRequests := by
  unfold dropPage
  split
  · rfl
  · split <;> rfl

theorem evict_sansRequests (s : State) (n : Node) : (evict s n).sansRequests = s.sansRequests := dropPage_sansRequests _ _ _ _

theorem claimPage_sansRequests {s t : State} {p h k : Nat} (hc : claimPage s p h = some (k, t)) :
    t.sansRequests = s.sansRequests := by
  unfold claimPage at hc
  split at hc
  case h_1 =>
    obtain ⟨x, -, heq⟩ := Option.map_eq_some_iff.mp hc
    obtain ⟨-, rfl⟩ := Prod.mk.inj heq
    rfl
  case h_2 => simp at hc

theorem takeFrom_sansRequests {p h k : Nat} (n : Nat) {s t : State} (ht : takeFrom p h n s = some (k, t)) :
    t.sansRequests = s.sansRequests := by
  induction n generalizing s with
  | zero => exact claimPage_sansRequests ht
  | succ n ih =>
    rw [takeFrom] at ht
    split at ht
    case h_1 r hr =>
      obtain rfl := Option.some.inj ht
      exact claimPage_sansRequests hr
    case h_2 =>
      split at ht
      · exact (ih ht).trans (evict_sansRequests _ _)
      · simp at ht

theorem growPages_sansRequests (s : State) (r : Request) (n : Nat) : (growPages s r n).sansRequests = s.sansRequests := by
  unfold growPages
  dsimp only
  refine foldl_keeps (g := fun t : State × Request => t.1.sansRequests) (fun t _ => ?_) _ (s, r)
  split
  case h_1 k s' htake => exact takeFrom_sansRequests _ htake
  case h_2 => rfl

theorem cachePage_sansRequests (s : State) (p h k : Nat) : (cachePage s p h k).sansRequests = s.sansRequests := by
  unfold cachePage
  split
  · split <;> rfl
  · rfl

theorem hitNode_sansRequests (s : State) (n : Node) : (hitNode s n).sansRequests = s.sansRequests := by
  unfold hitNode refNode
  dsimp only
  split
  · exact cachePage_sansRequests _ _ _ _
  · rfl

theorem collide_sansRequests (s : State) (p : Nat) (key : List Byte) : (collide s p key).sansRequests = s.sansRequests := by
  unfold collide
  rw [raiseEvent_frame]
  rfl

theorem lookupFrom_sansRequests (pl : Plan) (n k : Nat) (parent : List Byte) (s : State) (r : Request) :
    (lookupFrom pl n k parent s r).1.sansRequests = s.sansRequests := by
  induction n generalizing k parent s r with
  | zero => rfl
  | succ n ih =>
    rw [lookupFrom]
    split
    · rfl
    · split
      · exact (ih _ _ _ _).trans (hitNode_sansRequests _ _)
      · exact collide_sansRequests _ _ _

theorem admitRequest_sansRequests (s : State) (pl : Plan) (r : Request) :
    (admitRequest s pl r).1.sansRequests = s.sansRequests := by
  unfold admitRequest
  dsimp only
  split
  · exact lookupFrom_sansRequests _ _ _ _ _ _
  · rfl

theorem onPage_sansRequests (s : State) (p h k : Nat) (f : Page → Page) : (onPage s p h k f).sansRequests = s.sansRequests := by
  unfold onPage
  split
  · split <;> rfl
  · rfl

theorem writeHeaders_sansRequests (s : State) (r : Request) (lo hi : Nat) :
    (writeHeaders s r lo hi).sansRequests = s.sansRequests := by
  unfold writeHeaders
  refine foldl_keeps (fun s k => ?_) _ s
  split
  · exact onPage_sansRequests _ _ _ _ _
  · rfl

theorem makeRoom_sansRequests {s t : State} {b : Nat} (h : makeRoom s b = some t) : t.sansRequests = s.sansRequests := by
  unfold makeRoom at h
  dsimp only at h
  split at h
  case isTrue =>
    obtain ⟨n, -, rfl⟩ := Option.map_eq_some_iff.mp h
    exact evict_sansRequests _ _
  case isFalse =>
    split at h
    case isTrue =>
      obtain ⟨n, -, rfl⟩ := Option.map_eq_some_iff.mp h
      exact evict_sansRequests _ _
    case isFalse =>
      obtain rfl := Option.some.inj h
      rfl

theorem insertNode_sansRequests (s : State) (r : Request) (key parent : List Byte) (k : Nat) :
    (insertNode s r key parent k).sansRequests = s.sansRequests := onPage_sansRequests _ _ _ _ _

theorem swapPage_sansRequests (s : State) (r : Request) (k page : Nat) :
    (swapPage s r k page).1.sansRequests = s.sansRequests := dropPage_sansRequests _ _ _ _

theorem completePages_sansRequests (pl : Plan) (n : Nat) (parent : List Byte) (s : State) (r : Request) :
    (completePages pl n parent s r).1.sansRequests = s.sansRequests := by
  induction n generalizing parent s r with
  | zero => rfl
  | succ n ih =>
    rw [completePages]
    dsimp only
    split
    case h_1 =>
      split
      · exact (ih _ _ _).trans ((swapPage_sansRequests _ _ _ _).trans (hitNode_sansRequests _ _))
      · exact collide_sansRequests _ _ _
    case h_2 =>
      split
      case h_1 => rfl
      case h_2 hroom =>
        have hmade := makeRoom_sansRequests hroom
        exact (ih _ _ _).trans ((insertNode_sansRequests _ _ _ _ _).trans hmade)

theorem advancePages_sansRequests (s : State) (pl : Plan) (r : Request) (hi : Nat) :
    (advancePages s pl r hi).1.sansRequests = s.sansRequests := by
  unfold advancePages
  dsimp only
  split
  · exact (completePages_sansRequests _ _ _ _ _).trans (writeHeaders_sansRequests s r _ _)
  · exact writeHeaders_sansRequests s r _ _

/-! Requests that are parked (07 R174) or queued (07 R163, 15 R336). -/

theorem parkRequest_sansRequests (s : State) (r : Request) : (parkRequest s r).sansRequests = s.sansRequests := by
  have hcount : ∀ t : State, t.sansRequests = s.sansRequests →
      State.sansRequests (if r.endOnPark then endRequest t r stParked 0
        else (releasePages t r).setRequest { r.bare with state := .parked, parkCount := (r.parkCount + 1) % 2 ^ 32 })
        = s.sansRequests := by
    intro t ht
    split
    · exact (endRequest_sansRequests _ _ _ _).trans ht
    · exact (releasePages_sansRequests t r).trans ht
  refine hcount _ ?_
  split <;> rfl

theorem State.sansRequests_setRun {s : State} {p : Nat} {v : PartRun} (h : v.sansQueue = (s.partRun p).sansQueue) :
    (s.setRun p v).sansRequests = s.sansRequests := by
  have hruns : (fun k => ((s.setRun p v).partRun k).sansQueue) = fun k => (s.partRun k).sansQueue := by
    funext k
    by_cases hk : k = p
    · rw [hk, State.partRun_setRun_self, h]
    · rw [State.partRun_setRun_ne _ _ hk]
  simp only [State.sansRequests, hruns, State.setRun_mtc, State.setRun_hbm, State.setRun_fuses]

theorem joinIdle_sansRequests (s : State) (p c : Nat) : (joinIdle s p c).sansRequests = s.sansRequests := by
  unfold joinIdle
  dsimp only
  split
  · rfl
  · split
    · exact State.sansRequests_setRun rfl
    · rfl

theorem enqueue_sansRequests (s : State) (r : Request) : (enqueue s r).sansRequests = s.sansRequests := by
  have hset : ∀ (t : State) (n : Nat), (t.setRun r.part { t.partRun r.part with admitNext := n }).sansRequests = t.sansRequests :=
    fun t _ => State.sansRequests_setRun rfl
  exact (hset _ _).trans (joinIdle_sansRequests s r.part r.client)

theorem applyHeld_sansRequests (held : List (Nat × List Nat)) (s : State) (r : Request) :
    (applyHeld held s r).sansRequests = s.sansRequests := by
  induction held generalizing s with
  | nil => rfl
  | cons e held ih =>
    rw [applyHeld]
    split
    · exact ih s
    · split
      · exact (ih _).trans (finish_sansRequests _ _ _)
      · exact (enqueue_sansRequests _ _).trans (releasePages_sansRequests _ _)

end Sys2Proof.Machine
end

section
/-! SERVING_STEP_FORM (15 R334, R335): what is formed never exceeds the budget, whichever requests are considered. -/

namespace Sys2Proof.Machine

/-- The tokens of some parts. -/
def partTokens (ps : List StepPart) : Nat := (ps.map StepPart.count).sum

theorem partTokens_append_single (ps : List StepPart) (q : StepPart) : partTokens (ps ++ [q]) = partTokens ps + q.count := by
  simp [partTokens]

theorem partTokens_filter_le (f : StepPart → Bool) (ps : List StepPart) : partTokens (ps.filter f) ≤ partTokens ps := by
  induction ps with
  | nil => exact Nat.le_refl _
  | cons q ps ih =>
    rw [List.filter_cons]
    split <;> simp only [partTokens, List.map_cons, List.sum_cons] at ih ⊢ <;> omega

/-- A step being formed for partition p of machine s within a budget: its parts and the room left stay within the budget, no part is
longer than 256, and of the machine only what requests change has changed. -/
structure Forming.Fits (s : State) (p budget : Nat) (f : Forming) : Prop where
  kept : f.s.sansRequests = s.sansRequests
  part : f.p = p
  room : f.room + partTokens f.parts ≤ budget
  short : ∀ q ∈ f.parts, q.count ≤ 256

namespace Forming.Fits
variable {s : State} {p budget : Nat} {f : Forming} (h : f.Fits s p budget)
include h

/-- The machine goes on as requests change it. -/
theorem machine {t : State} (ht : t.sansRequests = f.s.sansRequests) : Fits s p budget { f with s := t } :=
  { h with kept := ht.trans h.kept }

/-- A part that the room holds is taken. -/
theorem take {q : StepPart} (hq : q.count ≤ 256) (hroom : q.count ≤ f.room) :
    Fits s p budget { f with room := f.room - q.count, parts := f.parts ++ [q] } where
  kept := h.kept
  part := h.part
  room := by
    have hfits := h.room
    rw [partTokens_append_single]
    dsimp only
    omega
  short x hx := by
    rcases List.mem_append.mp hx with hx | hx
    · exact h.short x hx
    · rwa [List.mem_singleton.mp hx]

/-- Parts are left out. -/
theorem filter (which : StepPart → Bool) : Fits s p budget { f with parts := f.parts.filter which } where
  kept := h.kept
  part := h.part
  room := Nat.le_trans (Nat.add_le_add_left (partTokens_filter_le which f.parts) _) h.room
  short q hq := h.short q (List.mem_filter.mp hq).1

end Forming.Fits

section Steps
variable {s : State} {p budget : Nat}

theorem takeDecode_fits (pr n : Nat) {f : Forming} (h : f.Fits s p budget) : (takeDecode pr n f).Fits s p budget := by
  induction n generalizing f with
  | zero => exact h
  | succ n ih =>
    rw [takeDecode]
    dsimp only
    split
    case h_1 room c hroom _ =>
      split
      case h_1 r _ =>
        have htaken := h.take (q := { slot := r.slot, client := c, first := r.computed, count := 1, decode := true })
          (by omega : 1 ≤ 256) (by omega : 1 ≤ f.room)
        rw [hroom] at htaken
        exact ih htaken
      case h_2 => exact h
    case h_2 => exact h

theorem parkForRows_fits (n : Nat) {f : Forming} (h : f.Fits s p budget) : (parkForRows n f).Fits s p budget := by
  induction n generalizing f with
  | zero => exact h
  | succ n ih =>
    rw [parkForRows]
    split
    · exact h
    · split
      case h_1 r _ =>
        have hparked := (h.machine (parkRequest_sansRequests f.s r)).filter fun q => q.slot != r.slot
        exact ih { hparked with }
      case h_2 => exact h

theorem grow_fits {f : Forming} (h : f.Fits s p budget) : f.grow.Fits s p budget := by
  refine h.machine (foldl_keeps (fun t r => ?_) _ _)
  split
  · exact growPages_sansRequests _ _ _
  · rfl

/-- No chunk is longer than 256 tokens. -/
theorem Forming.chunk_le (f : Forming) (r : Request) : (f.chunk r).2 ≤ 256 := Nat.min_le_left _ _

theorem addChunk_fits {f : Forming} (h : f.Fits s p budget) (r : Request) (tight : Bool) :
    (f.addChunk r tight).Fits s p budget := by
  unfold Forming.addChunk
  dsimp only
  split
  · exact h
  case isFalse hroom =>
    split
    · exact { h with }
    · have htaken := (h.machine (growPages_sansRequests f.s r (pagesFor ((f.chunk r).1 + (f.chunk r).2)))).take
        (q := { slot := r.slot, client := r.client, first := (f.chunk r).1, count := (f.chunk r).2, decode := false })
        (f.chunk_le r) (Nat.le_of_not_lt hroom)
      exact { htaken with }

theorem consider_fits {f : Forming} (h : f.Fits s p budget) (pl : Plan) (r : Request) (tight : Bool) :
    (f.consider pl r tight).Fits s p budget := by
  have hseen : ({ f with seen := r.slot :: f.seen } : Forming).Fits s p budget := { h with }
  unfold Forming.consider
  dsimp only
  split
  · exact hseen
  · split
    · exact { hseen with }
    · split
      · exact addChunk_fits hseen _ _
      · exact addChunk_fits (hseen.machine (admitRequest_sansRequests _ _ _)) _ _

theorem considerAll_fits (pl : Plan) (tight : Bool) (pr n : Nat) {f : Forming} (h : f.Fits s p budget) :
    (considerAll pl tight pr n f).Fits s p budget := by
  induction n generalizing f with
  | zero => exact h
  | succ n ih =>
    rw [considerAll]
    split
    · split
      · exact ih (consider_fits h _ _ _)
      · exact h
    · exact h

theorem chunkRounds_fits (pl : Plan) (tight : Bool) (n : Nat) {f : Forming} (h : f.Fits s p budget) :
    (chunkRounds pl tight n f).Fits s p budget := by
  induction n generalizing f with
  | zero => exact h
  | succ n ih =>
    have hround : (priorities.foldl (fun f pr => considerAll pl tight pr f.requests.length f)
        { f with seen := [], took := false }).Fits s p budget :=
      List.foldlRecOn (motive := Forming.Fits s p budget) _ _ { h with } fun f hf pr _ => considerAll_fits pl tight pr _ hf
    rw [chunkRounds]
    split
    · exact hround
    · exact ih hround

theorem formOnce_fits (pl : Plan) (hd : Nat) {t : State} (ht : t.sansRequests = s.sansRequests) :
    (formOnce t p hd pl budget).Fits s p budget := by
  have hempty : ({ s := t, p := p, h := hd, room := budget } : Forming).Fits s p budget :=
    ⟨ht, rfl, Nat.le_refl _, by simp⟩
  have hrows : (priorities.foldl (fun f pr => takeDecode pr f.requests.length f)
      ({ s := t, p := p, h := hd, room := budget } : Forming)).Fits s p budget :=
    List.foldlRecOn (motive := Forming.Fits s p budget) _ _ hempty fun f hf pr _ => takeDecode_fits pr _ hf
  unfold formOnce
  dsimp only
  split
  · exact grow_fits (parkForRows_fits _ hrows)
  · exact chunkRounds_fits _ _ _ (grow_fits (parkForRows_fits _ hrows))

/-- A formed step fits the budget, however often the forming began anew. -/
theorem formStep_fits (pl : Plan) (hd n : Nat) {t : State} (ht : t.sansRequests = s.sansRequests) :
    (formStep p hd pl budget n t).Fits s p budget := by
  induction n generalizing t with
  | zero => exact formOnce_fits pl hd ht
  | succ n ih =>
    have honce := formOnce_fits (p := p) (budget := budget) pl hd ht
    rw [formStep]
    split
    · split
      · exact ih ((parkRequest_sansRequests _ _).trans honce.kept)
      · exact honce
    · exact honce

end Steps

/-! The formed step runs. -/

theorem exec_servingStepForm_of_work {s : State} {p : Nat} {w : Work} (hworks : works s = true) (hw : workOf s p = some w)
    (hserving : w.j.serving = true) (hstep : (s.partRun p).step = none) (hswitch : switchWaits s p = false)
    (hhalt : (s.partRun p).halt = .none) (hhalted : (s.partRun p).halted = false) (hwhole : w.pl.damaged = false) :
    exec (.servingStepForm p) s = .next (
      beginStep (formStep p w.j.handle w.pl (tokenBudget s p) (planRequests s p w.j.handle).length s)) := by
  change execServingStepForm p s = _
  simp [execServingStepForm, hw, hworks, hserving, hstep, hswitch, hhalt, hhalted, hwhole]

/-- The run of the partition where a formed step begins. -/
def Forming.begun (f : Forming) : PartRun :=
  { f.s.partRun f.p with
    job := (f.s.partRun f.p).job.map Job.stepAfresh, step := some { parts := f.parts, startedAt := f.s.now } }

theorem beginStep_of_parts {f : Forming} (h : f.parts ≠ []) : beginStep f = f.s.setRun f.p f.begun := by
  have hparts : f.parts.isEmpty = false := by simpa using h
  simp only [beginStep, hparts, Bool.false_eq_true, if_false]
  rfl

/-- A job whose operations are all to run again has none open and none done. -/
theorem stepAfresh_of_map {o : Option Job} {j : Job} (h : o.map Job.stepAfresh = some j) : j.execs = [] ∧ j.done = [] := by
  obtain ⟨x, -, rfl⟩ := Option.map_eq_some_iff.mp h
  exact ⟨rfl, rfl⟩

theorem beginStep_begins {s : State} {p budget : Nat} {f : Forming} (h : f.Fits s p budget) (hparts : f.parts ≠ []) :
    ∃ st, ((beginStep f).partRun p).step = some st ∧ st.parts = f.parts ∧ st.startedAt = s.now ∧ st.faults = 0 ∧ st.ended = []
      ∧ (∀ j, ((beginStep f).partRun p).job = some j → j.execs = [] ∧ j.done = [])
      ∧ (beginStep f).mtc = s.mtc ∧ (beginStep f).hbm = s.hbm := by
  have hmtc := State.mtc_of_sansRequests h.kept
  have hrun : (beginStep f).partRun p = f.begun := by
    rw [beginStep_of_parts hparts, ← h.part, State.partRun_setRun_self]
  rw [hrun]
  refine ⟨_, rfl, rfl, ?_, rfl, rfl, fun j hj => stepAfresh_of_map hj, ?_, ?_⟩
  · simp only [State.now, hmtc]
  · rw [beginStep_of_parts hparts, State.setRun_mtc, hmtc]
  · rw [beginStep_of_parts hparts, State.setRun_hbm, State.hbm_of_sansRequests h.kept]

end Sys2Proof.Machine
end

section
/-! SERVING_STEP_END (07 R166 to R168, 15 R335, R336, R342, R344): charges and requests change nothing of the partition's counters,
which count the step once. -/

namespace Sys2Proof.Machine

/-! Charges (R342). -/

theorem chargeClient_sansRequests (s : State) (k : Nat) (ch : Charge) : (chargeClient s k ch).sansRequests = s.sansRequests := rfl

theorem chargeCmd_sansRequests (s : State) (c : Cmd) (ch : Charge) : (chargeCmd s c ch).1.sansRequests = s.sansRequests := rfl

theorem chargeSlot_sansRequests (st : ServeStep) (p h : Nat) (s : State) (slot : Nat) (ch : Charge) :
    (chargeSlot st p h s slot ch).sansRequests = s.sansRequests := by
  unfold chargeSlot
  dsimp only
  split
  · exact chargeCmd_sansRequests _ _ _
  · split
    · exact chargeClient_sansRequests _ _ _
    · rfl

theorem chargeStep_sansRequests (st : ServeStep) (p h : Nat) (ch : Charge) (s : State) :
    (chargeStep st p h ch s).sansRequests = s.sansRequests :=
  (chargeSlot_sansRequests _ _ _ _ _ _).trans (foldl_keeps (fun t (e : Nat × Charge) => chargeSlot_sansRequests st p h t e.1 e.2) _ s)

/-! The requests of a completed step (07 R166 to R168). -/

theorem completeRequest_sansRequests (s : State) (r : Request) (reason : Nat) :
    (completeRequest s r reason).sansRequests = s.sansRequests := by
  have hrecord := writeProgress_sansRequests s r 5 reason
  unfold completeRequest
  dsimp only
  split
  · exact endRequest_sansRequests _ _ _ _
  · split
    · refine (applyHeld_sansRequests _ _ _).trans ?_
      split
      · exact (finishId_sansRequests _ _ _).trans hrecord
      · exact hrecord
    · exact (closeRequest_sansRequests _ _ _).trans hrecord

theorem reportToken_sansRequests (s : State) (r : Request) (tok context : Nat) :
    (reportToken s r tok context).sansRequests = s.sansRequests := by
  unfold reportToken
  dsimp only
  split
  · exact endRequest_sansRequests _ _ _ _
  · have htoken : (if r.cmd.isSome then hostWrite s (r.outAddr + 4 * (r.generated - 1)) (toLe 4 tok) else s).sansRequests
        = s.sansRequests := by
      split <;> rfl
    generalize (if r.cmd.isSome then hostWrite s (r.outAddr + 4 * (r.generated - 1)) (toLe 4 tok) else s) = t at htoken ⊢
    split
    · exact (completeRequest_sansRequests _ _ _).trans htoken
    · split
      · exact (endRequest_sansRequests _ _ _ _).trans htoken
      · exact (writeProgress_sansRequests _ r 3 0).trans htoken

theorem produce_sansRequests (s : State) (pl : Plan) (b : Nat) (z : List Word32) (r : Request) :
    (produce s pl b z r).sansRequests = s.sansRequests := by
  unfold produce
  dsimp only
  split
  · exact completeRequest_sansRequests _ _ _
  · split
    · exact reportToken_sansRequests _ _ _ _
    · refine (endRequest_sansRequests _ _ _ _).trans ?_
      rw [raiseEvent_frame]
      rfl

theorem endSlot_sansRequests (w : Work) (st : ServeStep) (s : State) (slot : Nat) :
    (endSlot w st s slot).sansRequests = s.sansRequests := by
  unfold endSlot
  split
  · rfl
  · split
    · rfl
    · dsimp only
      split
      · exact releasePages_sansRequests _ _
      · split
        · exact (produce_sansRequests _ _ _ _ _).trans (advancePages_sansRequests _ _ _ _)
        · exact advancePages_sansRequests _ _ _ _

/-! The end of the step. -/

/-- The machine with the charges and the requests of a completed step settled, its counters not yet. -/
def slotsEnded (w : Work) (st : ServeStep) (ch : Charge) : State :=
  st.slots.foldl (endSlot w st) (chargeStep st w.p w.j.handle ch w.s)

theorem slotsEnded_sansRequests (w : Work) (st : ServeStep) (ch : Charge) :
    (slotsEnded w st ch).sansRequests = w.s.sansRequests :=
  (foldl_keeps (endSlot_sansRequests w st) _ _).trans (chargeStep_sansRequests _ _ _ _ _)

/-- The releases that waited change nothing of what the step's counters hold. -/
theorem endStep_sansRequests (w : Work) (st : ServeStep) (ch : Charge) : (endStep w st ch).sansRequests =
    ((slotsEnded w st ch).setRun w.p (((slotsEnded w st ch).partRun w.p).stepped st (slotsEnded w st ch).now)).sansRequests :=
  settleReleases_sansRequests _ _ _

/-- The counters of a partition that rise with a step. -/
structure PartRun.CountsStep (r r' : PartRun) (st : ServeStep) : Prop where
  ended : r'.step = none
  steps : r'.steps = satAdd r.steps 1
  decode : r'.decodeTokens = satAdd r.decodeTokens (st.parts.filter StepPart.decode).length
  prefill : r'.prefillTokens = satAdd r.prefillTokens (partTokens st.parts - (st.parts.filter StepPart.decode).length)
  afresh : ∀ j, r'.job = some j → j.execs = [] ∧ j.done = []

theorem PartRun.stepped_counts (r : PartRun) (st : ServeStep) (now : Nat) : r.CountsStep (r.stepped st now) st :=
  ⟨rfl, rfl, rfl, rfl, fun _ hj => stepAfresh_of_map hj⟩

/-- Which clients are served when is no part of the count. -/
theorem PartRun.countsStep_sansQueue {r r' : PartRun} {st : ServeStep} :
    r.sansQueue.CountsStep r'.sansQueue st ↔ r.CountsStep r' st :=
  ⟨fun ⟨hstep, hsteps, hdecode, hprefill, hjob⟩ => ⟨hstep, hsteps, hdecode, hprefill, hjob⟩,
    fun ⟨hstep, hsteps, hdecode, hprefill, hjob⟩ => ⟨hstep, hsteps, hdecode, hprefill, hjob⟩⟩

theorem endStep_counts (w : Work) (st : ServeStep) (ch : Charge) :
    (w.s.partRun w.p).CountsStep ((endStep w st ch).partRun w.p) st := by
  have hbefore := State.partRun_of_sansRequests (slotsEnded_sansRequests w st ch) w.p
  have hafter := State.partRun_of_sansRequests (endStep_sansRequests w st ch) w.p
  rw [State.partRun_setRun_self] at hafter
  rw [← PartRun.countsStep_sansQueue, ← hbefore, hafter, PartRun.countsStep_sansQueue]
  exact PartRun.stepped_counts _ st _

theorem endStep_stores (w : Work) (st : ServeStep) (ch : Charge) :
    (endStep w st ch).hbm = w.s.hbm ∧ (endStep w st ch).fuses = w.s.fuses := by
  have hafter := endStep_sansRequests w st ch
  have hbefore := slotsEnded_sansRequests w st ch
  have hhbm := State.hbm_of_sansRequests hbefore
  have hfuses := State.fuses_of_sansRequests hbefore
  exact ⟨(State.hbm_of_sansRequests hafter).trans hhbm, (State.fuses_of_sansRequests hafter).trans hfuses⟩

theorem workOf_places {s : State} {p : Nat} {w : Work} (h : workOf s p = some w) : w.s = s ∧ w.p = p := by
  obtain ⟨hj, hpl⟩ := job_of_workOf h
  have hw := (workOf_of_job hj hpl).symm.trans h
  rw [← Option.some.inj hw]
  exact ⟨rfl, rfl⟩

/-- A step of which every operation has run once ends, where the outside lets it. -/
theorem exec_servingStepEnd_of_work {s : State} {p : Nat} {w : Work} {env : Env} {st : ServeStep} (hworks : works s = true)
    (hw : workOf s p = some w) (hserving : w.j.serving = true) (hstep : (s.partRun p).step = some st)
    (hhalt : (s.partRun p).halt.isRestart = false) (hexecs : w.j.execs = []) (hall : allRun w.pl.image w.j = true)
    (henv : CleanEnv env) : exec (.servingStepEnd p env) s = .next (endStep w st env.charge) := by
  have hself : { w with s := s } = w := by rw [← (workOf_places hw).1]
  change execServingStepEnd p env s = _
  simp [execServingStepEnd, tierStatus, hw, hstep, hworks, hserving, hhalt, hexecs, hall, henv.fault, henv.tier, hself]

/-- Settles O48: every step of the forming keeps the parts within the room they leave, and of the machine changes only what requests
change; the end of a step counts it in a run that charges and requests left as it was. -/
theorem servingStepsFormAndEnd : Obligations.ServingStepsFormAndEnd := by
  intro s p w env hworks hw hserving
  refine ⟨?form, ?finish⟩
  case form =>
    intro f hstep hswitch hhalt hhalted hwhole hparts
    have hfits : f.Fits s p (tokenBudget s p) := formStep_fits w.pl w.j.handle _ rfl
    obtain ⟨st, hst, hsame, hstart, hfaults, hended, hjob, hmtc, hhbm⟩ := beginStep_begins hfits hparts
    refine ⟨_, st, exec_servingStepForm_of_work hworks hw hserving hstep hswitch hhalt hhalted hwhole, hst, hsame, hstart, hfaults,
      hended, ?_, ?_, hjob, hmtc, hhbm⟩
    · rw [hsame]
      exact Nat.le_trans (Nat.le_add_left _ _) hfits.room
    · rw [hsame]
      exact hfits.short
  case finish =>
    intro st hstep hhalt hexecs hall henv rows
    obtain ⟨hs, hp⟩ := workOf_places hw
    have hcounts := endStep_counts w st env.charge
    have hstores := endStep_stores w st env.charge
    rw [hs, hp] at hcounts
    rw [hs] at hstores
    exact ⟨_, exec_servingStepEnd_of_work hworks hw hserving hstep hhalt hexecs hall henv, hcounts.ended, hcounts.steps,
      hcounts.decode, hcounts.prefill, hcounts.afresh, hstores⟩

end Sys2Proof.Machine
end

section
/-! BIST_RUN (19 R407, R408): units of which no result is told pass (log 187), and only what tests work on changes. -/

namespace Sys2Proof.Machine

/-- A descriptor is taken only once stage 1 is complete (17 R373, R375). -/
theorem stage1_of_found {s : State} {f q : Nat} {d : List Byte} (h : lookAt s f q = .found d) : s.run.phase = .stage1 := by
  have htakes : takesDescriptors s = true := by
    cases hno : takesDescriptors s with
    | true => rfl
    | false =>
      have hready : ringReady s f q = false := by simp only [ringReady, hno, Bool.false_and]
      simp only [lookAt, hready, Bool.false_and, Bool.not_false, if_true] at h
      cases h
  simp only [takesDescriptors, fullFunction, Bool.and_eq_true, Bool.or_eq_true, beq_iff_eq] at htakes
  obtain ⟨⟨hfull | hfailed, -⟩, -⟩ := htakes
  · obtain ⟨⟨⟨hphase, -⟩, -⟩, -⟩ := hfull
    exact hphase
  · exact hfailed.2

/-- What a fold of writes lists under one of its numbers, where each number has one entry. -/
theorem Tab.find_foldl_put {α : Type} (g : Nat → α) {l : List Nat} {k : Nat} (h : k ∈ l) (t : Tab α) :
    Tab.find (l.foldl (fun t u => Tab.put t u (g u)) t) k = some (g k) := by
  have hkeep : ∀ (t : Tab α) (a b : Nat), Tab.find t b = some (g b) → Tab.find (Tab.put t a (g a)) b = some (g b) := by
    intro t a b hb
    by_cases hab : b = a
    · rw [hab, Tab.find_put_self]
    · rw [Tab.find_put_ne t _ hab, hb]
  exact foldl_establishes (I := fun _ => True) (P := fun t k => Tab.find t k = some (g k)) (fun _ _ _ => trivial)
    (fun t a _ => Tab.find_put_self t a _) hkeep h trivial

/-! What tests work on. -/

/-- The machine without what tests work on: cores, traffic generators, the stacked memory, and the free values drawn. -/
def State.sansTests (s : State) : State := { s with free := 0, cores := [], tgs := [], hbmStacks := [], hbm := [] }

theorem State.setStack_sansTests (s : State) (k : Nat) (v : Stack) : (s.setStack k v).sansTests = s.sansTests := rfl

theorem State.setTg_sansTests (s : State) (c : Nat) (v : Tg) : (s.setTg c v).sansTests = s.sansTests := rfl

theorem wipeAtoms_sansTests (s : State) (ch first last : Nat) : (wipeAtoms s ch first last).sansTests = s.sansTests := rfl

theorem checkStack_sansTests (s : State) (k depth : Nat) (t : Option TestResult) :
    (checkStack s k depth t).sansTests = s.sansTests := by
  unfold checkStack
  dsimp only
  rw [State.setStack_sansTests]
  refine foldl_keeps (fun t c => ?_) _ s
  rw [State.setTg_sansTests, wipeAtoms_sansTests]

theorem holdUnits_sansTests (s : State) (us : List Nat) (on : Bool) : (holdUnits s us on).sansTests = s.sansTests := by
  rw [holdUnits_frame]
  rfl

section Untold
variable (s : State) (kind depth : Nat) (us : List Nat)

/-- The machine in which units are about to be held for a test of which nothing is told: the stacks among them are checked. -/
def stacksChecked : State :=
  if kind = 2 then (us.foldl (fun s u => checkStack s (u - 0x700) depth none) s).drawFree else s

/-- The machine in which they have been held and given back. -/
def unitsTested : State := holdUnits (holdUnits (stacksChecked s kind depth us) us true) us false

theorem stacksChecked_sansTests : (stacksChecked s kind depth us).sansTests = s.sansTests := by
  unfold stacksChecked
  split
  · exact foldl_keeps (fun s u => checkStack_sansTests s (u - 0x700) depth none) us s
  · rfl

theorem unitsTested_sansTests : (unitsTested s kind depth us).sansTests = s.sansTests :=
  (holdUnits_sansTests _ _ _).trans ((holdUnits_sansTests _ _ _).trans (stacksChecked_sansTests s kind depth us))

/-- Only stack tests write the stacked memory. -/
theorem unitsTested_hbm {kind : Nat} (h : kind ≠ 2) : (unitsTested s kind depth us).hbm = s.hbm := by
  rw [unitsTested, holdUnits_frame, holdUnits_frame, stacksChecked, if_neg h]

/-- The entries of units that pass (R408), in order. -/
def passEntries : List (Nat × Nat × List Byte) := us.map fun u => (u, 0, resultEntry u 0 kind depth none)

variable {s}

theorem testResult_of_untold (h : s.run.phase = .stage1) (u : Nat) : testResult s kind depth u none = 0 := by
  simp [testResult, h]

theorem failUnits_of_stage1 (h : s.run.phase = .stage1) (cut : List Nat) :
    failUnits kind depth (us.map fun u => (u, none)) s cut = (s, cut) := by
  induction us with
  | nil => rfl
  | cons u us ih =>
    have hpass : (cut.contains u || testResult s kind depth u none != 1) = true := by
      rw [testResult_of_untold kind depth h]
      simp
    rw [List.map_cons, failUnits]
    dsimp only
    rw [if_pos hpass, ih]

/-- Once stage 1 is complete units of which nothing is told pass, and their results are recorded. -/
theorem runTests_of_untold (h : s.run.phase = .stage1) :
    (runTests s kind depth us []).1 = recordTests (unitsTested s kind depth us) (passEntries kind depth us) := by
  have hpairs : (us.zipIdx.map fun u => (u.1, ([] : List TestResult)[u.2]?)) = us.map fun u => (u, none) := by
    calc us.zipIdx.map (fun u => (u.1, none)) = (us.zipIdx.map Prod.fst).map fun u => (u, none) := by
          rw [List.map_map]
          rfl
      _ = us.map fun u => (u, none) := by rw [List.zipIdx_map_fst]
  have hphase : (holdUnits (stacksChecked s kind depth us) us true).run.phase = .stage1 := by
    have hkept := congrArg State.run ((holdUnits_sansTests _ us true).trans (stacksChecked_sansTests s kind depth us))
    exact (congrArg RunState.phase hkept).trans h
  have hchecked : (if kind = 2 then
      ((us.map fun u => (u, (none : Option TestResult))).foldl (fun s u => checkStack s (u.1 - 0x700) depth u.2) s).drawFree
      else s) = stacksChecked s kind depth us := by
    rw [List.foldl_map]
    rfl
  have hresult : ∀ t : State, t.run.phase = .stage1 → ((us.map fun u => (u, (none : Option TestResult))).map fun e =>
      (e.1, testResult t kind depth e.1 e.2, resultEntry e.1 (testResult t kind depth e.1 e.2) kind depth e.2))
        = passEntries kind depth us := by
    intro t ht
    simp only [List.map_map, passEntries]
    refine List.map_congr_left fun u _ => ?_
    simp only [Function.comp_apply, testResult_of_untold kind depth ht]
  unfold runTests
  dsimp only
  rw [hpairs, hchecked, failUnits_of_stage1 kind depth us hphase]
  simp only [List.contains_nil, Bool.false_eq_true, if_false]
  rw [hresult s h]
  rfl

end Untold

/-! The command. -/

/-- The units a BIST_RUN tests. -/
def bistUnits (d : List Byte) : List Nat := (List.range (bistCount d)).map (bistFirst d + ·)

/-- In t the units of a BIST_RUN have passed: their results are recorded, and no work has changed. -/
structure UnitsPassed (s t : State) (d : List Byte) : Prop where
  unmoved : t.unmoved = s.unmoved
  runs : t.bist.runs = satAdd s.bist.runs (bistCount d)
  results : ∀ i < bistCount d, Tab.find t.bist.results (bistFirst d + i)
    = some (resultEntry (bistFirst d + i) 0 (bistKind d) (bistDepth d) none)
  basins : t.basins = s.basins
  hbm : bistKind d ≠ 2 → t.hbm = s.hbm

theorem unitsPassed_runTests {s : State} (h : s.run.phase = .stage1) (d : List Byte) :
    UnitsPassed s (runTests s (bistKind d) (bistDepth d) (bistUnits d) []).1 d := by
  rw [runTests_of_untold _ _ _ h]
  have hkept := unitsTested_sansTests s (bistKind d) (bistDepth d) (bistUnits d)
  have hbist := congrArg State.bist hkept
  exact
    { unmoved := by
        have hunmoved := congrArg State.unmoved hkept
        exact hunmoved
      runs := by
        have hlen : (passEntries (bistKind d) (bistDepth d) (bistUnits d)).length = bistCount d := by
          simp [passEntries, bistUnits]
        rw [recordTests, hlen]
        exact congrArg (fun b : Bist => satAdd b.runs (bistCount d)) hbist
      results := by
        intro i hi
        have hunit : bistFirst d + i ∈ bistUnits d := List.mem_map.mpr ⟨i, List.mem_range.mpr hi, rfl⟩
        simp only [recordTests, passEntries, List.foldl_map]
        exact Tab.find_foldl_put (fun u => resultEntry u 0 (bistKind d) (bistDepth d) none) hunit _
      basins := by
        have hbasins := congrArg State.basins hkept
        exact hbasins
      hbm := fun hkind => unitsTested_hbm s _ _ hkind }

theorem UnitsPassed.hostWrite {s t : State} {d : List Byte} (h : UnitsPassed s t d) (a : Nat) (bs : List Byte) :
    UnitsPassed s (hostWrite t a bs) d :=
  { h with unmoved := h.unmoved }

/-- A BIST_RUN whose checks pass completes where its units have passed, their results written where it asks. -/
theorem runBist_of_untold {s : State} {c : Cmd} {env : Env} (hstage : s.run.phase = .stage1) (hpos : 0 < bistCount c.desc)
    (hmax : bistCount c.desc ≤ 1500)
    (hrange : (testRanges (bistKind c.desc)).any (fun r => decide (r.1 ≤ bistFirst c.desc
      ∧ bistFirst c.desc + bistCount c.desc ≤ r.1 + r.2)) = true) (halign : bistAddr c.desc % 64 = 0)
    (hwin : bistAddr c.desc = 0 ∨ inWindows s c.fn (bistAddr c.desc) (32 + 32 * bistCount c.desc) = true)
    (hfree : ∀ i < bistCount c.desc, unitFree s (bistFirst c.desc + i) = true) (htests : env.tests = []) :
    ∃ t, runBist s c env = finish t (chargeCmd s c env.charge).2 stOk
      ∧ UnitsPassed (chargeCmd s c env.charge).1 t c.desc := by
  have hall : (bistUnits c.desc).all (unitFree s) = true := by simpa [bistUnits] using hfree
  have hbarred : (bistAddr c.desc != 0 && !inWindows s c.fn (bistAddr c.desc) (32 + 32 * bistCount c.desc)) = false := by
    rcases hwin with h0 | hin <;> simp [*]
  have hpassed := unitsPassed_runTests (s := (chargeCmd s c env.charge).1) (hstage) c.desc
  have hdecide : (testRanges (bistKind c.desc)).any (fun r => decide (r.1 ≤ bistFirst c.desc)
      && decide (bistFirst c.desc + bistCount c.desc ≤ r.1 + r.2)) = true := by
    simpa only [Bool.decide_and] using hrange
  unfold runBist
  dsimp only
  unfold bistUnits at hall
  rw [if_neg (Nat.not_lt.mpr hmax), if_neg (Nat.ne_of_gt hpos), hdecide, halign, hbarred, hall, htests]
  simp only [Bool.not_true, bne_self_eq_false, Bool.or_self, Bool.false_eq_true, if_false]
  refine ⟨_, rfl, ?_⟩
  split
  · exact hpassed
  · exact hpassed.hostWrite _ _

theorem exec_bistRun {s : State} {f q : Nat} {d : List Byte} (h : Runs 0x0090 s f q d) (env : Env) :
    exec (.bistRun f q env) s = .next (runBist (startedState s f q d) (runningCmd s f q d) env) :=
  congrArg Host.Outcome.next (takeRow_of_startsNow h.toStartsNow (by simp [twoPart, h.opcode_eq]) env noEarly runBist)

theorem bistRun_passes {s : State} {f q : Nat} {d : List Byte} {env : Env} (h : Runs 0x0090 s f q d) (hpos : 0 < bistCount d)
    (hmax : bistCount d ≤ 1500)
    (hrange : (testRanges (bistKind d)).any (fun r => decide (r.1 ≤ bistFirst d ∧ bistFirst d + bistCount d ≤ r.1 + r.2)) = true)
    (halign : bistAddr d % 64 = 0) (hwin : bistAddr d = 0 ∨ inWindows s f (bistAddr d) (32 + 32 * bistCount d) = true)
    (hfree : ∀ i < bistCount d, unitFree (startedState s f q d) (bistFirst d + i) = true) (htests : env.tests = []) :
    ∃ t, exec (.bistRun f q env) s = .next t ∧ CompletesWith s t f q d stOk
      ∧ t.bist.runs = satAdd s.bist.runs (bistCount d)
      ∧ (∀ i < bistCount d, Tab.find t.bist.results (bistFirst d + i)
          = some (resultEntry (bistFirst d + i) 0 (bistKind d) (bistDepth d) none))
      ∧ t.basins = s.basins ∧ t.runs = s.runs ∧ (bistKind d ≠ 2 → t.hbm = s.hbm) := by
  have hu := h.underway
  have hstage : (startedState s f q d).run.phase = .stage1 := by
    have hrun : (startedState s f q d).run = s.run := by simp [startedState]
    rw [hrun]
    exact stage1_of_found h.found
  have hwin' : bistAddr d = 0 ∨ inWindows (startedState s f q d) f (bistAddr d) (32 + 32 * bistCount d) = true := by
    rw [hu.same.windows]
    exact hwin
  obtain ⟨t, hrun, hpassed⟩ := runBist_of_untold (c := runningCmd s f q d) hstage hpos hmax hrange halign hwin' hfree htests
  have hmoved := (hu.charge env.charge).moved hpassed.unmoved
  refine ⟨_, (exec_bistRun h env).trans (congrArg Host.Outcome.next hrun), hmoved.completesWith h.fits (by decide), ?_,
    fun i hi => ?_, ?_, ?_, fun hkind => ?_⟩
  · rw [finish_bist]
    exact hpassed.runs
  · rw [finish_bist]
    exact hpassed.results i hi
  · rw [finish_basins]
    exact hpassed.basins
  · rw [finish_runs]
    exact hmoved.same.runs
  · rw [finish_hbm, hpassed.hbm hkind]
    exact (hu.charge env.charge).same.hbm

end Sys2Proof.Machine
end

section
/-! SNAPSHOT (19 R414) and ACCT_READ (15 R343): what they write into host memory, and where. -/

namespace Sys2Proof.Machine

/-! Lengths. -/

theorem length_slice (bs : List Byte) (o n : Nat) : (slice bs o n).length = n := by
  simp only [slice, List.length_append, List.length_take, List.length_replicate]
  omega

/-- Lists of one length, joined. -/
theorem length_flatMap_const {α β : Type} {f : α → List β} {n : Nat} {l : List α} (h : ∀ x ∈ l, (f x).length = n) :
    (l.flatMap f).length = l.length * n := by
  induction l with
  | nil => rw [List.flatMap_nil, List.length_nil, List.length_nil, Nat.zero_mul]
  | cons x l ih =>
    rw [List.flatMap_cons, List.length_append, h x List.mem_cons_self, ih fun y hy => h y (List.mem_cons_of_mem x hy),
      List.length_cons, Nat.succ_mul, Nat.add_comm]

/-- A number at the head of a padded list is read first. -/
theorem take_slice_toLe (n v m : Nat) (rest tail : List Byte) (h : n ≤ m) :
    (slice (toLe n v ++ rest) 0 m ++ tail).take n = toLe n v := by
  have hlen : (toLe n v).length = n := length_toLe n v
  rw [List.take_append_of_le_length (by rw [length_slice]; exact h), slice, List.drop_zero, List.take_append_of_le_length
    (by rw [List.length_take, List.length_append, hlen]; omega), List.take_take, Nat.min_eq_left h,
    List.take_append_of_le_length (Nat.le_of_eq hlen.symm), List.take_of_length_le (Nat.le_of_eq hlen)]

/-! The snapshot of the rings. -/

theorem snapRings_length (s : State) : (snapRings s).length = 262144 := by
  rw [snapRings, length_flatMap_const (n := 4096) fun _ _ => length_slice _ _ _, List.length_range]

theorem ringsSection : (List.range 6).filter (bitOf 1) = [0] := by decide

/-- A snapshot of section 0 alone: the 64 bytes of its head, the 32 of the section's, and the rings. -/
theorem snapshotBytes_rings (s : State) (total : Nat) : snapshotBytes s 1 total =
    slice (toLe 8 total ++ (toLe 8 s.now ++ toLe 1 1)) 0 64
      ++ (slice (slice (toLe 1 0) 0 8 ++ toLe 8 (snapLength s 0) ++ toLe 8 s.now ++ toLe 8 s.now) 0 32 ++ snapRings s) := by
  rw [snapshotBytes, ringsSection, List.flatMap_singleton, List.append_assoc (toLe 8 total)]
  rfl

theorem snapshotBytes_rings_length (s : State) (total : Nat) : (snapshotBytes s 1 total).length = 262240 := by
  rw [snapshotBytes_rings, List.length_append, List.length_append, length_slice, length_slice, snapRings_length]

theorem snapshotBytes_rings_total (s : State) (total : Nat) : (snapshotBytes s 1 total).take 8 = toLe 8 total := by
  rw [snapshotBytes_rings]
  exact take_slice_toLe 8 total 64 _ _ (by decide)

/-- A SNAPSHOT of the rings whose place holds it is written there. -/
theorem runSnapshot_of_rings {s : State} {c : Cmd} {env : Env} (hmask : leAt c.desc 32 1 = 1) (halign : leAt c.desc 40 8 % 64 = 0)
    (hcap : leAt c.desc 48 8 = 262240) (hrep : leAt c.desc 56 8 = 0)
    (hwin : inWindows s c.fn (leAt c.desc 40 8) 262240 = true) : runSnapshot s c env =
      finish (hostWrite (chargeCmd s c env.charge).1.drawFree (leAt c.desc 40 8) (snapshotBytes s 1 262240))
        (chargeCmd s c env.charge).2 stOk := by
  have hone : bitsOf 1 0 6 = 1 := by decide
  have htotal : 64 + (([0] : List Nat).map fun k => 32 + snapLength s k).sum = 262240 := by simp [snapLength]
  unfold runSnapshot
  dsimp only
  rw [hmask, hone, ringsSection, htotal, hcap, hrep, halign, Nat.min_self, hwin]
  simp

theorem exec_snapshot {s : State} {f q : Nat} {d : List Byte} (h : Runs 0x0091 s f q d) (env : Env) :
    exec (.snapshot f q env) s = .next (runSnapshot (startedState s f q d) (runningCmd s f q d) env) :=
  congrArg Host.Outcome.next (takeRow_of_startsNow h.toStartsNow (by simp [twoPart, h.opcode_eq]) env noEarly runSnapshot)

/-- A command that has written bytes to host memory, apart from its entry, completes with them written. -/
theorem Underway.writes {s t : State} {f q a : Nat} {d bs : List Byte} {c : Cmd} (h : Underway s f q d t c) (hfit : EntryFits s f q)
    (hapart : ApartFromEntry s f q a bs.length) : CompletesWith s (finish (hostWrite t a bs) c stOk) f q d stOk
      ∧ (∀ n ≤ bs.length, Mem.readN (finish (hostWrite t a bs) c stOk).host a n = bs.take n)
      ∧ (∀ x, NotInEntry s f q x → (x < a ∨ a + bs.length ≤ x) →
          Mem.read (finish (hostWrite t a bs) c stOk).host x = Mem.read s.host x)
      ∧ (finish (hostWrite t a bs) c stOk).hbm = s.hbm := by
  have hmoved := h.moved (t' := hostWrite t a bs) rfl
  refine ⟨hmoved.completesWith hfit (by decide), fun n hn => ?_, fun x hx hout => ?_, ?_⟩
  · have hfirst : ApartFromEntry s f q a n := by
      unfold ApartFromEntry at hapart ⊢
      omega
    have hread := Mem.readN_writeN_part t.host a 0 n bs (by omega)
    rw [Nat.add_zero, List.drop_zero] at hread
    exact (hmoved.finish_readN hfit stOk hfirst).trans hread
  · refine (hmoved.finish_read hfit stOk hx).trans ?_
    rw [hostWrite_host, Mem.read_writeN_outside _ _ _ _ hout, h.same.host]
  · rw [finish_hbm, hostWrite_hbm, h.same.hbm]

/-- A free value drawn is none of a command's work. -/
theorem Underway.drawFree {s t : State} {f q : Nat} {d : List Byte} {c : Cmd} (h : Underway s f q d t c) :
    Underway s f q d t.drawFree c := h.frame ⟨rfl, rfl, rfl, rfl, rfl, rfl, fun _ _ => rfl⟩ rfl

theorem snapshot_writes {s : State} {f q : Nat} {d : List Byte} {env : Env} (h : Runs 0x0091 s f q d)
    (hmask : leAt d 32 1 = 1) (halign : leAt d 40 8 % 64 = 0) (hcap : leAt d 48 8 = 262240) (hrep : leAt d 56 8 = 0)
    (hwin : inWindows s f (leAt d 40 8) 262240 = true) (hapart : ApartFromEntry s f q (leAt d 40 8) 262240) :
    ∃ t, exec (.snapshot f q env) s = .next t ∧ CompletesWith s t f q d stOk
      ∧ leNat (Mem.readN t.host (leAt d 40 8) 8) = 262240
      ∧ (∀ x, NotInEntry s f q x → (x < leAt d 40 8 ∨ leAt d 40 8 + 262240 ≤ x) → Mem.read t.host x = Mem.read s.host x)
      ∧ t.hbm = s.hbm := by
  have hlen := snapshotBytes_rings_length (startedState s f q d) 262240
  have hrun := runSnapshot_of_rings (s := startedState s f q d) (c := runningCmd s f q d) (env := env) hmask halign hcap hrep
    ((h.underway.same.windows _ _).trans hwin)
  obtain ⟨hover, hread, hframe, hhbm⟩ := (h.underway.charge env.charge).drawFree.writes (a := leAt d 40 8)
    (bs := snapshotBytes (startedState s f q d) 1 262240) h.fits (by rw [hlen]; exact hapart)
  rw [hlen] at hread hframe
  refine ⟨_, (exec_snapshot h env).trans (congrArg Host.Outcome.next hrun), hover, ?_, hframe, hhbm⟩
  have hhead := hread 8 (by decide)
  rw [snapshotBytes_rings_total] at hhead
  exact (congrArg leNat hhead).trans (leNat_toLe (by decide))

/-! Accounts. -/

/-- The first client that an ACCT_READ names, and how many. -/
def arFirst (d : List Byte) : Nat := bitsOf (leAt d 32 2) 0 12
@[inherit_doc arFirst]
def arCount (d : List Byte) : Nat := bitsOf (leAt d 34 2) 0 13

/-- The records of an ACCT_READ's clients (R343). -/
def accountRecords (s : State) (d : List Byte) : List Byte := (List.range (arCount d)).flatMap fun i => accountBytes s (arFirst d + i)

/-- The machine in which an ACCT_READ has written its records and zeroed the accounts if asked to. -/
def accountsRead (s : State) (d : List Byte) : State :=
  if bitOf (leAt d 36 1) 0 then zeroAccounts (hostWrite s (leAt d 40 8) (accountRecords s d)) (arFirst d) (arCount d)
  else hostWrite s (leAt d 40 8) (accountRecords s d)

theorem accountsRead_unmoved (s : State) (d : List Byte) : (accountsRead s d).unmoved = s.unmoved := by
  unfold accountsRead
  split <;> rfl

theorem accountsRead_host (s : State) (d : List Byte) :
    (accountsRead s d).host = Mem.writeN s.host (leAt d 40 8) (accountRecords s d) := by
  unfold accountsRead
  split <;> rfl

theorem accountsRead_hbm (s : State) (d : List Byte) : (accountsRead s d).hbm = s.hbm := by
  unfold accountsRead
  split <;> rfl

theorem Tab.find_filter_of_false {α : Type} {t : Tab α} {p : Nat × α → Bool} {k : Nat} (h : ∀ v, p (k, v) = false) :
    Tab.find (t.filter p) k = none := by
  induction t with
  | nil => rfl
  | cons e t ih =>
    obtain ⟨j, w⟩ := e
    rw [List.filter_cons]
    split
    case isTrue hp =>
      have hj : j ≠ k := fun hj => by rw [hj, h w] at hp; exact Bool.noConfusion hp
      simp only [Tab.find, if_neg hj, ih]
    case isFalse => exact ih

theorem zeroAccounts_account (s : State) {c n i : Nat} (h : i < n) : (zeroAccounts s c n).account (c + i) = {} := by
  have hgone : Tab.find (zeroAccounts s c n).acct.accounts (c + i) = none :=
    Tab.find_filter_of_false fun v => by simp [h]
  simp only [State.account, Tab.get, hgone, Option.getD_none]

theorem accountsRead_zeroed {s : State} {d : List Byte} (hzero : bitOf (leAt d 36 1) 0 = true) {i : Nat} (h : i < arCount d) :
    (accountsRead s d).account (arFirst d + i) = {} := by
  rw [accountsRead, if_pos hzero]
  exact zeroAccounts_account _ h

/-- An ACCT_READ of its function's own clients, into its windows, reads. -/
theorem runAcctRead_of_checks {s : State} {c : Cmd} {env : Env} (hsome : arCount c.desc ≠ 0)
    (hrange : arFirst c.desc + arCount c.desc ≤ 4096) (halign : leAt c.desc 40 8 % 64 = 0)
    (hbase : (s.fn c.fn).clientBase.toNat ≤ arFirst c.desc)
    (hcount : arFirst c.desc + arCount c.desc ≤ (s.fn c.fn).clientBase.toNat + (s.fn c.fn).clientCount.toNat)
    (hwin : inWindows s c.fn (leAt c.desc 40 8) (128 * arCount c.desc) = true) : runAcctRead s c env =
      finish (accountsRead (chargeCmd s c env.charge).1 c.desc) (chargeCmd s c env.charge).2 stOk := by
  unfold arFirst arCount at *
  unfold runAcctRead
  dsimp only
  rw [if_neg hsome, if_neg (by simp [halign]; omega), if_neg (by simp [hwin]; omega)]
  rfl

theorem exec_acctRead {s : State} {f q : Nat} {d : List Byte} (h : Runs 0x00A0 s f q d) (env : Env) :
    exec (.acctRead f q env) s = .next (runAcctRead (startedState s f q d) (runningCmd s f q d) env) :=
  congrArg Host.Outcome.next (takeRow_of_startsNow h.toStartsNow (by simp [twoPart, h.opcode_eq]) env noEarly runAcctRead)

/-- Taking a descriptor gives its function no other clients. -/
theorem startedState_clients (s : State) (f q : Nat) (d : List Byte) :
    ((startedState s f q d).fn f).clientBase = (s.fn f).clientBase
      ∧ ((startedState s f q d).fn f).clientCount = (s.fn f).clientCount := by
  have hfn : ∃ cmds sq, (startedState s f q d).fn f = { s.fn f with cmds := cmds, lastSq := sq } :=
    ⟨_, _, State.fn_setFn_self _ f _⟩
  obtain ⟨cmds, sq, hfn⟩ := hfn
  rw [hfn]
  exact ⟨rfl, rfl⟩

theorem acctRead_writes {s : State} {f q : Nat} {d : List Byte} {env : Env} (h : Runs 0x00A0 s f q d) (hsome : arCount d ≠ 0)
    (hrange : arFirst d + arCount d ≤ 4096) (halign : leAt d 40 8 % 64 = 0) (hbase : (s.fn f).clientBase.toNat ≤ arFirst d)
    (hcount : arFirst d + arCount d ≤ (s.fn f).clientBase.toNat + (s.fn f).clientCount.toNat)
    (hwin : inWindows s f (leAt d 40 8) (128 * arCount d) = true)
    (hapart : ApartFromEntry s f q (leAt d 40 8) (128 * arCount d))
    (hlen : (accountRecords (chargeCmd (startedState s f q d) (runningCmd s f q d) env.charge).1 d).length = 128 * arCount d) :
    ∃ t, exec (.acctRead f q env) s = .next t ∧ CompletesWith s t f q d stOk
      ∧ Mem.readN t.host (leAt d 40 8) (128 * arCount d)
        = accountRecords (chargeCmd (startedState s f q d) (runningCmd s f q d) env.charge).1 d
      ∧ (bitOf (leAt d 36 1) 0 = true → ∀ i < arCount d, t.account (arFirst d + i) = {}) ∧ t.hbm = s.hbm := by
  have hu := h.underway.charge env.charge
  obtain ⟨hcb, hcc⟩ := startedState_clients s f q d
  have hrun := (exec_acctRead h env).trans (congrArg Host.Outcome.next
    (runAcctRead_of_checks (s := startedState s f q d) (c := runningCmd s f q d) (env := env) hsome hrange halign
      (hcb ▸ hbase) (hcb ▸ hcc ▸ hcount) ((h.underway.same.windows _ _).trans hwin)))
  have hmoved := hu.moved (accountsRead_unmoved _ d)
  refine ⟨_, hrun, hmoved.completesWith h.fits (by decide), ?_, fun hzero i hi => ?_, ?_⟩
  · refine (hmoved.finish_readN h.fits stOk hapart).trans ?_
    rw [accountsRead_host, ← hlen]
    exact Mem.readN_writeN _ _ _
  · have hzeroed := accountsRead_zeroed (s := (chargeCmd (startedState s f q d) (runningCmd s f q d) env.charge).1) hzero hi
    unfold State.account at hzeroed ⊢
    rw [finish_acct]
    exact hzeroed
  · rw [finish_hbm]
    exact (accountsRead_hbm _ d).trans hu.same.hbm

end Sys2Proof.Machine
end

section
/-! PARTITION_SET that creates a partition (15 R331, R332): its granules, its owner, and what a completion with ST_OK leaves of the
functions' registers. -/

namespace Sys2Proof.Machine

/-! Granules (08 R187). -/

/-- Growing extents adds the granules it says. -/
theorem growExtents_granules (ext : List (Nat × Nat)) (n : Nat) (runs : List (Nat × Nat)) :
    ((growExtents ext n runs).1.map Prod.snd).sum = (ext.map Prod.snd).sum + (growExtents ext n runs).2 := by
  induction runs generalizing ext n with
  | nil => simp [growExtents]
  | cons run runs ih =>
    obtain ⟨g, c⟩ := run
    have hmore : ∀ ext' : List (Nat × Nat), (ext'.map Prod.snd).sum = (ext.map Prod.snd).sum + min c n →
        ((growExtents ext' (n - min c n) runs).1.map Prod.snd).sum
          = (ext.map Prod.snd).sum + ((growExtents ext' (n - min c n) runs).2 + min c n) := by
      intro ext' hext
      rw [ih, hext]
      omega
    rw [growExtents]
    split
    · rfl
    · cases hlast : ext.getLast? with
      | none =>
        dsimp only
        split
        · rfl
        · exact hmore _ (by simp)
      | some e =>
        obtain ⟨init, rfl⟩ := List.getLast?_eq_some_iff.mp hlast
        dsimp only
        split
        · rfl
        · refine hmore _ ?_
          split <;> simp [Nat.add_assoc]

/-! The owner of a partition (R331). -/

theorem bitOf_toNat {w : Nat} (x : BitVec w) (i : Nat) : bitOf x.toNat i = x.getLsbD i := by
  rw [bitOf, BitVec.getLsbD, Nat.testBit_eq_decide_div_mod_eq]
  rfl

theorem bitOf_or_twoPow (x : BitVec 10) {p : Nat} (h : p < 10) : bitOf (x ||| BitVec.ofNat 10 (2 ^ p)).toNat p = true := by
  rw [bitOf_toNat, BitVec.getLsbD_or, BitVec.getLsbD_ofNat, Nat.testBit_two_pow_self]
  simp [h]

theorem bitOf_and_not_twoPow (x : BitVec 10) (p : Nat) : bitOf (x &&& ~~~BitVec.ofNat 10 (2 ^ p)).toNat p = false := by
  rw [bitOf_toNat, BitVec.getLsbD_and, BitVec.getLsbD_not, BitVec.getLsbD_ofNat, Nat.testBit_two_pow_self]
  simp

/-- What setOwner does for one function. -/
def ownStep (p : Nat) (owner : Option Nat) (s : State) (f : Nat) : State :=
  if bitOf (s.fn f).owned.toNat p == (owner == some f) then s
  else s.setFn f { s.fn f with
    owned := if owner == some f then (s.fn f).owned ||| BitVec.ofNat 10 (2 ^ p) else (s.fn f).owned &&& ~~~BitVec.ofNat 10 (2 ^ p) }

theorem setOwner_eq (s : State) (p : Nat) (owner : Option Nat) : setOwner s p owner = (List.range 64).foldl (ownStep p owner) s := rfl

theorem ownStep_self (s : State) (f : Nat) (owner : Option Nat) {p : Nat} (hp : p < 10) :
    bitOf ((ownStep p owner s f).fn f).owned.toNat p = (owner == some f) := by
  unfold ownStep
  split
  case isTrue h => exact beq_iff_eq.mp h
  case isFalse =>
    rw [State.fn_setFn_self]
    dsimp only
    cases owner == some f with
    | true => exact bitOf_or_twoPow _ hp
    | false => exact bitOf_and_not_twoPow _ p

theorem ownStep_ne (s : State) {f g : Nat} (owner : Option Nat) (p : Nat) (h : g ≠ f) : (ownStep p owner s f).fn g = s.fn g := by
  unfold ownStep
  split
  · rfl
  · exact State.fn_setFn_ne _ _ h

/-- Every function owns the partition or not, as it is the owner or not. -/
theorem setOwner_owned (s : State) (owner : Option Nat) {p g : Nat} (hp : p < 10) (hg : g < 64) :
    bitOf ((setOwner s p owner).fn g).owned.toNat p = (owner == some g) := by
  rw [setOwner_eq]
  refine foldl_establishes (I := fun _ => True) (P := fun t g => bitOf (t.fn g).owned.toNat p = (owner == some g))
    (fun _ _ _ => trivial) (fun t a _ => ownStep_self t a owner hp) (fun t a b hb => ?_) (List.mem_range.mpr hg) trivial
  by_cases hab : b = a
  · rw [hab]
    exact ownStep_self t a owner hp
  · rw [ownStep_ne t owner p hab]
    exact hb

/-- The machine without its functions' registers. -/
def State.sansFns (s : State) : State := { s with hif := { s.hif with fns := [] } }

theorem ownStep_sansFns (p : Nat) (owner : Option Nat) (s : State) (f : Nat) : (ownStep p owner s f).sansFns = s.sansFns := by
  unfold ownStep
  split <;> rfl

theorem setOwner_sansFns (s : State) (p : Nat) (owner : Option Nat) : (setOwner s p owner).sansFns = s.sansFns := by
  rw [setOwner_eq]
  exact foldl_keeps (ownStep_sansFns p owner) _ s

/-- An owner's windows are its own affair (14 R306). -/
theorem setOwner_windows (s : State) (p : Nat) (owner : Option Nat) (f a n : Nat) :
    inWindows (setOwner s p owner) f a n = inWindows s f a n := by
  have hstep : ∀ t g, (((ownStep p owner t g).fn f).winBase, ((ownStep p owner t g).fn f).winLimit)
      = ((t.fn f).winBase, (t.fn f).winLimit) := by
    intro t g
    by_cases hfg : f = g
    · subst hfg
      unfold ownStep
      split
      · rfl
      · rw [State.fn_setFn_self]
    · rw [ownStep_ne t owner p hfg]
  have hkept : (((setOwner s p owner).fn f).winBase, ((setOwner s p owner).fn f).winLimit)
      = ((s.fn f).winBase, (s.fn f).winLimit) := by
    rw [setOwner_eq]
    exact foldl_keeps (g := fun t : State => ((t.fn f).winBase, (t.fn f).winLimit)) hstep _ s
  obtain ⟨hbase, hlimit⟩ := Prod.mk.inj hkept
  simp only [inWindows, hbase, hlimit]

/-! Completions and the functions' registers. -/

theorem raiseVector_fns (s : State) (f v : Nat) : (raiseVector s f v).hif.fns = s.hif.fns := by
  unfold raiseVector
  split <;> rfl

theorem writeEntry_fns (s : State) (c : Cmd) (status retry : Nat) : (writeEntry s c status retry).hif.fns = s.hif.fns := by
  cases hin : inWindows s c.fn (entryPlace s c) 32 with
  | true =>
    unfold entryPlace at hin
    simp only [writeEntry, hin, if_true]
    split
    · rw [raiseVector_fns]
      rfl
    · rfl
  | false =>
    unfold entryPlace at hin
    simp only [writeEntry, hin, Bool.false_eq_true, if_false, raiseRingError_hif]
    rfl

/-- A completion that refuses no descriptor counts none (14 R328). -/
theorem closeCmd_fns {status : Nat} (h : status ≠ stBadDesc) (s : State) (c : Cmd) (retry : Nat) :
    (closeCmd s c status retry).hif.fns = s.hif.fns := by
  unfold closeCmd
  dsimp only
  rw [if_neg h, writeEntry_fns]
  exact congrArg Hif.fns (settleObject_hif s c status)

theorem Underway.finish_fns {s t : State} {f q : Nat} {d : List Byte} {c : Cmd} (h : Underway s f q d t c) {status : Nat}
    (hst : status ≠ stBadDesc) : (finish t c status).hif.fns = t.hif.fns := by
  rw [h.finish_eq, settleChain_frame]
  exact closeCmd_fns hst t c 0

/-! The command. -/

/-- The partition that a PARTITION_SET creates (R331, R332). -/
def createdPartition (s : State) (d : List Byte) : Partition where
  owner := psOwner d
  mask := BitVec.ofNat 10 (psMask d)
  deadlineUs := orKeep (psDeadline d) 2000
  quota := psQuota d
  weight := orKeep (psWeight d) 16
  budget := orKeep (psBudget d) 8192
  extents := (growExtents [] (granulesFor (psQuota d)) (freeRuns 0 (usedExtents s))).1

/-- The machine in which it has created it. -/
def partitionCreated (s t : State) (d : List Byte) : State :=
  setOwner { t with parts := Tab.put t.parts (dPart d) (createdPartition s d) } (dPart d) (some (psOwner d))

theorem orKeep_zero (v : Nat) : orKeep v 0 = v := by
  unfold orKeep
  split
  case isTrue h => exact h.symm
  case isFalse => rfl

/-- No granules are asked of no runs. -/
theorem growExtents_zero (ext runs : List (Nat × Nat)) : growExtents ext 0 runs = (ext, 0) := by
  cases runs <;> simp [growExtents]

theorem maskBasins_zero : maskBasins 0 = [] := by decide

/-- A PARTITION_SET of a partition that does not exist creates it where free granules hold it (R332). -/
theorem runPartitionSet_of_new {s : State} {c : Cmd} {env : Env} (hnew : Tab.find s.parts (dPart c.desc) = none)
    (hcreate : psDelete c.desc = false) (hst : partitionStatus s c = none) (howner : psOwner c.desc < 64)
    (hroom : (growExtents [] (granulesFor (psQuota c.desc)) (freeRuns 0 (usedExtents s))).2 = granulesFor (psQuota c.desc)) :
    runPartitionSet s c env = finish (partitionCreated s (chargeCmd s c env.charge).1 c.desc) (chargeCmd s c env.charge).2 stOk := by
  have hold : partOr s (dPart c.desc)
      = { owner := 0, mask := 0, deadlineUs := 2000, quota := 0, weight := 16, budget := 8192, extents := [] } := by
    rw [partOr, hnew, Option.getD_none]
  have howner' : psOwner c.desc ≠ 0xFF := by omega
  have hmask : (if psMask c.desc = 0 then 0 else BitVec.ofNat 10 (psMask c.desc)) = BitVec.ofNat 10 (psMask c.desc) := by
    split
    case isTrue h => rw [h]; rfl
    case isFalse => rfl
  have hgranules : (if granulesFor (psQuota c.desc) ≤ 0 then keepGranules (granulesFor (psQuota c.desc)) []
      else (growExtents [] (granulesFor (psQuota c.desc)) (freeRuns 0 (usedExtents s))).1)
        = (growExtents [] (granulesFor (psQuota c.desc)) (freeRuns 0 (usedExtents s))).1 := by
    split
    case isTrue h => rw [Nat.le_zero.mp h, growExtents_zero]; rfl
    case isFalse => rfl
  unfold runPartitionSet
  dsimp only
  rw [hst, hold]
  dsimp only
  rw [hcreate, maskBasins_zero, orKeep_zero, if_neg howner']
  simp only [Bool.false_eq_true, if_false, List.map_nil, List.sum_nil, Nat.sub_zero, Nat.zero_add, hroom, Nat.lt_irrefl,
    Nat.not_lt_zero, List.filter_nil, hgranules, hmask]
  rfl

theorem exec_partitionSet {s : State} {f q : Nat} {d : List Byte} (h : Runs 0x00B0 s f q d) (env : Env) :
    exec (.partitionSet f q env) s = .next (runPartitionSet (startedState s f q d) (runningCmd s f q d) env) :=
  congrArg Host.Outcome.next (takeRow_of_startsNow h.toStartsNow (by simp [twoPart, h.opcode_eq]) env noEarly runPartitionSet)

theorem Underway.partitionCreated {s t : State} {f q : Nat} {d : List Byte} {c : Cmd} (h : Underway s f q d t c) (u : State)
    (e : List Byte) : Underway s f q d (partitionCreated u t e) c := by
  have hkept := setOwner_sansFns { t with parts := Tab.put t.parts (dPart e) (createdPartition u e) } (dPart e) (some (psOwner e))
  refine h.frame ⟨?_, ?_, ?_, ?_, ?_, ?_, fun a n => setOwner_windows _ _ _ f a n⟩ ?_
  · have hhost := congrArg State.host hkept
    exact hhost
  · have hhbm := congrArg State.hbm hkept
    exact hhbm
  · have hcqs := congrArg State.cqs hkept
    exact hcqs
  · have hplans := congrArg State.plans hkept
    exact hplans
  · have hrequests := congrArg State.requests hkept
    exact hrequests
  · have hruns := congrArg State.runs hkept
    exact hruns
  · have hcmds := congrArg State.cmds hkept
    exact hcmds

theorem partitionCreated_parts (s t : State) (d : List Byte) :
    (partitionCreated s t d).parts = Tab.put t.parts (dPart d) (createdPartition s d) := by
  have hparts := congrArg State.parts (setOwner_sansFns
    { t with parts := Tab.put t.parts (dPart d) (createdPartition s d) } (dPart d) (some (psOwner d)))
  exact hparts

theorem partitionSet_creates {s : State} {f q : Nat} {d : List Byte} {env : Env} (h : Runs 0x00B0 s f q d)
    (hnew : Tab.find s.parts (dPart d) = none) (hcreate : psDelete d = false)
    (hst : partitionStatus (startedState s f q d) (runningCmd s f q d) = none) (hpart : dPart d < 10) (howner : psOwner d < 64)
    (hroom : (growExtents [] (granulesFor (psQuota d)) (freeRuns 0 (usedExtents s))).2 = granulesFor (psQuota d)) :
    ∃ t r, exec (.partitionSet f q env) s = .next t ∧ CompletesWith s t f q d stOk ∧ Tab.find t.parts (dPart d) = some r
      ∧ r.owner = psOwner d ∧ r.mask = BitVec.ofNat 10 (psMask d) ∧ r.quota = psQuota d
      ∧ r.deadlineUs = (if psDeadline d = 0 then 2000 else psDeadline d)
      ∧ (r.extents.map Prod.snd).sum = granulesFor (psQuota d)
      ∧ (∀ g < 64, bitOf (t.fn g).owned.toNat (dPart d) = decide (g = psOwner d))
      ∧ (∀ p, p ≠ dPart d → Tab.find t.parts p = Tab.find s.parts p) ∧ t.hbm = s.hbm := by
  have hparts : (startedState s f q d).parts = s.parts := by simp [startedState]
  have hroom' : (growExtents [] (granulesFor (psQuota d)) (freeRuns 0 (usedExtents (startedState s f q d)))).2
      = granulesFor (psQuota d) := by
    rw [usedExtents, hparts]
    exact hroom
  have hrun : runPartitionSet (startedState s f q d) (runningCmd s f q d) env = finish
      (partitionCreated (startedState s f q d) (chargeCmd (startedState s f q d) (runningCmd s f q d) env.charge).1 d)
      (chargeCmd (startedState s f q d) (runningCmd s f q d) env.charge).2 stOk :=
    runPartitionSet_of_new (by rw [hparts]; exact hnew) hcreate hst howner hroom'
  have hu := (h.underway.charge env.charge).partitionCreated (startedState s f q d) d
  have hput : (chargeCmd (startedState s f q d) (runningCmd s f q d) env.charge).1.parts = s.parts := by simp [hparts]
  refine ⟨_, createdPartition (startedState s f q d) d, (exec_partitionSet h env).trans (congrArg Host.Outcome.next hrun),
    hu.completesWith h.fits (by decide), ?_, rfl, rfl, rfl, rfl, ?_, fun g hg => ?_, fun p hp => ?_, ?_⟩
  · rw [finish_parts]
    exact (congrArg (Tab.find · (dPart d)) (partitionCreated_parts _ _ _)).trans (Tab.find_put_self _ _ _)
  · have hsum := growExtents_granules [] (granulesFor (psQuota d)) (freeRuns 0 (usedExtents (startedState s f q d)))
    rw [hroom', List.map_nil, List.sum_nil, Nat.zero_add] at hsum
    exact hsum
  · have howned := setOwner_owned { (chargeCmd (startedState s f q d) (runningCmd s f q d) env.charge).1 with
      parts := Tab.put (chargeCmd (startedState s f q d) (runningCmd s f q d) env.charge).1.parts (dPart d)
        (createdPartition (startedState s f q d) d) } (some (psOwner d)) hpart hg
    have hfns := hu.finish_fns (status := stOk) (by decide)
    have heq : (some (psOwner d) == some g) = decide (g = psOwner d) := by
      rw [Bool.eq_iff_iff, decide_eq_true_iff, beq_iff_eq, Option.some.injEq, eq_comm]
    rw [State.fn, hfns]
    exact howned.trans heq
  · rw [finish_parts]
    refine (congrArg (Tab.find · p) (partitionCreated_parts _ _ _)).trans ?_
    rw [hput]
    exact Tab.find_put_ne _ _ hp
  · rw [finish_hbm]
    exact hu.same.hbm

end Sys2Proof.Machine
end

section
/-! DEFERRED_COMMAND_START (14 R314) and ACCOUNT_UPDATE (15 R341, R342). -/

namespace Sys2Proof.Machine

/-! A waiting command starts. -/

/-- A command whose header passes, or was checked when it was taken, starts once its time has come (14 R314). -/
theorem startCmd_of_passed {s : State} {c : Cmd} (hheader : twoPart c.desc = true ∨ headerVerdict s c.fn c.desc c.takenAt = none)
    (htime : dNotBefore c.desc ≤ s.now) (env : Env) (run : State → Cmd → Env → State) :
    startCmd s c env run = run (s.setCmd { c with state := .running }) { c with state := .running } env := by
  have hverdict : (if twoPart c.desc then none else headerVerdict s c.fn c.desc c.takenAt) = none := by
    split
    case isTrue => rfl
    case isFalse hone => exact hheader.resolve_left hone
  simp only [startCmd, hverdict, Nat.not_lt.mpr htime, if_false]

theorem exec_deferredCommandStart_of_waiting {s : State} {id : Nat} {k : Cmd} (hk : s.cmd id = some k) (hstate : k.state = .waiting)
    (htakes : takesDescriptors s = true) (horder : orderWaits s k = false) (hserial : serialWaits s k = false)
    (hheader : twoPart k.desc = true ∨ headerVerdict s k.fn k.desc k.takenAt = none) (htime : dNotBefore k.desc ≤ s.now)
    (env : Env) : exec (.deferredCommandStart id env) s
      = .next (runOf (dOpcode k.desc) (s.setCmd { k with state := .running }) { k with state := .running } env) := by
  have hstarts : (takesDescriptors s && k.state == .waiting && !orderWaits s k && !serialWaits s k) = true := by
    simp [htakes, hstate, horder, hserial]
  change execDeferredCommandStart id env s = _
  simp only [execDeferredCommandStart, hk, hstarts, if_true, startCmd_of_passed hheader htime]

theorem runOf_nop : runOf 0x0001 = runNop := rfl

/-- A NOP completes, whenever it starts. -/
theorem runNop_completes (s : State) (c : Cmd) (env : Env) :
    (runNop s c env).cmd c.id = none ∧ (runNop s c env).hbm = s.hbm ∧ (runNop s c env).runs = s.runs := by
  unfold runNop
  dsimp only
  refine ⟨finish_cmd_self _ (chargeCmd s c env.charge).2 stOk, ?_, ?_⟩
  · rw [finish_hbm, chargeCmd_hbm]
  · rw [finish_runs, chargeCmd_runs]

/-! Account updates. -/

/-- The machine in which an update's totals have been entered, its shares charged in t. -/
def totalsEntered (s t : State) (un total : Nat) : State :=
  { t with acct := { t.acct with
      unattrUj := satAdd t.acct.unattrUj un, totalUj := satAdd t.acct.totalUj total, updateMtc := s.mtc.now } }

theorem exec_accountUpdate_of_staged {s : State} (h : staged s = true) (shares : List (Nat × Charge)) (un total : Nat) :
    exec (.accountUpdate shares un total) s = .next (totalsEntered s (shares.foldl chargeShare s) un total) := by
  change execAccountUpdate shares un total s = _
  simp only [execAccountUpdate, h, if_true]
  rfl

/-- A share is charged to an open command that is no serving job's start (R342). -/
theorem chargeShare_of_open {s : State} {id : Nat} {k : Cmd} (hk : s.cmd id = some k) (hstart : servingStart s id = false)
    (ch : Charge) : chargeShare s (id, ch) = (chargeCmd s k ch).1 := by
  simp only [chargeShare, hstart, hk, Bool.false_eq_true, if_false]

theorem chargeCmd_account_self (s : State) (c : Cmd) (ch : Charge) : ((chargeCmd s c ch).1.account (dClient c.desc)).energy
    = satAdd (s.account (dClient c.desc)).energy ch.energy := by
  have haccount : (chargeCmd s c ch).1.account (dClient c.desc) = (chargeClient s (dClient c.desc) ch).account (dClient c.desc) := rfl
  rw [haccount, chargeClient, State.account_setAccount_self]

theorem chargeCmd_account_ne (s : State) (c : Cmd) (ch : Charge) {x : Nat} (h : x ≠ dClient c.desc) :
    (chargeCmd s c ch).1.account x = s.account x := State.account_setAccount_ne s _ h

/-- Settles O60: each of the device's own commands runs from where it starts, and completes with what it has written or changed;
a waiting command starts as one just taken does; an update charges the client of the command it names. The model's choices are that a
unit of which no result is told passes (log 187), the layout of the snapshot's rings and the window it needs (logs 49 and 128), which
changes of a partition are checked (log 129), and that a serving job's start gets no share (log 136). -/
theorem deviceCommandsComplete : Obligations.DeviceCommandsComplete := by
  intro s f q id un total d env ch u c v dst
  refine ⟨?bist, ?snapshot, ?account, ?partition, ?deferred, ?update⟩
  case bist =>
    intro h hpos hmax hrange halign hwin hfree htests
    exact bistRun_passes h hpos hmax hrange halign hwin hfree htests
  case snapshot =>
    intro h hmask halign hcap hrep hwin hapart
    exact snapshot_writes h hmask halign hcap hrep hwin hapart
  case account =>
    intro first n h hsome hrange halign hbase hcount hwin hapart hlen
    exact acctRead_writes h hsome hrange halign hbase hcount hwin hapart hlen
  case partition =>
    intro h hnew hcreate hst hpart howner hroom
    exact partitionSet_creates h hnew hcreate hst hpart howner hroom
  case deferred =>
    intro k hk hstate htakes horder hserial hheader htime
    have hrun := exec_deferredCommandStart_of_waiting hk hstate htakes horder hserial hheader htime env
    refine ⟨hrun, fun hop => ?_⟩
    rw [hop, runOf_nop] at hrun
    obtain ⟨hover, hhbm, hruns⟩ := runNop_completes (s.setCmd { k with state := .running }) { k with state := .running } env
    exact ⟨_, hrun, State.id_of_cmd hk ▸ hover, hhbm, hruns⟩
  case update =>
    intro hstaged
    refine ⟨exec_accountUpdate_of_staged hstaged [] un total, fun k hk hstart => ?_⟩
    have hrun := exec_accountUpdate_of_staged hstaged [(id, ch)] un total
    rw [List.foldl_cons, List.foldl_nil, chargeShare_of_open hk hstart] at hrun
    exact ⟨_, hrun, chargeCmd_account_self s k ch, fun x hx => chargeCmd_account_ne s k ch hx, chargeCmd_host s k ch,
      chargeCmd_hbm s k ch⟩

end Sys2Proof.Machine
end

section
/-! The invariant, kept by the operations that every meaning is made of. -/

namespace Sys2Proof.Machine

/-- What the invariant asks of the parts of the state it speaks of, where n is the number of the next command. -/
structure Sound (n : Nat) (host hbm window : Tab Byte) (log : List Event) (cmds : List Cmd) (sqs : Tab SubRing)
    (slots : List KeySlot) (next : Nat) : Prop where
  host : Memory.wf host = true
  hbm : Memory.wf hbm = true
  window : Memory.wf window = true
  log : log.length ≤ 1024
  cmds : ∀ c ∈ cmds, c.id < n ∧ ∀ i, c.pred = some i → i < n
  rings : ∀ e ∈ sqs, ∀ i, e.2.chain = .after i → i < n
  slots : slots.length = 4
  next : next = n

/-- The state has the invariant, and n is the number of its next command. A state that differs from it in other parts alone keeps it
by definition. -/
def Keeps (n : Nat) (s : State) : Prop :=
  Sound n s.host s.hbm s.sec.window s.evt.log s.cmds s.sqs s.fuses.slots s.nextId

/-- The command that c is chained behind, if any, has a number below n. -/
def Behind (n : Nat) (c : Cmd) : Prop := ∀ i, c.pred = some i → i < n

/-- What comes of a command, where it comes to a state, has the invariant. -/
def Lands (o : Host.Outcome State Fault Refusal) : Prop := ∀ t, o = .next t → t.Inv

variable {n : Nat} {s : State}

/-- The same, said of the parts: what closes a change to other parts of the state. -/
theorem Keeps.sound (h : Keeps n s) : Sound n s.host s.hbm s.sec.window s.evt.log s.cmds s.sqs s.fuses.slots s.nextId := h

theorem Keeps.inv (h : Keeps n s) : s.Inv := by
  obtain ⟨hhost, hhbm, hwindow, hlog, hcmds, hrings, hslots, rfl⟩ := h
  exact ⟨hhost, hhbm, hwindow, hlog, ⟨hcmds, hrings⟩, hslots⟩

theorem State.Inv.keeps (h : s.Inv) : Keeps s.nextId s :=
  ⟨h.host, h.hbm, h.window, h.log, h.numbered.cmds, h.numbered.rings, h.slots, rfl⟩

theorem Keeps.lands (h : Keeps n s) : Lands (.next s) := fun _ ht => Host.Outcome.next.inj ht ▸ h.inv

/-! Branches and folds. -/

theorem Keeps.ite {c : Prop} [Decidable c] {a b : State} (ha : Keeps n a) (hb : Keeps n b) :
    Keeps n (if c then a else b) := by
  split
  · exact ha
  · exact hb

theorem Keeps.foldl {α : Type} {f : State → α → State} (h : Keeps n s) (hf : ∀ {s}, Keeps n s → ∀ x, Keeps n (f s x))
    {xs : List α} : Keeps n (xs.foldl f s) := by
  induction xs generalizing s with
  | nil => exact h
  | cons x xs ih => exact ih (hf h x)

/-- The same of a fold over states with something beside them. -/
theorem Keeps.foldl_fst {α β : Type} {f : State × β → α → State × β} {a : State × β} (h : Keeps n a.1)
    (hf : ∀ {a}, Keeps n a.1 → ∀ x, Keeps n (f a x).1) {xs : List α} : Keeps n (xs.foldl f a).1 := by
  induction xs generalizing a with
  | nil => exact h
  | cons x xs ih => exact ih (hf h x)

/-! Units by number. -/

theorem Tab.mem_of_find {α : Type} {t : Tab α} {k : Nat} {v : α} (h : Tab.find t k = some v) : (k, v) ∈ t := by
  induction t with
  | nil => cases h
  | cons e t ih =>
    obtain ⟨j, w⟩ := e
    simp only [Tab.find] at h
    split at h
    next heq =>
      obtain rfl := heq
      obtain rfl := Option.some.inj h
      exact List.mem_cons_self
    next => exact List.mem_cons_of_mem _ (ih h)

theorem Keeps.setCore (h : Keeps n s) {p : Nat} {c : Core} : Keeps n (s.setCore p c) := h
theorem Keeps.setBasin (h : Keeps n s) {b : Nat} {v : Basin} : Keeps n (s.setBasin b v) := h
theorem Keeps.setStack (h : Keeps n s) {k : Nat} {v : Stack} : Keeps n (s.setStack k v) := h
theorem Keeps.setTg (h : Keeps n s) {c : Nat} {v : Tg} : Keeps n (s.setTg c v) := h
theorem Keeps.setPort (h : Keeps n s) {q : Nat} {v : Port} : Keeps n (s.setPort q v) := h
theorem Keeps.setCodec (h : Keeps n s) {c : Nat} {v : Codec} : Keeps n (s.setCodec c v) := h
theorem Keeps.setRun (h : Keeps n s) {p : Nat} {v : PartRun} : Keeps n (s.setRun p v) := h
theorem Keeps.setFn (h : Keeps n s) {f : Nat} {v : FnRegs} : Keeps n (s.setFn f v) := h
theorem Keeps.setCq (h : Keeps n s) {f q : Nat} {v : CompRing} : Keeps n (s.setCq f q v) := h
theorem Keeps.setLatch (h : Keeps n s) {f : Nat} {v : Latches} : Keeps n (s.setLatch f v) := h
theorem Keeps.setAccount (h : Keeps n s) {c : Nat} {v : Account} : Keeps n (s.setAccount c v) := h
theorem Keeps.setEvtRing (h : Keeps n s) {f : Nat} {v : EvtRing} : Keeps n (s.setEvtRing f v) := h
theorem Keeps.setPlan (h : Keeps n s) {p k : Nat} {v : Plan} : Keeps n (s.setPlan p k v) := h
theorem Keeps.setRequest (h : Keeps n s) {r : Request} : Keeps n (s.setRequest r) := h
theorem Keeps.freeRequest (h : Keeps n s) {r : Request} : Keeps n (s.freeRequest r) := h
theorem Keeps.drawFree (h : Keeps n s) : Keeps n s.drawFree := h

theorem Keeps.setSq (h : Keeps n s) {f q : Nat} {v : SubRing} (hv : ∀ i, v.chain = .after i → i < n) :
    Keeps n (s.setSq f q v) :=
  { h with rings := fun e he => (Tab.mem_put he).elim (fun heq => heq ▸ hv) (h.rings e) }

/-- A ring's chain names a command that has been taken. -/
theorem Keeps.chain (h : Keeps n s) {f q : Nat} : ∀ i, (s.sq f q).chain = .after i → i < n := by
  intro i hi
  cases hfound : Tab.find s.sqs (ringKey f q) with
  | none => simp [State.sq, Tab.get, hfound] at hi
  | some r => exact h.rings _ (Tab.mem_of_find hfound) i (by simpa [State.sq, Tab.get, hfound] using hi)

theorem Keeps.setCmd (h : Keeps n s) {c : Cmd} (hc : Behind n c) : Keeps n (s.setCmd c) := by
  refine { h with cmds := fun d hd => ?_ }
  obtain ⟨d', hd', rfl⟩ := List.mem_map.mp hd
  split
  next heq => exact ⟨heq ▸ (h.cmds d' hd').1, hc⟩
  next => exact h.cmds d' hd'

theorem Keeps.behind (h : Keeps n s) {c : Cmd} (hc : c ∈ s.cmds) : Behind n c := (h.cmds c hc).2

theorem Keeps.behind_cmd (h : Keeps n s) {id : Nat} {c : Cmd} (hc : s.cmd id = some c) : Behind n c :=
  h.behind (List.mem_of_find?_eq_some hc)

/-- Open commands that are closed leave the others as they were. -/
theorem Keeps.of_cmds (h : Keeps n s) {cs : List Cmd} (hcs : ∀ c ∈ cs, c ∈ s.cmds) : Keeps n { s with cmds := cs } :=
  { h with cmds := fun c hc => h.cmds c (hcs c hc) }

/-! Memory. -/

theorem Keeps.of_hbm (h : Keeps n s) {m : Tab Byte} (hm : Memory.wf m = true) : Keeps n { s with hbm := m } :=
  { h with hbm := hm }

theorem Keeps.hostRead (h : Keeps n s) {a k : Nat} : Keeps n (hostRead s a k).2 := h

theorem Keeps.hostWrite (h : Keeps n s) {a : Nat} {bs : List Byte} : Keeps n (hostWrite s a bs) :=
  { h with host := Mem.wf_writeN a bs h.host }

/-- A write through extents keeps the canonical form. -/
theorem wf_writeExt {m : Tab Byte} (hm : Memory.wf m = true) (ext : List (Nat × Nat)) (x : Nat) (bs : List Byte) :
    Memory.wf (writeExt m ext x bs) = true := by
  induction bs generalizing m x with
  | nil => exact hm
  | cons b bs ih =>
    refine ih ?_ (x + 1)
    split
    · exact Mem.wf_write _ b hm
    · exact hm

/-- So does a wipe of extents. -/
theorem wf_wipeExtents {m : Tab Byte} (hm : Memory.wf m = true) (ext : List (Nat × Nat)) :
    Memory.wf (wipeExtents m ext) = true := by
  unfold wipeExtents
  induction ext generalizing m with
  | nil => exact hm
  | cons e ext ih => exact ih (Mem.wf_wipe _ _ hm)

theorem Keeps.partWrite (h : Keeps n s) {p x : Nat} {bs : List Byte} : Keeps n (partWrite s p x bs) := by
  unfold Machine.partWrite
  split
  · exact h.of_hbm (wf_writeExt h.hbm _ x bs)
  · exact h

/-! Events, interrupts, charges. -/

theorem Keeps.raiseAs (h : Keeps n s) {e : Event} : Keeps n (raiseAs s e) :=
  have hlog : Keeps n { s with evt := { s.evt with raised := s.evt.raised ++ [e], log := (e :: s.evt.log).take 1024 } } :=
    { h with log := List.length_take_le .. }
  .ite hlog hlog

theorem Keeps.raiseEvent (h : Keeps n s) {code source part : Nat} {detail : List Byte} :
    Keeps n (raiseEvent s code source part detail) := h.raiseAs

theorem Keeps.raiseRingError (h : Keeps n s) {f q cause : Nat} {isCq : Bool} : Keeps n (raiseRingError s f q isCq cause) :=
  h.raiseAs

theorem Keeps.raiseHostRead (h : Keeps n s) {f tag part : Nat} : Keeps n (raiseHostRead s f tag part) :=
  .raiseAs (by exact h)

theorem Keeps.raiseVector (h : Keeps n s) {f v : Nat} : Keeps n (raiseVector s f v) := .ite h h

theorem Keeps.chargeClient (h : Keeps n s) {client : Nat} {ch : Charge} : Keeps n (chargeClient s client ch) := h

theorem Keeps.chargeCmd (h : Keeps n s) {c : Cmd} {ch : Charge} (hc : Behind n c) : Keeps n (chargeCmd s c ch).1 :=
  h.chargeClient.setCmd hc

/-! Completion (14 R314, R315). -/

theorem Keeps.writeEntry (h : Keeps n s) {c : Cmd} {status retry : Nat} : Keeps n (writeEntry s c status retry) :=
  .ite (.ite h.hostWrite.setCq.raiseVector h.hostWrite.setCq) h.setCq.raiseRingError

theorem Keeps.settleObject (h : Keeps n s) {c : Cmd} {status : Nat} : Keeps n (settleObject s c status) := by
  unfold Machine.settleObject
  split
  · exact h
  · split
    · exact .ite h (.ite h h)
    · exact h

theorem Keeps.closeCmd (h : Keeps n s) {c : Cmd} {status retry : Nat} : Keeps n (closeCmd s c status retry) :=
  have hclosed := (h.settleObject.of_cmds fun _ hd => List.mem_of_mem_filter hd).writeEntry
  .ite hclosed.setFn hclosed

theorem Keeps.finishN (h : Keeps n s) {k : Nat} {c : Cmd} {status retry : Nat} : Keeps n (finishN k s c status retry) := by
  induction k generalizing s c status retry with
  | zero => exact h
  | succ k ih =>
    have hring : Keeps n (if ((Machine.closeCmd s c status retry).sq c.fn c.sq).chain = .after c.id
        then (Machine.closeCmd s c status retry).setSq c.fn c.sq
          { (Machine.closeCmd s c status retry).sq c.fn c.sq with chain := if status = stOk then .free else .broken }
        else Machine.closeCmd s c status retry) :=
      .ite (h.closeCmd.setSq (by split <;> simp)) h.closeCmd
    unfold Machine.finishN
    simp only
    split
    · exact hring
    · exact .ite (hring.setCmd (by simp [Behind])) (ih hring)

theorem Keeps.finishWith (h : Keeps n s) {c : Cmd} {status retry : Nat} : Keeps n (finishWith s c status retry) := h.finishN

theorem Keeps.finish (h : Keeps n s) {c : Cmd} {status : Nat} : Keeps n (finish s c status) := h.finishWith

theorem Keeps.refuse (h : Keeps n s) {c : Cmd} {status : Nat} : Keeps n (refuse s c status) := h.finish

theorem Keeps.finishId (h : Keeps n s) {id status : Nat} : Keeps n (finishId s id status) := by
  unfold Machine.finishId
  split
  · exact h.finish
  · exact h

theorem Keeps.finishIds (h : Keeps n s) {ids : List Nat} {status : Nat} : Keeps n (finishIds s ids status) :=
  h.foldl fun h _ => h.finishId

theorem Keeps.hostReadFailed (h : Keeps n s) {c : Cmd} : Keeps n (hostReadFailed s c) := h.raiseHostRead.finish

/-! Taking and starting (14 R312 to R314). -/

theorem takeHead_keeps (h : Keeps n s) (f q : Nat) (d : List Byte) : Keeps (n + 1) (takeHead s f q d).1 := by
  have hbehind : ∀ i, (match (s.sq f q).chain with | .after i => some i | _ => none) = some i → i < n := by
    intro i hi
    split at hi
    next hchain => exact Option.some.inj hi ▸ h.chain _ hchain
    next => cases hi
  have htaken : Keeps (n + 1) { s with
      nextId := s.nextId + 1, cmds := s.cmds ++ [(takeHead s f q d).2],
      hif := { s.hif with rdBytes := satAdd s.hif.rdBytes 128, lastFn := f } } :=
    { host := h.host, hbm := h.hbm, window := h.window, log := h.log, slots := h.slots
      rings := fun e he i hi => Nat.lt_succ_of_lt (h.rings e he i hi)
      next := congrArg (· + 1) h.next
      cmds := fun c hc => (List.mem_append.mp hc).elim
        (fun hc => ⟨Nat.lt_succ_of_lt (h.cmds c hc).1, fun i hi => Nat.lt_succ_of_lt ((h.cmds c hc).2 i hi)⟩)
        (fun hc => by
          obtain rfl := List.mem_singleton.mp hc
          exact ⟨by simp [takeHead, h.next], fun i hi => Nat.lt_succ_of_lt (hbehind i hi)⟩) }
  refine Keeps.setFn (htaken.setSq fun i hi => ?_)
  simp only at hi
  split_ifs at hi
  obtain rfl := Chain.after.inj hi
  simp [h.next]

theorem takeHead_behind (h : Keeps n s) (f q : Nat) (d : List Byte) : Behind (n + 1) (takeHead s f q d).2 := by
  intro i hi
  refine (Keeps.behind (takeHead_keeps h f q d) ?_) i hi
  simp [takeHead]

/-- What a command does as it runs keeps the invariant. -/
def RunKeeps (run : State → Cmd → Env → State) : Prop :=
  ∀ {n s c env}, Keeps n s → Behind n c → Keeps n (run s c env)

theorem Keeps.startCmd (h : Keeps n s) {c : Cmd} {env : Env} {run : State → Cmd → Env → State} (hc : Behind n c)
    (hrun : RunKeeps run) : Keeps n (startCmd s c env run) := by
  unfold Machine.startCmd
  split
  · exact h.finish
  · exact .ite h (hrun (h.setCmd hc) hc)

theorem Keeps.beginCmd (h : Keeps n s) {c : Cmd} {broken : Bool} {env : Env} {early : State → Cmd → Option Nat}
    {run : State → Cmd → Env → State} (hc : Behind n c) (hrun : RunKeeps run) :
    Keeps n (beginCmd s c broken env early run) := by
  unfold Machine.beginCmd
  split
  · exact h.finish
  · split
    · exact h.finish
    · exact .ite h (h.startCmd hc hrun)

theorem takeRow_lands (h : Keeps n s) {opcode f q : Nat} {env : Env} {early : State → Cmd → Option Nat}
    {run : State → Cmd → Env → State} (hrun : RunKeeps run) : Lands (.next (takeRow opcode f q env early run s)) := by
  unfold takeRow
  split
  · exact h.lands
  · exact (h.setSq (by exact h.chain)).raiseRingError.lands
  · split
    · exact ((takeHead_keeps h f q _).beginCmd (takeHead_behind h f q _) hrun).lands
    · exact h.lands

/-! Small shared answers. -/

theorem Keeps.onExec (h : Keeps n s) {p op : Nat} {f : Exec → Exec} : Keeps n (onExec s p op f) := by
  unfold Machine.onExec
  dsimp only
  split
  · exact h.setRun
  · exact h

theorem Keeps.onBasin (h : Keeps n s) {b : Nat} {f : Basin → Basin} : Keeps n (onBasin s b f) := .ite h h

end Sys2Proof.Machine
end

section
/-! The invariant, kept by doorbells, the configuration of rings, interrupts and events (14 R309 to R317, 19 R417 to R421). -/

namespace Sys2Proof.Machine

variable {n : Nat} {s : State}

theorem Keeps.sqTail (h : Keeps n s) {f q v : Nat} : Keeps n (sqTail f q v s) :=
  .ite (h.setSq (by exact h.chain))
    (.ite (h.setSq (by exact h.chain)).raiseRingError (h.setSq (by exact h.chain)))

theorem Keeps.cqHead (h : Keeps n s) {f q v : Nat} : Keeps n (cqHead f q v s) :=
  .ite h.setCq (.ite h.setCq.raiseRingError h.setCq)

theorem Keeps.sqCfg (h : Keeps n s) {f q : Nat} {acc : RegAcc} {v : Word64} : Keeps n (sqCfg f q acc v s) :=
  .ite (h.setSq (by exact h.chain)) (.ite h (.ite (h.setSq (by simp)) h))

theorem Keeps.cqCfg (h : Keeps n s) {f q : Nat} {acc : RegAcc} {v : Word64} : Keeps n (cqCfg f q acc v s) :=
  .ite (.ite h h.setCq) (.ite h (.ite h.setCq h))

theorem Keeps.execDescriptorReadFail (h : Keeps n s) {f q : Nat} : Lands (execDescriptorReadFail f q s) := by
  refine Keeps.lands (n := n) ?_
  split
  · refine Keeps.raiseRingError (Keeps.setSq ?_ ?_)
    · exact h
    · exact h.chain
  · exact h

theorem Keeps.execIrqHoldoffEnd (h : Keeps n s) {f q : Nat} {ev : Bool} : Lands (execIrqHoldoffEnd f q ev s) :=
  Keeps.lands (n := n) (by exact .ite (.ite h.setEvtRing.raiseVector h) (.ite h.setCq.raiseVector h))

theorem Keeps.execEvtCfgWrite (h : Keeps n s) {f : Nat} {acc : RegAcc} {v : Word64} : Lands (execEvtCfgWrite f acc v s) :=
  Keeps.lands (n := n) (by exact .ite h (.ite h.setEvtRing (.ite h h.setEvtRing)))

theorem Keeps.putEvent (h : Keeps n s) {f : Nat} {e : Event} : Keeps n (putEvent s f e) :=
  .ite (.ite h.hostWrite.setEvtRing.raiseVector h.hostWrite.setEvtRing) h.setEvtRing

theorem Keeps.reportLost (h : Keeps n s) {f : Nat} {e : Event} : Keeps n (reportLost s f e) := by
  unfold Machine.reportLost
  dsimp only
  split
  · exact .ite h h.setEvtRing.putEvent.drawFree
  · exact h

theorem Keeps.eventToRing (h : Keeps n s) {f : Nat} {e : Event} : Keeps n (eventToRing s f e) :=
  .ite h (.ite h.reportLost.setEvtRing h.reportLost.putEvent)

theorem Keeps.execEventWrite (h : Keeps n s) : Lands (execEventWrite s) := by
  refine Keeps.lands (n := n) ?_
  split
  · exact .ite (.foldl (by exact h) fun h _ => h.eventToRing) h
  · exact h

end Sys2Proof.Machine
end

section
/-! The invariant, kept by what ends work: flits that abort, requests and their pages, jobs, plans, withdrawn units and the device that
fails (12 R282, 07 R163 to R170, 13 R287 to R300). -/

namespace Sys2Proof.Machine

variable {n : Nat} {s : State}

theorem Keeps.pump (h : Keeps n s) {q : Nat} : Keeps n (pump s q) := h.setPort
theorem Keeps.sendOn (h : Keeps n s) {q : Nat} {f : Flit} : Keeps n (sendOn s q f) := h.setPort.pump

theorem Keeps.sendFlit (h : Keeps n s) {f : Flit} : Keeps n (sendFlit s f) := by
  unfold Machine.sendFlit
  split
  · exact h.sendOn
  · split
    · exact .ite h.sendOn h
    · exact h

theorem Keeps.sendAborts (h : Keeps n s) {p : Nat} : Keeps n (sendAborts s p) := by
  unfold Machine.sendAborts
  split
  · exact h.foldl fun h _ => h.foldl fun h _ => h.sendFlit
  · exact h

/-! Requests. -/

theorem Keeps.putProgress (h : Keeps n s) {r : Request} {state reason : Nat} : Keeps n (putProgress s r state reason) :=
  .ite h.hostWrite h

theorem Keeps.writeProgress (h : Keeps n s) {r : Request} {state reason : Nat} : Keeps n (writeProgress s r state reason) :=
  .ite h.putProgress h

theorem Keeps.releasePages (h : Keeps n s) {r : Request} : Keeps n (releasePages s r) := by
  unfold Machine.releasePages
  dsimp only
  split <;> exact h

theorem Keeps.closeRequest (h : Keeps n s) {r : Request} {status : Nat} : Keeps n (closeRequest s r status) := by
  refine Keeps.finishIds (Keeps.finishIds ?_)
  split
  · exact h.releasePages.freeRequest.finishId
  · exact h.releasePages.freeRequest

theorem Keeps.endRequest (h : Keeps n s) {r : Request} {status reason : Nat} : Keeps n (endRequest s r status reason) :=
  h.writeProgress.closeRequest

theorem Keeps.endRequests (h : Keeps n s) {p k status reason : Nat} {which : Request → Bool} :
    Keeps n (endRequests s p k status reason which) := h.foldl fun h _ => h.endRequest

theorem Keeps.settleReleases (h : Keeps n s) {p k : Nat} : Keeps n (settleReleases s p k) := h.endRequests

/-! Jobs. -/

theorem Keeps.idleCores (h : Keeps n s) {p : Nat} : Keeps n (idleCores s p) := h.sound
theorem Keeps.quiesceCores (h : Keeps n s) {p : Nat} : Keeps n (quiesceCores s p) := h.sound
theorem Keeps.dropCodecOps (h : Keeps n s) {p : Nat} : Keeps n (dropCodecOps s p) := h.sound

theorem Keeps.setResampling (h : Keeps n s) {p : Nat} {ws : List EngineWork} : Keeps n (setResampling s p ws) :=
  h.setRun.foldl fun h _ => h.setBasin

theorem Keeps.dropResampleOps (h : Keeps n s) {p : Nat} : Keeps n (dropResampleOps s p) := h.setResampling

theorem Keeps.clearJob (h : Keeps n s) {p : Nat} : Keeps n (clearJob s p) :=
  h.dropCodecOps.idleCores.quiesceCores.dropResampleOps.setRun.foldl fun h _ => h.setBasin

theorem Keeps.endJob (h : Keeps n s) {p status : Nat} : Keeps n (endJob s p status) := by
  unfold Machine.endJob
  dsimp only
  split
  next j _ =>
    have hcmd : Keeps n (match (Machine.clearJob s p).cmd j.cmd with
        | some c => Machine.finishWith (Machine.clearJob s p)
            (if j.serving then { c with engineNs := 0, bytes := 0, energyUj := 0 } else c) status j.restarts
        | none => Machine.clearJob s p) := by
      split
      · exact h.clearJob.finishWith
      · exact h.clearJob
    exact .ite hcmd.finishIds.settleReleases hcmd.finishIds
  next => exact h

theorem Keeps.clearPreempted (h : Keeps n s) {p : Nat} : Keeps n (clearPreempted s p) := h

/-! Plans. -/

theorem Keeps.wipePlanTables (h : Keeps n s) {p k : Nat} : Keeps n (wipePlanTables s p k) := h.sound
theorem Keeps.releaseUnits (h : Keeps n s) {p k : Nat} : Keeps n (releaseUnits s p k) := h.sound
theorem Keeps.dropPlan (h : Keeps n s) {p k : Nat} : Keeps n (dropPlan s p k) := h.sound

/-! State FAILED. -/

theorem Keeps.failCommands (h : Keeps n s) {k : Nat} : Keeps n (failCommands k s) := by
  induction k generalizing s with
  | zero => exact h
  | succ k ih =>
    unfold Machine.failCommands
    split
    · exact ih h.finish
    · exact h

theorem Keeps.of_work (h : Keeps n s) {requests : Tab Request} {codecs : Tab Codec} {fls : Fls} :
    Keeps n { s with requests := requests, codecs := codecs, fls := fls } := h

theorem Keeps.of_run (h : Keeps n s) {v : RunState} : Keeps n { s with run := v } := h

/-- Each partition's job ends without a completion, and what is pre-empted is dropped. -/
theorem Keeps.clearJobs (h : Keeps n s) {ps : List Nat} :
    Keeps n (ps.foldl (fun s p => Machine.clearPreempted (Machine.clearJob s p) p) s) := h.foldl fun h _ => h.clearJob.clearPreempted

theorem Keeps.enterFailed (h : Keeps n s) : Keeps n (enterFailed s) := by
  have haborted : Keeps n ((List.range 10).foldl Machine.sendAborts s) := h.foldl fun h _ => h.sendAborts
  unfold Machine.enterFailed
  generalize (List.range 10).foldl Machine.sendAborts s = s0 at haborted ⊢
  refine Keeps.of_work ?_
  exact haborted.of_run.failCommands.clearJobs.foldl fun h _ => h.setResampling

theorem Keeps.failDevice (h : Keeps n s) {source : Nat} : Keeps n (failDevice s source) :=
  .ite h h.raiseEvent.enterFailed

theorem Keeps.loseStack (h : Keeps n s) {k : Nat} {cause : StackCause} {ch : Nat} : Keeps n (loseStack s k cause ch) :=
  .ite h.setStack.raiseEvent h.setStack.raiseEvent.enterFailed

/-! Units withdrawn and dead (01 R15, 13 R289). -/

theorem Keeps.stalePlans (h : Keeps n s) {p : Nat} : Keeps n (stalePlans s p) := h.sound

/-- The end of what runs on the partition of a basin that is withdrawn. -/
theorem Keeps.endWithdrawn (h : Keeps n s) {p source : Nat} {told : Bool} {detail : List Byte} :
    Keeps n (Machine.endJob (Machine.sendAborts (if told then Machine.raiseEvent s evJobFault source p detail else s) p) p
      stJobFault) := (Keeps.ite h.raiseEvent h).sendAborts.endJob

theorem Keeps.withdrawBasin (h : Keeps n s) {b : Nat} {detected : Bool} : Keeps n (withdrawBasin s b detected) := by
  unfold Machine.withdrawBasin
  dsimp only
  generalize (List.range 150).foldl _ _ = cores
  have hraised : Keeps n (Machine.raiseEvent { s.setBasin b { s.basin b with withdrawn := true } with cores := cores }
      evBasinWithdrawn (srcBasin b) (basinPart s b) []) := .raiseEvent (by exact h.sound)
  refine .ite h (.ite (.failDevice (.ite hraised.stalePlans.endWithdrawn hraised)) (.ite hraised.stalePlans.endWithdrawn hraised))

theorem Keeps.declareDead (h : Keeps n s) {p cause : Nat} : Keeps n (declareDead s p cause) := by
  refine .ite h (.ite ?_ h.setCore.raiseEvent)
  split
  · exact h.setCore.raiseEvent.setCore
  · exact h.setCore.raiseEvent.withdrawBasin

end Sys2Proof.Machine
end

section
/-! The invariant, kept by reads and writes of the stacked memory, wipes, self-tests, the flash store and COPY (08 R188 to R195, 19 R404 to
R408, 16 R352 to R360, 14 R322). -/

namespace Sys2Proof.Machine

variable {n : Nat} {s : State}

theorem Keeps.onMere (h : Keeps n s) {b : Nat} {f : Mere → Mere} : Keeps n (onMere s b f) := h
theorem Keeps.of_stacks (h : Keeps n s) {v : Tab Stack} : Keeps n { s with hbmStacks := v } := h
theorem Keeps.countStacks (h : Keeps n s) {f : Nat → Nat} {upd : Stack → Nat → Stack} : Keeps n (countStacks s f upd) := h.of_stacks
theorem Keeps.addRead (h : Keeps n s) {f : Nat → Nat} : Keeps n (addRead s f) := h.countStacks
theorem Keeps.addWritten (h : Keeps n s) {f : Nat → Nat} : Keeps n (addWritten s f) := h.countStacks
theorem Keeps.hbmGet (h : Keeps n s) {p x k : Nat} : Keeps n (hbmGet s p x k).2 := h.addRead

theorem Keeps.writeCopy (h : Keeps n s) {p t : Nat} : Keeps n (writeCopy s p t) := by
  unfold Machine.writeCopy
  split
  · exact .ite h.onMere h
  · exact h

theorem Keeps.countWritten (h : Keeps n s) {p x k : Nat} : Keeps n (countWritten s p x k) :=
  h.addWritten.foldl fun h _ => h.writeCopy

theorem Keeps.hbmPut (h : Keeps n s) {p x : Nat} {bs : List Byte} : Keeps n (hbmPut s p x bs) := h.countWritten.partWrite

theorem Keeps.wipeGranules (h : Keeps n s) {ext : List (Nat × Nat)} : Keeps n (wipeGranules s ext) :=
  (h.of_hbm (wf_wipeExtents h.hbm ext)).addWritten

theorem Keeps.wipeAtoms (h : Keeps n s) {ch first last : Nat} : Keeps n (wipeAtoms s ch first last) :=
  h.of_hbm (Mem.wf_filter _ h.hbm)

theorem Keeps.wipeAll (h : Keeps n s) : Keeps n (wipeAll s) := (h.of_hbm rfl).addWritten

/-! Self-tests. -/

theorem Keeps.unitFails (h : Keeps n s) {kind depth source firstFail : Nat} :
    Keeps n (unitFails s kind depth source firstFail) :=
  .ite h.raiseEvent.declareDead (.ite h.raiseEvent.withdrawBasin (.ite h.raiseEvent h.raiseEvent))

theorem Keeps.holdUnits (h : Keeps n s) {units : List Nat} {on : Bool} : Keeps n (holdUnits s units on) :=
  h.foldl fun h _ => h.setCore

theorem Keeps.failUnits (h : Keeps n s) {kind depth : Nat} {us : List (Nat × Option TestResult)} {cut : List Nat} :
    Keeps n (failUnits kind depth us s cut).1 := by
  induction us generalizing s cut with
  | nil => exact h
  | cons u us ih =>
    obtain ⟨u, t⟩ := u
    unfold Machine.failUnits
    dsimp only
    split_ifs
    · exact ih h
    all_goals
      split
      · exact ih h.setCore.unitFails
      · exact ih h.unitFails

theorem Keeps.checkStack (h : Keeps n s) {k depth : Nat} {t : Option TestResult} : Keeps n (checkStack s k depth t) :=
  (h.foldl fun h _ => h.wipeAtoms.setTg).setStack

theorem Keeps.recordTests (h : Keeps n s) {es : List (Nat × Nat × List Byte)} : Keeps n (recordTests s es) := h.sound

theorem Keeps.runTests (h : Keeps n s) {kind depth : Nat} {units : List Nat} {tests : List TestResult} :
    Keeps n (runTests s kind depth units tests).1 := by
  refine Keeps.recordTests (Keeps.holdUnits (Keeps.failUnits (Keeps.holdUnits ?_)))
  exact .ite (h.foldl fun h _ => h.checkStack).drawFree h

theorem Keeps.unitFault (h : Keeps n s) {part source : Nat} {tests : List TestResult} : Keeps n (unitFault s part source tests) :=
  h.raiseEvent.runTests

/-! Reads of the tier (08 R195). -/

theorem Keeps.tierUe (h : Keeps n s) {part ch atom : Nat} : Keeps n (tierUe s part ch atom) := h.setStack.raiseEvent
theorem Keeps.tierLate (h : Keeps n s) {part ch atom : Nat} : Keeps n (tierLate s part ch atom) := h.setStack.raiseEvent

theorem Keeps.countAtom (h : Keeps n s) {part : Nat} {r : AtomRead} : Keeps n (countAtom s part r).1 :=
  .ite h.setStack.tierUe h.setStack

theorem Keeps.tierStatus (h : Keeps n s) {part : Nat} {t : Tier} : Keeps n (tierStatus s part t).1 := by
  refine Keeps.foldl_fst h fun h e => ?_
  split
  · exact h.countAtom
  · exact h.tierLate

theorem Keeps.openBytes (h : Keeps n s) {k : Nat} : Keeps n (openBytes s k).2 := h

/-! The flash store. -/

theorem Keeps.flashUe (h : Keeps n s) {o off : Nat} : Keeps n (flashUe s o off) := .raiseEvent (by exact h)

theorem Keeps.readCodeword (h : Keeps n s) {o : Nat} {r : CodewordRead} : Keeps n (readCodeword s o r) :=
  .ite (.flashUe (by exact h)) h

theorem Keeps.readCodewords (h : Keeps n s) {o off len : Nat} {rs : List CodewordRead} :
    Keeps n (readCodewords s o off len rs).1 := by
  refine Keeps.foldl_fst h fun h r => ?_
  split
  · exact h
  · exact h.readCodeword

theorem Keeps.wearOut (h : Keeps n s) {w : FlashWear} : Keeps n (wearOut s w) := by
  have hbad : Keeps n (w.bad.foldl (fun s b => Machine.raiseEvent s evBadBlock srcFlash 0xF
      (toLe 1 b.channel ++ toLe 1 b.ce ++ toLe 1 b.lun ++ [0] ++ toLe 4 b.block)) s) := h.foldl fun h _ => h.raiseEvent
  refine .ite (.raiseEvent ?_) ?_
  · refine Keeps.ite hbad ?_
    exact hbad
  · exact .ite hbad hbad

theorem Keeps.wholeObject (h : Keeps n s) {f o : Nat} {env : Env} : Keeps n (wholeObject s f o env).1 := by
  unfold Machine.wholeObject
  split_ifs
  · exact h
  · exact h
  · split
    · exact h
    · split_ifs
      · exact h
      · exact h
      · dsimp only
        split
        · exact h.readCodewords.sound
        · exact h.readCodewords

theorem Keeps.createHidden (h : Keeps n s) {c : Cmd} {o : Nat} : Keeps n (createHidden s c o) := h

theorem Keeps.appendHidden (h : Keeps n s) {o : Nat} {bs : List Byte} : Keeps n (appendHidden s o bs) := by
  unfold Machine.appendHidden
  split <;> exact h

theorem Keeps.readDelivers (h : Keeps n s) {d : List Byte} {b : Obj} {env : Env} : Keeps n (readDelivers s d b env).1 := by
  unfold Machine.readDelivers
  dsimp only
  split
  · exact h.readCodewords.sound
  · exact h.readCodewords.sound

theorem runStoreRead_keeps : RunKeeps runStoreRead := by
  intro n s c env h hc
  unfold runStoreRead
  split
  · exact h.finish
  · exact .finish (.ite (h.chargeCmd hc).readDelivers.hbmPut (h.chargeCmd hc).readDelivers.hostWrite)
  · exact h.finish

theorem Keeps.pendWrite (h : Keeps n s) {c : Cmd} {o : Nat} {create seal' : Bool} {bs : List Byte} {env : Env} :
    Keeps n (runStoreWrite.pendWrite s c o create bs seal' env) := .ite h.finish h.wearOut

theorem runStoreWrite_keeps : RunKeeps runStoreWrite := by
  intro n s c env h hc
  unfold runStoreWrite
  split
  · exact h.finish
  · refine .ite ?_ (.ite (h.chargeCmd hc).hostReadFailed (h.chargeCmd hc).hostRead.pendWrite)
    dsimp only
    split
    · exact (h.chargeCmd hc).tierStatus.finish
    · exact (h.chargeCmd hc).tierStatus.hbmGet.pendWrite

theorem runStoreDelete_keeps : RunKeeps runStoreDelete := by
  intro n s c env h hc
  refine .ite h.finish (.ite h.finish ?_)
  split
  · exact h.finish
  · exact .ite h.finish (.ite h.finish (h.chargeCmd hc))

theorem runStoreList_keeps : RunKeeps runStoreList := by
  intro n s c env h hc
  exact .ite h.finish (.ite h.finish (.ite h.finish (.ite h.finish (h.chargeCmd hc).hostWrite.finish)))

theorem Keeps.execJournalProgram (h : Keeps n s) : Lands (execJournalProgram s) :=
  Keeps.lands (n := n) (.foldl (by exact h) fun h _ => h.finishId)

theorem Keeps.execFlashPatrol (h : Keeps n s) {reads : List (Nat × CodewordRead)} {refreshed : Nat} {wear : FlashWear}
    {passDone : Bool} : Lands (execFlashPatrol reads refreshed wear passDone s) := by
  refine Keeps.lands (n := n) (.ite (.wearOut ?_) h)
  exact Keeps.foldl h fun h _ => h.readCodeword

/-! COPY. -/

theorem Keeps.copyTo (h : Keeps n s) {d bs : List Byte} : Keeps n (copyTo s d bs) := .ite h.hostWrite h.hbmPut
theorem Keeps.copyJunk (h : Keeps n s) {d : List Byte} : Keeps n (copyJunk s d) := h.openBytes.copyTo

theorem runCopy_keeps : RunKeeps runCopy := by
  intro n s c env h hc
  unfold runCopy
  dsimp only
  split
  · exact h.finish
  · refine .ite (h.chargeCmd hc).copyJunk.unitFault.finish
      (.ite (.ite (h.chargeCmd hc).copyJunk.hostReadFailed (h.chargeCmd hc).hostRead.copyTo.finish) ?_)
    split
    · exact (h.chargeCmd hc).tierStatus.copyJunk.finish
    · exact (h.chargeCmd hc).tierStatus.hbmGet.copyTo.finish

end Sys2Proof.Machine
end

section
/-! The invariant, kept by faults, data errors, dead cores and what is found wrong in memory (13 R286 to R299, 08 R176 to R200). -/

namespace Sys2Proof.Machine

variable {n : Nat} {s : State}

theorem Keeps.abandonRun (h : Keeps n s) {p : Nat} : Keeps n (abandonRun s p) := by
  unfold Machine.abandonRun
  dsimp only
  split
  · exact h.dropCodecOps.idleCores.dropResampleOps.setRun.finishId
  · exact h.dropCodecOps.idleCores.dropResampleOps.setRun

theorem Keeps.jobFault (h : Keeps n s) {p : Nat} : Keeps n (jobFault s p) := by
  unfold Machine.jobFault
  dsimp only
  split
  · exact h
  · exact h
  · refine .ite ?_ h.abandonRun
    split
    · exact h
    · exact .ite h.raiseEvent.setRun.endJob h.setRun.abandonRun

theorem Keeps.faultFrom (h : Keeps n s) {source p : Nat} : Keeps n (faultFrom s source p) := h.raiseEvent.jobFault

theorem Keeps.execLogicFault (h : Keeps n s) {unit : FaultUnit} : Lands (execLogicFault unit s) := by
  refine Keeps.lands (n := n) (.ite h ?_)
  split
  · exact .ite h.faultFrom h
  · exact .ite h.faultFrom h
  · exact .ite h.faultFrom h
  · exact h.failDevice

theorem Keeps.execDeadCoreMessage (h : Keeps n s) {core : Nat} : Lands (execDeadCoreMessage core s) :=
  Keeps.lands (n := n) (by exact .ite (.ite h.setCore.raiseEvent h.setCore) h)

/-! Lost pages and plans. -/

theorem Keeps.removeNode (h : Keeps n s) {v : Node} : Keeps n (removeNode s v) := h
theorem Keeps.loseNode (h : Keeps n s) {v : Node} : Keeps n (loseNode s v) := h

theorem Keeps.dropPage (h : Keeps n s) {p k pg : Nat} : Keeps n (dropPage s p k pg) := by
  refine .ite h ?_
  split
  · exact h.setPlan
  · exact h

theorem Keeps.endInStep (h : Keeps n s) {r : Request} {status : Nat} : Keeps n (endInStep s r status) := by
  refine Keeps.endRequest ?_
  split
  · exact h.setRun
  · exact h

theorem Keeps.pageError (h : Keeps n s) {p k pg status : Nat} : Keeps n (pageError s p k pg status) := by
  refine Keeps.dropPage (Keeps.foldl ?_ fun h _ => h.endInStep)
  split
  · exact h.loseNode
  · exact h

theorem Keeps.planError (h : Keeps n s) {p k status : Nat} : Keeps n (planError s p k status) := by
  refine Keeps.endJob (Keeps.endRequests (Keeps.foldl ?_ fun h _ => h.endInStep))
  split
  · exact h.setPlan
  · exact h

theorem Keeps.dataError (h : Keeps n s) {p status : Nat} {page : Option Nat} : Keeps n (dataError s p status page) := by
  unfold Machine.dataError
  split
  · exact h
  · exact h
  · refine .ite h (.ite ?_ h.endJob)
    split
    · exact h.pageError
    · exact h.planError

/-! Tier reads, Mere and the stacks. -/

theorem Keeps.readTile (h : Keeps n s) {p b tile joined : Nat} {events : Tier} : Keeps n (readTile s p b tile joined events).1 := by
  unfold Machine.readTile
  dsimp only
  split
  · exact h.addRead.onMere.tierStatus
  · exact h.addRead.onMere.tierStatus.onMere

theorem Keeps.execTierRead (h : Keeps n s) {p tile issued joined : Nat} {reads : List AtomRead} {page : Option Nat} :
    Lands (execTierRead p tile issued joined reads page s) := by
  refine Keeps.lands (n := n) (.ite h ?_)
  split
  · exact h
  · refine .ite h.onMere ?_
    dsimp only
    split
    · exact h.readTile.dataError
    · exact h.readTile

theorem Keeps.execTierReadLate (h : Keeps n s) {p tile atom issued : Nat} {page : Option Nat} :
    Lands (execTierReadLate p tile atom issued page s) :=
  Keeps.lands (n := n) (by exact .ite (.ite h.tierLate h.tierLate.dataError) h)

theorem Keeps.commandError (h : Keeps n s) {id : Nat} : Keeps n (commandError s id) := by
  unfold Machine.commandError
  split
  · exact h.dataError
  · split
    · exact h.endInStep
    · split
      · exact .ite h.finish h
      · exact h

theorem Keeps.mereUe (h : Keeps n s) {b addr : Nat} {use : MereUse} : Keeps n (mereUe s b addr use) := by
  cases use with
  | tensor => exact .ite h.dataError h
  | page k => exact .ite h.dataError h
  | stream tile reread page =>
    refine .ite ?_ h
    split
    · exact h.onMere.readTile.dataError
    · exact h.onMere.readTile
  | control => exact .ite h.faultFrom h
  | node k =>
    refine .ite ?_ h
    split
    · exact h.loseNode
    · exact h
  | request q k slot =>
    refine .ite ?_ h
    split
    · exact h.endInStep
    · exact h
  | mover id => exact .ite h.commandError h
  | free => exact h

theorem Keeps.execMereScrub (h : Keeps n s) {b addr : Nat} {byRead : Bool} {found : MereFound} :
    Lands (execMereScrub b addr byRead found s) := by
  refine Keeps.lands (n := n) (.ite h ?_)
  split
  · exact h.onMere
  · exact .ite h h.onMere
  · exact h.onMere.raiseEvent.mereUe

theorem Keeps.patrolAtom (h : Keeps n s) {r : AtomRead} : Keeps n (patrolAtom s r) := .ite h.countAtom.setStack h.countAtom

theorem Keeps.execHbmPatrol (h : Keeps n s) {stack : Nat} {reads : List AtomRead} {onDie retries : Nat} {passDone : Bool} :
    Lands (execHbmPatrol stack reads onDie retries passDone s) :=
  Keeps.lands (n := n) (by exact .ite (.ite (h.setStack.setStack.foldl fun h _ => h.patrolAtom) h.setStack) h)

end Sys2Proof.Machine
end

section
/-! The invariant, kept by accounts, partitions, snapshots and register writes (15 R331 to R345, 19 R414, 20 R423 to R427). -/

namespace Sys2Proof.Machine

variable {n : Nat} {s : State}

theorem Keeps.chargeShare (h : Keeps n s) {e : Nat × Charge} : Keeps n (chargeShare s e) := by
  refine .ite h ?_
  split
  next c hc => exact h.chargeCmd (h.behind_cmd hc)
  next => exact h

theorem Keeps.execAccountUpdate (h : Keeps n s) {shares : List (Nat × Charge)} {un total : Nat} :
    Lands (execAccountUpdate shares un total s) :=
  have hcharged : Keeps n (shares.foldl Machine.chargeShare s) := h.foldl fun h _ => h.chargeShare
  Keeps.lands (n := n) (.ite hcharged.sound h)

theorem Keeps.zeroAccounts (h : Keeps n s) {c k : Nat} : Keeps n (zeroAccounts s c k) := h

theorem runAcctRead_keeps : RunKeeps runAcctRead := by
  intro n s c env h hc
  refine .ite h.finish (.ite h.finish (.ite h.finish (Keeps.finish (.ite ?_ ?_))))
  · exact (h.chargeCmd hc).hostWrite.zeroAccounts
  · exact (h.chargeCmd hc).hostWrite

theorem Keeps.writeShortfalls (h : Keeps n s) {area : Nat} {rs : List (List Byte)} : Keeps n (writeShortfalls s area rs) :=
  .ite h h.hostWrite

theorem Keeps.of_parts (h : Keeps n s) {v : Tab Partition} : Keeps n { s with parts := v } := h

theorem Keeps.setOwner (h : Keeps n s) {p : Nat} {owner : Option Nat} : Keeps n (setOwner s p owner) :=
  h.foldl fun h _ => .ite h h.setFn

theorem Keeps.wipeBasins (h : Keeps n s) {bs : List Nat} : Keeps n (wipeBasins s bs) := h.foldl fun h _ => h.onMere

theorem Keeps.deletePartition (h : Keeps n s) {p : Nat} {o : Partition} : Keeps n (deletePartition s p o) :=
  h.wipeBasins.wipeGranules.of_parts.setOwner

theorem runPartitionSet_keeps : RunKeeps runPartitionSet := by
  intro n s c env h hc
  unfold runPartitionSet
  dsimp only
  split
  · exact h.finish
  · exact .ite (h.chargeCmd hc).deletePartition.finish (.ite h.writeShortfalls.finish
      (Keeps.of_parts (.ite (h.chargeCmd hc).wipeBasins.wipeGranules (h.chargeCmd hc).wipeBasins)).setOwner.finish)

theorem runSnapshot_keeps : RunKeeps runSnapshot := by
  intro n s c env h hc
  unfold runSnapshot
  dsimp only
  have hreport : ∀ {s}, Keeps n s → Keeps n (if (leAt c.desc 56 8 != 0 && inWindows s c.fn (leAt c.desc 56 8) 8) = true
      then Machine.hostWrite s (leAt c.desc 56 8)
        (toLe 8 (64 + (((List.range 6).filter (bitOf (bitsOf (leAt c.desc 32 1) 0 6))).map fun k => 32 + snapLength s k).sum)) else s) :=
    fun h => .ite h.hostWrite h
  exact .ite h.finish (.ite (Keeps.ite h.hostWrite h).finish (.ite (Keeps.ite h.hostWrite h).finish
    (.ite (Keeps.ite h.hostWrite h).finish (Keeps.ite (h.chargeCmd hc).hostWrite (h.chargeCmd hc)).drawFree.hostWrite.finish)))

/-! Register writes. -/

theorem Keeps.touch (h : Keeps n s) {f : Nat} : Keeps n (touch s f) := .ite h h.setLatch

theorem Keeps.writeHifFn (h : Keeps n s) {g o : Nat} {acc : RegAcc} {v : Word64} : Keeps n (writeHifFn s g o acc v) :=
  .ite (.ite h h.setFn) (.ite (.ite h.setFn h.setFn) h)

theorem Keeps.writeMsix (h : Keeps n s) {f q : Nat} {acc : RegAcc} {v : Word64} : Keeps n (writeMsix s f q acc v) :=
  .ite (.raiseVector (by exact h)) h

theorem Keeps.writeHif (h : Keeps n s) {f o : Nat} {acc : RegAcc} {v : Word64} : Keeps n (writeHif s f o acc v) :=
  .ite h.writeMsix (.ite h.writeHifFn h)

theorem Keeps.writeRing (h : Keeps n s) {f o : Nat} {acc : RegAcc} {v : Word64} : Keeps n (writeRing s f o acc v) := .ite h.setCq h

theorem Keeps.writeEvt (h : Keeps n s) {f o : Nat} {acc : RegAcc} {v : Word64} : Keeps n (writeEvt s f o acc v) :=
  .ite (.ite h.setEvtRing h) (.ite h h)

theorem Keeps.writeMgt (h : Keeps n s) {o : Nat} {acc : RegAcc} {v : Word64} : Keeps n (writeMgt s o acc v) :=
  .ite (.ite h h) (.ite h (.ite h h))

theorem Keeps.writeSec (h : Keeps n s) {o : Nat} {acc : RegAcc} {v : Word64} : Keeps n (writeSec s o acc v) :=
  .ite h (.ite h (.ite h (.ite h (.ite h h))))

theorem Keeps.writeLcs (h : Keeps n s) {o : Nat} {acc : RegAcc} {v : Word64} : Keeps n (writeLcs s o acc v) :=
  .ite h (.ite h (.ite h (.ite h h)))

theorem Keeps.writeTel (h : Keeps n s) {o : Nat} {acc : RegAcc} {v : Word64} : Keeps n (writeTel s o acc v) :=
  .ite h (.ite h (.ite h (.ite h (.ite h h))))

theorem Keeps.writeMtc (h : Keeps n s) {o : Nat} {acc : RegAcc} {v : Word64} : Keeps n (writeMtc s o acc v) :=
  .ite h (.ite h (.ite h (.ite h h)))

theorem Keeps.writeTg (h : Keeps n s) {c o : Nat} {acc : RegAcc} {v : Word64} : Keeps n (writeTg s c o acc v) :=
  .ite h.setTg (.ite h.setTg (.ite h.setTg (.ite h.setTg (.ite h.setTg (.ite h.setTg h)))))

theorem Keeps.writeHbm (h : Keeps n s) {o : Nat} {acc : RegAcc} {v : Word64} : Keeps n (writeHbm s o acc v) :=
  .ite h.setStack (.ite h.writeTg h)

theorem Keeps.writeFls (h : Keeps n s) {o : Nat} {acc : RegAcc} {v : Word64} : Keeps n (writeFls s o acc v) :=
  .ite h (.ite h (.ite h h))

theorem Keeps.writeNum (h : Keeps n s) {b o : Nat} {acc : RegAcc} {v : Word64} : Keeps n (writeNum s b o acc v) :=
  .ite h.setBasin (.ite h.setBasin h)

theorem Keeps.writeRng (h : Keeps n s) {o : Nat} {acc : RegAcc} {v : Word64} : Keeps n (writeRng s o acc v) :=
  .ite h (.ite h (.ite h (.ite h (.ite h (.ite h h)))))

theorem Keeps.writeBist (h : Keeps n s) {o : Nat} {acc : RegAcc} {v : Word64} : Keeps n (writeBist s o acc v) :=
  .ite h (.ite h (.ite h h))

theorem Keeps.inBasin (h : Keeps n s) {b : Nat} {t : State} (ht : Keeps n t) : Keeps n (inBasin s b t) := .ite h ht

theorem Keeps.writeAlways (h : Keeps n s) {o : Nat} {acc : RegAcc} {v : Word64} {t : State} (ht : writeAlways s o acc v = some t) :
    Keeps n t := by
  unfold Machine.writeAlways at ht
  split_ifs at ht <;> obtain rfl := Option.some.inj ht
  · exact h
  · exact h.writeHif
  · exact h.writeRing
  · exact h
  · exact h.writeMgt
  · exact h.writeSec
  · exact h.writeLcs
  · exact h.writeTel
  · exact h.writeEvt
  · exact .ite h h

theorem Keeps.writeUnit (h : Keeps n s) {o : Nat} {acc : RegAcc} {v : Word64} : Keeps n (writeUnit s o acc v) :=
  .ite h.writeMtc <| .ite (.ite h h) <| .ite (h.inBasin (.ite h.setPort h)) <| .ite (h.inBasin h.writeHbm) <| .ite h.writeFls <|
    .ite h.writeRng <| .ite (h.inBasin (.ite h.setBasin h)) <| .ite (h.inBasin (.ite h.setBasin h)) <|
    .ite (h.inBasin (.ite h.setCore h)) <| .ite h.writeBist <| .ite (h.inBasin h.writeNum) <|
    .ite (h.inBasin (.ite h.setBasin h)) h

theorem Keeps.writeWindow (h : Keeps n s) {o : Nat} {acc : RegAcc} {v : Word64} : Keeps n (writeWindow s o acc v) :=
  .ite { h with window := Mem.wf_writeN _ _ h.window } h

theorem Keeps.regWrite (h : Keeps n s) {f o : Nat} {acc : RegAcc} {v : Word64} : Keeps n (regWrite s f o acc v) := by
  refine .ite (.ite h.writeWindow ?_) (.ite h.writeHif (.ite h.writeRing (.ite h.writeEvt h)))
  split
  next ht => exact h.writeAlways ht
  next => exact .ite h h.writeUnit

theorem Keeps.latchAcct (h : Keeps n s) {f : Nat} : Keeps n (latchAcct s f) := .ite h.setLatch h
theorem Keeps.latchMem (h : Keeps n s) {f : Nat} {ue : Bool} : Keeps n (latchMem s f ue) := .ite h h

theorem Keeps.execHalfReadLatch (h : Keeps n s) {f off : Nat} : Lands (execHalfReadLatch f off s) :=
  Keeps.lands (n := n) (by exact .ite (Keeps.setLatch (.ite h.latchAcct (.ite h.latchMem h))) h)

theorem Keeps.telClear (h : Keeps n s) : Keeps n (telClear s) := h

/-! The mailbox. -/

theorem Keeps.mbAnswer (h : Keeps n s) {path : MbPath} {result : Nat} {resp : Option Word64} :
    Keeps n (mbAnswer s path result resp) := by
  cases path <;> exact h

theorem Keeps.mbOpcode (h : Keeps n s) {path : MbPath} {o : Nat} : Keeps n (mbOpcode s path o) := by
  cases path <;> exact h

end Sys2Proof.Machine
end

section
/-! The invariant, kept by Spring and the seeding generator (09 R205 to R208). -/

namespace Sys2Proof.Machine

variable {n : Nat} {s : State}

theorem Keeps.of_rng (h : Keeps n s) {v : Rng} : Keeps n { s with rng := v } := h

theorem Keeps.springFails (h : Keeps n s) {test kind : Nat} : Keeps n (springFails s test kind) := h.of_rng.raiseEvent

theorem Keeps.startUp (h : Keeps n s) {bits : List Bool} : Keeps n (startUp s bits) := by
  unfold Machine.startUp
  dsimp only
  split
  · exact h.of_rng.springFails
  · exact .ite h.of_rng.of_rng h.of_rng.of_rng

theorem Keeps.springBlock (h : Keeps n s) {raw : List Bool} : Keeps n (springBlock s raw) := by
  refine .ite ?_ h
  dsimp only
  split
  · exact h.of_rng.springFails.of_rng
  · exact h.of_rng.of_rng

theorem Keeps.execSpringRetry (h : Keeps n s) {raw : List Bool} : Lands (execSpringRetry raw s) := by
  refine Keeps.lands (n := n) ?_
  split
  · exact .ite h.of_rng.startUp h
  · exact h

theorem Keeps.takeSpring (h : Keeps n s) {k : Nat} : Keeps n (takeSpring s k).2 := h
theorem Keeps.drbgInstantiate (h : Keeps n s) : Keeps n (drbgInstantiate s) := h.takeSpring.of_rng
theorem Keeps.drbgReseed (h : Keeps n s) : Keeps n (drbgReseed s) := h.takeSpring.of_rng

theorem Keeps.drbgBytes (h : Keeps n s) {k : Nat} {r : List Byte × State} (hr : drbgBytes s k = some r) : Keeps n r.2 := by
  unfold Machine.drbgBytes at hr
  split at hr
  · cases hr
  · obtain rfl := Option.some.inj hr
    exact Keeps.of_rng (.ite h.drbgReseed h)

theorem Keeps.drawSeedN (h : Keeps n s) {k : Nat} {r : Word64 × State} (hr : drawSeedN k s = some r) : Keeps n r.2 := by
  induction k generalizing s with
  | zero => cases hr
  | succ k ih =>
    unfold Machine.drawSeedN at hr
    split at hr
    next => cases hr
    next bs s1 hbytes =>
      split at hr
      · exact ih (h.drbgBytes hbytes) hr
      · obtain rfl := Option.some.inj hr
        exact (h.drbgBytes hbytes).of_rng

theorem Keeps.drawSeed (h : Keeps n s) {r : Word64 × State} (hr : drawSeed s = some r) : Keeps n r.2 := h.drawSeedN hr

theorem Keeps.laneTest (h : Keeps n s) {v : Word64} : Keeps n (laneTest v s) := .ite h.of_rng h.of_rng

end Sys2Proof.Machine
end

section
/-! The invariant, kept by resets, power and JTAG (17 R376 to R384, 14 R308, 19 R410). -/

namespace Sys2Proof.Machine

variable {n : Nat} {s : State}

/-- A reset clears what the invariant speaks of, but for the host's memory, the fuses and the numbers given out. -/
theorem Keeps.coldState (h : Keeps n s) : Keeps n (coldState s) where
  host := h.host
  hbm := rfl
  window := rfl
  log := Nat.zero_le _
  cmds := fun _ hc => absurd hc List.not_mem_nil
  rings := fun _ he => absurd he List.not_mem_nil
  slots := h.slots
  next := h.next

theorem Keeps.coldHold (h : Keeps n s) {cause : BitVec 3} {pwrGood perst : Bool} : Keeps n (coldHold s cause pwrGood perst) :=
  h.coldState.of_run

theorem Keeps.of_warm (h : Keeps n s) {v : Tab Stack} {run : RunState} :
    Keeps n { s with hbmStacks := v, run := run } := h

theorem Keeps.warmReset (h : Keeps n s) {cause : BitVec 3} : Keeps n (warmReset s cause) := .ite h.coldState.of_warm h

theorem Keeps.execResetRelease (h : Keeps n s) : Lands (execResetRelease s) := by
  refine Keeps.lands (n := n) ?_
  split
  · exact h.of_run
  · exact h.coldHold.of_run
  · exact h

/-! Function-level reset. -/

theorem Keeps.abandonCmds (h : Keeps n s) {f : Nat} : Keeps n (abandonCmds s f) :=
  { h with cmds := fun c hc => h.cmds c (List.mem_of_mem_filter hc) }

theorem Keeps.resetRings (h : Keeps n s) {f : Nat} : Keeps n (resetRings s f) :=
  { h with rings := fun e he => h.rings e (List.mem_of_mem_filter he) }

theorem Keeps.of_wiped (h : Keeps n s) {nodes : List Node} {basins : Tab Basin} :
    Keeps n { s with nodes := nodes, basins := basins } := h

theorem Keeps.wipePartition (h : Keeps n s) {p : Nat} : Keeps n (wipePartition s p) := by
  have hdropped : Keeps n ((planHandles (Machine.clearPreempted (Machine.clearJob s p) p) p).foldl (fun s k => Machine.dropPlan s p k)
      (Machine.clearPreempted (Machine.clearJob s p) p)) := h.clearJob.clearPreempted.foldl fun h _ => h.dropPlan
  unfold Machine.wipePartition
  dsimp only
  split
  · exact hdropped.setRun.wipeGranules.of_wiped
  · exact hdropped.setRun

theorem Keeps.flrOne (h : Keeps n s) {f : Nat} : Keeps n (flrOne s f) :=
  .ite (h.abandonCmds.resetRings.foldl fun h _ => h.wipePartition) h.abandonCmds.resetRings

theorem Keeps.of_hif (h : Keeps n s) {v : Hif} : Keeps n { s with hif := v } := h

theorem Keeps.flrFunctions (h : Keeps n s) {fs : List Nat} : Keeps n (fs.foldl (fun s i => Machine.flrOne s (i + 1)) s) :=
  h.foldl fun h _ => h.flrOne

theorem Keeps.flr (h : Keeps n s) {f : Nat} : Keeps n (flr s f) :=
  .ite (Keeps.of_hif (Keeps.flrOne (.ite h.flrFunctions h))) h.flrOne

theorem Keeps.execPcieConfigWrite (h : Keeps n s) {requester f : Nat} {vfEnable : Option Bool} :
    Lands (execPcieConfigWrite requester f vfEnable s) := by
  refine Keeps.lands (n := n) (.ite ?_ h)
  cases vfEnable with
  | none => exact h.of_hif
  | some on => cases on with
    | true => exact .ite h.of_hif.of_hif h.of_hif
    | false => exact .ite h.of_hif.flrFunctions.of_hif h.of_hif

/-! Power, temperature, JTAG. -/

theorem Keeps.of_tel (h : Keeps n s) {v : Tel} : Keeps n { s with tel := v } := h

theorem Keeps.execThrottleRelease (h : Keeps n s) : Lands (execThrottleRelease s) := Keeps.lands (n := n) (.ite (by exact h) h)
theorem Keeps.execPowerSample (h : Keeps n s) {mw : Nat} {rails : List Nat} : Lands (execPowerSample mw rails s) :=
  Keeps.lands (n := n) (.ite h.of_tel h)
theorem Keeps.execPowerRaise (h : Keeps n s) : Lands (execPowerRaise s) := Keeps.lands (n := n) (.ite h.of_tel h)

theorem Keeps.of_temps (h : Keeps n s) {tel : Tel} {v : Tab Stack} : Keeps n { s with tel := tel, hbmStacks := v } := h

theorem Keeps.storeTemps (h : Keeps n s) {dies rates : List Nat} : Keeps n (storeTemps s dies rates) := h.of_temps

theorem Keeps.thermalLoop (h : Keeps n s) {logic stack : Nat} : Keeps n (thermalLoop s logic stack) :=
  .ite h.of_tel (.ite h.of_tel h.of_tel)

theorem Keeps.thermalAlert (h : Keeps n s) {logic stack : Nat} : Keeps n (thermalAlert s logic stack) := h

theorem Keeps.execThermalSample (h : Keeps n s) {dies rates : List Nat} : Lands (execThermalSample dies rates s) :=
  Keeps.lands (n := n) (.ite h (.ite h.coldState.of_run h.storeTemps.thermalLoop.thermalAlert))

theorem Keeps.execThermAlertAssert (h : Keeps n s) : Lands (execThermAlertAssert s) := by
  refine Keeps.lands (n := n) ?_
  split
  · exact .ite h.of_run h
  · exact h

theorem Keeps.of_jtag (h : Keeps n s) {v : Jtag} : Keeps n { s with jtag := v } := h

theorem Keeps.jtagRelease (h : Keeps n s) {instr : BitVec 8} : Keeps n (jtagRelease s instr) := .ite h.of_jtag.warmReset h.of_jtag

theorem Keeps.jtagLoad (h : Keeps n s) {code : Nat} : Keeps n (jtagLoad s code) :=
  .ite h (.ite h.jtagRelease h.of_jtag)

theorem Keeps.execJtagReadback (h : Keeps n s) {off : Nat} : Lands (execJtagReadback off s) :=
  Keeps.lands (n := n) (.ite h.jtagLoad.of_jtag h.jtagLoad)

end Sys2Proof.Machine
end

section
/-! The invariant, kept by recovery, attestation, the life cycle and the key slots (18 R387 to R403). -/

namespace Sys2Proof.Machine

variable {n : Nat} {s : State}

/-- The registers of SEC and LCS change; the recovery window stays. -/
theorem Keeps.of_sec (h : Keeps n s) {v : Sec} (hv : v.window = s.sec.window) : Keeps n { s with sec := v } :=
  { h with window := by simpa [hv] using h.window }

/-- Fuses change; there are four key slots still. -/
theorem Keeps.of_fuses (h : Keeps n s) {v : Fuses} (hv : v.slots.length = 4) : Keeps n { s with fuses := v } :=
  { h with slots := hv }

theorem Keeps.of_medium (h : Keeps n s) {v : Medium} : Keeps n { s with medium := v } := h

theorem Keeps.runFirmware (h : Keeps n s) {image : List Byte} {window : Bool} : Keeps n (runFirmware s image window) :=
  (h.of_sec (by rfl)).of_run

theorem Keeps.installImage (h : Keeps n s) {image : List Byte} : Keeps n (installImage s image) := h.of_medium

theorem Keeps.execRecoveryGo (h : Keeps n s) {mode storeOk : Bool} : Lands (execRecoveryGo mode storeOk s) :=
  Keeps.lands (n := n) (.ite (.ite (h.of_sec (by rfl)) (.ite (h.of_sec (by rfl)).runFirmware (h.of_sec (by rfl)).installImage)) h)

theorem Keeps.attestFails (h : Keeps n s) {kind : Bool} {result : BitVec 2} : Keeps n (attestFails s kind result) :=
  h.of_sec (by rfl)

theorem Keeps.execAttestationGo (h : Keeps n s) {kind hostOk : Bool} : Lands (execAttestationGo kind hostOk s) := by
  refine Keeps.lands (n := n) (.ite ?_ h)
  split
  · exact h.attestFails
  · exact .ite h.attestFails (.ite (.ite h.attestFails (h.attestFails.of_sec (by rfl))) (h.hostWrite.of_sec (by rfl)))

theorem Keeps.mctpAnswer (h : Keeps n s) {result : BitVec 3} {resp : List Byte} : Keeps n (mctpAnswer s result resp) := h

theorem Keeps.execMctpAttestReport (h : Keeps n s) {nonce : List Byte} : Lands (execMctpAttestReport nonce s) := by
  refine Keeps.lands (n := n) (.ite ?_ h)
  split
  · exact h.mctpAnswer
  · exact (h.of_sec (by rfl)).mctpAnswer

theorem Keeps.execMctpPublicKey (h : Keeps n s) : Lands (execMctpPublicKey s) := by
  refine Keeps.lands (n := n) (.ite ?_ h)
  split <;> exact h.mctpAnswer

theorem Keeps.refuseLc (h : Keeps n s) {target result detail : Nat} : Keeps n (refuseLc s target result detail) :=
  h.of_sec (by rfl)

theorem Keeps.lcKeys (h : Keeps n s) {target : Nat} : Keeps n (lcKeys s target) := by
  refine .ite ?_ (.ite (h.of_medium.of_fuses h.slots) (.ite ((h.of_fuses h.slots).of_medium) h))
  split
  next hbytes => exact (h.drbgBytes hbytes).of_fuses (h.drbgBytes hbytes).slots
  next => exact h.takeSpring.of_fuses h.slots

theorem Keeps.lcTransition (h : Keeps n s) {target : Nat} {hostOk fuseOk : Bool} :
    Keeps n (lcTransition s target hostOk fuseOk) :=
  .ite h.refuseLc (.ite h.refuseLc (.ite h.refuseLc (.ite h.lcKeys.refuseLc (h.lcKeys.of_fuses (by exact h.lcKeys.slots)).warmReset)))

theorem Keeps.execLcRequest (h : Keeps n s) {v : Nat} {fuseOk : Bool} : Lands (execLcRequest v fuseOk s) :=
  Keeps.lands (n := n) (.ite (.ite h.jtagLoad.of_jtag.lcTransition h.jtagLoad.of_jtag) h.jtagLoad)

theorem Keeps.slotEnds (h : Keeps n s) {slot result : Nat} : Keeps n (slotEnds s slot result) := h.of_sec (by rfl)

theorem Keeps.setSlot (h : Keeps n s) {k : Nat} {v : KeySlot} : Keeps n (setSlot s k v) :=
  h.of_fuses (by simpa using h.slots)

theorem Keeps.execLcsSlotFuse (h : Keeps n s) {slot : Nat} {fuseOk : Bool} : Lands (execLcsSlotFuse slot fuseOk s) :=
  Keeps.lands (n := n) (.ite (.ite h.slotEnds (.ite h.slotEnds h.setSlot.slotEnds)) h)

theorem Keeps.execLcsSlotRevoke (h : Keeps n s) {slot : Nat} {hostOk fuseOk : Bool} :
    Lands (execLcsSlotRevoke slot hostOk fuseOk s) :=
  Keeps.lands (n := n) (.ite (.ite h.setSlot.slotEnds h.slotEnds) h)

end Sys2Proof.Machine
end

section
/-! The invariant, kept by the start, self-tests and the traffic generators (17 R373, 19 R404 to R409, 08 R201). -/

namespace Sys2Proof.Machine

variable {n : Nat} {s : State}

theorem Keeps.bootSpring (h : Keeps n s) {raw : List (List Bool)} : Keeps n (bootSpring s raw) :=
  .ite (h.foldl fun h _ => h.springBlock) (.ite h (h.startUp.foldl fun h _ => h.springBlock))

theorem Keeps.formatStore (h : Keeps n s) : Keeps n (formatStore s) := h.takeSpring.of_medium
theorem Keeps.mediaRegs (h : Keeps n s) {m : BootMedia} : Keeps n (mediaRegs s m) := h
theorem Keeps.storeState (h : Keeps n s) {cause : Nat} : Keeps n (storeState s cause) := h

theorem Keeps.bootStore (h : Keeps n s) {m : BootMedia} : Keeps n (bootStore s m) :=
  .ite h.mediaRegs.storeState (.ite (.ite h.mediaRegs.storeState (.ite h.mediaRegs.formatStore.storeState h.mediaRegs.storeState))
    h.mediaRegs.storeState)

theorem Keeps.bootFirmware (h : Keeps n s) {m : BootMedia} : Keeps n (bootFirmware s m) := by
  refine .ite h (.ite ?_ (h.of_sec (by rfl)).of_run)
  split
  · exact h.runFirmware
  · exact h

theorem Keeps.execStage1Complete (h : Keeps n s) {media : BootMedia} {raw : List (List Bool)} :
    Lands (execStage1Complete media raw s) :=
  Keeps.lands (n := n) (.ite (.ite h.bootSpring.bootStore.bootFirmware.of_run.drbgInstantiate h.bootSpring.bootStore.bootFirmware) h)

theorem Keeps.reachFull (h : Keeps n s) : Keeps n (reachFull s) := .ite (h.of_fuses h.slots) h

theorem runBist_keeps : RunKeeps runBist := by
  intro n s c env h hc
  exact .ite h.finish (.ite h.finish (.ite h.finish (.ite h.finish (.ite h.finish
    (Keeps.finish (.ite (h.chargeCmd hc).runTests (h.chargeCmd hc).runTests.hostWrite))))))

theorem Keeps.of_bist (h : Keeps n s) {v : Bist} : Keeps n { s with bist := v } := h

theorem Keeps.execBistGo (h : Keeps n s) {v : Word64} {tests : List TestResult} : Lands (execBistGo v tests s) :=
  Keeps.lands (n := n) (.ite (.ite h.of_bist h.of_bist.runTests.of_bist) h)

theorem Keeps.trainStack (h : Keeps n s) {k : Nat} {ok : Bool} : Keeps n (trainStack s k ok) := .ite h.setStack h.loseStack

theorem Keeps.mapDie (h : Keeps n s) {die : Nat} {ok : Nat → Bool} : Keeps n (mapDie s die ok) := by
  have hroles : ∀ {ps : List Nat}, Keeps n (ps.foldl (fun s p => if ok p
      then s.setCore p { s.core p with role := BitVec.ofNat 3 1, logical := BitVec.ofNat 11 0x7FF, fenced := 1 == 2, lastBeat := s.now }
      else s.setCore p { s.core p with role := BitVec.ofNat 3 2, logical := BitVec.ofNat 11 0x7FF, fenced := 2 == 2, lastBeat := s.now })
      s) := h.foldl fun h _ => .ite h.setCore h.setCore
  unfold Machine.mapDie
  exact .ite hroles (hroles.foldl fun h _ => h.setCore)

theorem Keeps.stage2Tests (h : Keeps n s) {logic memory : List TestResult} : Keeps n (stage2Tests s logic memory) := by
  unfold Machine.stage2Tests
  refine Keeps.foldl (Keeps.foldl (Keeps.foldl (Keeps.foldl ?_ fun h _ => h.mapDie) fun h _ => ?_) fun h _ => h.raiseEvent)
    fun h _ => h.withdrawBasin
  · exact h.recordTests.recordTests
  · exact h.foldl fun h _ => h.unitFails

theorem Keeps.of_basins (h : Keeps n s) {v : Tab Basin} : Keeps n { s with basins := v } := h
theorem Keeps.loadDefaults (h : Keeps n s) : Keeps n (loadDefaults s) := h.of_basins

theorem Keeps.execStage2Complete (h : Keeps n s) {stacksOk : List Bool} {logic memory : List TestResult} :
    Lands (execStage2Complete stacksOk logic memory s) := by
  have htrained : Keeps n ((List.range 20).foldl
      (fun s k => if s.run.failed then s else Machine.trainStack s k (stacksOk.getD k true)) s) := h.foldl fun h _ => .ite h h.trainStack
  refine Keeps.lands (n := n) (.ite ?_ h)
  exact .ite htrained (.ite htrained.wipeAll.stage2Tests.loadDefaults htrained.wipeAll.stage2Tests.loadDefaults.of_run.reachFull)

theorem Keeps.drawSession (h : Keeps n s) : Keeps n (drawSession s).2 := by
  unfold Machine.drawSession
  split
  next hbytes => exact h.drbgBytes hbytes
  next => exact h.takeSpring

theorem Keeps.trainPort (h : Keeps n s) {q : Nat} : Keeps n (trainPort s q) := h.drawSession.setPort
theorem Keeps.standaloneCensus (h : Keeps n s) : Keeps n (standaloneCensus s) := h
theorem Keeps.of_mtc (h : Keeps n s) {v : Mtc} : Keeps n { s with mtc := v } := h

theorem Keeps.execStage3Complete (h : Keeps n s) {trained : List Bool} : Lands (execStage3Complete trained s) := by
  have htrained : ∀ {qs : List Nat}, Keeps n (qs.foldl Machine.trainPort s) := h.foldl fun h _ => h.trainPort
  refine Keeps.lands (n := n) (.ite ?_ h)
  exact Keeps.reachFull (Keeps.of_run (.ite htrained.standaloneCensus htrained.of_mtc))

theorem Keeps.trainForTg (h : Keeps n s) {k : Nat} {ok : Bool} : Keeps n (trainForTg s k ok) := h.setStack

theorem Keeps.execMbTrainStack (h : Keeps n s) {path : MbPath} {ok : Bool} : Lands (execMbTrainStack path ok s) :=
  Keeps.lands (n := n) 
    (.ite (.ite h.mbOpcode.mbAnswer (.ite h.mbOpcode.mbAnswer h.mbOpcode.trainForTg.mbAnswer)) h)

theorem Keeps.tgStart (h : Keeps n s) {ch : Nat} {v : Word64} : Keeps n (tgStart s ch v) :=
  .ite (.ite h.writeTg (.ite h.writeTg.setTg (.ite h.writeTg.setTg h.writeTg.setTg))) h

theorem Keeps.tgStop (h : Keeps n s) {ch : Nat} : Keeps n (tgStop s ch) := .ite h.setTg h

theorem Keeps.of_free (h : Keeps n s) {v : Nat} : Keeps n { s with free := v } := h

theorem Keeps.execHbmTgRunEnd (h : Keeps n s) {ch : Nat} {faults : List TgFault} {lat : List Nat} :
    Lands (execHbmTgRunEnd ch faults lat s) :=
  Keeps.lands (n := n) (.ite (Keeps.of_free (.ite h.setTg.setStack.wipeAtoms h.setTg.setStack)) h)

theorem Keeps.actBits (h : Keeps n s) {a : Nat} {v : Word64} {ok : Bool} : Keeps n (actBits s a v ok) :=
  .ite (.ite h.telClear h) (.ite (.ite h.warmReset h) (.ite h (.ite (.ite h.trainForTg h)
    (.ite (.ite (Keeps.tgStop (.ite h.tgStart h)) (.ite h.tgStart h)) h))))

theorem Keeps.execMbWrite (h : Keeps n s) {path : MbPath} {ok : Bool} : Lands (execMbWrite path ok s) :=
  Keeps.lands (n := n) (.ite (.ite h.mbOpcode.mbAnswer (.ite h.mbOpcode.mbAnswer h.mbOpcode.regWrite.mbAnswer.actBits)) h)

end Sys2Proof.Machine
end

section
/-! The invariant, kept by the work of a job's operations: tensors written and counted, updates, resampling, strips, Sounding and
collectives (02, 03, 04 R91, 06 R126 to R140, 10, 12 R276 to R281). -/

namespace Sys2Proof.Machine

variable {n : Nat} {s : State} {w : Work}

theorem Keeps.foldWork {α : Type} {f : Work → α → Work} (h : Keeps n w.s) (hf : ∀ {w : Work}, Keeps n w.s → ∀ x, Keeps n (f w x).s)
    {xs : List α} : Keeps n (xs.foldl f w).s := by
  induction xs generalizing w with
  | nil => exact h
  | cons x xs ih => exact ih (hf h x)

theorem Keeps.foldWritten {α : Type} {f : α → Work → Written} {a : Written} (h : Keeps n a.w.s)
    (hf : ∀ x {w : Work}, Keeps n w.s → Keeps n (f x w).w.s) {xs : List α} :
    Keeps n (xs.foldl (fun a x => a.then' (f x)) a).w.s := by
  induction xs generalizing a with
  | nil => exact h
  | cons x xs ih => exact ih (hf x h)

theorem Keeps.iteWork {c : Prop} [Decidable c] {a b : Work} (ha : Keeps n a.s) (hb : Keeps n b.s) :
    Keeps n (if c then a else b).s := by
  split
  · exact ha
  · exact hb

theorem workOf_s {p : Nat} (hw : workOf s p = some w) : w.s = s := by
  unfold workOf at hw
  split at hw
  · obtain ⟨pl, _, rfl⟩ := Option.map_eq_some_iff.mp hw
    rfl
  · cases hw

theorem Keeps.workOf (h : Keeps n s) {p : Nat} (hw : workOf s p = some w) : Keeps n w.s := (workOf_s hw).symm ▸ h

theorem Keeps.workState (h : Keeps n w.s) : Keeps n w.state := h.setPlan.setRun

/-! Tensors. -/

theorem Keeps.countPut (h : Keeps n w.s) {t off k : Nat} : Keeps n (w.countPut t off k) := by
  refine .ite h (.ite ?_ h.countWritten)
  split
  · exact h.onMere
  · exact h

theorem Keeps.put (h : Keeps n w.s) {t off : Nat} {bs : List Byte} : Keeps n (w.put t off bs).s := by
  unfold Work.put
  dsimp only
  split
  · exact h.hbmPut
  · exact h.countPut

theorem Keeps.putCopy (h : Keeps n w.s) {t r : Nat} {xs : List Word32} : Keeps n (w.putCopy t r xs).s := by
  unfold Work.putCopy
  generalize copyBase + 2 * (r * 2 ^ 32) = off
  generalize copyTagBase + r = tag
  exact h.put.put

theorem Keeps.putCopies (h : Keeps n w.s) {t : Nat} {producer : Option Nat} {rows : List (List Word32)} :
    Keeps n (w.putCopies t producer rows).s := h.foldWork fun h _ => .iteWork h.putCopy h

theorem Keeps.countNum (h : Keeps n s) {b : Nat} {f : Num → Num} : Keeps n (countNum s b f) := .ite h.setBasin h

theorem Keeps.opEvent (h : Keeps n s) {code source p o : Nat} {detail : List Byte} : Keeps n (opEvent s code source p o detail) :=
  h.raiseEvent

theorem Keeps.putStatics (h : Keeps n w.s) {t r : Nat} {st : List Nat} {xs : List Word32} : Keeps n (w.putStatics t r st xs).s := by
  have hput : ∀ {w : Work} (t off : Nat) (bs : List Byte), Keeps n w.s → Keeps n (w.put t off bs).s := fun _ _ _ h => h.put
  unfold Work.putStatics
  induction st generalizing w with
  | nil => exact h
  | cons k st ih =>
    rw [List.foldl_cons]
    exact ih (hput _ _ _ h)

theorem Keeps.reportBad (h : Keeps n w.s) {o : Nat} {cores : List Nat} : Keeps n (w.reportBad o cores).s :=
  h.foldl fun h _ => h.opEvent.countNum

theorem Keeps.countOuts (h : Keeps n w.s) {cores : List Nat} : Keeps n (w.countOuts cores).s := h.foldl fun h _ => h.countNum

theorem Keeps.reportOverflow (h : Keeps n w.s) {o core tile seg : Nat} : Keeps n (w.reportOverflow o core tile seg).s :=
  h.opEvent.countNum

theorem Keeps.reportRows (h : Keeps n w.s) {o first : Nat} {coreOf : CoreOf} {f : Format} {rows : List (List QBlock)} :
    Keeps n (w.reportRows o first coreOf f rows).s := h.reportBad.countOuts

theorem Keeps.putSlot (h : Keeps n w.s) {o t first : Nat} {coreOf : CoreOf} {e : EcRec} {forced : Bool} {rows : List Row} :
    Keeps n (w.putSlot o t coreOf first e forced rows).w.s := by
  unfold Work.putSlot
  dsimp only
  have hreported : ∀ x : Option (Nat × Nat), Keeps n (match x with
      | some x => if e.spillFault then w else w.reportOverflow o (coreOf (first + x.1) (128 * x.2)) (first / 128) x.2
      | none => w).s := by
    intro x
    split
    · exact .iteWork h h.reportOverflow
    · exact h
  exact .iteWork (hreported _).reportRows.put.put.put (hreported _).reportRows.put.put

theorem Keeps.putPlain (h : Keeps n w.s) {o t r elemOff scaleOff cols : Nat} {coreOf : CoreOf} {f : Format} {row : Row} :
    Keeps n (w.putPlain o t r coreOf f elemOff scaleOff cols row).w.s := by
  unfold Work.putPlain
  dsimp only
  split
  · exact h.put
  · exact .iteWork h.put.put.put.reportRows h.put.put.put.reportBad.countOuts

theorem Keeps.putResidual (h : Keeps n w.s) {e t r : Nat} {vs : List Word32} : Keeps n (w.putResidual e t r vs).s := h.put.put

theorem Keeps.putRow (h : Keeps n w.s) {o t r : Nat} {coreOf : CoreOf} {row : Row} : Keeps n (w.putRow o t r coreOf row).w.s := by
  unfold Work.putRow
  dsimp only
  split
  · exact h.put.putPlain
  · exact Keeps.putPlain (.iteWork h.put h)

theorem Keeps.zeroTail (h : Keeps n w.s) {t off : Nat} : Keeps n (w.zeroTail t off).s := h.put

theorem Keeps.zeroTails (h : Keeps n w.s) {t : Nat} : Keeps n (w.zeroTails t).s :=
  .iteWork h.zeroTail (.iteWork h.zeroTail.zeroTail h.zeroTail)

theorem Keeps.wrote (h : Keeps n w.s) {t : Nat} : Keeps n (w.wrote t).s := h

theorem Keeps.writeTensor (h : Keeps n w.s) {o t : Nat} {e : EcRec} {coreOf : CoreOf} {rows : List (List Word32)} :
    Keeps n (w.writeTensor o t e coreOf rows).w.s := by
  have hstatics : ∀ {vs : List (List Word32)} {st : List Nat}, Keeps n (Written.mk (vs.zipIdx.foldl
      (fun (w : Work) (r : List Word32 × Nat) => w.putStatics t r.2 st r.1) (w.putCopies t (some o) rows)) none).w.s :=
    h.putCopies.foldWork fun h _ => h.putStatics
  unfold Work.writeTensor
  dsimp only
  refine Keeps.wrote (Keeps.zeroTails ?_)
  split
  · refine Keeps.zeroTails (Keeps.foldWork ?_ fun h _ => h.putResidual)
    split
    · exact Keeps.foldWritten hstatics fun _ _ h => h.putSlot
    · exact Keeps.foldWritten hstatics fun _ _ h => h.putRow
  · split
    · exact Keeps.foldWritten hstatics fun _ _ h => h.putSlot
    · exact Keeps.foldWritten hstatics fun _ _ h => h.putRow

/-! Pages, statistics, the epilogue. -/

theorem Keeps.countPage (h : Keeps n w.s) {page layer k : Nat} {value : Bool} : Keeps n (w.countPage page layer value k) :=
  h.foldl fun h _ => h.countWritten

theorem Keeps.putPosition (h : Keeps n w.s) {o r : Nat} {coreOf : CoreOf} {xs : List Word32} :
    Keeps n (w.putPosition o r coreOf xs).s := by
  unfold Work.putPosition
  split
  · exact h
  · refine h.foldWork fun h layer => h.foldWork fun h value => .iteWork h ?_
    split
    · exact Keeps.reportBad (by exact h.countPage)
    · exact h

theorem Keeps.putPages (h : Keeps n w.s) {o : Nat} {coreOf : CoreOf} {rows : List (List Word32)} :
    Keeps n (w.putPages o coreOf rows).s := .iteWork (h.foldWork fun h _ => h.putPosition) h

theorem Keeps.countSfu (h : Keeps n s) {b results flushed bad : Nat} : Keeps n (countSfu s b results flushed bad) := h.setBasin

theorem Keeps.countApplied (h : Keeps n s) {coreOf : CoreOf} {rows : List (List (Word32 × Bool × Bool))} :
    Keeps n (countApplied s coreOf rows) := h.foldl fun h _ => .ite h h.countSfu

theorem Keeps.putWords (h : Keeps n w.s) {t : Nat} {xs : List Word32} : Keeps n (w.putWords t xs).s := h.put.zeroTails.wrote

theorem Keeps.putStats (h : Keeps n w.s) {t : Nat} {rows : List (List Word32)} : Keeps n (w.putStats t rows).s :=
  h.foldWork fun h _ => .iteWork h.putWords.putWords h

theorem Keeps.finishRows (h : Keeps n w.s) {o : Nat} {coreOf : CoreOf} {rows : List (List Word32)} :
    Keeps n (w.finishRows o coreOf rows).w.s := by
  refine Keeps.writeTensor (Keeps.putPages (Keeps.putStats ?_))
  exact .ite h h.countApplied

theorem Keeps.finishStrips (h : Keeps n w.s) {e : Exec} : Keeps n (w.finishStrips e).w.s := h.finishRows

theorem Keeps.copyTensor (h : Keeps n w.s) {o : Nat} : Keeps n (w.copyTensor o).s :=
  (h.put.foldWork fun h _ => h.put).zeroTails.wrote

/-! Updates (10 R218 to R229). -/

theorem Keeps.update (h : Keeps n w.s) {o source : Nat} {k : UpdScalars} : Keeps n (w.update o k source).w.s := by
  have hvectors : ∀ {vr vc : Nat} {xs ys : List Word32} {fac : Bool},
      Keeps n (if fac then (w.putWords vr xs).putWords vc ys else w.putWords vr xs).s := .iteWork h.putWords.putWords h.putWords
  unfold Work.update
  dsimp only
  refine Keeps.writeTensor ?_
  split
  · exact hvectors.writeTensor
  · exact hvectors

theorem Keeps.onUpd (h : Keeps n s) {b : Nat} {f : Upd → Upd} : Keeps n (onUpd s b f) := h.setBasin

theorem Keeps.openUpdate (h : Keeps n w.s) {o e : Nat} : Keeps n (w.openUpdate o e) := by
  have hbusy : Keeps n ((liveBasins w.s w.p).foldl (fun s b => Machine.onUpd s b fun u => { u with busy := true }) w.s) :=
    h.foldl fun h _ => h.onUpd
  unfold Work.openUpdate
  dsimp only
  split
  · exact hbusy.onUpd
  · exact hbusy

theorem Keeps.countUpdate (h : Keeps n s) {p : Nat} {r : OpRec} {k : UpdScalars} {skipped last : Bool} :
    Keeps n (countUpdate s p r k skipped last) := by
  have hrows : ∀ {bs : List Nat}, Keeps n (if skipped then s else (List.range r.m).foldl (fun t row =>
      match bs[Config.workShare s.free row % bs.length]? with
      | some b => Machine.onUpd t b fun u => { u with elements := satAdd u.elements r.n }
      | none => t) s) := by
    refine .ite h (h.foldl fun h row => ?_)
    split
    · exact h.onUpd
    · exact h
  have hops : ∀ {bs cs : List Nat}, Keeps n (cs.foldl
      (fun t b => Machine.onUpd t b fun u => { u with ops := satAdd u.ops 1, busy := !last })
      (if skipped then s else (List.range r.m).foldl (fun t row =>
        match bs[Config.workShare s.free row % bs.length]? with
        | some b => Machine.onUpd t b fun u => { u with elements := satAdd u.elements r.n }
        | none => t) s)) := hrows.foldl fun h _ => h.onUpd
  unfold Machine.countUpdate
  dsimp only
  split
  · exact hops.onUpd.drawFree
  · exact hops.drawFree

theorem Keeps.runUpdate (h : Keeps n w.s) {o e : Nat} {last : Bool} : Keeps n (w.runUpdate o e last).w.s := by
  have hupdated : ∀ {k : UpdScalars} {source : Nat}, Keeps n (w.update o k source).w.s := h.update
  unfold Work.runUpdate
  dsimp only
  split
  · generalize hskip : Machine.opEvent w.s _ _ _ _ _ = skipping
    exact (hskip ▸ h.opEvent : Keeps n skipping).countUpdate
  · generalize hdone : w.update _ _ _ = done
    exact (hdone ▸ hupdated : Keeps n done.w.s).countUpdate

/-! Collectives (12 R276 to R281). -/

theorem Keeps.tryAgree (h : Keeps n s) {p op chunk : Nat} {b : List Byte} {r : Ranks} : Keeps n (tryAgree s p op chunk b r) := by
  unfold Machine.tryAgree
  split
  · exact .ite (h.onExec.foldl fun h _ => .ite h h.sendFlit) h
  · exact h

theorem Keeps.takeMark (h : Keeps n s) {p : Nat} {m : Mark} {b : List Byte} {r : Ranks} : Keeps n (takeMark s p m b r) := by
  unfold Machine.takeMark
  dsimp only
  split
  · exact .ite h.onExec.tryAgree h.setRun
  · exact h

theorem Keeps.markChunk (h : Keeps n s) {p op index chunk : Nat} {b : List Byte} {r : Ranks} :
    Keeps n (markChunk s p op index chunk b r) := .ite h.onExec.takeMark h.onExec.sendFlit

theorem Keeps.pollExec (h : Keeps n s) {p op : Nat} : Keeps n (pollExec s p op) := by
  unfold Machine.pollExec
  split
  · exact h
  · split
    · exact h.foldl fun h _ => h.markChunk
    · exact h

theorem Keeps.pollReady (h : Keeps n s) {p : Nat} : Keeps n (pollReady s p) := by
  unfold Machine.pollReady
  split
  · exact h.foldl fun h _ => h.pollExec
  · exact h

theorem Keeps.earlyMarks (h : Keeps n s) {p op : Nat} : Keeps n (earlyMarks s p op) := by
  unfold Machine.earlyMarks
  dsimp only
  split
  · exact h
  · split
    · exact h.setRun.foldl fun h _ => h.takeMark
    · exact h

theorem Keeps.startChunk (h : Keeps n s) {p op c : Nat} : Keeps n (startChunk s p op c) := by
  unfold Machine.startChunk
  split
  · exact h
  · dsimp only
    split
    · refine h.onExec.foldl fun h d => .ite h ?_
      split
      · exact h.foldl fun h _ => h.sendFlit
      · exact h
    · exact h

theorem Keeps.execReadyMark (h : Keeps n s) {mjob op chunk rank time : Nat} : Lands (execReadyMark mjob op chunk rank time s) := by
  refine Keeps.lands (n := n) ?_
  split
  · exact h
  · dsimp only
    split
    · exact h
    · exact .ite h.takeMark h

theorem Keeps.execStartTimeReceive (h : Keeps n s) {mjob op chunk start : Nat} : Lands (execStartTimeReceive mjob op chunk start s) := by
  refine Keeps.lands (n := n) ?_
  split
  · exact h
  · exact .ite h (.ite h.onExec.of_mtc.startChunk h.onExec)

theorem Keeps.execCollectiveChunkStart (h : Keeps n s) {p op chunk : Nat} : Lands (execCollectiveChunkStart p op chunk s) := by
  refine Keeps.lands (n := n) ?_
  split
  · split
    · exact .ite h.startChunk h
    · exact h
  · exact h

theorem Keeps.peerLoss (h : Keeps n s) {p : Nat} : Keeps n (peerLoss s p) := .ite h.sendAborts.endJob h

theorem Keeps.execCollectiveTimeout (h : Keeps n s) {p op chunk : Nat} : Lands (execCollectiveTimeout p op chunk s) := by
  refine Keeps.lands (n := n) ?_
  split
  · split
    · exact .ite h.peerLoss h
    · exact h
  · exact h

theorem Keeps.execPeerAbort (h : Keeps n s) {mjob : Nat} : Lands (execPeerAbort mjob s) := by
  refine Keeps.lands (n := n) ?_
  split
  · exact .ite h.endJob h
  · exact h

theorem Keeps.putBits (h : Keeps n w.s) {b : List Byte} {k : Nat} {bs : List Byte} : Keeps n (w.putBits b k bs).s :=
  .iteWork h.put.put h.put

theorem Keeps.copyParts (h : Keeps n w.s) {b : List Byte} {ranks : Nat} {e : Exec} : Keeps n (w.copyParts b ranks e).s := by
  refine Keeps.wrote (Keeps.zeroTails (h.foldWork fun h c => .iteWork h.putBits (h.foldWork fun h _ => h.putBits)))

theorem Keeps.finishCollective (h : Keeps n w.s) {e : Exec} : Keeps n (w.finishCollective e).w.s := by
  unfold Work.finishCollective
  dsimp only
  split
  · exact h
  · split_ifs
    · exact h
    · exact h.putStats.writeTensor
    · exact h.copyParts

end Sys2Proof.Machine
end

section
/-! The invariant, kept by operations as they open, by strips, Sounding, the codec engines and the resample units (06 R136 to R140, 03 R56 to
R62, 11, 04 R91). -/

namespace Sys2Proof.Machine

variable {n : Nat} {s : State} {w : Work}

theorem Keeps.joinCodec (h : Keeps n s) {c tag : Nat} {work : EngineWork} : Keeps n (joinCodec s c tag work) :=
  .ite h.setCodec h.setCodec

theorem Keeps.engineOpen (h : Keeps n w.s) {o : Nat} : Keeps n (engineOpen w o) := by
  unfold Machine.engineOpen
  split
  · exact h.openUpdate
  · exact h.setResampling
  · exact h.joinCodec
  · exact h

theorem Keeps.openOp (h : Keeps n w.s) {o : Nat} : Keeps n (openOp w o) := by
  have hopened : ∀ {j : Job}, Keeps n ({ w with s := Machine.engineOpen w o, j := j } : Work).state := .workState (by exact h.engineOpen)
  exact .ite hopened.earlyMarks.pollReady hopened

theorem Keeps.execOperationOpen (h : Keeps n s) {p op : Nat} : Lands (execOperationOpen p op s) := by
  refine Keeps.lands (n := n) ?_
  split
  next hw => exact .ite (h.workOf hw).openOp h
  next => exact h

/-! Strips. -/

theorem Keeps.onWrk (h : Keeps n s) {b : Nat} {f : Wrk → Wrk} : Keeps n (onWrk s b f) := h.setBasin

theorem Keeps.onLead (h : Keeps n s) {p : Nat} {f : Wrk → Wrk} : Keeps n (onLead s p f) := by
  unfold Machine.onLead
  split
  · exact h.onWrk
  · exact h

theorem Keeps.countRead (h : Keeps n s) {b k : Nat} : Keeps n (countRead s b k) := h.onMere
theorem Keeps.fillCore (h : Keeps n s) {k : Nat} : Keeps n (fillCore w k s) := h.setCore.countRead

theorem fetched_s {core op epoch : Nat} {t : Nat × Bool} {e : Exec} (hf : fetched s core op epoch = some (w, t, e)) : w.s = s := by
  unfold fetched at hf
  dsimp only at hf
  split at hf
  · cases hf
  · split at hf
    · cases hf
    next hw =>
      split at hf
      · cases hf
      · obtain ⟨_, _, heq⟩ := Option.map_eq_some_iff.mp hf
        cases heq
        exact workOf_s hw

theorem granted_s {core p op strip epoch : Nat} (hg : granted s core p op strip epoch = some w) : w.s = s := by
  unfold granted at hg
  split at hg
  next hw _ =>
    split at hg
    · split at hg
      · obtain rfl := Option.some.inj hg
        have heq := workOf_s hw
        exact heq
      · cases hg
    · cases hg
  next => cases hg

theorem committing_s {core p op strip epoch : Nat} {e : Exec} {combine : Bool}
    (hc : committing s core p op strip epoch = some (w, e, combine)) : w.s = s := by
  unfold committing at hc
  split at hc
  next hw =>
    split at hc
    · split_ifs at hc
      · cases hc
        exact workOf_s hw
      · cases hc
        exact workOf_s hw
    · cases hc
  next => cases hc

theorem Keeps.execStripFetch (h : Keeps n s) {core op epoch : Nat} : Lands (execStripFetch core op epoch s) := by
  refine Keeps.lands (n := n) (.ite h ?_)
  split
  next => exact h.onLead
  next w t e hf =>
    have hw : Keeps n w.s := (fetched_s hf).symm ▸ h
    exact Keeps.onLead (Keeps.fillCore (Keeps.setCore (.workState (by exact hw))))

theorem Keeps.reportStrip (h : Keeps n s) {core : Nat} {t : Strip} {r : RowOut} : Keeps n (reportStrip w core t r s) := by
  have hbad : Keeps n (({ w with s := Machine.countSfu s (coreBasin core) r.tally.results 0 r.tally.bad } : Work).reportBad t.op
      (List.replicate r.bad core)).s := .reportBad (by exact h.countSfu)
  exact .ite (Keeps.opEvent (.ite hbad.opEvent hbad)) (.ite hbad.opEvent hbad)

theorem Keeps.execStripComputeDone (h : Keeps n s) {core : Nat} : Lands (execStripComputeDone core s) := by
  refine Keeps.lands (n := n) ?_
  dsimp only
  split
  · exact h
  · split
    · exact h
    · split
      · exact h
      · exact .ite h h.setCore.countRead.drawFree.fillCore.reportStrip

theorem Keeps.dupCommit (h : Keeps n s) {p core op strip : Nat} : Keeps n (dupCommit s p core op strip) := by
  unfold Machine.dupCommit
  split
  · exact h.onWrk.opEvent
  · exact h

theorem Keeps.discardCommit (h : Keeps n s) {core p op epoch : Nat} : Keeps n (discardCommit s core p op epoch) := .ite h.onExec h

theorem Keeps.execCommitRequest (h : Keeps n s) {core p op strip epoch : Nat} : Lands (execCommitRequest core p op strip epoch s) := by
  refine Keeps.lands (n := n) (.ite h ?_)
  split
  next w hg =>
    have hw : Keeps n w.s := (granted_s hg).symm ▸ h
    exact hw.workState
  next => exact h.discardCommit.dupCommit

theorem Keeps.execStripCommitDone (h : Keeps n s) {core p op strip epoch : Nat} :
    Lands (execStripCommitDone core p op strip epoch s) := by
  refine Keeps.lands (n := n) (.ite h ?_)
  split
  next => exact h.dupCommit
  next w e combine hc =>
    have hw : Keeps n w.s := (committing_s hc).symm ▸ h
    have hstate : ∀ {j : Job}, Keeps n ({ w with j := j } : Work).state := .workState (by exact hw)
    exact Keeps.pollReady (Keeps.onLead (.ite hstate.setCore.fillCore hstate))

theorem Keeps.reissueEvents (h : Keeps n s) {p o : Nat} {i : List Byte} {ks : List Nat} : Keeps n (reissueEvents s p i o ks) :=
  h.foldl fun h _ => h.opEvent

theorem Keeps.reissueWork (h : Keeps n w.s) {core : Nat} : Keeps n (reissueWork w core) := by
  have hstate : ∀ {j : Job}, Keeps n ({ w with j := j } : Work).state := .workState (by exact h)
  exact hstate.onLead.foldl fun h _ => h.reissueEvents

theorem Keeps.execStripReissue (h : Keeps n s) {core : Nat} : Lands (execStripReissue core s) := by
  refine Keeps.lands (n := n) (.ite h ?_)
  split
  next hw => exact (h.workOf hw).reissueWork
  next => exact h

/-! Sounding. -/

theorem Keeps.reportEscalated (h : Keeps n s) {core p op : Nat} : Keeps n (reportEscalated s core p op) := h.opEvent.countNum

theorem Keeps.escalateRow (h : Keeps n w.s) {core op row : Nat} : Keeps n (escalateRow w core op row) := by
  unfold Machine.escalateRow
  dsimp only
  split
  · exact .ite h.workState h.workState.setRun.reportEscalated
  · exact h.workState

theorem Keeps.fidelityVerdict (h : Keeps n w.s) {e : Exec} {q : Portion} {core : Nat} {x : Word32} :
    Keeps n (fidelityVerdict w e q core x) := by
  unfold Machine.fidelityVerdict
  dsimp only
  refine .ite (.workState (by exact h.countNum)) ?_
  have hover : ∀ {j : Job} {source p o : Nat} {detail : List Byte} {f g : Num → Num} {a b : Nat},
      Keeps n ({ w with s := Machine.countNum (Machine.opEvent (Machine.countNum w.s a f) evSoundingOver source p o detail) b g, j := j } :
        Work).s := h.countNum.opEvent.countNum
  split
  · exact hover.workState
  · exact .ite hover.escalateRow (.ite hover.workState hover.workState.onExec.reportEscalated)
  · exact hover.workState.onExec

theorem Keeps.agreeing (h : Keeps n w.s) {e : Exec} {q : Portion} : Keeps n (agreeing w e q) := by
  have hcounted : ∀ {done : Bool} {j : Job} {b : Nat} {f : Num → Num},
      Keeps n ({ w with s := if done then Machine.countNum w.s b f else w.s, j := j } : Work).s := .ite h.countNum h
  exact .ite hcounted.fidelityVerdict hcounted.workState

theorem Keeps.mismatching (h : Keeps n w.s) {e : Exec} {q : Portion} {core : Nat} : Keeps n (mismatching w e q core) :=
  .workState (by exact h.countNum.setBasin)

theorem Keeps.execSoundingCheck (h : Keeps n s) {p op strip tile : Nat} {agree : Bool} :
    Lands (execSoundingCheck p op strip tile agree s) := by
  refine Keeps.lands (n := n) (.ite h ?_)
  split
  next => exact h
  next hw =>
    split
    · exact h
    · exact .ite (h.workOf hw).agreeing (h.workOf hw).mismatching

theorem Keeps.execSoundingArbitration (h : Keeps n s) {p op strip tile : Nat} {second : Arbiter} :
    Lands (execSoundingArbitration p op strip tile second s) := by
  refine Keeps.lands (n := n) (.ite h ?_)
  split
  · exact h
  · split
    · exact h
    · exact Keeps.jobFault (h.opEvent.foldl fun h _ => h.declareDead)

end Sys2Proof.Machine
end

section
/-! The invariant, kept by the codec engines (11 R231 to R258). -/

namespace Sys2Proof.Machine

variable {n : Nat} {s : State} {w : Work}

theorem Keeps.countEncode (h : Keeps n s) {c p tag clamped : Nat} {e : Encoded} {d : List Byte} {clip : Config.Clip} :
    Keeps n (countEncode s c p tag e d clip clamped) := by
  unfold Machine.countEncode
  dsimp only
  split
  · exact h.setCodec.raiseEvent
  · exact h.setCodec

theorem Keeps.encodeJunk (h : Keeps n s) {d : List Byte} : Keeps n (encodeJunk s d) := by
  have hstream : Keeps n (if ceObject d then s else
      Machine.hostWrite (Machine.openBytes s (ceCapacity d)).2 (ceDst d) (Machine.openBytes s (ceCapacity d)).1) :=
    .ite h h.openBytes.hostWrite
  exact .ite hstream.openBytes.hbmPut hstream

theorem Keeps.encodeNow (h : Keeps n s) {c : Cmd} {env : Env} (hc : Behind n c) : Keeps n (encodeNow s c env) := by
  unfold Machine.encodeNow
  extract_lets d p t r k hs g rd clip e clamped s1 s2 s3 s4
  have hr : Keeps n r.1 := (h.chargeCmd hc).tierStatus
  clear_value r e
  split
  · exact hr.finish
  · refine .ite hr.encodeJunk.unitFault.finish ?_
    have hg : Keeps n g.2 := hr.hbmGet.hbmGet
    have hs1 : Keeps n s1 := .ite hg.wearOut.appendHidden hg.hostWrite
    have hs2 : Keeps n s2 := .ite (hs1.foldl fun h _ => h.hbmPut) hs1
    have hs3 : Keeps n s3 := .ite hs2 hs2.hostWrite
    have hs4 : Keeps n s4 := hs3.countEncode
    exact .ite hg.finish (.ite hs2.finish hs4.finish)

theorem Keeps.boundedPut (h : Keeps n s) {d bytes : List Byte} {buffer : Nat × Nat} {at' : Nat} :
    Keeps n (boundedPut s d buffer at' bytes) := .ite h.hbmPut h.setCodec

theorem Keeps.putFrame (h : Keeps n s) {d : List Byte} {op : Nat → Byte} {k : Nat} {q : Config.Picture} :
    Keeps n (putFrame s d op k q) := .ite h.boundedPut.boundedPut.boundedPut h.boundedPut.boundedPut

theorem Keeps.countDecode (h : Keeps n s) {c : Nat} {e : Decoding} {out beyond : List Config.Picture} :
    Keeps n (countDecode s c e out beyond) := h.setCodec

theorem Keeps.decodeStream (h : Keeps n s) {c : Cmd} {stream : List Byte} : Keeps n (decodeStream s c stream) := by
  unfold Machine.decodeStream
  extract_lets d p av1 e all out beyond dpb s1 s2 s3 bad
  have hs1 : Keeps n s1 := h.boundedPut.foldl fun h _ => h.putFrame
  have hs2 : Keeps n s2 := .ite hs1 hs1.hostWrite
  have hs3 : Keeps n s3 := hs2.countDecode
  exact .ite hs1.finish (.ite hs3.finish (.ite hs3.finish hs3.raiseEvent.finish))

theorem Keeps.decodeJunk (h : Keeps n s) {d : List Byte} : Keeps n (decodeJunk s d) :=
  h.foldl fun h _ => h.openBytes.hbmPut

theorem Keeps.decodeNow (h : Keeps n s) {c : Cmd} {env : Env} (hc : Behind n c) : Keeps n (decodeNow s c env) := by
  unfold Machine.decodeNow
  extract_lets d p t whole fromHost read r
  have ht : Keeps n t.1 := h.chargeCmd hc
  clear_value t
  refine .ite ht.decodeJunk.unitFault.finish ?_
  have hread : Keeps n read.1 := by
    unfold read
    split
    · split
      · exact ht.wholeObject
      · exact ht.wholeObject
    · split
      · exact ht
      · split
        · exact ht.hostRead (a := 0) (k := 0)
        · exact ht.raiseHostRead
  clear_value read
  split
  · exact hread.finish
  · split
    · exact hread.tierStatus.finish
    · exact hread.tierStatus.decodeStream

theorem Keeps.codecNow (h : Keeps n s) {c : Cmd} {env : Env} (hc : Behind n c) : Keeps n (codecNow s c env) :=
  .ite (h.encodeNow hc) (h.decodeNow hc)

theorem Keeps.startCodec (h : Keeps n s) {c : Cmd} {env : Env} (hc : Behind n c) : Keeps n (startCodec s c env) := by
  unfold Machine.startCodec
  dsimp only
  split
  · exact .ite (h.createHidden.codecNow hc) (h.createHidden.setCmd (by exact hc)).joinCodec
  · exact .ite (h.codecNow hc) (h.setCmd (by exact hc)).joinCodec

theorem runCodecEncode_keeps : RunKeeps runCodecEncode := by
  intro n s c env h hc
  unfold runCodecEncode
  split
  · exact h.finish
  · exact h.startCodec hc

theorem runCodecDecode_keeps : RunKeeps runCodecDecode := by
  intro n s c env h hc
  unfold runCodecDecode
  split
  · exact h.finish
  · exact h.startCodec hc

theorem Keeps.nextWork (h : Keeps n s) {k : Nat} {env : Env} : Keeps n (nextWork s k env) := by
  unfold Machine.nextWork
  dsimp only
  split
  · split
    next hc =>
      have hc := h.setCodec.behind_cmd hc
      exact (h.setCodec.setCmd (by exact hc)).codecNow (by exact hc)
    next => exact h.setCodec
  · exact h.setCodec
  · exact h

theorem Keeps.execCodecWorkStart (h : Keeps n s) {c : Nat} {env : Env} : Lands (execCodecWorkStart c env s) :=
  Keeps.lands (n := n) (.ite h.nextWork h)

theorem Keeps.execCodecFrameStart (h : Keeps n s) {c frame : Nat} : Lands (execCodecFrameStart c frame s) := by
  refine Keeps.lands (n := n) ?_
  split
  · split
    · exact .ite h.onExec.setCodec h
    · exact h
  · exact h

theorem Keeps.leaveCodec (h : Keeps n s) {c : Nat} : Keeps n (leaveCodec s c) := h.setCodec

theorem Keeps.encodeOp (h : Keeps n w.s) {o : Nat} {env : Env} : Keeps n (encodeOp w o env).1.s := by
  unfold Machine.encodeOp
  extract_lets d f c rd clip e clamped b s0 fls medium s1 w1 w2 s3 s4
  split
  · exact h.leaveCodec
  · clear_value e fls medium
    have hs1 : Keeps n s1 := by
      unfold s1
      refine Keeps.wearOut ?_
      exact h
    have hw2 : Keeps n w2.s := .iteWork (Keeps.foldWork (w := w1) hs1 fun h _ => h.put) hs1
    have hs3 : Keeps n s3 := .ite hw2.hostWrite hw2
    have hs4 : Keeps n s4 := hs3.leaveCodec.countEncode
    exact hs4

end Sys2Proof.Machine
end

section
/-! The invariant, kept by light, links, the census and machine time (12 R262 to R274, R282 to R284). -/

namespace Sys2Proof.Machine

variable {n : Nat} {s : State}

theorem Keeps.markLost (h : Keeps n s) {q : Nat} : Keeps n (markLost s q) := by
  unfold Machine.markLost
  dsimp only
  split
  · exact .ite h.setPort.peerLoss h.setPort
  · exact h.setPort

theorem Keeps.execRetrainTimeout (h : Keeps n s) {q : Nat} : Lands (execRetrainTimeout q s) := by
  refine Keeps.lands (n := n) ?_
  split
  · exact .ite h.markLost h
  · exact h

theorem Keeps.downLink (h : Keeps n s) {q : Nat} : Keeps n (downLink s q) := h.setPort.raiseEvent

theorem Keeps.execNakReceive (h : Keeps n s) {q ack : Nat} : Lands (execNakReceive q ack s) :=
  Keeps.lands (n := n) (.ite (.ite h.setPort.pump (.ite h.setPort.downLink h.setPort)) h)

theorem Keeps.fencedFlit (h : Keeps n s) {q : Nat} : Keeps n (fencedFlit s q) := .ite h.setPort.raiseEvent h.setPort
theorem Keeps.nakFlit (h : Keeps n s) {q : Nat} {check : FlitCheck} : Keeps n (nakFlit s q check) := h.setPort

theorem Keeps.deliverFlit (h : Keeps n s) {q : Nat} {f : Flit} : Keeps n (deliverFlit s q f) := by
  unfold Machine.deliverFlit
  split
  · exact h.setPort
  · exact .ite h h.onExec

theorem Keeps.forwardFlit (h : Keeps n s) {q : Nat} {f : Flit} : Keeps n (forwardFlit s q f) := by
  unfold Machine.forwardFlit
  split
  · exact h.setPort.sendOn
  · exact h

theorem Keeps.takeFlit (h : Keeps n s) {q : Nat} {flit : Flit} : Keeps n (takeFlit s q flit) :=
  .ite h.fencedFlit (.ite h.nakFlit (.ite h.setPort.pump.forwardFlit (.ite h.setPort.pump.deliverFlit h.setPort.pump)))

theorem Keeps.execDataFlitReceive (h : Keeps n s) {q : Nat} {flit : Flit} {arrival : Arrival} :
    Lands (execDataFlitReceive q flit arrival s) := by
  refine Keeps.lands (n := n) (.ite h ?_)
  dsimp only
  split
  · exact .ite h.setPort.takeFlit h.setPort
  · exact h.setPort.nakFlit

theorem Keeps.censusChange (h : Keeps n s) {d : Nat} : Keeps n (censusChange s d) := .ite h h

theorem Keeps.helloPeer (h : Keeps n s) {q : Nat} {hello : Hello} : Keeps n (helloPeer s q hello) :=
  .ite h.setPort (.ite h.setPort.pump (.ite (Keeps.setPort (.ite h h.markLost)) (.ite h h.markLost)))

theorem Keeps.execOptHello (h : Keeps n s) {q : Nat} {hello : Hello} : Lands (execOptHello q hello s) := by
  have htrained : Keeps n (if (s.port q).linkUp then s
      else if (s.port q).session == 0 then Machine.trainPort s q else s.setPort q { s.port q with linkUp := true }) :=
    .ite h (.ite h.trainPort h.setPort)
  exact Keeps.lands (n := n) (.ite (.ite htrained.helloPeer htrained.helloPeer.censusChange) h)

theorem Keeps.isolate (h : Keeps n s) {d : Nat} : Keeps n (isolate s d) := .ite (.raiseEvent (by exact h)) (by exact h)

theorem Keeps.of_census (h : Keeps n s) {v : Census} : Keeps n { s with census := v } := h

theorem Keeps.execCensusReport (h : Keeps n s) {dev : Nat} {peers : List (Nat × Nat)} : Lands (execCensusReport dev peers s) :=
  Keeps.lands (n := n) (.ite (h.of_census.foldl fun h _ => .ite h h.isolate) h)

theorem Keeps.closeCensus (h : Keeps n s) {states : Tab (BitVec 2)} {blocks : Tab (BitVec 6)} {mx my mz : Nat} {byTime : Bool} :
    Keeps n (closeCensus s states blocks mx my mz byTime) := h

theorem Keeps.stepMtc (h : Keeps n s) {offset : Int} : Keeps n (stepMtc s offset) := h

theorem Keeps.unsync (h : Keeps n s) {offset : Int} : Keeps n (unsync s offset) :=
  (Keeps.drawFree (Keeps.raiseEvent h.of_mtc)).foldl fun h _ => h.peerLoss

theorem Keeps.applyWave (h : Keeps n s) {offset : Int} : Keeps n (applyWave s offset) :=
  .ite h.stepMtc (.ite h.stepMtc (.ite h.unsync h))

theorem Keeps.execTimeWaveReceive (h : Keeps n s) {q : Nat} {t1 t2 t3 t4 : Int} :
    Lands (execTimeWaveReceive q t1 t2 t3 t4 s) := Keeps.lands (n := n) (.ite h.setPort.applyWave.of_mtc h)

end Sys2Proof.Machine
end

section
/-! The invariant, kept by the resample units and by operations as they complete (04 R91 to R100, 06 R126). -/

namespace Sys2Proof.Machine

variable {n : Nat} {s : State} {w : Work}

theorem Keeps.onRsm (h : Keeps n s) {b : Nat} {f : Rsm → Rsm} : Keeps n (onRsm s b f) := h.setBasin

theorem Keeps.rsCount (h : Keeps n s) {p : Nat} {d boxes : List Byte} : Keeps n (rsCount s p d boxes) := by
  unfold Machine.rsCount
  extract_lets items vals s1 s2
  have hs1 : Keeps n s1 := by
    refine h.foldl fun h k => ?_
    split
    · exact h.onRsm
    · exact h
  have hs2 : Keeps n s2 := hs1.foldl fun h _ => h.onRsm
  split
  · exact hs2.raiseEvent
  · exact hs2

theorem Keeps.resample (h : Keeps n s) {p o : Nat} {d boxes : List Byte} : Keeps n (resample s p o d boxes).s := by
  unfold Machine.resample
  extract_lets rows out s1 g s2 lead s3
  have hg : Keeps n g.2 := by
    unfold g
    split
    · exact h.addRead.openBytes
    · exact h.addRead
  clear_value out g
  have hs3 : Keeps n s3 := hg.hbmPut.rsCount.foldl fun h _ => h.opEvent.countNum
  exact hs3.countNum.drawFree

theorem Keeps.leaveResample (h : Keeps n s) {p : Nat} {k : EngineWork} : Keeps n (leaveResample s p k) := h.setResampling

/-- The boxes of a resample as read. -/
theorem Keeps.boxesRead (h : Keeps n s) {c : Prop} [Decidable c] {p a k : Nat} :
    Keeps n (if c then Machine.hbmGet s p a k else ([], s)).2 := by
  split
  · exact h.hbmGet
  · exact h

theorem Keeps.resampleNow (h : Keeps n s) {c : Cmd} {env : Env} (hc : Behind n c) : Keeps n (resampleNow s c env) := by
  unfold Machine.resampleNow
  extract_lets d p t r g j m
  have hr : Keeps n r.1 := (h.leaveResample.chargeCmd hc).tierStatus
  clear_value r
  have hg : Keeps n g.2 := hr.boxesRead
  clear_value g
  split
  · exact hr.finish
  · exact .ite h.leaveResample.finish (.ite hg.openBytes.hbmPut.unitFault.finish hg.resample.finish)

theorem runResample_keeps : RunKeeps runResample := by
  intro n s c env h hc
  unfold runResample
  dsimp only
  split
  · exact h.finish
  · exact .ite (h.resampleNow hc) (h.setCmd (by exact hc)).setResampling

/-! Completion. -/

theorem Keeps.putLists (h : Keeps n w.s) {a : Nat} {lists : List (List Byte)} : Keeps n (w.putLists a lists).s := by
  unfold Work.putLists
  dsimp only
  split
  · exact h.put
  · exact h

theorem Keeps.makeResample (h : Keeps n w.s) {o : Nat} : Keeps n (makeResample w o).w.s := by
  unfold Machine.makeResample
  extract_lets d v g m
  have hv : Keeps n v.s := h.leaveResample
  have hg : Keeps n g.2 := hv.boxesRead
  have hm : Keeps n m.s := hg.resample
  clear_value m g
  split
  · exact hv
  · split
    · exact hv
    · exact Keeps.putLists hm

theorem Keeps.makeUpdate (h : Keeps n w.s) {e : Exec} : Keeps n (makeUpdate w e).w.s := h.runUpdate

theorem Keeps.readCached (h : Keeps n w.s) {o : Nat} : Keeps n (w.readCached o).s := by
  refine .iteWork (h.foldl fun h k => ?_) h
  split
  · exact h.onMere
  · exact h

theorem Keeps.makeOp (h : Keeps n w.s) {e : Exec} {env : Env} : Keeps n (makeOp w e env).w.s := by
  unfold Machine.makeOp
  split
  · exact h.makeResample
  · exact h.encodeOp
  · exact h.makeUpdate
  · exact h.finishCollective
  · exact h.copyTensor
  · exact h.readCached.finishStrips

theorem Keeps.markEnding (h : Keeps n s) {p status : Nat} : Keeps n (markEnding s p status) := by
  unfold Machine.markEnding
  split
  · exact h.setBasin
  · exact h

theorem Keeps.settleOp {m : Made} (h : Keeps n m.w.s) {e : Exec} : Keeps n (settleOp m e) := by
  unfold Machine.settleOp
  extract_lets j made w
  have hw : Keeps n w.s := h
  clear_value w
  split
  · exact h.workState.endJob
  · split
    · exact hw.workState.markEnding.endJob
    · exact .ite hw.workState.endJob hw.workState.pollReady

theorem Keeps.chargeJob (h : Keeps n s) {p : Nat} {ch : Charge} : Keeps n (chargeJob s p ch) := by
  unfold Machine.chargeJob
  split
  · refine .ite h ?_
    split
    next hc => exact h.chargeCmd (h.behind_cmd hc)
    next => exact h
  · exact h

theorem Keeps.execOperationComplete (h : Keeps n s) {p op : Nat} {env : Env} : Lands (execOperationComplete p op env s) := by
  refine Keeps.lands (n := n) ?_
  split
  · exact h
  · split
    · exact h
    · refine .ite h (.ite h.chargeJob.faultFrom ?_)
      extract_lets r
      have hr : Keeps n r.1 := h.chargeJob.tierStatus
      clear_value r
      split
      · exact hr.dataError
      · exact Keeps.settleOp (Keeps.makeOp hr)

end Sys2Proof.Machine
end

section
/-! The invariant, kept by plans as they are loaded and unloaded (06 R127 to R132). -/

namespace Sys2Proof.Machine

variable {n : Nat} {s : State}

theorem Keeps.holdUnitsFor (h : Keeps n s) {p k : Nat} {i : List Byte} : Keeps n (holdUnitsFor s p k i) := by
  refine Keeps.foldl ?_ fun h _ => .ite h.setPort h
  exact h.foldl fun h _ => .ite h.setCodec h

theorem Keeps.loadPlan (h : Keeps n s) {p k : Nat} {i : List Byte} : Keeps n (loadPlan s p k i) :=
  .ite h.holdUnitsFor.setPlan.setRun h.holdUnitsFor.setPlan

theorem Keeps.loadImage (h : Keeps n s) {c : Cmd} {i : List Byte} : Keeps n (loadImage s c i) := by
  unfold Machine.loadImage
  dsimp only
  split
  · exact h.refuse
  · exact .ite h.loadPlan.finish h.writeShortfalls.refuse

theorem Keeps.objectImage (h : Keeps n s) {f o len : Nat} {env : Env} : Keeps n (objectImage s f o len env).1 := by
  unfold Machine.objectImage
  dsimp only
  split
  · split
    · exact h.wholeObject
    · exact h.wholeObject
  · exact h.wholeObject

theorem runPlanLoad_keeps : RunKeeps runPlanLoad := by
  intro n s c env h hc
  unfold runPlanLoad
  dsimp only
  split
  · exact h.finish
  · refine .ite (.ite (h.chargeCmd hc).hostReadFailed (h.chargeCmd hc).hostRead.loadImage) ?_
    split
    · exact (h.chargeCmd hc).objectImage.refuse
    · exact (h.chargeCmd hc).objectImage.loadImage

theorem Keeps.unloadRequest (h : Keeps n s) {r : Request} : Keeps n (unloadRequest s r) := h.putProgress.closeRequest

theorem Keeps.unloadPlan (h : Keeps n s) {p k : Nat} : Keeps n (unloadPlan s p k) := by
  have hdropped : Keeps n (Machine.dropPlan ((planRequests s p k).foldl Machine.unloadRequest s) p k) :=
    (h.foldl fun h _ => h.unloadRequest).dropPlan
  exact .ite hdropped.setRun hdropped

theorem runPlanUnload_keeps : RunKeeps runPlanUnload := by
  intro n s c env h hc
  exact .ite h.finish (.ite h.finish (h.chargeCmd hc).unloadPlan.finish)

end Sys2Proof.Machine
end

section
/-! The invariant, kept by the life of jobs (06 R133, R134, R142, R143, 13 R292 to R299, 14 R323, R324, 15 R337 to R339). -/

namespace Sys2Proof.Machine

variable {n : Nat} {s : State} {w : Work}

theorem queueJob_keeps : RunKeeps queueJob := fun h hc => h.setCmd (by exact hc)

theorem Keeps.startCopies (h : Keeps n w.s) : Keeps n w.startCopies.s :=
  h.foldWork fun h _ => h.foldWork fun h _ => h.putCopy

theorem Keeps.dropStreams (h : Keeps n s) {p : Nat} : Keeps n (dropStreams s p) := h.foldl fun h _ => h.onMere

theorem Keeps.reopenEngines (h : Keeps n s) {p : Nat} : Keeps n (reopenEngines s p) := by
  unfold Machine.reopenEngines
  split
  · refine h.foldl fun h e => Keeps.engineOpen ?_
    exact h
  · exact h

theorem Keeps.enterJob (h : Keeps n s) {p : Nat} {pl : Plan} {j : Job} : Keeps n (enterJob s p pl j) := by
  unfold Machine.enterJob
  extract_lets r s1 s2 s3 s4
  have hs2 : Keeps n s2 := h.dropStreams.setPlan.setRun
  clear_value s2
  have hs3 : Keeps n s3 := by
    unfold s3
    split
    next hc =>
      have hc := hs2.behind_cmd hc
      exact hs2.setCmd (by exact hc)
    next => exact hs2
  clear_value s3
  have hs4 : Keeps n s4 := hs3.reopenEngines
  exact .ite hs4.endJob hs4

theorem Keeps.jobSeed (h : Keeps n s) {pl : Plan} {d : List Byte} {r : Word64 × State} (hr : jobSeed s pl d = some r) :
    Keeps n r.2 := by
  unfold Machine.jobSeed at hr
  split at hr
  · obtain rfl := Option.some.inj hr
    exact h
  · exact h.drawSeed hr

theorem Keeps.startBound (h : Keeps n s) {c : Cmd} {pl : Plan} {bs : List (Nat × Nat)} {env : Env} :
    Keeps n (startBound s c pl bs env) := by
  unfold Machine.startBound
  extract_lets d p ts t
  have ht : Keeps n t.1 := by
    unfold t
    split
    · exact h
    · exact h.tierStatus
  clear_value t
  refine .ite h.finish (.ite h.finish ?_)
  split
  · exact ht.finish
  · exact h.finish
  · split
    next => exact ht.finish
    next seed s1 hseed =>
      have hs1 : Keeps n s1 := ht.jobSeed hseed
      refine .ite hs1.finish ?_
      extract_lets s2 s3 j v w
      have hs2 : Keeps n s2 := .ite hs1 hs1.hostWrite
      have hw : Keeps n w.s := Keeps.startCopies (by exact hs2.setRun)
      exact hw.enterJob

theorem Keeps.beginStart (h : Keeps n s) {c : Cmd} {pl : Plan} {env : Env} (hc : Behind n c) : Keeps n (beginStart s c pl env) := by
  unfold Machine.beginStart
  dsimp only
  split
  · exact h.finish
  · exact .ite (h.chargeCmd hc).finish (.ite (h.chargeCmd hc).hostReadFailed
      (.ite (h.chargeCmd hc).hostRead.finish (h.chargeCmd hc).hostRead.startBound))

theorem Keeps.beginResume (h : Keeps n s) {c : Cmd} {pl : Plan} {env : Env} (hc : Behind n c) :
    Keeps n (beginResume s c pl env) := by
  unfold Machine.beginResume
  dsimp only
  split
  · refine .ite h.finish ?_
    split
    · exact h.finish
    · exact ((h.clearPreempted.setCmd (by exact hc)).chargeCmd (by exact hc)).enterJob
  · exact h.finish

theorem Keeps.readImage (h : Keeps n s) {f src len : Nat} {object : Bool} {env : Env} :
    Keeps n (readImage s f object src len env).1 := by
  unfold Machine.readImage
  split
  · exact h.objectImage
  · split
    · exact h
    · split
      · exact h
      · exact h.hostRead (a := src) (k := len)

theorem restoreImage_s {v : Work} {img : List Byte} {len : Nat} (hv : restoreImage w img len = .inr v) : v.s = w.s := by
  unfold restoreImage at hv
  split at hv
  · cases hv
  · split at hv
    · cases hv
    · dsimp only at hv
      split at hv
      · cases hv
      · obtain rfl := Sum.inr.inj hv
        rfl

theorem Keeps.beginRestore (h : Keeps n s) {c : Cmd} {pl : Plan} {env : Env} (hc : Behind n c) :
    Keeps n (beginRestore s c pl env) := by
  unfold Machine.beginRestore
  dsimp only
  split
  · exact h.finish
  · refine .ite (h.chargeCmd hc).hostReadFailed ?_
    split
    · exact (h.chargeCmd hc).readImage.finish
    · split
      · exact (h.chargeCmd hc).readImage.finish
      · exact (h.chargeCmd hc).readImage.setRun.enterJob

theorem Keeps.execJobBegin (h : Keeps n s) {p : Nat} {env : Env} : Lands (execJobBegin p env s) := by
  refine Keeps.lands (n := n) (.ite h ?_)
  split
  next => exact h
  next c hc =>
    have hc : Behind n c := h.behind (List.mem_of_find?_eq_some hc)
    split
    · exact h.finish
    · exact .ite (h.beginStart hc) (.ite (h.beginResume hc) (h.beginRestore hc))

theorem Keeps.returnAhead (h : Keeps n w.s) : Keeps n (returnAhead w) := by
  refine h.foldl fun h e => ?_
  split
  · exact .ite h.onExec.setCore h
  · exact h

theorem runsPlan_s {p k : Nat} (hw : runsPlan s p k = some w) : w.s = s := by
  obtain ⟨v, hv, heq⟩ := Option.bind_eq_some_iff.mp hw
  split at heq
  · obtain rfl := Option.some.inj heq
    exact workOf_s hv
  · cases heq

theorem Keeps.runsPlan (h : Keeps n s) {p k : Nat} (hw : runsPlan s p k = some w) : Keeps n w.s := (runsPlan_s hw).symm ▸ h

theorem runJobPreempt_keeps : RunKeeps runJobPreempt := by
  intro n s c env h hc
  unfold runJobPreempt
  dsimp only
  split
  next => exact h.finish
  next hw =>
    refine .ite h.finish ?_
    split
    · exact Keeps.setRun (.ite h (h.runsPlan hw).returnAhead)
    · exact h.setRun
    · exact h.setCmd (by exact hc)

theorem runJobResume_keeps : RunKeeps runJobResume := by
  intro n s c env h hc
  unfold runJobResume
  split
  · exact .ite (queueJob_keeps h hc) h.finish
  · exact h.finish

theorem Keeps.reportLength (h : Keeps n s) {p k : Nat} {d : List Byte} : Keeps n (reportLength s p k d) :=
  .ite h.onLead h.onLead.hostWrite

theorem Keeps.beginSave (h : Keeps n w.s) {c : Cmd} : Keeps n (beginSave w c) := by
  unfold Machine.beginSave
  extract_lets d k s1 s2 s3
  have hs1 : Keeps n s1 := h.reportLength
  have hs2 : Keeps n s2 := .ite hs1.createHidden hs1
  have hs3 : Keeps n s3 := .returnAhead (by exact hs2)
  exact .ite hs1.finish hs3.setRun

theorem runCtxSave_keeps : RunKeeps runCtxSave := by
  intro n s c env h hc
  unfold runCtxSave
  split
  next => exact h.finish
  next hw => exact .ite (h.runsPlan hw).beginSave (h.setCmd (by exact hc))
  next => exact h.finish

theorem Keeps.putImage (h : Keeps n w.s) {c : Cmd} {env : Env} : Keeps n (putImage w c env).1 := by
  unfold Machine.putImage
  dsimp only
  split
  · exact h
  · split
    · split
      · exact h.reportLength.wearOut
      · exact h.reportLength.wearOut.appendHidden
    · split
      · exact h.reportLength
      · exact h.reportLength.hostWrite

theorem Keeps.finishSave (h : Keeps n w.s) {c : Cmd} {env : Env} : Keeps n (finishSave w c env) :=
  .ite h.putImage.setRun.finish.endJob h.putImage.setRun.finish

theorem Keeps.execCtxSaveWrite (h : Keeps n s) {p : Nat} {env : Env} : Lands (execCtxSaveWrite p env s) := by
  refine Keeps.lands (n := n) ?_
  split
  · split
    next => exact h
    next c hc =>
      refine .ite h (.ite h.faultFrom ?_)
      extract_lets r t
      have hr : Keeps n r.1 := by
        unfold r
        split
        · exact h.tierStatus
        · exact h
      clear_value r
      split
      · exact hr.dataError
      · exact Keeps.finishSave (hr.chargeCmd (h.behind_cmd hc))
  · exact h

theorem Keeps.saveDrained {t : State × Bool} (h : Keeps n t.1) {env : Env} {c : Cmd} : Keeps n (saveDrained env t c).1 := by
  unfold Machine.saveDrained
  dsimp only
  split
  · exact h.finish
  · exact Keeps.finish (Keeps.putImage (.ite h.createHidden h))
  · exact h

theorem Keeps.dropPageCache (h : Keeps n s) {p : Nat} : Keeps n (dropPageCache s p) := h

theorem Keeps.leavePartition (h : Keeps n s) {p id : Nat} {j : Job} {stopped : Bool} : Keeps n (leavePartition s p id j stopped) := by
  unfold Machine.leavePartition
  dsimp only
  split
  · exact h.clearJob.dropStreams.dropPageCache.setRun.finishId.finishWith
  · exact h.clearJob.dropStreams.dropPageCache.setRun.finishId

theorem Keeps.execPreemptDrained (h : Keeps n s) {p : Nat} {env : Env} : Lands (execPreemptDrained p env s) := by
  refine Keeps.lands (n := n) ?_
  split
  · refine .ite h (.ite h.faultFrom (Keeps.leavePartition ?_))
    exact Keeps.foldl_fst h.chargeJob fun h _ => h.saveDrained
  · exact h

theorem runJobCancel_keeps : RunKeeps runJobCancel := by
  intro n s c env h hc
  unfold runJobCancel
  extract_lets p k t s1 s2
  have hs1 : Keeps n s1 := .ite (h.chargeCmd hc).endJob (h.chargeCmd hc)
  clear_value s1
  have hs2 : Keeps n s2 := by
    unfold s2
    split
    · exact .ite hs1.clearPreempted hs1
    · exact hs1
  exact .ite h.finish hs2.finishIds.finish

theorem Keeps.rerun (h : Keeps n w.s) {env : Env} : Keeps n (rerun w env).1 ∧ ∀ v, (rerun w env).2 = some v → Keeps n v.s := by
  unfold Machine.rerun
  extract_lets w1
  have hw1 : Keeps n w1.s := Keeps.startCopies (by exact h)
  clear_value w1
  dsimp only
  split
  · split
    · exact ⟨h.readImage, fun _ hv => nomatch hv⟩
    · split
      next => exact ⟨h.readImage, fun _ hv => nomatch hv⟩
      next hrestored =>
        refine ⟨h.readImage, fun v hv => ?_⟩
        obtain rfl := Option.some.inj hv
        have hs := restoreImage_s hrestored
        exact hs ▸ h.readImage
  · exact ⟨hw1, fun v hv => Option.some.inj hv ▸ hw1⟩

theorem Keeps.runAgain (h : Keeps n s) : Keeps n (runAgain s w) := h.dropStreams.setPlan.setRun.reopenEngines

theorem Keeps.restartJob (h : Keeps n w.s) {env : Env} : Keeps n (restartJob w env) := by
  refine .ite h.runAgain (.ite h.sendAborts.endJob ?_)
  obtain ⟨hs, hrun⟩ := h.rerun (env := env)
  dsimp only
  split
  · exact hs.runAgain
  · exact hs.endJob

theorem Keeps.execJobRestart (h : Keeps n s) {p : Nat} {tested : List Nat} {env : Env} : Lands (execJobRestart p tested env s) := by
  refine Keeps.lands (n := n) (.ite h ?_)
  have htested := h.runTests (kind := 0) (depth := 0) (units := tested) (tests := env.tests)
  refine .ite htested ?_
  split
  next hw => exact (htested.chargeJob.workOf hw).restartJob
  next => exact htested

end Sys2Proof.Machine
end

section
/-! The invariant, kept by page pools, the directory of shared pages and serving (07 R155 to R175, 15 R334 to R342). -/

namespace Sys2Proof.Machine

variable {n : Nat} {s : State} {w : Work}

theorem Keeps.onAtt (h : Keeps n s) {b : Nat} {f : Att → Att} : Keeps n (onAtt s b f) := h.setBasin
theorem Keeps.of_nodes (h : Keeps n s) {v : List Node} : Keeps n { s with nodes := v } := h
theorem Keeps.evict (h : Keeps n s) {v : Node} : Keeps n (evict s v) := h.removeNode.onAtt.dropPage

theorem Keeps.claimPage (h : Keeps n s) {p k : Nat} {r : Nat × State} (hr : claimPage s p k = some r) : Keeps n r.2 := by
  unfold Machine.claimPage at hr
  split at hr
  · obtain ⟨_, _, rfl⟩ := Option.map_eq_some_iff.mp hr
    exact h.setPlan
  · cases hr

theorem Keeps.takeFrom (h : Keeps n s) {p k fuel : Nat} {r : Nat × State} (hr : takeFrom p k fuel s = some r) : Keeps n r.2 := by
  induction fuel generalizing s with
  | zero => exact h.claimPage hr
  | succ fuel ih =>
    rw [Machine.takeFrom] at hr
    split at hr
    next hclaim =>
      obtain rfl := Option.some.inj hr
      exact h.claimPage hclaim
    next =>
      split at hr
      · exact ih h.evict hr
      · cases hr

theorem Keeps.takePage (h : Keeps n s) {p k : Nat} {r : Nat × State} (hr : takePage s p k = some r) : Keeps n r.2 := h.takeFrom hr

theorem Keeps.growPages (h : Keeps n s) {r : Request} {k : Nat} : Keeps n (growPages s r k) := by
  refine Keeps.setRequest (Keeps.foldl_fst h fun h _ => ?_)
  split
  next htake => exact h.takePage htake
  next => exact h

theorem Keeps.cachePage (h : Keeps n s) {p k g : Nat} : Keeps n (cachePage s p k g) := by
  unfold Machine.cachePage
  split
  · exact .ite h h.setPlan
  · exact h

theorem Keeps.refNode (h : Keeps n s) {v : Node} : Keeps n (refNode s v) := .ite h.of_nodes.cachePage h.of_nodes
theorem Keeps.collide (h : Keeps n s) {p : Nat} {key : List Byte} : Keeps n (collide s p key) := h.onAtt.raiseEvent
theorem Keeps.countLookup (h : Keeps n s) {key : List Byte} : Keeps n (countLookup s key) := h.onAtt
theorem Keeps.hitNode (h : Keeps n s) {v : Node} : Keeps n (hitNode s v) := h.onAtt.refNode

theorem Keeps.lookupFrom (h : Keeps n s) {pl : Plan} {fuel k : Nat} {parent : List Byte} {r : Request} :
    Keeps n (lookupFrom pl fuel k parent s r).1 := by
  induction fuel generalizing s r k parent with
  | zero => exact h
  | succ fuel ih =>
    rw [Machine.lookupFrom]
    split
    · exact h.countLookup
    · split
      · exact ih h.countLookup.hitNode
      · exact h.countLookup.collide

theorem Keeps.admitRequest (h : Keeps n s) {pl : Plan} {r : Request} : Keeps n (admitRequest s pl r).1 := by
  unfold Machine.admitRequest
  refine Keeps.setRequest ?_
  split
  · exact h.lookupFrom
  · exact h

theorem Keeps.makeRoom (h : Keeps n s) {b : Nat} {t : State} (ht : makeRoom s b = some t) : Keeps n t := by
  unfold Machine.makeRoom at ht
  dsimp only at ht
  split at ht
  · obtain ⟨_, _, rfl⟩ := Option.map_eq_some_iff.mp ht
    exact h.evict
  · split at ht
    · obtain ⟨_, _, rfl⟩ := Option.map_eq_some_iff.mp ht
      exact h.evict
    · obtain rfl := Option.some.inj ht
      exact h

theorem Keeps.onPage (h : Keeps n s) {p k g : Nat} {f : Page → Page} : Keeps n (onPage s p k g f) := by
  unfold Machine.onPage
  split
  · split
    · exact h.setPlan
    · exact h
  · exact h

theorem Keeps.insertNode (h : Keeps n s) {r : Request} {key parent : List Byte} {k : Nat} : Keeps n (insertNode s r key parent k) :=
  h.of_nodes.onPage.onAtt

theorem Keeps.swapPage (h : Keeps n s) {r : Request} {k page : Nat} : Keeps n (swapPage s r k page).1 := h.setRequest.dropPage

theorem Keeps.completePages (h : Keeps n s) {pl : Plan} {fuel : Nat} {parent : List Byte} {r : Request} :
    Keeps n (completePages pl fuel parent s r).1 := by
  induction fuel generalizing s r parent with
  | zero => exact h
  | succ fuel ih =>
    rw [Machine.completePages]
    dsimp only
    split
    · split
      · exact ih h.countLookup.hitNode.swapPage
      · exact h.countLookup.collide
    · split
      next => exact h.countLookup.onAtt
      next hroom => exact ih (h.countLookup.makeRoom hroom).insertNode.setRequest

theorem Keeps.writeHeaders (h : Keeps n s) {r : Request} {lo hi : Nat} : Keeps n (writeHeaders s r lo hi) := by
  refine h.foldl fun h _ => ?_
  split
  · exact h.onPage
  · exact h

theorem Keeps.advancePages (h : Keeps n s) {pl : Plan} {r : Request} {hi : Nat} : Keeps n (advancePages s pl r hi).1 := by
  unfold Machine.advancePages
  dsimp only
  split
  · exact h.writeHeaders.setRequest.completePages
  · exact h.writeHeaders.setRequest

theorem Keeps.parkRequest (h : Keeps n s) {r : Request} : Keeps n (parkRequest s r) := by
  have hcounted : Keeps n (match leadBasin s r.part with
      | some b => Machine.onAtt s b fun a => { a with parks := satAdd a.parks 1 }
      | none => s) := by
    split
    · exact h.onAtt
    · exact h
  exact .ite hcounted.endRequest hcounted.releasePages.setRequest

/-! The sequence commands. -/

theorem Keeps.joinIdle (h : Keeps n s) {p c : Nat} : Keeps n (joinIdle s p c) := by
  refine .ite h ?_
  split
  · exact h.setRun
  · exact h

theorem Keeps.readTokens (h : Keeps n s) {c : Cmd} {env : Env} : Keeps n (readTokens s c env).1 := by
  unfold Machine.readTokens
  extract_lets d g toks vocab
  have hg : Keeps n g.2 := h.hostRead (a := 0) (k := 0)
  split
  · exact h.hostReadFailed
  · split
    · exact hg
    · exact hg.refuse

theorem Keeps.enqueue (h : Keeps n s) {r : Request} : Keeps n (enqueue s r) := h.joinIdle.setRun.setRequest

theorem Keeps.acceptCmd (h : Keeps n s) {c : Cmd} (hc : Behind n c) : Keeps n (acceptCmd s c) := h.setCmd (by exact hc)

theorem chargeCmd_behind {c : Cmd} {ch : Charge} (hc : Behind n c) : Behind n (chargeCmd s c ch).2 := hc

theorem runSeqSubmit_keeps : RunKeeps runSeqSubmit := by
  intro n s c env h hc
  unfold runSeqSubmit
  dsimp only
  split
  · exact h.finish
  · have hread := (h.chargeCmd (ch := env.charge) hc).readTokens (c := (Machine.chargeCmd s c env.charge).2) (env := env)
    split
    · exact hread
    · split
      next => exact hread.finish
      next hseed =>
        split at hseed
        · exact ((hread.drawSeed hseed).acceptCmd (chargeCmd_behind hc)).enqueue
        · obtain ⟨rfl, rfl⟩ := Prod.mk.inj (Option.some.inj hseed)
          exact (hread.acceptCmd (chargeCmd_behind hc)).enqueue

theorem Keeps.applyHeld (h : Keeps n s) {held : List (Nat × List Nat)} {r : Request} : Keeps n (applyHeld held s r) := by
  induction held generalizing s with
  | nil => exact h.setRequest
  | cons e held ih =>
    obtain ⟨id, toks⟩ := e
    rw [Machine.applyHeld]
    split
    · exact ih h
    · exact .ite (ih h.finish) h.releasePages.enqueue

theorem runSeqAppend_keeps : RunKeeps runSeqAppend := by
  intro n s c env h hc
  unfold runSeqAppend
  dsimp only
  split
  · exact h.finish
  · have hread := (h.chargeCmd (ch := env.charge) hc).readTokens (c := (Machine.chargeCmd s c env.charge).2) (env := env)
    have haccepted := hread.acceptCmd (chargeCmd_behind (s := s) (ch := env.charge) hc)
    split
    · exact .ite haccepted.applyHeld haccepted.setRequest
    · exact hread

theorem runSeqRelease_keeps : RunKeeps runSeqRelease := by
  intro n s c env h hc
  unfold runSeqRelease
  dsimp only
  split
  · exact h.finish
  · refine .ite h.finish ?_
    split
    · exact (h.chargeCmd hc).finish
    · exact .ite (h.chargeCmd hc).setRequest (h.chargeCmd hc).endRequest.finishId

/-! Forming a step. -/

variable {f : Forming}

theorem Keeps.iteForming {c : Prop} [Decidable c] {a b : Forming} (ha : Keeps n a.s) (hb : Keeps n b.s) :
    Keeps n (if c then a else b).s := by
  split
  · exact ha
  · exact hb

theorem Keeps.foldForming {α : Type} {g : Forming → α → Forming} (h : Keeps n f.s)
    (hg : ∀ {f : Forming}, Keeps n f.s → ∀ x, Keeps n (g f x).s) {xs : List α} : Keeps n (xs.foldl g f).s := by
  induction xs generalizing f with
  | nil => exact h
  | cons x xs ih => exact ih (hg h x)

theorem Keeps.takeDecode (h : Keeps n f.s) {pr fuel : Nat} : Keeps n (takeDecode pr fuel f).s := by
  induction fuel generalizing f with
  | zero => exact h
  | succ fuel ih =>
    rw [Machine.takeDecode]
    dsimp only
    split
    · split
      · exact ih h
      · exact h
    · exact h

theorem Keeps.grow (h : Keeps n f.s) : Keeps n f.grow.s := by
  refine h.foldl fun h _ => ?_
  split
  · exact h.growPages
  · exact h

theorem Keeps.parkForRows (h : Keeps n f.s) {fuel : Nat} : Keeps n (parkForRows fuel f).s := by
  induction fuel generalizing f with
  | zero => exact h
  | succ fuel ih =>
    rw [Machine.parkForRows]
    refine .iteForming h ?_
    split
    · exact ih h.parkRequest
    · exact h

theorem Keeps.addChunk (h : Keeps n f.s) {r : Request} {tight : Bool} : Keeps n (f.addChunk r tight).s :=
  .iteForming h (.iteForming h h.growPages)

theorem Keeps.consider (h : Keeps n f.s) {pl : Plan} {r : Request} {tight : Bool} : Keeps n (f.consider pl r tight).s := by
  refine .iteForming h (.iteForming h (.iteForming (.addChunk (by exact h)) (.addChunk ?_)))
  exact h.admitRequest

theorem Keeps.considerAll (h : Keeps n f.s) {pl : Plan} {tight : Bool} {pr fuel : Nat} :
    Keeps n (considerAll pl tight pr fuel f).s := by
  induction fuel generalizing f with
  | zero => exact h
  | succ fuel ih =>
    rw [Machine.considerAll]
    split
    · split
      · exact ih h.consider
      · exact h
    · exact h

theorem Keeps.chunkRounds (h : Keeps n f.s) {pl : Plan} {tight : Bool} {fuel : Nat} : Keeps n (chunkRounds pl tight fuel f).s := by
  induction fuel generalizing f with
  | zero => exact h
  | succ fuel ih =>
    rw [Machine.chunkRounds]
    have hround : Keeps n (priorities.foldl (fun f pr => Machine.considerAll pl tight pr f.requests.length f)
        { f with seen := [], took := false }).s := Keeps.foldForming (by exact h) fun h _ => h.considerAll
    exact .iteForming hround (ih hround)

theorem Keeps.formOnce (h : Keeps n s) {p k budget : Nat} {pl : Plan} : Keeps n (formOnce s p k pl budget).s := by
  unfold Machine.formOnce
  extract_lets f0 f1 left f2
  have hf1 : Keeps n f1.s := Keeps.foldForming (f := f0) h fun h _ => h.takeDecode
  have hf2 : Keeps n f2.s := hf1.parkForRows.grow
  exact .iteForming hf2 hf2.chunkRounds

theorem Keeps.formStep (h : Keeps n s) {p k budget fuel : Nat} {pl : Plan} : Keeps n (formStep p k pl budget fuel s).s := by
  induction fuel generalizing s with
  | zero => exact h.formOnce
  | succ fuel ih =>
    rw [Machine.formStep]
    refine .iteForming ?_ h.formOnce
    split
    · exact ih h.formOnce.parkRequest
    · exact h.formOnce

theorem Keeps.beginStep (h : Keeps n f.s) : Keeps n (beginStep f) := .ite h h.setRun

theorem Keeps.execServingStepForm (h : Keeps n s) {p : Nat} : Lands (execServingStepForm p s) := by
  refine Keeps.lands (n := n) ?_
  dsimp only
  split
  · exact h
  · exact .ite h.formStep.beginStep h

/-! The end of a step. -/

theorem Keeps.completeRequest (h : Keeps n s) {r : Request} {reason : Nat} : Keeps n (completeRequest s r reason) := by
  unfold Machine.completeRequest
  refine .ite h.endRequest (.ite (Keeps.applyHeld ?_) h.writeProgress.closeRequest)
  split
  · exact h.writeProgress.setRequest.finishId
  · exact h.writeProgress.setRequest

theorem Keeps.reportToken (h : Keeps n s) {r : Request} {tok context : Nat} : Keeps n (reportToken s r tok context) := by
  unfold Machine.reportToken
  extract_lets a s1
  have hs1 : Keeps n s1 := .ite h.hostWrite h
  refine .ite h.endRequest ?_
  split
  · exact hs1.completeRequest
  · exact .ite hs1.endRequest hs1.writeProgress.setRequest

theorem Keeps.produce (h : Keeps n s) {pl : Plan} {b : Nat} {z : List Word32} {r : Request} : Keeps n (produce s pl b z r) := by
  refine .ite h.completeRequest ?_
  dsimp only
  split
  · exact h.countSfu.reportToken
  · exact h.countSfu.raiseEvent.endRequest

theorem Keeps.escalateRequest (h : Keeps n s) {r : Request} {ops : List Nat} : Keeps n (escalateRequest s r ops) :=
  h.releasePages.setRequest

theorem Keeps.endSlot (h : Keeps n s) {t : ServeStep} {slot : Nat} : Keeps n (endSlot w t s slot) := by
  refine .ite h ?_
  split
  · exact h
  · exact .ite h.escalateRequest (.ite h.advancePages.produce h.advancePages)

theorem Keeps.chargeSlot (h : Keeps n s) {t : ServeStep} {p k slot : Nat} {ch : Charge} : Keeps n (chargeSlot t p k s slot ch) := by
  unfold Machine.chargeSlot
  dsimp only
  split
  next hc =>
    obtain ⟨_, _, hcmd⟩ := Option.bind_eq_some_iff.mp hc
    obtain ⟨_, _, hid⟩ := Option.bind_eq_some_iff.mp hcmd
    exact h.chargeCmd (h.behind_cmd hid)
  next =>
    split
    · exact h.chargeClient
    · exact h

theorem Keeps.chargeStep (h : Keeps n s) {t : ServeStep} {p k : Nat} {ch : Charge} : Keeps n (chargeStep t p k ch s) :=
  (h.foldl fun h _ => h.chargeSlot).chargeSlot

theorem Keeps.endStep (h : Keeps n w.s) {t : ServeStep} {ch : Charge} : Keeps n (endStep w t ch) :=
  (h.chargeStep.foldl fun h _ => h.endSlot).setRun.settleReleases

theorem Keeps.execServingStepEnd (h : Keeps n s) {p : Nat} {env : Env} : Lands (execServingStepEnd p env s) := by
  refine Keeps.lands (n := n) ?_
  split
  · refine .ite h (.ite h.faultFrom ?_)
    extract_lets r
    have hr : Keeps n r.1 := h.tierStatus
    clear_value r
    split
    · exact hr.dataError
    · exact Keeps.endStep (by exact hr)
  · exact h

/-! Tables (05 R117 to R121). -/

theorem Keeps.onSfus (h : Keeps n s) {p : Nat} {f : Sfu → Sfu} : Keeps n (onSfus s p f) := h.foldl fun h _ => h.setBasin

theorem Keeps.loadTables (h : Keeps n s) {c : Cmd} {image : List Byte} : Keeps n (loadTables s c image) := by
  unfold Machine.loadTables
  dsimp only
  split
  · exact h.refuse
  · split
    · exact h.finish
    · exact h.onSfus.setRun

theorem runTableLoad_keeps : RunKeeps runTableLoad := by
  intro n s c env h hc
  refine .ite (h.setCmd (by exact hc)) ?_
  dsimp only
  split
  · exact Keeps.finish (.ite h.onSfus h)
  · refine .ite (h.chargeCmd hc).unitFault.finish (.ite ?_ (.ite (h.chargeCmd hc).hostReadFailed (h.chargeCmd hc).hostRead.loadTables))
    split
    · exact (h.chargeCmd hc).tierStatus.finish
    · exact (h.chargeCmd hc).tierStatus.hbmGet.loadTables

theorem Keeps.execTableBankSwitch (h : Keeps n s) {p : Nat} : Lands (execTableBankSwitch p s) := by
  refine Keeps.lands (n := n) ?_
  split
  · exact .ite (.ite h.onSfus.onSfus.setRun.finishId h.onSfus) h
  · exact h

/-! Commands that were taken earlier (14 R314). -/

theorem runNop_keeps : RunKeeps runNop := fun h hc => (h.chargeCmd hc).finish

theorem runOf_keeps (o : Nat) : RunKeeps (runOf o) := by
  unfold runOf
  split
  · exact runPlanLoad_keeps
  · exact runPlanUnload_keeps
  · exact queueJob_keeps
  · exact runJobPreempt_keeps
  · exact runJobResume_keeps
  · exact runJobCancel_keeps
  · exact runCtxSave_keeps
  · exact queueJob_keeps
  · exact runSeqSubmit_keeps
  · exact runSeqAppend_keeps
  · exact runSeqRelease_keeps
  · exact runCopy_keeps
  · exact runTableLoad_keeps
  · exact runCodecEncode_keeps
  · exact runCodecDecode_keeps
  · exact runResample_keeps
  · exact runStoreRead_keeps
  · exact runStoreWrite_keeps
  · exact runStoreDelete_keeps
  · exact runStoreList_keeps
  · exact runBist_keeps
  · exact runSnapshot_keeps
  · exact runAcctRead_keeps
  · exact runPartitionSet_keeps
  · exact runNop_keeps

theorem Keeps.execDeferredCommandStart (h : Keeps n s) {id : Nat} {env : Env} : Lands (execDeferredCommandStart id env s) := by
  refine Keeps.lands (n := n) ?_
  split
  next c hc =>
    have hbehind := h.behind_cmd hc
    exact .ite (h.startCmd hbehind (runOf_keeps _)) (.ite (h.resampleNow (by exact hbehind)) h)
  next => exact h

end Sys2Proof.Machine
end

section
/-! Every step keeps the invariant: each command by what its meaning keeps, and the idle tick. -/

namespace Sys2Proof.Machine

variable {n : Nat} {s : State}

/-- Whatever a command comes to keeps the invariant. -/
theorem exec_lands (h : Keeps n s) (i : Instr) : Lands (exec i s) := by
  cases i with
  | nop _ _ _ => exact takeRow_lands h runNop_keeps
  | planLoad _ _ _ => exact takeRow_lands h runPlanLoad_keeps
  | planUnload _ _ _ => exact takeRow_lands h runPlanUnload_keeps
  | jobStart _ _ _ => exact takeRow_lands h queueJob_keeps
  | jobBegin _ _ => exact h.execJobBegin
  | jobPreempt _ _ _ => exact takeRow_lands h runJobPreempt_keeps
  | jobResume _ _ _ => exact takeRow_lands h runJobResume_keeps
  | jobCancel _ _ _ => exact takeRow_lands h runJobCancel_keeps
  | ctxSave _ _ _ => exact takeRow_lands h runCtxSave_keeps
  | ctxRestore _ _ _ => exact takeRow_lands h queueJob_keeps
  | seqSubmit _ _ _ => exact takeRow_lands h runSeqSubmit_keeps
  | seqAppend _ _ _ => exact takeRow_lands h runSeqAppend_keeps
  | seqRelease _ _ _ => exact takeRow_lands h runSeqRelease_keeps
  | copy _ _ _ => exact takeRow_lands h runCopy_keeps
  | tableLoad _ _ _ => exact takeRow_lands h runTableLoad_keeps
  | codecEncode _ _ _ => exact takeRow_lands h runCodecEncode_keeps
  | codecDecode _ _ _ => exact takeRow_lands h runCodecDecode_keeps
  | resample _ _ _ => exact takeRow_lands h runResample_keeps
  | storeRead _ _ _ => exact takeRow_lands h runStoreRead_keeps
  | storeWrite _ _ _ => exact takeRow_lands h runStoreWrite_keeps
  | storeDelete _ _ _ => exact takeRow_lands h runStoreDelete_keeps
  | storeList _ _ _ => exact takeRow_lands h runStoreList_keeps
  | bistRun _ _ _ => exact takeRow_lands h runBist_keeps
  | snapshot _ _ _ => exact takeRow_lands h runSnapshot_keeps
  | acctRead _ _ _ => exact takeRow_lands h runAcctRead_keeps
  | partitionSet _ _ _ => exact takeRow_lands h runPartitionSet_keeps
  | deferredCommandStart _ _ => exact h.execDeferredCommandStart
  | descriptorReadFail _ _ => exact h.execDescriptorReadFail
  | sqTailDoorbell _ _ _ => exact Keeps.lands (n := n) (.ite h.sqTail h)
  | cqHeadDoorbell _ _ _ => exact Keeps.lands (n := n) (.ite h.cqHead h)
  | sqCfgWrite _ _ _ _ => exact Keeps.lands (n := n) (.ite h.sqCfg h)
  | cqCfgWrite _ _ _ _ => exact Keeps.lands (n := n) (.ite h.cqCfg h)
  | irqHoldoffEnd _ _ _ => exact h.execIrqHoldoffEnd
  | evtCfgWrite _ _ _ => exact h.execEvtCfgWrite
  | evtHeadWrite _ _ => exact Keeps.lands (n := n) (.ite h.setEvtRing h)
  | eventWrite => exact h.execEventWrite
  | registerWrite _ _ _ _ => exact Keeps.lands (n := n) (.ite h.touch.regWrite h)
  | halfReadLatch _ _ => exact h.execHalfReadLatch
  | acctDataRead _ => exact Keeps.lands (n := n) (.ite h.touch.latchAcct h)
  | bistMemRead _ _ => exact Keeps.lands (n := n) (.ite h.touch.latchMem h)
  | foreignRequest _ _ => exact Keeps.lands (n := n) (.ite h.of_hif h)
  | pcieFlr _ => exact Keeps.lands (n := n) (.ite h.flr h)
  | pcieHotReset => exact Keeps.lands (n := n) (.ite h.warmReset h)
  | pcieLinkLoss => exact Keeps.lands (n := n) (.ite h.warmReset h)
  | perstNAssert => exact h.coldHold.lands
  | pwrGoodFall _ => exact Keeps.lands (n := n) (.ite h.coldHold h)
  | resetRelease => exact h.execResetRelease
  | stage0Complete _ _ _ _ => exact Keeps.lands (n := n) (.ite (by exact h) h)
  | stage1Complete _ _ => exact h.execStage1Complete
  | stage2Complete _ _ _ => exact h.execStage2Complete
  | stage3Complete _ => exact h.execStage3Complete
  | telWarmReset => exact Keeps.lands (n := n) (.ite h.warmReset h)
  | throttleAssert => exact h.of_run.lands
  | throttleRelease => exact h.execThrottleRelease
  | sysrefLoss _ => exact Keeps.lands (n := n) (.ite h.of_run h)
  | powerSample _ _ => exact h.execPowerSample
  | powerRaise => exact h.execPowerRaise
  | thermalSample _ _ => exact h.execThermalSample
  | thermAlertAssert => exact h.execThermAlertAssert
  | mbRead _ => exact Keeps.lands (n := n) (.ite (.ite h.mbOpcode.mbAnswer h.mbOpcode.mbAnswer) h)
  | mbWrite _ _ => exact h.execMbWrite
  | mbTrainStack _ _ => exact h.execMbTrainStack
  | mbVersions _ => exact Keeps.lands (n := n) (.ite h.mbOpcode.mbAnswer h)
  | jtagPinInstruction _ => exact h.jtagLoad.lands
  | jtagPinRelease _ => exact h.jtagRelease.lands
  | jtagReadback _ => exact h.execJtagReadback
  | lcRequest _ _ => exact h.execLcRequest
  | bistGo _ _ => exact h.execBistGo
  | coreQuiesce _ _ => exact Keeps.lands (n := n) (.ite h.setCore h)
  | hbmTrain _ _ => exact Keeps.lands (n := n) (.ite h.trainForTg h)
  | hbmTgStart _ _ => exact h.tgStart.lands
  | hbmTgStop _ => exact h.tgStop.lands
  | hbmTgRunEnd _ _ _ => exact h.execHbmTgRunEnd
  | rngRetest _ => exact Keeps.lands (n := n) (.ite h.of_rng.startUp h)
  | laneTest _ => exact Keeps.lands (n := n) (.ite h.laneTest h)
  | mtcResync => exact Keeps.lands (n := n) (.ite h.of_mtc h)
  | optEnable _ _ => exact Keeps.lands (n := n) (.ite h.setPort h)
  | optRetrain _ => exact Keeps.lands (n := n) (.ite h.setPort h)
  | optFence _ => exact Keeps.lands (n := n) (.ite h.markLost h)
  | numClear _ => exact h.onBasin.lands
  | rsmClear _ => exact h.onBasin.lands
  | sfuClear _ => exact h.onBasin.lands
  | wrkClear _ => exact h.onBasin.lands
  | attClear _ => exact h.onBasin.lands
  | mereClear _ => exact h.onBasin.lands
  | updClear _ => exact h.onBasin.lands
  | cdcClear _ => exact Keeps.lands (n := n) (.ite h.setCodec h)
  | hifClear => exact Keeps.lands (n := n) (.ite h.of_hif h)
  | schedClear => exact Keeps.lands (n := n) (.ite (by exact h) h)
  | acctClearAll => exact Keeps.lands (n := n) (.ite (by exact h) h)
  | flsClear => exact Keeps.lands (n := n) (.ite (by exact h) h)
  | telClear => exact Keeps.lands (n := n) (.ite h.telClear h)
  | secClear => exact Keeps.lands (n := n) (.ite (h.of_sec (by rfl)) h)
  | rngClear => exact Keeps.lands (n := n) (.ite h.of_rng h)
  | recoveryGo _ _ => exact h.execRecoveryGo
  | attestationGo _ _ => exact h.execAttestationGo
  | mctpAttestReport _ => exact h.execMctpAttestReport
  | mctpPublicKey => exact h.execMctpPublicKey
  | lcsTransition _ _ _ => exact Keeps.lands (n := n) (.ite h.lcTransition h)
  | lcsSlotFuse _ _ => exact h.execLcsSlotFuse
  | lcsSlotRevoke _ _ _ => exact h.execLcsSlotRevoke
  | operationOpen _ _ => exact h.execOperationOpen
  | stripFetch _ _ _ => exact h.execStripFetch
  | stripComputeDone _ => exact h.execStripComputeDone
  | commitRequest _ _ _ _ _ => exact h.execCommitRequest
  | stripCommitDone _ _ _ _ _ => exact h.execStripCommitDone
  | soundingCheck _ _ _ _ _ => exact h.execSoundingCheck
  | soundingArbitration _ _ _ _ _ => exact h.execSoundingArbitration
  | operationComplete _ _ _ => exact h.execOperationComplete
  | coreHeartbeat _ => exact Keeps.lands (n := n) (.ite h.setCore h)
  | heartbeatTimeout _ => exact Keeps.lands (n := n) (.ite h.declareDead h)
  | stripReissue _ => exact h.execStripReissue
  | deadCoreMessage _ => exact h.execDeadCoreMessage
  | logicFault _ => exact h.execLogicFault
  | fabricError _ _ => exact Keeps.lands (n := n) (.ite h.faultFrom h)
  | jobRestart _ _ _ => exact h.execJobRestart
  | servingStepForm _ => exact h.execServingStepForm
  | servingStepEnd _ _ => exact h.execServingStepEnd
  | preemptDrained _ _ => exact h.execPreemptDrained
  | ctxSaveWrite _ _ => exact h.execCtxSaveWrite
  | tableBankSwitch _ => exact h.execTableBankSwitch
  | codecWorkStart _ _ => exact h.execCodecWorkStart
  | codecFrameStart _ _ => exact h.execCodecFrameStart
  | tierRead _ _ _ _ _ _ => exact h.execTierRead
  | tierReadLate _ _ _ _ _ => exact h.execTierReadLate
  | mereScrub _ _ _ _ => exact h.execMereScrub
  | hbmPatrol _ _ _ _ _ => exact h.execHbmPatrol
  | hbmChannelTimeout _ _ => exact Keeps.lands (n := n) (.ite h.loseStack h)
  | stackLost _ _ _ => exact Keeps.lands (n := n) (.ite h.loseStack h)
  | laserLightLow _ _ _ => exact Keeps.lands (n := n) (.ite h.setPort.raiseEvent h)
  | optHello _ _ => exact h.execOptHello
  | linkDown _ => exact Keeps.lands (n := n) (.ite h.downLink h)
  | retrainTimeout _ => exact h.execRetrainTimeout
  | dataFlitReceive _ _ _ => exact h.execDataFlitReceive
  | nakReceive _ _ => exact h.execNakReceive
  | censusReport _ _ => exact h.execCensusReport
  | censusClose _ => exact Keeps.lands (n := n) (.ite h.of_mtc.closeCensus h)
  | censusReceive _ _ _ _ _ _ => exact Keeps.lands (n := n) (.ite h.closeCensus h)
  | timeWaveSend => exact Keeps.lands (n := n) (.ite h.of_census h)
  | timeWaveReceive _ _ _ _ _ => exact h.execTimeWaveReceive
  | readyMark _ _ _ _ _ => exact h.execReadyMark
  | startTimeReceive _ _ _ _ => exact h.execStartTimeReceive
  | collectiveChunkStart _ _ _ => exact h.execCollectiveChunkStart
  | collectiveTimeout _ _ _ => exact h.execCollectiveTimeout
  | peerAbort _ => exact h.execPeerAbort
  | springBlock _ => exact Keeps.lands (n := n) (.ite h.springBlock h)
  | springRetry _ => exact h.execSpringRetry
  | journalProgram => exact h.execJournalProgram
  | flashPatrol _ _ _ _ => exact h.execFlashPatrol
  | accountUpdate _ _ _ => exact h.execAccountUpdate
  | pcieConfigWrite _ _ _ => exact h.execPcieConfigWrite
  | laserLightRestored _ _ _ => exact Keeps.lands (n := n) (.ite h.setPort h)
  | ackFlitReceive _ _ => exact Keeps.lands (n := n) (.ite h.setPort.pump h)
  | creditFlitReceive _ _ _ _ => exact Keeps.lands (n := n) (.ite h.setPort.pump h)
  | sysrefRestored => exact h.of_run.lands

theorem Keeps.tick (h : Keeps n s) : Keeps n (tick s) := .ite (by exact h) h

/-- Settles O4: whatever a command comes to keeps the invariant, and so does the idle tick. -/
theorem everyStepKeepsInvariant : Obligations.EveryStepKeepsInvariant := by
  intro s t hs hstep
  unfold step at hstep
  split at hstep
  next => exact hs.keeps.tick.lands t hstep
  next c rest hpending => exact exec_lands (s := { s with pending := rest }) (by exact hs.keeps) c t hstep

end Sys2Proof.Machine
end

section
/-! The queue and the reset state. -/

namespace Sys2Proof.Machine

/-- Settles O1: a step of a queue that is not empty is its front command's effect. -/
theorem stepRunsFrontCommand : Obligations.StepRunsFrontCommand := by
  intro c rest s h
  simp only [step, h]

/-- The reset state holds no bytes, no event and no command, and its four key slots. -/
theorem reset_numbered : Numbered State.reset where
  cmds := fun _ hc => nomatch hc
  rings := fun _ he => nomatch he

/-- Settles O3: every part that the invariant speaks of is empty at reset but for the key slots. -/
theorem resetHasInvariant : Obligations.ResetHasInvariant where
  host := rfl
  hbm := rfl
  window := rfl
  log := Nat.zero_le _
  numbered := reset_numbered
  slots := rfl

end Sys2Proof.Machine
end

section
/-! Resets, the reset pins, JTAG and SYSREF (17 R376 to R378, 19 R410, 21 R434, R436), and what resets keep of the flash store
(16 R352, R358). -/

namespace Sys2Proof.Machine

variable {s : State}

/-! What a reset leaves. -/

theorem warmReset_of_alive (h : alive s = true) (cause : BitVec 3) : warmReset s cause = afterWarm s cause := if_pos h

theorem alive_of_staged (h : staged s = true) : alive s = true := by
  unfold staged at h
  unfold alive
  cases hphase : s.run.phase <;> simp_all

/-- Settles O17: each of the three triggers is a warm reset of a device that is alive. -/
theorem warmResetsRestart : Obligations.WarmResetsRestart := by
  intro s halive
  refine ⟨fun hup => ⟨?_, ?_⟩, fun hstaged => ?_⟩
  · simp only [exec, execPcieHotReset, hup, if_true, warmReset_of_alive halive]
  · simp only [exec, execPcieLinkLoss, hup, if_true, warmReset_of_alive halive]
  · simp only [exec, execTelWarmReset, hstaged, if_true, warmReset_of_alive halive]

/-! Temperatures: the highest of some readings. -/

theorem hottest_fst (xs : List Nat) (i : Nat) : (hottest xs i).1 = xs.foldr max 0 := by
  induction xs generalizing i with
  | nil => rfl
  | cons x xs ih =>
    simp only [hottest, List.foldr_cons, ← ih (i + 1)]
    split <;> omega

theorem hottest_fst_eq_foldl (xs : List Nat) (i : Nat) : (hottest xs i).1 = xs.foldl max 0 := by
  rw [hottest_fst, List.foldl_eq_foldr]

theorem le_hottest {xs : List Nat} {x : Nat} (h : x ∈ xs) (i : Nat) : x ≤ (hottest xs i).1 := by
  rw [hottest_fst]
  induction xs with
  | nil => cases h
  | cons y xs ih =>
    rw [List.foldr_cons]
    rcases List.mem_cons.mp h with rfl | h
    · exact le_max_left _ _
    · exact (ih h).trans (le_max_right _ _)

theorem hottest_lt {xs : List Nat} {m : Nat} (hm : 0 < m) (h : ∀ x ∈ xs, x < m) (i : Nat) : (hottest xs i).1 < m := by
  rw [hottest_fst]
  induction xs with
  | nil => exact hm
  | cons x xs ih =>
    rw [List.foldr_cons]
    exact max_lt (h x List.mem_cons_self) (ih fun y hy => h y (List.mem_cons_of_mem _ hy))

theorem logicMax_lt {dies : List Nat} (h : ∀ d ∈ dies, d < 115) : logicMax dies < 115 :=
  hottest_lt (by decide) (fun x hx => h x (List.mem_of_mem_take hx)) 0

/-- Settles O19: the pins hold the device as a cold reset leaves it, and a logic die at 115 °C switches the rails off. -/
theorem coldResetsHold : Obligations.ColdResetsHold := by
  intro s ns dies rates
  refine ⟨rfl, rfl, fun hheld => ?_, fun halive ⟨d, hd, h115⟩ => ?_⟩
  · simp only [exec, execResetRelease, hheld]
  · have hmax : 115 ≤ logicMax dies := h115.trans (le_hottest hd 0)
    simp only [exec, execThermalSample, halive, hmax, Bool.not_true, Bool.false_eq_true, if_false, if_true]
    rfl

/-! JTAG (19 R410). -/

theorem jtagSelect_readback (h : debugAllowed s.fuses = true) : jtagSelect s 0x21 = 0x21 := by
  simp only [jtagSelect, h]
  rfl

/-- An instruction that takes the pins ends the link. -/
theorem jtagLoad_takesPins {code : Nat} (h : code ∈ [0x00, 0x03, 0x04, 0x09, 0x0A]) : jtagLoad s code = { s with
    jtag := { s.jtag with instr := BitVec.ofNat 8 code, pins := true }, run := { s.run with pcieUp := false }
    hif := { s.hif with speed := 0, flit := false, width := 0 } } := by
  simp only [List.mem_cons, List.not_mem_nil, or_false] at h
  rcases h with rfl | rfl | rfl | rfl | rfl <;> rfl

/-- The release of pins that were not taken loads an instruction; of pins that were, it resets the device too. -/
theorem jtagRelease_untaken (h : s.jtag.pins = false) (instr : BitVec 8) :
    jtagRelease s instr = { s with jtag := s.jtag.select instr false } := by
  simp only [jtagRelease, h, Bool.false_eq_true, if_false]

theorem jtagRelease_taken (halive : alive s = true) (h : s.jtag.pins = true) (instr : BitVec 8) :
    jtagRelease s instr = afterWarm { s with jtag := s.jtag.select instr false } Config.jtagResetCause := by
  simp only [jtagRelease, h, if_true]
  exact warmReset_of_alive (by exact halive) _

/-- Settles O28, the cause of the reset after JTAG as log 28 leaves it and TRST_N as log 29 has it. -/
theorem sysrefAndJtag : Obligations.SysrefAndJtag := by
  intro s ns off trst
  refine ⟨rfl, rfl, fun code hcode => ?_, rfl, fun hpins => ?_, ⟨fun hpins => ?_, fun halive hpins => ?_⟩, fun hdebug hstaged => ?_⟩
  · exact congrArg Host.Outcome.next (jtagLoad_takesPins hcode)
  · exact congrArg Host.Outcome.next (jtagRelease_untaken hpins 0xFF)
  · refine congrArg Host.Outcome.next ((jtagRelease_untaken hpins _).trans ?_)
    cases trst <;> rfl
  · refine congrArg Host.Outcome.next ((jtagRelease_taken halive hpins _).trans ?_)
    cases trst <;> rfl
  · simp only [exec, execJtagReadback, hdebug, hstaged, Bool.and_self, if_true, jtagLoad, jtagSelect_readback hdebug]
    rfl

/-! The flash medium across a reset. -/

theorem Tab.find_filter {α : Type} {t : Tab α} {k : Nat} {v : α} (h : Tab.find t k = some v) {f : Nat × α → Bool}
    (hf : f (k, v) = true) : Tab.find (t.filter f) k = some v := by
  induction t with
  | nil => cases h
  | cons e t ih =>
    obtain ⟨j, w⟩ := e
    simp only [Tab.find] at h
    split at h
    next hj =>
      obtain rfl := hj
      obtain rfl := Option.some.inj h
      simp [hf, Tab.find]
    next hj =>
      rw [List.filter_cons]
      split
      · simp only [Tab.find, hj, if_false]
        exact ih h
      · exact ih h

/-- A write in progress that is dropped touches its own object alone. -/
theorem dropStoreOp_find {m : Medium} {w : StoreOp} {o : Nat} (h : w.object ≠ o) :
    Tab.find (dropStoreOp m w).objects o = Tab.find m.objects o := by
  unfold dropStoreOp
  split
  · split
    · rfl
    · split
      · exact Tab.find_put_ne _ _ (Ne.symm h)
      · rfl
  · rfl

theorem dropStoreOp_serial_key (m : Medium) (w : StoreOp) :
    (dropStoreOp m w).nextSerial = m.nextSerial ∧ (dropStoreOp m w).storeKey = m.storeKey := by
  unfold dropStoreOp
  split
  · split
    · exact ⟨rfl, rfl⟩
    · split <;> exact ⟨rfl, rfl⟩
  · exact ⟨rfl, rfl⟩

theorem dropStoreOps_find {ws : List StoreOp} {m : Medium} {o : Nat} (h : ∀ w ∈ ws, w.object ≠ o) :
    Tab.find (ws.foldl dropStoreOp m).objects o = Tab.find m.objects o := by
  induction ws generalizing m with
  | nil => rfl
  | cons w ws ih =>
    rw [List.foldl_cons, ih fun v hv => h v (List.mem_cons_of_mem _ hv), dropStoreOp_find (h w List.mem_cons_self)]

theorem dropStoreOps_serial_key (ws : List StoreOp) (m : Medium) :
    (ws.foldl dropStoreOp m).nextSerial = m.nextSerial ∧ (ws.foldl dropStoreOp m).storeKey = m.storeKey := by
  induction ws generalizing m with
  | nil => exact ⟨rfl, rfl⟩
  | cons w ws ih =>
    obtain ⟨hserial, hkey⟩ := dropStoreOp_serial_key m w
    exact ⟨(ih _).1.trans hserial, (ih _).2.trans hkey⟩

/-- Settles O18: a reset drops what is still being written and leaves every other visible object. -/
theorem resetsKeepDurableObjects : Obligations.ResetsKeepDurableObjects := by
  intro s t o hexec
  obtain rfl : coldHold s 1 s.run.pwrGood true = t := Host.Outcome.next.inj hexec
  obtain ⟨hserial, hkey⟩ := dropStoreOps_serial_key s.fls.pending s.medium
  refine ⟨fun b hb hvisible hpending => ?_, fun e he => ?_, hserial, hkey, rfl⟩
  · exact Tab.find_filter ((dropStoreOps_find hpending).trans hb) hvisible
  · exact (List.mem_filter.mp he).2

end Sys2Proof.Machine
end

section
/-! CLEAR bits that are ignored (20 R425), stages 0 and 3 of the start (17 R373), VDD_TAP, the power loop and thermal protection
(17 R380 to R383). -/

namespace Sys2Proof.Machine

variable {s : State}

/-- A write to a basin that is withdrawn, or in FAILED, changes nothing. -/
theorem onBasin_ignored {b : Nat} (h : (s.basin b).withdrawn = true ∨ s.run.failed = true) (f : Basin → Basin) :
    onBasin s b f = s := by
  refine if_neg ?_
  rcases h with h | h <;> simp [writable, h]

/-- Settles O8: each of the seven CLEAR bits is a write to its basin. -/
theorem ignoredClears : Obligations.IgnoredClears := by
  intro s b h c hc
  simp only [List.mem_cons, List.not_mem_nil, or_false] at hc
  rcases hc with rfl | rfl | rfl | rfl | rfl | rfl | rfl <;> exact congrArg Host.Outcome.next (onBasin_ignored h _)

/-- Before stage 2 is over full function is not reached. -/
theorem reachFull_of_stage2_open (h : s.run.stage2 = false) : reachFull s = s := by
  refine if_neg ?_
  simp [fullFunction, h]

/-- Settles O21: with no port trained stage 3 leaves a standalone device, and without stage 2 no full function. -/
theorem stagesZeroAndThree : Obligations.StagesZeroAndThree := by
  intro s straps speed width flit
  refine ⟨fun hboot => ?_, fun hphase hstage2 hstage3 hfailed => ?_⟩
  · simp only [exec, execStage0Complete, hboot, if_true]
  · have hports : ((List.range 16).filter fun q => ([] : List Bool).getD q false && canTrain (s.port q)) = [] := by simp
    refine congrArg Host.Outcome.next ((if_pos ⟨hphase, hstage3, hfailed⟩).trans ?_)
    dsimp only
    rw [hports]
    exact reachFull_of_stage2_open hstage2

/-! VDD_TAP (17 R380 to R382). -/

theorem regRead_telTap (s : State) : regRead s 0 0x70018 = regWord [(0, s.tel.targetMv.toNat), (16, vtapNow s)] := by
  simp only [regRead, readPf, readTel, Nat.reduceLT, Nat.reduceSub, Nat.reduceEqDiff, if_true, if_false]

/-- Of TEL.TAP's two fields the upper is read back. -/
theorem bitsOf_telTap {target tap : Nat} (htarget : target < 2 ^ 10) (htap : tap < 1024) :
    bitsOf (regWord [(0, target), (16, tap)]).toNat 16 10 = tap := by
  rw [regWord, BitVec.toNat_ofNat, packFields_cons, packFields_cons, packFields_nil, bitsOf]
  omega

/-- Settles O25: with THROTTLE_N released its target is not among the four, since it repeats thermal protection's. -/
theorem vddTapIsLowestTarget : Obligations.VddTapIsLowestTarget := by
  intro s
  refine ⟨?_, fun htap => ?_, rfl, fun hin => ?_⟩
  · unfold vtapNow
    cases s.run.throttleIn
    · simp only [Bool.false_eq_true, if_false]
      omega
    · rfl
  · rw [regRead_telTap]
    exact bitsOf_telTap s.tel.targetMv.isLt htap
  · simp only [exec, execThrottleRelease, hin, if_true]

theorem satNat_of_lt {w v : Nat} (h : v < 2 ^ w) : satNat w v = v := Nat.min_eq_left (by omega)

/-- Settles O26: a sample above the limit lowers the loop's target, a raise below 98 % of it lifts it. -/
theorem powerLoopSteps : Obligations.PowerLoopSteps := by
  intro s mw rails halive xs mean limit cur
  refine ⟨fun hmean => ?_, fun hlow => ?_⟩
  · have hpwr : satNat 32 (((mw :: s.tel.samples).take 10).sum / ((mw :: s.tel.samples).take 10).length) = mean := satNat_of_lt hmean
    simp only [exec, execPowerSample, halive, if_true, hpwr]
    rfl
  · have hraise : (alive s && decide (s.tel.pwrNow.toNat * 100 < zeroSelects s.tel.limitW 3200 * 1000 * 98)) = true := by
      rw [halive, Bool.true_and]
      exact decide_eq_true hlow
    refine ⟨if s.targetMv ≤ powerTarget s + 5 then 800 else powerTarget s + 5, ?_, fun hup => if_neg (by exact not_le.mpr hup),
      fun htop => ?_⟩
    · simp only [exec, execPowerRaise, hraise, if_true]
    · rw [if_pos (by exact htop)]
      omega

/-! Thermal protection (17 R383). -/

theorem storeTemps_hottestC (s : State) (dies rates : List Nat) :
    (storeTemps s dies rates).tel.hottestC = BitVec.ofNat 8 ((dies.take 60).foldl max 0) := by
  rw [← hottest_fst_eq_foldl _ 0]
  rfl

/-- Thermal protection changes its targets and its own marks alone. -/
theorem thermalLoop_tel (s : State) (logic stack : Nat) :
    ∃ tel, thermalLoop s logic stack = { s with tel := tel } ∧ tel.hottestC = s.tel.hottestC := by
  unfold thermalLoop
  dsimp only
  split_ifs <;> exact ⟨_, rfl, rfl⟩

/-- From the threshold on, when a step is due, the target falls by 10 mV. -/
theorem thermalLoop_lowers {logic stack : Nat} (hhot : s.tel.targetC.toNat ≤ logic ∨ s.tel.hbmTargetC.toNat ≤ stack)
    (hdue : match s.tel.lastThermalStep with | some u => u + 100000 ≤ s.now | none => True) :
    (thermalLoop s logic stack).tel.thermalMv = max 500 (min s.tel.thermalMv s.targetMv - 10) := by
  have hlow : (decide (s.tel.targetC.toNat ≤ logic) || decide (s.tel.hbmTargetC.toNat ≤ stack)) = true := by simpa using hhot
  unfold thermalLoop
  dsimp only
  rw [if_pos hlow, if_pos]
  cases hstep : s.tel.lastThermalStep with
  | none => rfl
  | some u => simpa [hstep] using hdue

/-- With logic and stacks 5 °C below their thresholds the target goes back to the power loop. -/
theorem thermalLoop_gives_back {logic stack : Nat} (hlogic : logic + 5 ≤ s.tel.targetC.toNat)
    (hstack : stack + 5 ≤ s.tel.hbmTargetC.toNat) (hmv : s.tel.thermalMv < 800) :
    (thermalLoop s logic stack).tel.thermalMv = 800
      ∧ (thermalLoop s logic stack).tel.powerMv = min s.tel.powerMv s.tel.thermalMv := by
  have hcool : (decide (s.tel.targetC.toNat ≤ logic) || decide (s.tel.hbmTargetC.toNat ≤ stack)) = false := by simp; omega
  have hwell : (decide (logic + 2 ≤ s.tel.targetC.toNat) && decide (stack + 2 ≤ s.tel.hbmTargetC.toNat)) = true := by simp; omega
  have hback : (decide (logic + 5 ≤ s.tel.targetC.toNat) && decide (stack + 5 ≤ s.tel.hbmTargetC.toNat)
      && decide (s.tel.thermalMv < 800)) = true := by simp [hlogic, hstack, hmv]
  unfold thermalLoop
  simp only [hcool, hwell, hback, Bool.false_eq_true, Bool.false_and, if_false, if_true, and_self]

/-- Settles O27: a sample below 115 °C goes to the readings, to thermal protection and to the alert. -/
theorem thermalProtectionSteps : Obligations.ThermalProtectionSteps := by
  intro s dies rates halive hdies
  have hlogic : ¬ 115 ≤ logicMax dies := not_le.mpr (logicMax_lt hdies)
  refine ⟨thermalAlert (thermalLoop (storeTemps s dies rates) (logicMax dies) (stackMax dies)) (logicMax dies) (stackMax dies), ?_⟩
  obtain ⟨tel, hloop, htel⟩ := thermalLoop_tel (storeTemps s dies rates) (logicMax dies) (stackMax dies)
  have hkept : ∀ {α : Type} (f : State → α), (∀ v : Tel, f { storeTemps s dies rates with tel := v } = f s) →
      f (thermalLoop (storeTemps s dies rates) (logicMax dies) (stackMax dies)) = f s := fun f hf => hloop ▸ hf tel
  refine ⟨?_, ?_, fun hhot hdue => ?_, fun hl hs hmv => ?_, ?_, hkept State.host fun _ => rfl, hkept State.hbm fun _ => rfl,
    hkept State.cmds fun _ => rfl, hkept State.basins fun _ => rfl, hkept State.cores fun _ => rfl, hkept State.fuses fun _ => rfl,
    fun u hu hheld htap => ?_⟩
  · simp only [exec, execThermalSample, halive, Bool.not_true, Bool.false_eq_true, if_false, hlogic]
  · exact ((congrArg (fun t : State => t.tel.hottestC) hloop).trans htel).trans (storeTemps_hottestC s dies rates)
  · exact thermalLoop_lowers (s := storeTemps s dies rates) hhot hdue
  · exact thermalLoop_gives_back (s := storeTemps s dies rates) hl hs hmv
  · exact congrArg (fun r : RunState => r.thermAlert && !(decide (logicMax dies < 100) && decide (stackMax dies < 90))) (hkept State.run fun _ => rfl)
  · simp only [exec, execThermAlertAssert, hu, halive, htap, hheld, beq_self_eq_true, decide_true, Bool.and_self, if_true]

end Sys2Proof.Machine
end

section
/-! The trust of the device: recovery, attestation, life cycle and key slots (18 R386 to R403). -/

namespace Sys2Proof.Machine

variable {s : State}

theorem stage0_or_stage1_of_staged (h : staged s = true) : s.run.phase = .stage0 ∨ s.run.phase = .stage1 := by
  simpa [staged] using h

/-! Recovery (18 R391, R392). -/

theorem slice_self {bs : List Byte} {n : Nat} (h : bs.length = n) : slice bs 0 n = bs := by
  subst h
  simp [slice]

/-- What the header says of the payload's length, read from eight bytes. -/
theorem leAt_readN (m : Tab Byte) (a n : Nat) : leAt (Mem.readN m a n) 0 n = leNat (Mem.readN m a n) :=
  congrArg leNat (slice_self (by simp [Mem.readN]))

/-- A recovery is barred in END, and in MODE 1 once stage 0 is over. -/
def RecoveryBarred (s : State) (mode : Bool) : Prop := s.fuses.lcs = 5 ∨ mode = true ∧ s.run.phase = .stage1

/-- The length of an image in the window is out of range, or not the header's. -/
def RecoveryMisfit (s : State) : Prop :=
  s.sec.recovLen.toNat < 8192 ∨ 33554432 < s.sec.recovLen.toNat
    ∨ s.sec.recovLen.toNat ≠ 8192 + leNat (Mem.readN s.sec.window 8 8)

/-- The store cannot take the image in the window. -/
def RecoveryNoRoom (s : State) (storeOk : Bool) : Prop :=
  s.fls.online = false ∨ s.fls.readOnly = true ∨ flashFree s < s.sec.recovLen.toNat ∨ storeOk = false

/-- The image in the window. -/
def recoveryImage (s : State) : List Byte := Mem.readN s.sec.window 0 s.sec.recovLen.toNat

theorem recoveryBarred_iff (h : staged s = true) (mode : Bool) :
    (s.fuses.lcs == 5 || (mode && s.run.phase != .stage0)) = true ↔ RecoveryBarred s mode := by
  rcases stage0_or_stage1_of_staged h with hphase | hphase <;> simp [RecoveryBarred, hphase]

theorem recoveryMisfit_iff (s : State) :
    (s.sec.recovLen.toNat < 8192 || 33554432 < s.sec.recovLen.toNat
      || s.sec.recovLen.toNat != 8192 + leAt (Mem.readN s.sec.window 8 8) 0 8) = true ↔ RecoveryMisfit s := by
  rw [leAt_readN]
  simp [RecoveryMisfit, or_assoc]

theorem recoveryNoRoom_iff (s : State) (storeOk : Bool) :
    (!s.fls.online || s.fls.readOnly || flashFree s < s.sec.recovLen.toNat || !storeOk) = true ↔ RecoveryNoRoom s storeOk := by
  simp [RecoveryNoRoom, or_assoc]

theorem recoveryResult_barred (hs : staged s = true) {mode storeOk : Bool} (h : RecoveryBarred s mode) :
    recoveryResult s mode storeOk = 12 := if_pos ((recoveryBarred_iff hs mode).mpr h)

theorem recoveryResult_misfit (hs : staged s = true) {mode storeOk : Bool} (hb : ¬ RecoveryBarred s mode) (h : RecoveryMisfit s) :
    recoveryResult s mode storeOk = 10 :=
  (if_neg fun hc => hb ((recoveryBarred_iff hs mode).mp hc)).trans (if_pos ((recoveryMisfit_iff s).mpr h))

/-- Past the first two tests the result is that of the checks of R388, then of the store. -/
theorem recoveryResult_fits (hs : staged s = true) {mode storeOk : Bool} (hb : ¬ RecoveryBarred s mode) (hm : ¬ RecoveryMisfit s) :
    recoveryResult s mode storeOk = if checkRecord s 1 (recoveryImage s) != 0 then checkRecord s 1 (recoveryImage s)
      else if !mode && (!s.fls.online || s.fls.readOnly || flashFree s < s.sec.recovLen.toNat || !storeOk) then 11 else 0 :=
  (if_neg fun hc => hb ((recoveryBarred_iff hs mode).mp hc)).trans (if_neg fun hc => hm ((recoveryMisfit_iff s).mp hc))

/-- A recovery that fails shows its result and is counted. -/
theorem execRecoveryGo_fails (hs : staged s = true) {mode storeOk : Bool} {r : Nat} (h : recoveryResult s mode storeOk = r)
    (hr : r ≠ 0) : execRecoveryGo mode storeOk s = .next { s with sec := { s.sec with
      recovMode := mode, recovDone := true, recovResult := BitVec.ofNat 4 r, recovFails := satAdd s.sec.recovFails 1 } } := by
  subst h
  simp only [execRecoveryGo, hs, if_true, bne_iff_ne.mpr hr, if_neg hr]

/-- The machine once a recovery has passed every test, before its image runs or is installed. -/
def recoveryPassed (s : State) (mode : Bool) : State :=
  { s with sec := { s.sec with recovMode := mode, recovDone := true, recovResult := 0 } }

theorem execRecoveryGo_passes (hs : staged s = true) {mode storeOk : Bool} (h : recoveryResult s mode storeOk = 0) :
    execRecoveryGo mode storeOk s = .next (if mode then runFirmware (recoveryPassed s mode) (recoveryImage s) true
      else installImage (recoveryPassed s mode) (recoveryImage s)) := by
  simp only [execRecoveryGo, hs, if_true, h]
  rfl

/-- Settles O32: the tests of a recovery in their order, then what an image that passes them does in each MODE. -/
theorem recoveryChecksImages : Obligations.RecoveryChecksImages := by
  intro s mode storeOk hs ended done len image barred misfit noRoom
  refine ⟨fun hb => ?_, fun hb hm => ?_, fun hb hm => ?_⟩
  · exact execRecoveryGo_fails hs (recoveryResult_barred hs hb) (by decide)
  · exact execRecoveryGo_fails hs (recoveryResult_misfit hs hb hm) (by decide)
  · have hresult := recoveryResult_fits hs hb hm (storeOk := storeOk)
    have hpasses : checkRecord s 1 (recoveryImage s) = 0 → ¬ (checkRecord s 1 (recoveryImage s) != 0) = true := by simp
    refine ⟨fun hcode => ?_, fun hcode hmode hroom => ?_, fun hcode hmode hroom => ?_, fun hcode hmode => ?_⟩
    · exact execRecoveryGo_fails hs (hresult.trans (if_pos (bne_iff_ne.mpr hcode))) hcode
    · refine execRecoveryGo_fails hs (hresult.trans ((if_neg (hpasses hcode)).trans (if_pos ?_))) (by decide)
      simpa only [hmode, Bool.not_false, Bool.true_and] using (recoveryNoRoom_iff s storeOk).mpr hroom
    · subst hmode
      refine execRecoveryGo_passes hs (hresult.trans ((if_neg (hpasses hcode)).trans (if_neg ?_)))
      simpa only [Bool.not_false, Bool.true_and] using fun hc => hroom ((recoveryNoRoom_iff s storeOk).mp hc)
    · subst hmode
      exact execRecoveryGo_passes hs (hresult.trans ((if_neg (hpasses hcode)).trans (if_neg (by simp))))

/-! Attestation (18 R394, R395). -/

/-- What becomes of an attestation's answer, once the identity has made it: refused, lost on its way, or delivered. -/
def attestDelivers (s : State) (kind hostOk : Bool) (out : List Byte) : State :=
  if s.sec.attDst.toNat % 64 != 0 || !inWindows s 0 s.sec.attDst.toNat out.length then attestFails s kind 2
  else if !hostOk then
    let s1 := attestFails s kind 3
    if kind then s1 else { s1 with sec := { s1.sec with reports := satAdd s1.sec.reports 1 } }
  else
    let s1 := hostWrite s s.sec.attDst.toNat out
    { s1 with sec := { s1.sec with
        attKind := kind, attDone := true, attResult := 0, attLen := BitVec.ofNat 32 out.length,
        reports := if kind then s1.sec.reports else satAdd s1.sec.reports 1 } }

theorem execAttestationGo_identity (hs : staged s = true) {seed : List Byte} (hid : s.fuses.identity = some seed) (kind hostOk : Bool) :
    execAttestationGo kind hostOk s
      = .next (attestDelivers s kind hostOk (if kind then publicKey seed else report s seed (nonceBytes s))) := by
  simp only [execAttestationGo, hs, if_true, hid]
  rfl

theorem attestDelivers_unfit {kind hostOk : Bool} {out : List Byte}
    (h : ¬ (s.sec.attDst.toNat % 64 = 0 ∧ inWindows s 0 s.sec.attDst.toNat out.length = true)) :
    attestDelivers s kind hostOk out = attestFails s kind 2 := by
  refine if_pos ?_
  by_contra hin
  exact h (by simpa using hin)

/-- The test of the destination passes. -/
theorem attestDst_fits {out : List Byte} (halign : s.sec.attDst.toNat % 64 = 0)
    (hwin : inWindows s 0 s.sec.attDst.toNat out.length = true) :
    ¬ (s.sec.attDst.toNat % 64 != 0 || !inWindows s 0 s.sec.attDst.toNat out.length) = true := by
  simp [halign, hwin]

/-- Settles O33: the tests of an attestation in their order, and a delivery that writes its own bytes alone. That an unaligned
destination counts as outside is log 30, that a signed report counts though its write fails log 186. -/
theorem attestationAnswers : Obligations.AttestationAnswers := by
  intro s kind hostOk nonce hs failed counted
  refine ⟨fun hid => ⟨?_, ?_, ?_⟩, fun seed hid => ⟨?_, ?_, ?_⟩⟩
  · simp only [exec, execAttestationGo, hs, if_true, hid]
    rfl
  · simp only [exec, execMctpAttestReport, hs, if_true, hid]
    rfl
  · simp only [exec, execMctpPublicKey, hs, if_true, hid]
    rfl
  · intro out dst fits
    have hexec : exec (.attestationGo kind hostOk) s = .next (attestDelivers s kind hostOk out) :=
      execAttestationGo_identity hs hid kind hostOk
    rw [hexec]
    clear_value out
    refine ⟨fun hfits => ?_, fun ⟨halign, hwin⟩ hhost => ?_, fun ⟨halign, hwin⟩ hhost => ⟨_, rfl, ?_⟩⟩
    · rw [attestDelivers_unfit hfits]
      rfl
    · subst hhost
      rw [attestDelivers, if_neg (attestDst_fits halign hwin)]
      cases kind <;> rfl
    · subst hhost
      rw [attestDelivers, if_neg (attestDst_fits halign hwin)]
      exact ⟨Mem.readN_writeN _ _ _, fun x hx => Mem.read_writeN_outside _ _ _ _ hx, rfl⟩
  · simp only [exec, execMctpAttestReport, hs, if_true, hid]
    rfl
  · simp only [exec, execMctpPublicKey, hs, if_true, hid]
    rfl

/-! Life cycle (18 R399, R400). -/

/-- No token is asked of the transitions that need none. -/
theorem tokenCode_unneeded {n : Nat} (h : n = 1 ∨ n = 3) (hostOk : Bool) : tokenCode s n hostOk = 0 := by
  rcases h with rfl | rfl <;> rfl

theorem lcKeys_unneeded {n : Nat} (h : n = 1 ∨ n = 3) : lcKeys s n = s := by
  rcases h with rfl | rfl <;> rfl

/-- A request for a state that is not the next. -/
theorem lcTransition_not_next {n : Nat} (h : n ≠ s.fuses.lcs.toNat + 1 ∨ 5 < n) (hostOk fuseOk : Bool) :
    lcTransition s n hostOk fuseOk = refuseLc s n 1 0 := by
  refine if_pos ?_
  rcases h with h | h <;> simp [h]

/-- A request for the next state passes the first test, but in FAILED for RETURN and END alone. -/
theorem next_target {n : Nat} (hnext : n = s.fuses.lcs.toNat + 1) (h5 : n ≤ 5) (hfailed : s.run.failed = false ∨ n = 4 ∨ n = 5) :
    ¬ (n != s.fuses.lcs.toNat + 1 || decide (5 < n) || (s.run.failed && n != 4 && n != 5)) = true := by
  rw [← hnext]
  rcases hfailed with h | rfl | rfl
  · simp [h, h5]
  · simp
  · simp

theorem lcTransition_no_token {n : Nat} (hnext : n = s.fuses.lcs.toNat + 1) (hfailed : s.run.failed = false) (hn : n ∈ [2, 4, 5])
    (haddr : s.sec.recordAddr = 0) (hostOk fuseOk : Bool) : lcTransition s n hostOk fuseOk = refuseLc s n 2 0 := by
  refine (if_neg (next_target hnext ?_ (.inl hfailed))).trans (if_pos ?_)
  · simp at hn
    omega
  · simp at hn
    rcases hn with rfl | rfl | rfl <;> simp [haddr]

/-- A request that passes the tests before its token's. -/
theorem lcTransition_token {n : Nat} (hnext : n = s.fuses.lcs.toNat + 1) (h5 : n ≤ 5)
    (hfailed : s.run.failed = false ∨ n = 4 ∨ n = 5) (haddr : s.sec.recordAddr ≠ 0 ∨ n = 1 ∨ n = 3) (hostOk fuseOk : Bool) :
    lcTransition s n hostOk fuseOk = if tokenCode s n hostOk != 0 then refuseLc s n 3 (tokenCode s n hostOk)
      else if !fuseOk then refuseLc (lcKeys s n) n 4 0
      else warmReset { lcKeys s n with fuses := { (lcKeys s n).fuses with lcs := BitVec.ofNat 3 n } } 5 := by
  refine (if_neg (next_target hnext h5 hfailed)).trans (if_neg ?_)
  rcases haddr with haddr | rfl | rfl
  · rw [beq_eq_false_iff_ne.mpr haddr, Bool.and_false]
    exact Bool.false_ne_true
  · simp
  · simp

/-- A transition that needs no token: the fuses are blown and the device resets. -/
theorem lcTransition_unneeded (hs : staged s = true) {n : Nat} (hnext : n = s.fuses.lcs.toNat + 1) (hn : n = 1 ∨ n = 3)
    (hfailed : s.run.failed = false) (hostOk : Bool) :
    lcTransition s n hostOk true = afterWarm { s with fuses := { s.fuses with lcs := BitVec.ofNat 3 n } } 5 := by
  rw [lcTransition_token hnext (by omega) (.inl hfailed) (.inr hn), tokenCode_unneeded hn, lcKeys_unneeded hn]
  exact warmReset_of_alive (by exact alive_of_staged hs) 5

theorem lcTransition_unneeded_fuse_fails {n : Nat} (hnext : n = s.fuses.lcs.toNat + 1) (hn : n = 1 ∨ n = 3)
    (hfailed : s.run.failed = false) (hostOk : Bool) : lcTransition s n hostOk false = refuseLc s n 4 0 := by
  rw [lcTransition_token hnext (by omega) (.inl hfailed) (.inr hn), tokenCode_unneeded hn, lcKeys_unneeded hn]
  rfl

/-- The entry into RETURN destroys the store key. -/
theorem lcTransition_return (hs : staged s = true) (hlcs : s.fuses.lcs = 3) (haddr : s.sec.recordAddr ≠ 0) {hostOk : Bool}
    (hcode : tokenCode s 4 hostOk = 0) : lcTransition s 4 hostOk true = afterWarm { s with
      medium := { s.medium with keyErased := true }
      fuses := { s.fuses with lcs := 4, storeEpoch := s.fuses.storeEpoch + 1 } } 5 := by
  rw [lcTransition_token (by rw [hlcs]; rfl) (by decide) (.inr (.inl rfl)) (.inl haddr), hcode]
  exact warmReset_of_alive (by exact alive_of_staged hs) 5

/-- Writes in progress leave the mark that the store key has been destroyed. -/
theorem dropStoreOps_keyErased (ws : List StoreOp) (m : Medium) : (ws.foldl dropStoreOp m).keyErased = m.keyErased := by
  induction ws generalizing m with
  | nil => rfl
  | cons w ws ih =>
    refine (ih _).trans ?_
    unfold dropStoreOp
    split
    · split
      · rfl
      · split <;> rfl
    · rfl

/-- LC_REQUEST in BLANK: the request's register is shown. -/
theorem jtagLoad_lcRequest (h : s.fuses.lcs = 0) : jtagLoad s 0x22 = { s with jtag := { s.jtag with instr := 0x22 } } := by
  have hselect : jtagSelect s 0x22 = 0x22 := by simp [jtagSelect, jtagTakesPins, h]
  simp only [jtagLoad, hselect]
  rfl

/-- In other states it acts as BYPASS. -/
theorem jtagLoad_lcRequest_bypass (h : s.fuses.lcs ≠ 0) (hpins : s.jtag.pins = false) :
    jtagLoad s 0x22 = { s with jtag := { s.jtag with instr := 0xFF } } := by
  have hselect : jtagSelect s 0x22 = 0xFF := by
    simp only [jtagSelect, beq_eq_false_iff_ne.mpr h]
    rfl
  have hjtag : s.jtag.select 0xFF false = { s.jtag with instr := 0xFF } := by simp [Jtag.select, hpins]
  simp only [jtagLoad, hselect]
  exact (jtagRelease_untaken hpins _).trans (by rw [hjtag])

/-- LC_REQUEST in BLANK shows the request's register, and with GO is a request for the state it names. -/
theorem execLcRequest_blank (h : s.fuses.lcs = 0) (v : Nat) (fuseOk : Bool) : execLcRequest v fuseOk s = .next (
    if bitOf v 3 && staged s then
      lcTransition { s with jtag := { s.jtag with instr := 0x22, data := lcsReqWord s.sec } } (v % 8) true fuseOk
    else { s with jtag := { s.jtag with instr := 0x22, data := lcsReqWord s.sec } }) := by
  have hblank : (s.fuses.lcs == 0) = true := beq_iff_eq.mpr h
  simp only [execLcRequest, jtagLoad_lcRequest h, hblank, if_true]
  rfl

theorem lcTransition_from_blank (hs : staged s = true) (hlcs : s.fuses.lcs = 0) (hfailed : s.run.failed = false) :
    lcTransition s 1 true true = afterWarm { s with fuses := { s.fuses with lcs := 1 } } 5 :=
  lcTransition_unneeded hs (by rw [hlcs]; rfl) (.inl rfl) hfailed true

/-- Settles O30: the tests of a request in their order, and LC_REQUEST over JTAG. -/
theorem lifeCycleTransitions : Obligations.LifeCycleTransitions := by
  intro s n v hostOk hs hn refused
  have hexec : ∀ k, k < 8 → ∀ fuseOk, exec (.lcsTransition k hostOk fuseOk) s = .next (lcTransition s k hostOk fuseOk) := by
    intro k hk fuseOk
    simp only [exec, execLcsTransition, hs, if_true, Nat.mod_eq_of_lt hk]
  refine ⟨fun h fuseOk => ?_, fun hfailed hnext hneeds => ⟨fun haddr fuseOk => ?_, fun haddr hcode fuseOk => ?_⟩,
    fun hfailed hnext hfree => ⟨?_, ?_⟩, fun hlcs haddr hcode => ?_, fun hlcs hgo fuseOk => ?_, fun hlcs hgo htarget hfailed => ?_,
    fun hlcs hpins fuseOk => ?_⟩
  · rw [hexec n hn, lcTransition_not_next h]
    rfl
  · rw [hexec n hn, lcTransition_no_token hnext hfailed hneeds haddr]
    rfl
  · have h5 : n ≤ 5 := by
      simp at hneeds
      omega
    rw [hexec n hn, lcTransition_token hnext h5 (.inl hfailed) (.inl haddr), if_pos (bne_iff_ne.mpr hcode)]
    rfl
  · rw [hexec n hn, lcTransition_unneeded hs hnext (by simpa using hfree) hfailed]
  · rw [hexec n hn, lcTransition_unneeded_fuse_fails hnext (by simpa using hfree) hfailed]
    rfl
  · rw [hexec 4 (by decide), lcTransition_return hs hlcs haddr hcode]
    exact ⟨_, rfl, rfl, dropStoreOps_keyErased s.fls.pending _, rfl, rfl⟩
  · rw [show exec (.lcRequest v fuseOk) s = execLcRequest v fuseOk s from rfl, execLcRequest_blank hlcs, hgo, Bool.false_and]
    rfl
  · rw [show exec (.lcRequest v true) s = execLcRequest v true s from rfl, execLcRequest_blank hlcs, hgo, Bool.true_and, if_pos hs,
      htarget, lcTransition_from_blank (by exact hs) (by exact hlcs) (by exact hfailed)]
  · have hne : (s.fuses.lcs == 0) = false := by simpa using hlcs
    simp only [exec, execLcRequest, jtagLoad_lcRequest_bypass hlcs hpins, hne, Bool.false_eq_true, if_false]

/-! Key slots (18 R387, R393, R403). -/

/-- What a slot operation makes of the slots: slot k alone. -/
theorem getD_set_self {slots : List KeySlot} {k : Nat} (hk : k < slots.length) (v : KeySlot) : (slots.set k v).getD k {} = v := by
  simp [List.getD_eq_getElem?_getD, hk]

theorem getD_set_ne {slots : List KeySlot} {j k : Nat} (h : j ≠ k) (v : KeySlot) : (slots.set k v).getD j {} = slots.getD j {} := by
  simp [List.getD_eq_getElem?_getD, List.getElem?_set_ne (Ne.symm h)]

/-- Settles O31: a slot that may be fused or revoked is written, and no other. -/
theorem keySlotsFusedAndRevoked : Obligations.KeySlotsFusedAndRevoked := by
  intro s k hostOk hs hk hslots ended
  have hlt : k < s.fuses.slots.length := by omega
  have hmod : k % 4 = k := Nat.mod_eq_of_lt hk
  refine ⟨fun hlcs h2 hempty => ⟨⟨setSlot s k { state := 1, digest := s.sec.slotHash.flatMap fun w => toLe 8 w.toNat }, ?_, rfl,
    getD_set_self hlt _, fun j hj => getD_set_ne hj _⟩, ?_⟩, fun hbar fuseOk => ?_, fun fuseOk => ⟨fun hok => ?_, fun hbad => ?_⟩⟩
  · simp only [exec, execLcsSlotFuse, hs, if_true, hmod, hlcs, hempty, bne_self_eq_false, decide_eq_false (not_lt.mpr h2), Bool.or_self,
      Bool.false_eq_true, if_false, Bool.not_true]
    rfl
  · simp only [exec, execLcsSlotFuse, hs, if_true, hmod, hlcs, hempty, bne_self_eq_false, decide_eq_false (not_lt.mpr h2), Bool.or_self,
      Bool.false_eq_true, if_false, Bool.not_false]
    rfl
  · have hbarred : (s.fuses.lcs != 2 || decide (k < 2) || (s.fuses.slots.getD k {}).state != 0) = true := by
      rcases hbar with h | h | h
      · rw [bne_iff_ne.mpr h]
        rfl
      · rw [decide_eq_true h, Bool.or_true]
        rfl
      · rw [bne_iff_ne.mpr h, Bool.or_true]
    simp only [exec, execLcsSlotFuse, hs, if_true, hmod, hbarred]
    rfl
  · refine ⟨setSlot s k { s.fuses.slots.getD k {} with state := 2 }, ?_, rfl,
      congrArg KeySlot.state (getD_set_self hlt _), fun j hj => getD_set_ne hj _⟩
    simp only [exec, execLcsSlotRevoke, hs, if_true, hmod, hok]
    rfl
  · simp only [exec, execLcsSlotRevoke, hs, if_true, hmod, if_neg hbad]
    rfl

end Sys2Proof.Machine
end

section
/-! The start: full function raises the rollback counter (18 R389), stage 1 (17 R373, R374), latched reads, register writes and the
mailbox (20 R423 to R427). -/

namespace Sys2Proof.Machine

/-! Ports that train at stage 3 draw on the generator and on nothing else. -/

theorem foldl_trainPort_frame (qs : List Nat) : ∀ s : State, qs.foldl trainPort s =
    { s with free := (qs.foldl trainPort s).free, rng := (qs.foldl trainPort s).rng, ports := (qs.foldl trainPort s).ports } := by
  induction qs with
  | nil => exact fun _ => rfl
  | cons q qs ih =>
    intro s
    have hport : trainPort s q =
        { s with free := (trainPort s q).free, rng := (trainPort s q).rng, ports := (trainPort s q).ports } := by
      unfold trainPort
      dsimp only
      rw [drawSession_frame]
      rfl
    rw [List.foldl_cons, ih, hport]

theorem reachFull_rollback {s : State} (hfull : fullFunction s = true) (hsvn : s.fuses.rollback ≤ s.sec.svn.toNat) :
    (reachFull s).fuses.rollback = s.sec.svn.toNat := by
  rw [reachFull, if_pos hfull]
  exact max_eq_right hsvn

theorem fullFunction_reachFull (s : State) : fullFunction (reachFull s) = fullFunction s := by
  unfold reachFull
  split <;> rfl

/-- What stage 3 makes of the machine before full function is tested: the run is that of the start with the stage over, and
security and fuses are as they were. -/
theorem exec_stage3Complete_open {s : State} (hphase : s.run.phase = .stage1) (hopen : s.run.stage3 = false)
    (hlive : s.run.failed = false) (trained : List Bool) :
    ∃ u, exec (.stage3Complete trained) s = .next (reachFull u) ∧ u.run = { s.run with stage3 := true }
      ∧ u.sec = s.sec ∧ u.fuses = s.fuses := by
  change ∃ u, execStage3Complete trained s = _ ∧ _
  rw [execStage3Complete, if_pos ⟨hphase, hopen, hlive⟩]
  dsimp only
  rw [foldl_trainPort_frame]
  refine ⟨_, rfl, ?_⟩
  split <;> exact ⟨rfl, rfl, rfl⟩

/-! The checks of R388 run in order, the version after the payload's digest. -/

theorem checkRecord_lower_version (s : State) (r : List Byte) (hlow : leAt r 16 1 < s.fuses.rollback) :
    checkRecord s 1 r ≠ 0
      ∧ (checkRecord { s with fuses := { s.fuses with rollback := 0 } } 1 r = 0 → checkRecord s 1 r = 7) := by
  -- the test of the version, which decides where every test before it passes
  have hbar : (((1 : Nat) == 1) && decide (leAt r 16 1 < s.fuses.rollback)) = true := by rw [decide_eq_true hlow]; rfl
  unfold checkRecord
  dsimp only
  split <;> rename_i hform
  · exact ⟨by decide, fun h => absurd h (by decide)⟩
  split <;> rename_i hslot
  · exact ⟨by decide, fun h => absurd h (by decide)⟩
  split <;> rename_i hkey
  · exact ⟨by decide, fun h => absurd h (by decide)⟩
  split <;> rename_i hsignature
  · exact ⟨by decide, fun h => absurd h (by decide)⟩
  split <;> rename_i hpayload
  · exact ⟨by decide, fun h => absurd h (by decide)⟩
  exact ⟨by decide, fun _ => rfl⟩

/-- Settles O24: the counter rises where stage 3 is the stage that finishes last, and the version is checked before the serial. -/
theorem rollbackCounterRises : Obligations.RollbackCounterRises := by
  intro s trained r
  refine ⟨fun hphase hstage2 hopen hlive hsvn hmax => ?_, checkRecord_lower_version s r⟩
  obtain ⟨u, hexec, hrun, hsec, hfuses⟩ := exec_stage3Complete_open hphase hopen hlive trained
  have hfull : fullFunction u = true := by simp [fullFunction, hrun, hphase, hstage2, hlive]
  have hrise : (reachFull u).fuses.rollback = s.sec.svn.toNat := by
    rw [reachFull_rollback hfull (by rwa [hsec, hfuses]), hsec]
  exact ⟨_, hexec, (fullFunction_reachFull u).trans hfull, hrise, hrise.trans_le hmax⟩

/-! Stage 1: the boot ROM touches neither the phase nor memories, commands, clock or fuses (17 R373 step 3). -/

/-- The machine t boots on from s: the phase, the memories, the commands, MTC and the fuses are those of s. -/
structure BootsFrom (s t : State) : Prop where
  phase : t.run.phase = s.run.phase
  host : t.host = s.host
  hbm : t.hbm = s.hbm
  cmds : t.cmds = s.cmds
  mtc : t.mtc = s.mtc
  fuses : t.fuses = s.fuses

namespace BootsFrom

theorem refl (s : State) : BootsFrom s s := ⟨rfl, rfl, rfl, rfl, rfl, rfl⟩

theorem trans {s t u : State} (h : BootsFrom s t) (k : BootsFrom t u) : BootsFrom s u :=
  ⟨k.phase.trans h.phase, k.host.trans h.host, k.hbm.trans h.hbm, k.cmds.trans h.cmds, k.mtc.trans h.mtc,
    k.fuses.trans h.fuses⟩

theorem ite {s t u : State} {c : Prop} [Decidable c] (ht : BootsFrom s t) (hu : BootsFrom s u) :
    BootsFrom s (if c then t else u) := by
  split
  · exact ht
  · exact hu

theorem springFails (s : State) (test kind : Nat) : BootsFrom s (springFails s test kind) := by
  unfold Machine.springFails
  constructor <;> simp

theorem startUp (s : State) (bits : List Bool) : BootsFrom s (startUp s bits) := by
  unfold Machine.startUp
  dsimp only
  split
  · refine .trans ?_ (springFails _ _ _)
    exact ⟨rfl, rfl, rfl, rfl, rfl, rfl⟩
  · exact .ite ⟨rfl, rfl, rfl, rfl, rfl, rfl⟩ ⟨rfl, rfl, rfl, rfl, rfl, rfl⟩

theorem springBlock (s : State) (raw : List Bool) : BootsFrom s (springBlock s raw) := by
  unfold Machine.springBlock
  dsimp only
  refine .ite ?_ (refl s)
  split
  · rename_i k _
    exact ((⟨rfl, rfl, rfl, rfl, rfl, rfl⟩ : BootsFrom s _).trans (springFails _ k k)).trans ⟨rfl, rfl, rfl, rfl, rfl, rfl⟩
  · exact ⟨rfl, rfl, rfl, rfl, rfl, rfl⟩

theorem springBlocks (raw : List (List Bool)) : ∀ s : State, BootsFrom s (raw.foldl Machine.springBlock s) := by
  induction raw with
  | nil => exact refl
  | cons block raw ih => exact fun s => (springBlock s block).trans (ih _)

theorem bootSpring (s : State) (raw : List (List Bool)) : BootsFrom s (bootSpring s raw) :=
  .ite (springBlocks raw s) (.ite (refl s) ((startUp s _).trans (springBlocks _ _)))

theorem bootStore (s : State) (m : BootMedia) : BootsFrom s (bootStore s m) :=
  .ite ⟨rfl, rfl, rfl, rfl, rfl, rfl⟩
    (.ite (.ite ⟨rfl, rfl, rfl, rfl, rfl, rfl⟩ (.ite ⟨rfl, rfl, rfl, rfl, rfl, rfl⟩ ⟨rfl, rfl, rfl, rfl, rfl, rfl⟩))
      ⟨rfl, rfl, rfl, rfl, rfl, rfl⟩)

theorem bootFirmware (s : State) (m : BootMedia) : BootsFrom s (bootFirmware s m) := by
  unfold Machine.bootFirmware
  dsimp only
  refine .ite (refl s) (.ite ?_ ⟨rfl, rfl, rfl, rfl, rfl, rfl⟩)
  split
  · exact ⟨rfl, rfl, rfl, rfl, rfl, rfl⟩
  · exact refl s

theorem drbgInstantiate (s : State) : BootsFrom s (drbgInstantiate s) := ⟨rfl, rfl, rfl, rfl, rfl, rfl⟩

end BootsFrom

/-- The store formats or not; Spring's state and the firmware that runs stay. -/
theorem bootStore_springOk (s : State) (m : BootMedia) : (bootStore s m).rng.springOk = s.rng.springOk := by
  unfold bootStore
  dsimp only
  split
  · rfl
  split
  · split
    · rfl
    · split <;> rfl
  · rfl

theorem bootStore_imageOk (s : State) (m : BootMedia) : (bootStore s m).sec.imageOk = s.sec.imageOk := by
  unfold bootStore
  dsimp only
  split
  · rfl
  split
  · split
    · rfl
    · split <;> rfl
  · rfl

theorem bootSpring_of_springOk {s : State} (h : s.rng.springOk = true) : bootSpring s [] = s := by
  rw [bootSpring, if_pos h]
  rfl

theorem bootFirmware_of_imageOk {s : State} (h : s.sec.imageOk = true) (m : BootMedia) : bootFirmware s m = s := by
  rw [bootFirmware, if_pos (by rw [h]; rfl)]

/-- What the boot ROM has made of the machine when stage 1 may be complete. -/
def booted (s : State) (m : BootMedia) (raw : List (List Bool)) : State := bootFirmware (bootStore (bootSpring s raw) m) m

theorem bootsFrom_booted (s : State) (m : BootMedia) (raw : List (List Bool)) : BootsFrom s (booted s m raw) :=
  ((BootsFrom.bootSpring s raw).trans (.bootStore _ m)).trans (.bootFirmware _ m)

/-- Stage 1 over the booted machine u. -/
def stage1Over (u : State) : State :=
  drbgInstantiate { u with run := { u.run with phase := .stage1, awaitImage := false } }

theorem exec_stage1Complete_of_stage0 {s : State} (h : s.run.phase = .stage0) (m : BootMedia) (raw : List (List Bool)) :
    exec (.stage1Complete m raw) s = .next
      (if (booted s m raw).sec.imageOk && (booted s m raw).rng.springOk then stage1Over (booted s m raw) else booted s m raw) :=
  congrArg Host.Outcome.next (if_pos h)

/-- Settles O22: Spring, store and firmware are tried in this order; the stage ends on the firmware and Spring alone. -/
theorem stageOneNeedsFirmwareAndSpring : Obligations.StageOneNeedsFirmwareAndSpring := by
  intro s m raw hphase
  have hboot := bootsFrom_booted s m raw
  refine ⟨?_, fun himage hspring => ?_⟩
  · rw [exec_stage1Complete_of_stage0 hphase]
    refine ⟨_, rfl, ?_⟩
    by_cases hok : ((booted s m raw).sec.imageOk && (booted s m raw).rng.springOk) = true
    · rw [if_pos hok]
      obtain ⟨himage, hspring⟩ := Bool.and_eq_true_iff.mp hok
      exact ⟨⟨fun _ => ⟨himage, hspring⟩, fun _ => rfl⟩, .inl rfl, hboot.host, hboot.hbm, hboot.cmds, hboot.mtc, hboot.fuses⟩
    · rw [if_neg hok]
      have hstays : (booted s m raw).run.phase = .stage0 := hboot.phase.trans hphase
      refine ⟨⟨fun h => ?_, fun h => absurd (Bool.and_eq_true_iff.mpr h) hok⟩, .inr hstays, hboot.host, hboot.hbm, hboot.cmds,
        hboot.mtc, hboot.fuses⟩
      rw [hstays] at h
      exact nomatch h
  · have hbooted : booted s m [] = bootStore s m := by
      rw [booted, bootSpring_of_springOk hspring, bootFirmware_of_imageOk ((bootStore_imageOk s m).trans himage)]
    have hok : ((booted s m []).sec.imageOk && (booted s m []).rng.springOk) = true := by
      rw [hbooted, bootStore_imageOk, bootStore_springOk, himage, hspring]; rfl
    exact ⟨_, (exec_stage1Complete_of_stage0 hphase m []).trans (congrArg Host.Outcome.next (if_pos hok)), rfl, rfl⟩

end Sys2Proof.Machine
end

section
/-! Register accesses: reads that latch (20 R424), writes (20 R423, R425) and the mailbox (20 R427). -/

namespace Sys2Proof.Machine

variable {s : State}

/-! An access ends the half-read latch and nothing else (20 R424). -/

/-- What an access of function f leaves: only the latch of f may differ. -/
theorem touch_frame (s : State) (f : Nat) : touch s f = { s with latches := (touch s f).latches } := by
  unfold touch
  split <;> rfl

@[simp] theorem touch_run (s : State) (f : Nat) : (touch s f).run = s.run := by rw [touch_frame]
@[simp] theorem touch_tel (s : State) (f : Nat) : (touch s f).tel = s.tel := by rw [touch_frame]
@[simp] theorem touch_mtc (s : State) (f : Nat) : (touch s f).mtc = s.mtc := by rw [touch_frame]
@[simp] theorem touch_rng (s : State) (f : Nat) : (touch s f).rng = s.rng := by rw [touch_frame]
@[simp] theorem touch_acct (s : State) (f : Nat) : (touch s f).acct = s.acct := by rw [touch_frame]
@[simp] theorem touch_bist (s : State) (f : Nat) : (touch s f).bist = s.bist := by rw [touch_frame]
@[simp] theorem touch_free (s : State) (f : Nat) : (touch s f).free = s.free := by rw [touch_frame]

/-! The reads that latch. -/

theorem length_mereWord (s : State) : (mereWord s).length = 64 := by
  simp only [mereWord]
  split <;> simp

/-- Mere that reads zero is latched as zeros. -/
theorem mereWord_of_mereEmpty (h : mereEmpty s s.bist.memBasin.toNat (s.bist.memAddr.toNat * 64) = true) :
    mereWord s = List.replicate 64 0 := by
  simp only [mereWord]
  split
  · rfl
  · simp

theorem exec_acctDataRead_of_reaches (h : reaches s 0 = true) : exec (.acctDataRead 0) s = .next ((touch s 0).setLatch 0
    { (touch s 0).latch 0 with acct := some (accountBytes (touch s 0) s.acct.sel.toNat) }) := by
  rw [show exec (.acctDataRead 0) s = .next (if reaches s 0 then latchAcct (touch s 0) 0 else s) from rfl, if_pos h, latchAcct,
    if_pos rfl, touch_acct]

theorem exec_bistMemRead_of_reaches (h : reaches s 0 = true) (ue : Bool) : exec (.bistMemRead 0 ue) s = .next
    { (touch s 0).setLatch 0 { (touch s 0).latch 0 with mem := some (mereWord (touch s 0)) } with
      bist := { s.bist with memUe := ue }, free := s.free + 1 } := by
  rw [show exec (.bistMemRead 0 ue) s = .next (if reaches s 0 then latchMem (touch s 0) 0 ue else s) from rfl, if_pos h, latchMem,
    if_pos rfl]
  simp only [State.setLatch, touch_bist, touch_free]

theorem exec_halfReadLatch_of_plain {f off : Nat} (h : reaches s f = true) (hoff : off % 8 = 0) (hacct : off ≠ acctData0)
    (hmem : off ≠ memData0) : exec (.halfReadLatch f off) s = .next (s.setLatch f { s.latch f with
      half := some (off, BitVec.ofNat 32 ((regRead s f off).toNat / 2 ^ 32)) }) := by
  have hguard : (reaches s f && off % 8 == 0) = true := by rw [h, hoff]; rfl
  change execHalfReadLatch f off s = _
  rw [execHalfReadLatch, if_pos hguard]
  simp only [if_neg hacct, if_neg hmem]

/-- Settles O15: the latch takes what the register, the account or Mere holds at the access. -/
theorem latchedReads : Obligations.LatchedReads := by
  intro s f off ue hreach
  refine ⟨exec_halfReadLatch_of_plain hreach, ?_⟩
  rintro rfl
  refine ⟨exec_acctDataRead_of_reaches hreach, mereWord (touch s 0), length_mereWord _, exec_bistMemRead_of_reaches hreach ue,
    fun hempty => mereWord_of_mereEmpty ?_⟩
  simpa using hempty 0 (by decide)

/-! Register writes. -/

theorem exec_registerWrite_of_reaches {f off : Nat} (h : reaches s f = true) (hoff : off % 8 = 0) (acc : RegAcc) (v : Word64) :
    exec (.registerWrite f off acc v) s = .next (regWrite (touch s f) f off acc v) := by
  have hguard : (reaches s f && off % 8 == 0) = true := by rw [h, hoff]; rfl
  exact congrArg Host.Outcome.next (if_pos hguard)

theorem exec_registerWrite_of_unaligned {f off : Nat} (hoff : off % 8 ≠ 0) (acc : RegAcc) (v : Word64) :
    exec (.registerWrite f off acc v) s = .next s := by
  have hguard : ¬ (reaches s f && off % 8 == 0) = true := by simp [hoff]
  exact congrArg Host.Outcome.next (if_neg hguard)

/-- TEL.LIMIT stands in the physical function's view alone. -/
theorem regWrite_limit_of_virtual {f : Nat} (h : f ≠ 0) (acc : RegAcc) (v : Word64) : regWrite s f 0x70010 acc v = s := by
  rw [regWrite, if_neg h]
  rfl

theorem regWrite_limit (s : State) (acc : RegAcc) (v : Word64) : regWrite s 0 0x70010 acc v =
    { s with tel := { s.tel with limitW := wRange acc v 12 0 s.tel.limitW 500 3200 true } } := rfl

/-- MTC is not among the blocks that act in FAILED. -/
theorem regWrite_mtcStatus_of_failed (h : s.run.failed = true) (acc : RegAcc) (v : Word64) :
    regWrite s 0 0x80010 acc v = s := if_pos h

theorem regWrite_mtcStatus (h : s.run.failed = false) (acc : RegAcc) (v : Word64) : regWrite s 0 0x80010 acc v =
    { s with mtc := { s.mtc with unsync := wClear acc v 6 s.mtc.unsync } } := if_neg (Bool.eq_false_iff.mp h)

theorem regWrite_laneKey (h : s.run.failed = false) (acc : RegAcc) (v : Word64) : regWrite s 0 0x680040 acc v =
    { s with rng := { s.rng with ltKey0 := accMerge acc s.rng.ltKey0 v } } := if_neg (Bool.eq_false_iff.mp h)

/-- A whole write of n to the field of 12 bits at bit 0. -/
theorem wRange_limit {n : Nat} (h : n < 4096) (old : BitVec 12) : wRange .full (BitVec.ofNat 64 n) 12 0 old 500 3200 true =
    if n = 0 ∨ 500 ≤ n ∧ n ≤ 3200 then BitVec.ofNat 12 n else old := by
  have hbits : bitsOf (BitVec.ofNat 64 n).toNat 0 12 = n := by
    simp only [bitsOf, BitVec.toNat_ofNat]
    omega
  rw [wRange, hbits]
  simp [accCovers]

theorem wClear_full (v : Word64) (lo : Nat) (old : Bool) : wClear .full v lo old = (old && !v.getLsbD lo) := by
  rw [wClear, bitOf_toNat]
  cases old <;> cases v.getLsbD lo <;> rfl

/-- Settles O14. That a LIMIT of 0 is kept as written is the model's reading (log 66). -/
theorem registerWritesAct : Obligations.RegisterWritesAct := by
  intro s f off n acc v hreach hn
  refine ⟨fun hoff => exec_registerWrite_of_unaligned hoff acc v, fun hf => ?_, ?_⟩
  · rw [exec_registerWrite_of_reaches hreach (by decide), regWrite_limit_of_virtual hf]
  rintro rfl
  have hexec := fun off (hoff : off % 8 = 0) => exec_registerWrite_of_reaches hreach hoff
  refine ⟨?_, fun hfailed => ?_, fun hlive => ?_⟩
  · rw [hexec 0x70010 rfl, regWrite_limit, wRange_limit hn, touch_tel]
    split
    · rfl
    · rw [touch_frame]
  · rw [hexec 0x80010 rfl, regWrite_mtcStatus_of_failed (by rwa [touch_run])]
  · have hlive' : (touch s 0).run.failed = false := by rwa [touch_run]
    refine ⟨?_, ?_, ?_, ?_⟩
    · rw [hexec 0x80010 rfl, regWrite_mtcStatus hlive', wClear_full, touch_mtc]
    · rw [hexec 0x680040 rfl, regWrite_laneKey hlive', accMerge_full, touch_rng]
    · rw [hexec 0x680040 rfl, regWrite_laneKey hlive', touch_rng]
      rfl
    · rw [hexec 0x680040 rfl, regWrite_laneKey hlive', touch_rng]
      rfl

/-! The mailbox (20 R427). -/

section Mailbox
variable {path : MbPath}

@[simp] theorem mbOpcode_run (o : Nat) : (mbOpcode s path o).run = s.run := by cases path <;> rfl
@[simp] theorem mbOpcode_tel (o : Nat) : (mbOpcode s path o).tel = s.tel := by cases path <;> rfl
@[simp] theorem mbOpcode_stack (o k : Nat) : (mbOpcode s path o).stack k = s.stack k := by cases path <;> rfl
@[simp] theorem mbAnswer_run (result : Nat) (resp : Option Word64) : (mbAnswer s path result resp).run = s.run := by
  cases path <;> rfl

/-- The mailbox and what TEL counts are apart. -/
theorem telClear_mbAnswer (result : Nat) (resp : Option Word64) :
    telClear (mbAnswer s path result resp) = mbAnswer (telClear s) path result resp := by
  cases path <;> rfl

/-- A reset keeps nothing of the mailbox. -/
theorem afterWarm_mbAnswer_mbOpcode (o result : Nat) (resp : Option Word64) (cause : BitVec 3) :
    afterWarm (mbAnswer (mbOpcode s path o) path result resp) cause = afterWarm s cause := by
  cases path <;> rfl

/-! The commands. -/

theorem badOffset_of {a : Nat} (h : a % 8 ≠ 0 ∨ 0x4000000 ≤ a) : (a % 8 != 0 || decide (0x4000000 ≤ a)) = true := by
  simpa using h

theorem not_badOffset_of {a : Nat} (halign : a % 8 = 0) (hrange : a < 0x4000000) :
    ¬ (a % 8 != 0 || decide (0x4000000 ≤ a)) = true := by
  simp [halign, hrange]

variable (h : staged s = true)
include h

theorem exec_mbRead_outside (hbad : (mbArgs s path).1.toNat % 8 ≠ 0 ∨ 0x4000000 ≤ (mbArgs s path).1.toNat) :
    exec (.mbRead path) s = .next (mbAnswer (mbOpcode s path 1) path 2 none) :=
  congrArg Host.Outcome.next ((if_pos h).trans (if_pos (badOffset_of hbad)))

theorem exec_mbRead_register (halign : (mbArgs s path).1.toNat % 8 = 0) (hrange : (mbArgs s path).1.toNat < 0x4000000) :
    exec (.mbRead path) s
      = .next (mbAnswer (mbOpcode s path 1) path 0 (some (regRead s 0 (mbArgs s path).1.toNat))) :=
  congrArg Host.Outcome.next ((if_pos h).trans (if_neg (not_badOffset_of halign hrange)))

theorem exec_mbVersions_of_staged : exec (.mbVersions path) s = .next (mbAnswer (mbOpcode s path 4) path 0
    (some (BitVec.ofNat 64 (Config.bootRomVersion.toNat + s.sec.svn.toNat * 65536)))) :=
  congrArg Host.Outcome.next (if_pos h)

theorem exec_mbWrite_outside (ok : Bool) (hbad : (mbArgs s path).1.toNat % 8 ≠ 0 ∨ 0x4000000 ≤ (mbArgs s path).1.toNat) :
    exec (.mbWrite path ok) s = .next (mbAnswer (mbOpcode s path 2) path 2 none) :=
  congrArg Host.Outcome.next ((if_pos h).trans (if_pos (badOffset_of hbad)))

theorem exec_mbWrite_refused (ok : Bool) (halign : (mbArgs s path).1.toNat % 8 = 0)
    (hrange : (mbArgs s path).1.toNat < 0x4000000) (hother : mbWritable (mbArgs s path).1.toNat = false) :
    exec (.mbWrite path ok) s = .next (mbAnswer (mbOpcode s path 2) path 3 none) :=
  congrArg Host.Outcome.next ((if_pos h).trans ((if_neg (not_badOffset_of halign hrange)).trans
    (if_pos ((congrArg not hother).trans rfl))))

/-- The write of v to a register at offset a that the mailbox may write. -/
theorem exec_mbWrite_register (ok : Bool) {a : Nat} {v : Word64} (ha : (mbArgs s path).1.toNat = a) (hv : (mbArgs s path).2 = v)
    (halign : a % 8 = 0) (hrange : a < 0x4000000) (hmay : mbWritable a = true) : exec (.mbWrite path ok) s
      = .next (actBits (mbAnswer (regWrite (mbOpcode s path 2) 0 a .full v) path 0 none) a v ok) := by
  subst ha hv
  exact congrArg Host.Outcome.next ((if_pos h).trans ((if_neg (not_badOffset_of halign hrange)).trans
    (if_neg (by rw [hmay]; decide))))

theorem exec_mbTrainStack_outside (ok : Bool) (hk : 20 ≤ (mbArgs s path).1.toNat) :
    exec (.mbTrainStack path ok) s = .next (mbAnswer (mbOpcode s path 3) path 2 none) :=
  congrArg Host.Outcome.next ((if_pos h).trans (if_pos hk))

theorem exec_mbTrainStack_late (ok : Bool) (hk : (mbArgs s path).1.toNat < 20) (hphase : s.run.phase = .stage1) :
    exec (.mbTrainStack path ok) s = .next (mbAnswer (mbOpcode s path 3) path 3 none) := by
  have hlate : (s.run.phase != .stage0 || s.run.failed) = true := by rw [hphase]; rfl
  exact congrArg Host.Outcome.next ((if_pos h).trans ((if_neg (not_le.mpr hk)).trans (if_pos hlate)))

theorem exec_mbTrainStack_stage0 (ok : Bool) (hk : (mbArgs s path).1.toNat < 20) (hphase : s.run.phase = .stage0)
    (hlive : s.run.failed = false) : exec (.mbTrainStack path ok) s
      = .next (mbAnswer (trainForTg (mbOpcode s path 3) (mbArgs s path).1.toNat ok) path 0 none) := by
  have hopen : ¬ (s.run.phase != .stage0 || s.run.failed) = true := by rw [hphase, hlive]; decide
  exact congrArg Host.Outcome.next ((if_pos h).trans ((if_neg (not_le.mpr hk)).trans (if_neg hopen)))

end Mailbox

/-! The TEL registers that the mailbox writes. -/

theorem regWrite_targets (s : State) (acc : RegAcc) (v : Word64) : regWrite s 0 0x70028 acc v =
    { s with tel := { s.tel with targetC := wRange acc v 8 0 s.tel.targetC 70 105 false,
                                 hbmTargetC := wRange acc v 8 8 s.tel.hbmTargetC 70 95 false } } := rfl

/-- TEL.CTRL and TEL.RESET hold bits that act and no field. -/
theorem regWrite_telCtrl (s : State) (acc : RegAcc) (v : Word64) : regWrite s 0 0x70000 acc v = s := rfl
@[inherit_doc regWrite_telCtrl]
theorem regWrite_telReset (s : State) (acc : RegAcc) (v : Word64) : regWrite s 0 0x70058 acc v = s := rfl

theorem actBits_targets (s : State) (v : Word64) (ok : Bool) : actBits s 0x70028 v ok = s := rfl
theorem actBits_telCtrl (s : State) (ok : Bool) : actBits s 0x70000 1 ok = telClear s := rfl
theorem actBits_telReset (s : State) (ok : Bool) : actBits s 0x70058 1 ok = warmReset s 4 := rfl

theorem wRange_inside {v : Word64} {w lo n least most : Nat} (hbits : bitsOf v.toNat lo w = n) (hleast : least ≤ n)
    (hmost : n ≤ most) (old : BitVec w) : wRange .full v w lo old least most false = BitVec.ofNat w n := by
  rw [wRange, hbits]
  simp [accCovers, hleast, hmost]

/-- Settles O29. That a stack may fail to train without another effect is the model's reading (log 35). -/
theorem mailboxAnswers : Obligations.MailboxAnswers := by
  intro s path ok hstaged arg a asked answered
  have hasked : ∀ o : Nat, asked (BitVec.ofNat 8 o) = mbOpcode s path o := fun o => by cases path <;> rfl
  have hanswered : ∀ (u : State) (n : Nat) (w : Option Word64), answered u (BitVec.ofNat 3 n) w = mbAnswer u path n w :=
    fun u n w => by cases path <;> rfl
  have hends : ∀ (o n : Nat) (w : Option Word64),
      Host.Outcome.next (mbAnswer (mbOpcode s path o) path n w) = (.next (answered (asked (BitVec.ofNat 8 o)) (BitVec.ofNat 3 n) w) :
        Host.Outcome State Fault Refusal) := fun o n w => by rw [hanswered, hasked]
  refine ⟨fun hbad => ⟨(exec_mbRead_outside hstaged hbad).trans (hends 1 2 none),
      (exec_mbWrite_outside hstaged ok hbad).trans (hends 2 2 none)⟩,
    fun halign hrange => (exec_mbRead_register hstaged halign hrange).trans (hends 1 0 _),
    fun halign hrange hother => (exec_mbWrite_refused hstaged ok halign hrange hother).trans (hends 2 3 none),
    fun ha c hot hv hc hc' hh hh' => ?_, fun ha hv => ?_, fun ha hv => ?_,
    fun hk => (exec_mbTrainStack_outside hstaged ok hk).trans (hends 3 2 none),
    fun hk hphase => (exec_mbTrainStack_late hstaged ok hk hphase).trans (hends 3 3 none),
    fun hk hphase hlive => ?_, (exec_mbVersions_of_staged hstaged).trans (hends 4 0 _)⟩
  · have hlow : bitsOf (BitVec.ofNat 64 (c + 256 * hot)).toNat 0 8 = c := by
      simp only [bitsOf, BitVec.toNat_ofNat]; omega
    have hhigh : bitsOf (BitVec.ofNat 64 (c + 256 * hot)).toNat 8 8 = hot := by
      simp only [bitsOf, BitVec.toNat_ofNat]; omega
    rw [exec_mbWrite_register hstaged ok ha hv (by decide) (by decide) rfl, actBits_targets, regWrite_targets,
      wRange_inside hlow hc hc', wRange_inside hhigh hh hh', mbOpcode_tel]
    exact congrArg Host.Outcome.next ((hanswered _ 0 none).trans (by rw [show asked 2 = mbOpcode s path 2 from hasked 2])).symm
  · rw [exec_mbWrite_register hstaged ok ha hv (by decide) (by decide) rfl, actBits_telCtrl, regWrite_telCtrl, telClear_mbAnswer,
      telClear, mbOpcode_tel]
    exact congrArg Host.Outcome.next ((hanswered _ 0 none).trans (by rw [show asked 2 = mbOpcode s path 2 from hasked 2])).symm
  · rw [exec_mbWrite_register hstaged ok ha hv (by decide) (by decide) rfl, actBits_telReset, regWrite_telReset,
      warmReset_of_alive ?_, afterWarm_mbAnswer_mbOpcode]
    exact alive_of_staged (by simpa [staged] using hstaged)
  · refine ⟨trainForTg (mbOpcode s path 3) a ok, (exec_mbTrainStack_stage0 hstaged ok hk hphase hlive).trans ?_, ?_, ?_⟩
    · exact congrArg Host.Outcome.next (hanswered _ 0 none).symm
    · rw [show asked 3 = mbOpcode s path 3 from hasked 3, trainForTg, State.stack_setStack_self]
    · simp [trainForTg]

end Sys2Proof.Machine
end

section
/-! An event reaches its ring (19 R417, R421). -/

namespace Sys2Proof.Machine

variable {s : State}

theorem length_eventBytes (e : Event) (ph : Bool) : (eventBytes s e ph).length = 32 := by
  simp [eventBytes, length_toLe, length_slice]

/-! Who receives an event. -/

/-- With the virtual functions off, the physical function alone receives an event. -/
theorem receivesEvent_of_vfsOff (h : s.hif.vfEnable = false) (f : Nat) (e : Event) : receivesEvent s f e = (f == 0) := by
  cases f with
  | zero => rfl
  | succ f => simp [receivesEvent, fnEnabled, h]

theorem receivers_of_vfsOff (h : s.hif.vfEnable = false) (e : Event) :
    (List.range 64).filter (fun f => receivesEvent s f e) = [0] := by
  simp only [receivesEvent_of_vfsOff h]
  decide

/-- The machine in which event e waits for the rings no more. -/
def unraised (s : State) (e : Event) : State := { s with evt := { s.evt with raised := s.evt.raised.erase e } }

theorem unraised_evtRing (s : State) (e : Event) (f : Nat) : (unraised s e).evtRing f = s.evtRing f := rfl
theorem unraised_eventBytes (s : State) (e : Event) (ph : Bool) : eventBytes (unraised s e) e ph = eventBytes s e ph := rfl
theorem unraised_inWindows (s : State) (e : Event) (f a n : Nat) : inWindows (unraised s e) f a n = inWindows s f a n := rfl
theorem unraised_evtFull (s : State) (e : Event) (f : Nat) : evtFull (unraised s e) f = evtFull s f := rfl

theorem exec_eventWrite_of_vfsOff {e : Event} (hnext : nextEvent s.evt.raised = some e) (hdue : e.mtc + 20000 ≤ s.now)
    (hoff : s.hif.vfEnable = false) :
    exec .eventWrite s = .next (eventToRing (unraised s e) 0 e) := by
  change execEventWrite s = _
  rw [execEventWrite, hnext]
  dsimp only
  rw [if_pos hdue, receivers_of_vfsOff hoff]
  rfl

/-! The place an event takes. -/

/-- A ring with a free place and no overflow to report takes the event itself. -/
theorem eventToRing_of_room {f : Nat} (hring : (s.evtRing f).log2 ≠ 0) (hlost : (s.evtRing f).lost = none)
    (hroom : evtFull s f = false) (e : Event) : eventToRing s f e = putEvent s f e := by
  have hreport : reportLost s f e = s := by
    simp only [reportLost, hlost]
  rw [eventToRing, if_neg hring]
  dsimp only
  rw [hreport, hroom, if_neg (by decide)]

/-- An entry inside the windows: its bytes stand at TAIL, TAIL moves on, and raised events, the log and stacked memory stay. -/
theorem putEvent_written {f : Nat} (e : Event)
    (hwindow : inWindows s f ((s.evtRing f).base.toNat * 4096 + (s.evtRing f).tail.toNat * 32) 32 = true) :
    (putEvent s f e).host = Mem.writeN s.host ((s.evtRing f).base.toNat * 4096 + (s.evtRing f).tail.toNat * 32)
        (eventBytes s e (s.evtRing f).phase)
      ∧ (putEvent s f e).evt.raised = s.evt.raised ∧ (putEvent s f e).evt.log = s.evt.log ∧ (putEvent s f e).hbm = s.hbm
      ∧ ((putEvent s f e).evtRing f).tail
        = BitVec.ofNat 16 (((s.evtRing f).tail.toNat + 1) % 2 ^ (s.evtRing f).log2.toNat) := by
  have hraise : ∀ (u : State) (v : Nat), (raiseVector u f v).evtRing f = u.evtRing f := fun u v => by
    rw [State.evtRing, raiseVector_evt]; rfl
  unfold putEvent
  extract_lets r a tail' due s1
  rw [if_pos hwindow]
  have hring : (s1.evtRing f).tail = BitVec.ofNat 16 tail' := by rw [State.evtRing_setEvtRing_self]
  have hhost : s1.host = Mem.writeN s.host a (eventBytes s e r.phase) := by
    rw [State.setEvtRing_host, hostWrite_host]
  have hraised : s1.evt.raised = s.evt.raised := rfl
  have hlog : s1.evt.log = s.evt.log := rfl
  have hhbm : s1.hbm = s.hbm := by rw [State.setEvtRing_hbm, hostWrite_hbm]
  clear_value s1
  split
  · rw [raiseVector_host, raiseVector_evt, raiseVector_hbm, hraise]
    exact ⟨hhost, hraised, hlog, hhbm, hring⟩
  · exact ⟨hhost, hraised, hlog, hhbm, hring⟩

/-- A memory after a write of n bytes: they stand at the address, and every other byte is as it was. -/
theorem Mem.written_of_length (m : Tab Byte) (a : Nat) {n : Nat} {bs : List Byte} (h : bs.length = n) :
    Mem.readN (Mem.writeN m a bs) a n = bs ∧ ∀ x, x < a ∨ a + n ≤ x → Mem.read (Mem.writeN m a bs) x = Mem.read m x := by
  subst h
  exact ⟨Mem.readN_writeN m a bs, fun x hx => Mem.read_writeN_outside m a x bs hx⟩

/-- Settles O13: the event leaves those raised and takes the place at TAIL. -/
theorem eventReachesRing : Obligations.EventReachesRing := by
  intro s e hnext hdue hoff r a hring hlost hroom hwindow _
  have hwritten := putEvent_written (s := unraised s e) (f := 0) e (by rwa [unraised_inWindows, unraised_evtRing])
  have hplaced := eventToRing_of_room (s := unraised s e) (f := 0) (by rwa [unraised_evtRing]) (by rwa [unraised_evtRing])
    (by rwa [unraised_evtFull]) e
  have hexec := exec_eventWrite_of_vfsOff hnext hdue hoff
  rw [unraised_evtRing, unraised_eventBytes] at hwritten
  rw [hplaced] at hexec
  obtain ⟨hhost, hraised, hlog, hhbm, htail⟩ := hwritten
  obtain ⟨hbytes, hothers⟩ := Mem.written_of_length s.host a (length_eventBytes (s := s) e r.phase)
  generalize putEvent (unraised s e) 0 e = t at hexec hhost hraised hlog hhbm htail
  refine ⟨t, hexec, ?_, fun x hx => ?_, hraised, hlog, hhbm, htail⟩
  · rw [hhost]
    exact hbytes
  · rw [hhost]
    exact hothers x hx

end Sys2Proof.Machine
end

section
/-! Self-tests started by BIST.CTRL.GO (19 R406 to R409) and cores that quiesce (04 R101). -/

namespace Sys2Proof.Machine

variable {s : State}

/-! Units of which no result is told pass, in whatever stage the device is (log 187). -/

theorem testResult_untold_ne_one (s : State) (kind depth u : Nat) : testResult s kind depth u none ≠ 1 := by
  unfold testResult
  split
  · decide
  · exact Nat.zero_ne_one

theorem failUnits_untold (kind depth : Nat) (us : List Nat) (s : State) :
    failUnits kind depth (us.map fun u => (u, none)) s [] = (s, []) := by
  induction us with
  | nil => rfl
  | cons u us ih =>
    have hpass : (([] : List Nat).contains u || testResult s kind depth u none != 1) = true := by
      simp [testResult_untold_ne_one]
    rw [List.map_cons, failUnits]
    dsimp only
    rw [if_pos hpass, ih]

/-- What is recorded of units of which no result is told. -/
def untoldEntries (s : State) (kind depth : Nat) (us : List Nat) : List (Nat × Nat × List Byte) :=
  us.map fun u => (u, testResult s kind depth u none, resultEntry u (testResult s kind depth u none) kind depth none)

theorem untoldEntries_failed (s : State) (kind depth : Nat) (us : List Nat) :
    (untoldEntries s kind depth us).filter (fun e => e.2.1 == 1) = [] := by
  simp [untoldEntries, testResult_untold_ne_one]

theorem runTests_untold (s : State) (kind depth : Nat) (us : List Nat) :
    (runTests s kind depth us []).1 = recordTests (unitsTested s kind depth us) (untoldEntries s kind depth us)
      ∧ (runTests s kind depth us []).2.2 = 0 := by
  have hpairs : (us.zipIdx.map fun u => (u.1, ([] : List TestResult)[u.2]?)) = us.map fun u => (u, none) := by
    calc us.zipIdx.map (fun u => (u.1, none)) = (us.zipIdx.map Prod.fst).map fun u => (u, none) := by
          rw [List.map_map]
          rfl
      _ = us.map fun u => (u, none) := by rw [List.zipIdx_map_fst]
  have hchecked : (if kind = 2 then
      ((us.map fun u => (u, (none : Option TestResult))).foldl (fun s u => checkStack s (u.1 - 0x700) depth u.2) s).drawFree
      else s) = stacksChecked s kind depth us := by
    rw [List.foldl_map]
    rfl
  have hentries : ((us.map fun u => (u, (none : Option TestResult))).map fun e =>
      (e.1, testResult s kind depth e.1 e.2, resultEntry e.1 (testResult s kind depth e.1 e.2) kind depth e.2))
        = untoldEntries s kind depth us := by
    rw [List.map_map]
    rfl
  unfold runTests
  dsimp only
  rw [hpairs, hchecked, failUnits_untold]
  simp only [List.contains_nil, Bool.false_eq_true, if_false]
  rw [hentries, untoldEntries_failed]
  exact ⟨rfl, rfl⟩

theorem Tab.find_foldl_put_of_not_mem {α β : Type} {l : List (Nat × β)} {k : Nat} (h : k ∉ l.map Prod.fst) (g : β → α)
    (t : Tab α) : Tab.find (l.foldl (fun t e => Tab.put t e.1 (g e.2)) t) k = Tab.find t k := by
  induction l generalizing t with
  | nil => rfl
  | cons e l ih =>
    rw [List.map_cons, List.mem_cons, not_or] at h
    rw [List.foldl_cons, ih h.2, Tab.find_put_ne t _ h.1]

/-- The results that a test of untold units leaves: an entry for each of them, and the others' as they were. -/
theorem find_untold_results (s : State) (kind depth : Nat) (us : List Nat) (t : Tab (List Byte)) (u : Nat) :
    let results := (untoldEntries s kind depth us).foldl (fun t e => Tab.put t e.1 e.2.2) t
    (u ∈ us → (Tab.find results u).isSome = true) ∧ (u ∉ us → Tab.find results u = Tab.find t u) := by
  refine ⟨fun hmem => ?_, fun hmem => ?_⟩
  · have hfind := Tab.find_foldl_put
      (fun u => resultEntry u (testResult s kind depth u none) kind depth none) hmem t
    rw [untoldEntries, List.foldl_map, hfind]
    rfl
  · refine Tab.find_foldl_put_of_not_mem (g := Prod.snd) (fun h => hmem ?_) t
    simpa [untoldEntries] using h

/-! BIST.CTRL.GO. -/

/-- The BIST registers as a write of GO leaves them before it tests. -/
def goFields (s : State) (v : Word64) : Bist :=
  { s.bist with
    kind := BitVec.ofNat 2 (bitsOf v.toNat 1 2), depth := bitOf v.toNat 3, first := BitVec.ofNat 16 (bitsOf v.toNat 32 16)
    count := BitVec.ofNat 16 (bitsOf v.toNat 48 16), done := s.bist.done && !bitOf v.toNat 5 }

/-- The free units of the range that a write of GO names. -/
def goUnits (s : State) (v : Word64) : List Nat :=
  ((List.range (bitsOf v.toNat 48 16)).map (bitsOf v.toNat 32 16 + ·)).filter fun u =>
    (testRanges (bitsOf v.toNat 1 2)).any (fun e => decide (e.1 ≤ u ∧ u < e.1 + e.2)) && unitFree s u

/-- The machine in which a GO with these tests is over. -/
def goTested (s : State) (v : Word64) (tests : List TestResult) : State :=
  let t := runTests { s with bist := goFields s v } (bitsOf v.toNat 1 2) (bitsOf v.toNat 3 1) (goUnits s v) tests
  { t.1 with bist := { t.1.bist with done := true, failed := BitVec.ofNat 16 t.2.2 } }

/-- A write of GO sets the fields, and tests before stage 2 where COUNT is not 0. -/
theorem exec_bistGo_of_writable (h : writable s = true) (v : Word64) (tests : List TestResult) :
    exec (.bistGo v tests) s = .next (if s.run.stage2 || bitsOf v.toNat 48 16 = 0 then { s with bist := goFields s v }
      else goTested s v tests) := by
  have hdone : (if bitOf v.toNat 5 then false else s.bist.done) = (s.bist.done && !bitOf v.toNat 5) := by
    cases bitOf v.toNat 5 <;> simp
  refine congrArg Host.Outcome.next ((if_pos h).trans ?_)
  dsimp only
  rw [hdone]
  simp only [goTested, goUnits, goFields, Bool.decide_and]

theorem exec_bistGo_late (h : writable s = true) {v : Word64} (hlate : s.run.stage2 = true ∨ bitsOf v.toNat 48 16 = 0)
    (tests : List TestResult) : exec (.bistGo v tests) s = .next { s with bist := goFields s v } :=
  (exec_bistGo_of_writable h v tests).trans (congrArg Host.Outcome.next (if_pos (by simpa using hlate)))

theorem exec_bistGo_tests (h : writable s = true) {v : Word64} (hstage : s.run.stage2 = false)
    (hcount : bitsOf v.toNat 48 16 ≠ 0) (tests : List TestResult) : exec (.bistGo v tests) s = .next (goTested s v tests) :=
  (exec_bistGo_of_writable h v tests).trans (congrArg Host.Outcome.next (if_neg (by simp [hstage, hcount])))

/-! A spare core that fails is dead (19 R406, 13 R289). -/

/-- What becomes of a spare core that is declared dead. -/
def Core.dead (c : Core) : Core := { c.idle with role := 2, logical := 0x7FF, fenced := true, dropped := 0, talkAt := none }

theorem declareDead_of_spare {p : Nat} (h : (s.core p).role = 1) (cause : Nat) : declareDead s p cause =
    raiseEvent (s.setCore p (s.core p).dead) evCoreDead p (basinPart s (coreBasin p))
      ([BitVec.ofNat 8 cause, 0] ++ toLe 2 (s.core p).logical.toNat) := by
  have hserves : ¬ (s.core p).role = 0 := by rw [h]; decide
  have hdead : ¬ (s.core p).role = 2 := by rw [h]; decide
  unfold declareDead
  dsimp only
  rw [if_neg hdead, if_neg hserves]
  rfl

/-- The machine in which core p is held for its test. -/
def coreHeld (s : State) (p : Nat) : State := s.setCore p { s.core p with underTest := true }

/-- The machine in which the test of spare core p has failed and the core has been given back. -/
def spareFailed (s : State) (kind depth p firstFail : Nat) : State :=
  let t := unitFails (coreHeld s p) kind depth p firstFail
  t.setCore p { t.core p with underTest := false }

theorem holdUnits_core {p : Nat} (h : p < 1500) (s : State) (on : Bool) :
    holdUnits s [p] on = s.setCore p { s.core p with underTest := on } := by
  simp [holdUnits, h]

/-- The failing test of one spare core by results: it is recorded with result 1, and it is the one that failed. -/
theorem runTests_of_failing_spare {p depth : Nat} (hp : p < 1500) (hrole : (s.core p).role = 1) {bad : TestResult}
    (hbad : bad.pass = false) : (runTests s 1 depth [p] [bad]).1
        = recordTests (spareFailed s 1 depth p bad.firstFail) [(p, 1, resultEntry p 1 1 depth (some bad))]
      ∧ (runTests s 1 depth [p] [bad]).2.2 = 1 := by
  have hresult : ∀ t : State, testResult t 1 depth p (some bad) = 1 := fun t => by simp [testResult, hbad]
  have hspare : borrowedSpare (coreHeld s p) p = none := by
    rw [borrowedSpare, coreHeld, State.core_setCore_self, if_pos]
    rw [hrole]
    rfl
  have hfail : failUnits 1 depth [(p, some bad)] (coreHeld s p) [] = (unitFails (coreHeld s p) 1 depth p bad.firstFail, []) := by
    rw [failUnits]
    dsimp only
    rw [hresult, if_neg (by simp), if_pos hp, hspare]
    rfl
  unfold runTests
  simp only [List.zipIdx_cons, List.zipIdx_nil, List.map_cons, List.map_nil, List.getElem?_cons_zero]
  rw [if_neg (by decide), holdUnits_core hp s true, ← coreHeld, hfail]
  simp only [List.contains_nil, Bool.false_eq_true, if_false, hresult, holdUnits_core hp]
  exact ⟨rfl, rfl⟩

theorem raiseEvent_core (code source part : Nat) (detail : List Byte) (q : Nat) :
    (raiseEvent s code source part detail).core q = s.core q := by
  rw [State.core, raiseEvent_cores]
  rfl

/-- Core p dead and fenced, two more events raised, and nothing else of what programs see. -/
structure SpareDied (s t : State) (p : Nat) : Prop where
  role : (t.core p).role = 2
  fenced : (t.core p).fenced = true
  others : ∀ q, q ≠ p → t.core q = s.core q
  raised : t.evt.raised.map Event.code = s.evt.raised.map Event.code ++ [evBistFail, evCoreDead]
  host : t.host = s.host
  cmds : t.cmds = s.cmds
  runs : t.runs = s.runs
  bist : t.bist = s.bist

theorem spareDied_spareFailed {p : Nat} (hp : p < 1500) (hrole : (s.core p).role = 1) (kind depth firstFail : Nat) :
    SpareDied s (spareFailed s kind depth p firstFail) p := by
  have hheld : ∀ (code source part : Nat) (detail : List Byte),
      ((raiseEvent (coreHeld s p) code source part detail).core p).role = 1 := by
    intro code source part detail
    rw [raiseEvent_core, coreHeld, State.core_setCore_self]
    exact hrole
  unfold spareFailed unitFails
  dsimp only
  rw [if_pos hp, declareDead_of_spare (hheld _ _ _ _)]
  exact
    { role := by rw [State.core_setCore_self, raiseEvent_core, State.core_setCore_self]; rfl
      fenced := by rw [State.core_setCore_self, raiseEvent_core, State.core_setCore_self]; rfl
      others := by
        intro q hq
        rw [State.core_setCore_ne _ _ hq, raiseEvent_core, State.core_setCore_ne _ _ hq, raiseEvent_core, coreHeld,
          State.core_setCore_ne _ _ hq]
      raised := by
        rw [State.setCore_evt, raiseEvent_raised, State.setCore_evt, raiseEvent_raised]
        simp [coreHeld]
      host := by simp [coreHeld]
      cmds := by simp [coreHeld]
      runs := by simp [coreHeld]
      bist := by simp [coreHeld] }

/-! The end of a job quiesces the cores that wait for it (04 R101). -/

theorem foldl_setBasin_cores (f : State → Nat → Basin) (bs : List Nat) (s : State) :
    (bs.foldl (fun t b => t.setBasin b (f t b)) s).cores = s.cores :=
  foldl_keeps (g := State.cores) (f := fun t b => t.setBasin b (f t b)) (fun _ _ => rfl) bs s

theorem clearJob_cores (s : State) (p : Nat) :
    (clearJob s p).cores = (quiesceCores (idleCores s p) p).cores :=
  (foldl_setBasin_cores _ _ _).trans (foldl_setBasin_cores _ _ _)

theorem finishIds_cores (s : State) (ids : List Nat) (status : Nat) : (finishIds s ids status).cores = s.cores :=
  foldl_keeps (fun s i => finishId_cores (s := s) i status) ids s

theorem finishJob_cores (s : State) (j : Job) (status : Nat) : (finishJob s j status).cores = s.cores := by
  unfold finishJob
  split
  · exact finishWith_cores _ _ _ _
  · rfl

theorem closeRequest_cores (s : State) (r : Request) (status : Nat) : (closeRequest s r status).cores = s.cores := by
  have hfree : ((releasePages s r).freeRequest r).cores = s.cores := by
    rw [releasePages_frame]
    rfl
  unfold closeRequest
  rw [finishIds_cores, finishIds_cores]
  split
  · rw [finishId_cores, hfree]
  · exact hfree

theorem settleReleases_cores (s : State) (p h : Nat) : (settleReleases s p h).cores = s.cores := by
  refine foldl_keeps (g := State.cores) (fun s r => ?_) _ s
  rw [endRequest, closeRequest_cores, writeProgress_frame]

theorem endJob_cores {p : Nat} {j : Job} (h : (s.partRun p).job = some j) (status : Nat) :
    (endJob s p status).cores = (quiesceCores (idleCores s p) p).cores := by
  rw [endJob_of_job h]
  dsimp only
  split
  · rw [settleReleases_cores, finishIds_cores, finishJob_cores, clearJob_cores]
  · rw [finishIds_cores, finishJob_cores, clearJob_cores]

theorem Tab.find_mapKeyed {α : Type} (t : Tab α) (f : Nat → α → α) (k : Nat) :
    Tab.find (t.map fun e => (e.1, f e.1 e.2)) k = (Tab.find t k).map (f k) := by
  induction t with
  | nil => rfl
  | cons e t ih =>
    obtain ⟨j, v⟩ := e
    rw [List.map_cons, Tab.find, Tab.find]
    split
    · rename_i h
      subst h
      rfl
    · exact ih

/-- A core of the partition that is to quiesce does so at the end of the partition's job. -/
theorem quiesced_endJob {q : Nat} {c : Core} {j : Job} (hjob : (s.partRun (basinPart s (coreBasin q))).job = some j)
    (hcore : Tab.find s.cores q = some c) (hq : c.quiesce = true) (status : Nat) :
    ((endJob s (basinPart s (coreBasin q)) status).core q).quiesced = true := by
  have hidle : (if c.worksFor (basinPart s (coreBasin q)) then c.idle else c).quiesce = true := by
    split
    · exact hq
    · exact hq
  have hfind : Tab.find (idleCores s (basinPart s (coreBasin q))).cores q
      = some (if c.worksFor (basinPart s (coreBasin q)) then c.idle else c) := by
    refine (Tab.find_mapKeyed s.cores (fun _ c => if c.worksFor (basinPart s (coreBasin q)) then c.idle else c) q).trans ?_
    rw [hcore]
    rfl
  have hends : Tab.find (quiesceCores (idleCores s (basinPart s (coreBasin q))) (basinPart s (coreBasin q))).cores q
      = some { (if c.worksFor (basinPart s (coreBasin q)) then c.idle else c) with quiesced := true } := by
    refine (Tab.find_mapKeyed _ (fun p (c : Core) => if basinPart (idleCores s (basinPart s (coreBasin q))) (coreBasin p)
      == basinPart s (coreBasin q) && c.quiesce then { c with quiesced := true } else c) q).trans ?_
    rw [hfind, Option.map_some, if_pos]
    rw [hidle, Bool.and_true]
    exact beq_self_eq_true _
  rw [State.core, endJob_cores hjob, Tab.get, hends]
  rfl

/-- CORE_QUIESCE of core p, whose basin serves. -/
theorem exec_coreQuiesce_of_writable (h : writable s = true) {p : Nat} (hp : p < 1500)
    (hserves : (s.basin (coreBasin p)).withdrawn = false) (on : Bool) : exec (.coreQuiesce p on) s = .next (s.setCore p { s.core p with
      quiesce := on
      quiesced := on && ((s.partRun (basinPart s (coreBasin p))).job.isNone || (s.core p).quiesced) }) := by
  have hguard : (writable s && p < 1500 && !(s.basin (coreBasin p)).withdrawn) = true := by simp [h, hp, hserves]
  refine congrArg Host.Outcome.next ((if_pos hguard).trans ?_)
  dsimp only
  rw [Option.not_isSome]

/-- The end of a GO: the tests' results are recorded in t, and n of them failed. -/
def goOver (t : State) (es : List (Nat × Nat × List Byte)) (n : Nat) : State :=
  { recordTests t es with bist := { (recordTests t es).bist with done := true, failed := BitVec.ofNat 16 n } }

section GoOver
variable (t : State) (es : List (Nat × Nat × List Byte)) (n : Nat)

theorem goOver_runs : (goOver t es n).bist.runs = satAdd t.bist.runs es.length := rfl
theorem goOver_fails : (goOver t es n).bist.fails = satAdd t.bist.fails (es.filter fun e => e.2.1 == 1).length := rfl
theorem goOver_results : (goOver t es n).bist.results = es.foldl (fun t e => Tab.put t e.1 e.2.2) t.bist.results := rfl
theorem goOver_first : (goOver t es n).bist.first = t.bist.first := rfl
theorem goOver_count : (goOver t es n).bist.count = t.bist.count := rfl

end GoOver

theorem goTested_untold (s : State) (v : Word64) : goTested s v [] = goOver
    (unitsTested { s with bist := goFields s v } (bitsOf v.toNat 1 2) (bitsOf v.toNat 3 1) (goUnits s v))
    (untoldEntries { s with bist := goFields s v } (bitsOf v.toNat 1 2) (bitsOf v.toNat 3 1) (goUnits s v)) 0 := by
  obtain ⟨htested, hfailed⟩ := runTests_untold { s with bist := goFields s v } (bitsOf v.toNat 1 2) (bitsOf v.toNat 3 1)
    (goUnits s v)
  rw [goTested, goOver]
  dsimp only
  rw [htested, hfailed]

theorem goTested_of_failing_spare {v : Word64} {bad : TestResult} (hkind : bitsOf v.toNat 1 2 = 1)
    (hcount : bitsOf v.toNat 48 16 = 1) (hfirst : bitsOf v.toNat 32 16 < 1500) (hrole : (s.core (bitsOf v.toNat 32 16)).role = 1)
    (hbad : bad.pass = false) : goTested s v [bad] = goOver
      (spareFailed { s with bist := goFields s v } 1 (bitsOf v.toNat 3 1) (bitsOf v.toNat 32 16) bad.firstFail)
      [(bitsOf v.toNat 32 16, 1, resultEntry (bitsOf v.toNat 32 16) 1 1 (bitsOf v.toNat 3 1) (some bad))] 1 := by
  have hfree : unitFree s (bitsOf v.toNat 32 16) = true := by
    rw [unitFree, if_pos hfirst, hrole]
    rfl
  have hunits : goUnits s v = [bitsOf v.toNat 32 16] := by
    rw [goUnits, hcount, hkind]
    simp [List.range_succ, testRanges, hfirst, hfree]
  obtain ⟨htested, hfailed⟩ := runTests_of_failing_spare (s := { s with bist := goFields s v }) (depth := bitsOf v.toNat 3 1)
    hfirst hrole hbad
  rw [goTested, goOver]
  dsimp only
  rw [hunits, hkind, htested, hfailed]

/-- Settles O34. That a unit of which no result is told passes is the model's reading (log 187). -/
theorem selfTestsAndQuiesce : Obligations.SelfTestsAndQuiesce := by
  intro s v p on bad hwritable kind first count fields units
  refine ⟨fun hlate tests => exec_bistGo_late hwritable hlate tests, fun hstage hcount => ?_,
    fun hstage hkind hcount hfirst hrole hbad => ?_, fun hp hserves => ⟨exec_coreQuiesce_of_writable hwritable hp hserves on, ?_⟩⟩
  · have hgo := goTested_untold s v
    have hkept := unitsTested_sansTests { s with bist := goFields s v } kind (bitsOf v.toNat 3 1) units
    have hlen : (untoldEntries { s with bist := goFields s v } kind (bitsOf v.toNat 3 1) units).length = units.length :=
      List.length_map _
    have hnone := untoldEntries_failed { s with bist := goFields s v } kind (bitsOf v.toNat 3 1) units
    have hresults := find_untold_results { s with bist := goFields s v } kind (bitsOf v.toNat 3 1) units s.bist.results
    have hunits : goUnits s v = units := rfl
    rw [hunits] at hgo
    generalize unitsTested { s with bist := goFields s v } kind (bitsOf v.toNat 3 1) units = t at hgo hkept
    generalize untoldEntries { s with bist := goFields s v } kind (bitsOf v.toNat 3 1) units = es at hgo hlen hnone hresults
    have hbist : t.bist = goFields s v := by have h := congrArg State.bist hkept; exact h
    have hhost : t.host = s.host := by have h := congrArg State.host hkept; exact h
    have hcmds : t.cmds = s.cmds := by have h := congrArg State.cmds hkept; exact h
    have hevt : t.evt = s.evt := by have h := congrArg State.evt hkept; exact h
    have hruns : t.runs = s.runs := by have h := congrArg State.runs hkept; exact h
    refine ⟨goOver t es 0, (exec_bistGo_tests hwritable hstage hcount []).trans (congrArg Host.Outcome.next hgo), rfl, rfl, ?_, ?_,
      ?_, ?_, fun u hu => ?_, fun u hu => ?_, hhost, hcmds, hevt, hruns⟩
    · rw [goOver_runs, hbist, hlen]; rfl
    · rw [goOver_fails, hbist, hnone]; rfl
    · rw [goOver_first, hbist]; rfl
    · rw [goOver_count, hbist]; rfl
    · rw [goOver_results, hbist]; exact (hresults u).1 hu
    · rw [goOver_results, hbist]; exact (hresults u).2 hu
  · have hgo := goTested_of_failing_spare hkind hcount hfirst hrole hbad
    have hdied := spareDied_spareFailed (s := { s with bist := goFields s v }) hfirst hrole 1 (bitsOf v.toNat 3 1) bad.firstFail
    generalize spareFailed { s with bist := goFields s v } 1 (bitsOf v.toNat 3 1) first bad.firstFail = t at hgo hdied
    generalize resultEntry first 1 1 (bitsOf v.toNat 3 1) (some bad) = entry at hgo
    obtain ⟨hdead, hfenced, hothers, hraised, hhost, hcmds, hruns, hbist⟩ := hdied
    refine ⟨goOver t [(first, 1, entry)] 1, (exec_bistGo_tests hwritable hstage (ne_of_eq_of_ne hcount Nat.one_ne_zero) [bad]).trans
      (congrArg Host.Outcome.next hgo), rfl, rfl, ?_, ?_, hdead, hfenced, hothers, hraised, hhost, hcmds, hruns⟩
    · rw [goOver_runs, hbist]; rfl
    · rw [goOver_fails, hbist]; rfl
  · intro hjob _ status t ht
    rw [exec_coreQuiesce_of_writable hwritable hp hserves true, Host.Outcome.next.injEq] at ht
    subst ht
    obtain ⟨j, hj⟩ := Option.isSome_iff_exists.mp hjob
    exact quiesced_endJob (s := s.setCore p _) hj (Tab.find_put_self _ _ _) rfl status

end Sys2Proof.Machine
end

section
/-! Stage 2 of the start (17 R373 step 4): stacks train, cores are mapped, quick tests are recorded, default tables load. -/

namespace Sys2Proof.Machine

variable {s : State}

/-! A stack that does not train fails the device (08 R185, R200). -/

theorem enterFailed_run (s : State) : (enterFailed s).run = { s.run with failed := true } := by
  rw [enterFailed_frame]
  generalize List.range 10 = ps
  have hwork := State.run_of_sansWork (workEnded_sansWork ps (commandsFailed (abortsSent ps s)))
  have hfailed := (failCommands_run_stacks ((abortsSent ps s).cmds.length + 1)
    { abortsSent ps s with run := { (abortsSent ps s).run with failed := true } }).1
  have haborts := State.run_of_sansWork (abortsSent_sansWork ps s)
  dsimp only
  rw [hwork, commandsFailed, hfailed, haborts]

theorem loseStack_run (hlive : s.run.failed = false) (k : Nat) (cause : StackCause) (ch : Nat) :
    (loseStack s k cause ch).run = { s.run with failed := true } := by
  rw [loseStack_of_live hlive, enterFailed_run, lossReported, raiseEvent_run, State.setStack_run]

theorem loseStack_fuses (hlive : s.run.failed = false) (k : Nat) (cause : StackCause) (ch : Nat) :
    (loseStack s k cause ch).fuses = s.fuses := by
  have hstores := (enterFailed_ends (lossReported s k cause ch)).2.1
  rw [loseStack_of_live hlive]
  rw [State.stores, State.stores, Prod.mk.injEq] at hstores
  rw [hstores.2, lossReported, raiseEvent_fuses, State.setStack_fuses]

/-- The stacks train one after another until one is lost. -/
def stacksTrained (s : State) (ok : List Bool) : State :=
  (List.range 20).foldl (fun s k => if s.run.failed then s else trainStack s k (ok.getD k true)) s

theorem foldl_trainStack_of_failed (ok : List Bool) (ks : List Nat) (h : s.run.failed = true) :
    ks.foldl (fun s k => if s.run.failed then s else trainStack s k (ok.getD k true)) s = s := by
  induction ks with
  | nil => rfl
  | cons k ks ih => rw [List.foldl_cons, if_pos h, ih]

/-- A first stack that does not train is the only one tried. -/
theorem stacksTrained_of_first_lost (h : s.run.failed = false) : stacksTrained s [false] = loseStack s 0 .training 0 := by
  have hfailed : (loseStack s 0 .training 0).run.failed = true := by rw [loseStack_run h]
  rw [stacksTrained, show List.range 20 = 0 :: (List.range 19).map Nat.succ from List.range_succ_eq_map, List.foldl_cons,
    if_neg (Bool.eq_false_iff.mp h)]
  exact foldl_trainStack_of_failed [false] _ hfailed

/-! Every stack trains. -/

/-- A stack in service. -/
def Stack.serves (v : Stack) : Prop := v.trained = true ∧ v.inService = true

/-- The stacks of ks have all trained. -/
def allTrained (s : State) (ks : List Nat) : State := ks.foldl (fun s k => trainStack s k true) s

theorem stacksTrained_nil (h : s.run.failed = false) : stacksTrained s [] = allTrained s (List.range 20) := by
  rw [stacksTrained, allTrained]
  generalize List.range 20 = ks
  induction ks generalizing s with
  | nil => rfl
  | cons k ks ih =>
    rw [List.foldl_cons, List.foldl_cons, if_neg (Bool.eq_false_iff.mp h)]
    exact ih h

theorem allTrained_frame (s : State) (ks : List Nat) : allTrained s ks = { s with hbmStacks := (allTrained s ks).hbmStacks } :=
  congrArg (fun t : State => { t with hbmStacks := (allTrained s ks).hbmStacks })
    (foldl_keeps (g := fun t : State => { t with hbmStacks := [] }) (f := fun s k => trainStack s k true) (fun _ _ => rfl) ks s)

/-- A stack that has trained. -/
def Stack.up (v : Stack) (k : Nat) : Stack :=
  { v with trained := true, inService := true, info := Config.stackInfo k, failed := false, failCause := 0, failChannel := 0 }

theorem trainStack_ok (s : State) (k : Nat) : trainStack s k true = s.setStack k ((s.stack k).up k) := rfl

theorem Stack.up_serves (v : Stack) (k : Nat) : (v.up k).serves := ⟨rfl, rfl⟩

theorem allTrained_serves {ks : List Nat} {k : Nat} (hk : k ∈ ks) (s : State) : ((allTrained s ks).stack k).serves := by
  have hself : ∀ (t : State) (j : Nat), ((trainStack t j true).stack j).serves := fun t j => by
    rw [trainStack_ok, State.stack_setStack_self]
    exact Stack.up_serves _ j
  have hkeep : ∀ (t : State) (j i : Nat), (t.stack i).serves → ((trainStack t j true).stack i).serves := fun t j i hi => by
    by_cases hij : i = j
    · subst hij
      exact hself t i
    · rwa [trainStack_ok, State.stack_setStack_ne _ _ hij]
  exact foldl_establishes (I := fun _ => True) (P := fun (t : State) k => (t.stack k).serves) (fun _ _ _ => trivial)
    (fun t j _ => hself t j) hkeep hk trivial

/-! The wipe of stacked memory is counted by its stacks, which serve on. -/

theorem get_countWrites (f : Nat → Nat) (ks : List Nat) (t : Tab Stack) (k : Nat) :
    let counted := ks.foldl (fun t j => Tab.mod t j ({} : Stack) fun v => { v with writeBytes := satAdd v.writeBytes (f j) }) t
    (Tab.get counted k {}).trained = (Tab.get t k {}).trained ∧ (Tab.get counted k {}).inService = (Tab.get t k {}).inService := by
  induction ks generalizing t with
  | nil => exact ⟨rfl, rfl⟩
  | cons j ks ih =>
    have hstep : (Tab.get (Tab.mod t j ({} : Stack) fun v => { v with writeBytes := satAdd v.writeBytes (f j) }) k {}).trained
          = (Tab.get t k {}).trained
        ∧ (Tab.get (Tab.mod t j ({} : Stack) fun v => { v with writeBytes := satAdd v.writeBytes (f j) }) k {}).inService
          = (Tab.get t k {}).inService := by
      by_cases hkj : k = j
      · subst hkj
        rw [Tab.mod, Tab.get_put_self]
        exact ⟨rfl, rfl⟩
      · rw [Tab.mod, Tab.get_put_ne _ _ _ hkj]
        exact ⟨rfl, rfl⟩
    exact ⟨(ih _).1.trans hstep.1, (ih _).2.trans hstep.2⟩

theorem addWritten_serves {k : Nat} (h : (s.stack k).serves) (f : Nat → Nat) : ((addWritten s f).stack k).serves := by
  have hkept := get_countWrites f (List.range 20) s.hbmStacks k
  unfold addWritten countStacks
  generalize List.range 20 = ks at hkept
  exact ⟨hkept.1.trans h.1, hkept.2.trans h.2⟩

theorem addWritten_frame (s : State) (f : Nat → Nat) : addWritten s f = { s with hbmStacks := (addWritten s f).hbmStacks } := by
  unfold addWritten countStacks
  generalize List.range 20 = ks
  rfl

theorem wipeAll_frame (s : State) : wipeAll s = { s with hbm := [], hbmStacks := (wipeAll s).hbmStacks } := by
  unfold wipeAll
  rw [addWritten_frame]

theorem wipeAll_serves {k : Nat} (h : (s.stack k).serves) : ((wipeAll s).stack k).serves := by
  unfold wipeAll
  exact addWritten_serves (s := { s with hbm := [] }) h _

/-! The map of a die over cores that pass (01 R14, 13 R290). -/

/-- Core p takes a role and a logical number. -/
def assign (s : State) (p role log : Nat) : State :=
  s.setCore p { s.core p with
    role := BitVec.ofNat 3 role, logical := BitVec.ofNat 11 log, fenced := role == 2, lastBeat := s.now }

theorem assign_core_self (s : State) (p role log : Nat) : ((assign s p role log).core p).role = BitVec.ofNat 3 role
    ∧ ((assign s p role log).core p).logical = BitVec.ofNat 11 log := by
  rw [assign, State.core_setCore_self]
  exact ⟨rfl, rfl⟩

theorem assign_core_ne {p q : Nat} (h : q ≠ p) (s : State) (role log : Nat) : (assign s p role log).core q = s.core q :=
  State.core_setCore_ne _ _ h

/-- On a die whose cores all pass the first 48 serve. -/
theorem mapDie_of_passing (s : State) (die : Nat) : mapDie s die (fun _ => true) =
    (List.range 48).foldl (fun s i => assign s (50 * die + i) 0 (48 * die + i))
      ((List.range 50).foldl (fun s i => assign s (50 * die + i) 1 0x7FF) s) := by
  have hzip : (((List.range 50).map (50 * die + ·)).take 48).zip (List.range 48)
      = (List.range 48).map fun i => (50 * die + i, i) := by
    rw [← List.map_take, List.take_range, List.zip_map_left, List.zip_eq_zipWith]
    simp
  unfold mapDie
  dsimp only
  rw [List.filter_true, if_neg (by simp), hzip, List.foldl_map, List.foldl_map]
  rfl

/-- Core i of a die stands where a map over cores that all pass puts it. -/
def Mapped (die i : Nat) (s : State) : Prop :=
  (s.core (50 * die + i)).role = (if i < 48 then 0 else 1)
    ∧ (s.core (50 * die + i)).logical = (if i < 48 then BitVec.ofNat 11 (48 * die + i) else 0x7FF)

/-- A fold of assignments leaves each core of the list with the assignment of its place. -/
theorem foldl_assign_mem (die role : Nat) (log : Nat → Nat) {is : List Nat} {i : Nat} (hi : i ∈ is) (s : State) :
    ((is.foldl (fun s i => assign s (50 * die + i) role (log i)) s).core (50 * die + i)).role = BitVec.ofNat 3 role
      ∧ ((is.foldl (fun s i => assign s (50 * die + i) role (log i)) s).core (50 * die + i)).logical = BitVec.ofNat 11 (log i) := by
  refine foldl_establishes (f := fun s i => assign s (50 * die + i) role (log i)) (I := fun _ => True)
    (P := fun (t : State) i => (t.core (50 * die + i)).role = BitVec.ofNat 3 role
      ∧ (t.core (50 * die + i)).logical = BitVec.ofNat 11 (log i))
    (fun _ _ _ => trivial) (fun t j _ => assign_core_self t _ role (log j)) (fun t j k hk => ?_) hi trivial
  by_cases hkj : k = j
  · subst hkj
    exact assign_core_self t _ role (log k)
  · rw [assign_core_ne (by omega)]
    exact hk

theorem foldl_assign_not_mem (die role : Nat) (log : Nat → Nat) {is : List Nat} {q : Nat} (hq : ∀ i ∈ is, q ≠ 50 * die + i)
    (s : State) : (is.foldl (fun s i => assign s (50 * die + i) role (log i)) s).core q = s.core q := by
  induction is generalizing s with
  | nil => rfl
  | cons i is ih =>
    rw [List.foldl_cons, ih fun j hj => hq j (List.mem_cons_of_mem _ hj), assign_core_ne (hq i List.mem_cons_self)]

theorem mapDie_mapped {i : Nat} (hi : i < 50) (s : State) (die : Nat) : Mapped die i (mapDie s die fun _ => true) := by
  rw [mapDie_of_passing, Mapped]
  by_cases hserves : i < 48
  · rw [if_pos hserves, if_pos hserves]
    exact foldl_assign_mem die 0 (48 * die + ·) (List.mem_range.mpr hserves) _
  · rw [if_neg hserves, if_neg hserves, foldl_assign_not_mem die 0 (48 * die + ·) (fun j hj => by
      have hj' := List.mem_range.mp hj
      omega)]
    exact foldl_assign_mem die 1 (fun _ => 0x7FF) (List.mem_range.mpr hi) s

/-- The map of one die leaves the other dies' cores. -/
theorem mapDie_core_ne {die q : Nat} (hq : ∀ i < 50, q ≠ 50 * die + i) (s : State) :
    (mapDie s die fun _ => true).core q = s.core q := by
  rw [mapDie_of_passing, foldl_assign_not_mem die 0 (48 * die + ·) fun j hj => hq j (by have := List.mem_range.mp hj; omega)]
  exact foldl_assign_not_mem die 1 (fun _ => 0x7FF) (fun j hj => hq j (List.mem_range.mp hj)) s

/-- The machine without its cores. -/
def State.sansCores (s : State) : State := { s with cores := [] }

theorem mapDie_sansCores (s : State) (die : Nat) : (mapDie s die fun _ => true).sansCores = s.sansCores := by
  rw [mapDie_of_passing]
  exact (foldl_keeps (g := State.sansCores) (f := fun s i => assign s (50 * die + i) 0 (48 * die + i)) (fun _ _ => rfl) _ _).trans
    (foldl_keeps (g := State.sansCores) (f := fun s i => assign s (50 * die + i) 1 0x7FF) (fun _ _ => rfl) _ _)

/-- The maps of all dies. -/
def allMapped (s : State) : State := (List.range 30).foldl (fun s d => mapDie s d fun _ => true) s

theorem allMapped_sansCores (s : State) : (allMapped s).sansCores = s.sansCores :=
  foldl_keeps (g := State.sansCores) (f := fun s d => mapDie s d fun _ => true) (fun s d => mapDie_sansCores s d) _ s

theorem allMapped_mapped {die i : Nat} (hdie : die < 30) (hi : i < 50) (s : State) : Mapped die i (allMapped s) := by
  refine foldl_establishes (f := fun s d => mapDie s d fun _ => true) (I := fun _ => True) (P := fun t d => Mapped d i t)
    (fun _ _ _ => trivial) (fun t d _ => mapDie_mapped hi t d) (fun t d k hk => ?_) (List.mem_range.mpr hdie) trivial
  by_cases hkd : k = d
  · subst hkd
    exact mapDie_mapped hi t k
  · rw [Mapped, mapDie_core_ne fun j hj => by omega]
    exact hk

/-! Quick tests of which no result is told (log 187). -/

/-- The units of a kind, in the order of their tests. -/
def kindUnits (kind : Nat) : List Nat := (testRanges kind).flatMap fun r => (List.range r.2).map (r.1 + ·)

theorem stage2Units_nil (kind : Nat) : stage2Units kind [] = (kindUnits kind).map fun u => (u, none) := by
  calc (kindUnits kind).zipIdx.map (fun u => (u.1, none)) = ((kindUnits kind).zipIdx.map Prod.fst).map fun u => (u, none) := by
        rw [List.map_map]
        rfl
    _ = (kindUnits kind).map fun u => (u, none) := by rw [List.zipIdx_map_fst]

theorem stage2Bad_nil (s : State) (kind : Nat) : stage2Bad s kind [] = [] := by
  rw [stage2Bad, stage2Units_nil]
  simp [testResult_untold_ne_one]

/-- The results of a kind's units recorded, all of them untold. -/
def quickRecorded (s : State) (kind : Nat) : State := recordTests s (untoldEntries s kind 0 (kindUnits kind))

/-- With no result told no unit fails: the results are recorded and every core is mapped. -/
theorem stage2Tests_nil (s : State) : stage2Tests s [] [] = allMapped (quickRecorded (quickRecorded s 0) 1) := by
  have hdead : ((List.range 1500).filter fun p =>
      ([(0, []), (1, [])] : List (Nat × List (Nat × Option TestResult))).any fun b => b.2.any fun u => u.1 == p) = [] := by
    generalize List.range 1500 = ps
    simp
  have hdies : ((List.range 30).filter fun d => 2 < (([] : List Nat).filter fun p => p / 50 == d).length) = [] := by
    generalize List.range 30 = ds
    simp
  unfold stage2Tests
  dsimp only
  simp only [stage2Bad_nil, hdead, hdies, stage2Units_nil, List.map_map, List.foldl_cons, List.foldl_nil, List.contains_nil,
    Bool.not_false]
  rfl

/-- What a record of untold units leaves under a unit. -/
theorem find_recordTests_untold (s : State) (kind : Nat) (us : List Nat) (u : Nat) :
    (u ∈ us → (Tab.find (recordTests s (untoldEntries s kind 0 us)).bist.results u).isSome = true)
      ∧ (u ∉ us → Tab.find (recordTests s (untoldEntries s kind 0 us)).bist.results u = Tab.find s.bist.results u) :=
  find_untold_results s kind 0 us s.bist.results u

/-- Each unit of the quick tests has a result. -/
theorem quickRecorded_results {u : Nat} (hu : u ∈ kindUnits 0 ∨ u ∈ kindUnits 1) (s : State) :
    (Tab.find (quickRecorded (quickRecorded s 0) 1).bist.results u).isSome = true := by
  unfold quickRecorded
  generalize kindUnits 0 = us at hu
  generalize kindUnits 1 = vs at hu
  by_cases hmem : u ∈ vs
  · exact (find_recordTests_untold _ 1 vs u).1 hmem
  · rw [(find_recordTests_untold _ 1 vs u).2 hmem]
    exact (find_recordTests_untold s 0 us u).1 (hu.resolve_right hmem)

theorem mem_kindUnits {kind u : Nat} {r : Nat × Nat} (hr : r ∈ testRanges kind) (hleast : r.1 ≤ u) (hmost : u < r.1 + r.2) :
    u ∈ kindUnits kind :=
  List.mem_flatMap.mpr ⟨r, hr, List.mem_map.mpr ⟨u - r.1, List.mem_range.mpr (by omega), by omega⟩⟩

/-- The cores, the basins and the codec engines are tested. -/
theorem quickTested {u : Nat} (h : u < 1500 ∨ 0x600 ≤ u ∧ u < 0x60A ∨ 0x900 ≤ u ∧ u < 0x904) :
    u ∈ kindUnits 0 ∨ u ∈ kindUnits 1 := by
  rcases h with hcore | ⟨hleast, hmost⟩ | ⟨hleast, hmost⟩
  · exact .inl (mem_kindUnits (r := (0, 1500)) (by decide) (Nat.zero_le u) (by omega))
  · exact .inr (mem_kindUnits (r := (0x600, 10)) (by decide) hleast hmost)
  · exact .inl (mem_kindUnits (r := (0x900, 4)) (by decide) hleast hmost)

/-! The default tables (05 R104). -/

theorem loadDefaults_frame (s : State) : loadDefaults s = { s with basins := (loadDefaults s).basins } := by
  unfold loadDefaults
  generalize List.range 10 = bs
  rfl

/-- Bank 0 holds the default tables as generation 1. -/
def Basin.loaded (b : Basin) : Prop := b.sfu.bank0 = .defaults ∧ b.sfu.gen0 = 1 ∧ b.sfu.active = false

/-- A basin with the default tables. -/
def Basin.load (b : Basin) : Basin := { b with sfu := { b.sfu with bank0 := .defaults, gen0 := 1, active := false } }

theorem Basin.load_loaded (b : Basin) : b.load.loaded := ⟨rfl, rfl, rfl⟩

theorem loadDefaults_loaded {b : Nat} (hb : b < 10) (s : State) : ((loadDefaults s).basin b).loaded := by
  have hself : ∀ (t : Tab Basin) (j : Nat), (Tab.get (Tab.put t j (Tab.get t j {}).load) j {}).loaded := fun t j => by
    rw [Tab.get_put_self]
    exact Basin.load_loaded _
  have hkeep : ∀ (t : Tab Basin) (j k : Nat), (Tab.get t k {}).loaded → (Tab.get (Tab.put t j (Tab.get t j {}).load) k {}).loaded :=
    fun t j k hk => by
      by_cases hkj : k = j
      · subst hkj
        exact hself t k
      · rwa [Tab.get_put_ne _ _ _ hkj]
  have hmem := List.mem_range.mpr hb
  unfold loadDefaults
  generalize List.range 10 = bs at hmem
  exact foldl_establishes (f := fun t j => Tab.put t j (Tab.get t j {}).load) (I := fun _ => True)
    (P := fun (t : Tab Basin) j => (Tab.get t j {}).loaded) (fun _ _ _ => trivial) (fun t j _ => hself t j) hkeep hmem trivial

/-! Stage 2. -/

/-- The machine once the stacks have trained and the units are tested. -/
def unitsTried (s : State) (logic memory : List TestResult) : State := loadDefaults (stage2Tests (wipeAll s) logic memory)

theorem exec_stage2Complete_of_open (hphase : s.run.phase = .stage1) (hopen : s.run.stage2 = false) (hlive : s.run.failed = false)
    (ok : List Bool) (logic memory : List TestResult) : exec (.stage2Complete ok logic memory) s = .next
      (if (stacksTrained s ok).run.failed then stacksTrained s ok
        else if (unitsTried (stacksTrained s ok) logic memory).run.failed then unitsTried (stacksTrained s ok) logic memory
        else reachFull { unitsTried (stacksTrained s ok) logic memory with
          run := { (unitsTried (stacksTrained s ok) logic memory).run with stage2 := true } }) := by
  change execStage2Complete ok logic memory s = _
  rw [execStage2Complete, if_pos ⟨hphase, hopen, hlive⟩, ← stacksTrained]
  rfl

/-- In t every unit is up; the rest of s that the stage leaves is as it was. -/
structure UnitsUp (s t : State) : Prop where
  hbm : t.hbm = []
  stackUp : ∀ k < 20, (t.stack k).serves
  cores : ∀ die < 30, ∀ i < 50, Mapped die i t
  results : ∀ u, u < 1500 ∨ 0x600 ≤ u ∧ u < 0x60A ∨ 0x900 ≤ u ∧ u < 0x904 → (Tab.find t.bist.results u).isSome = true
  tables : ∀ b < 10, (t.basin b).loaded
  host : t.host = s.host
  cmds : t.cmds = s.cmds
  sec : t.sec = s.sec
  rng : t.rng = s.rng

/-- What full function does to the machine in which all units are up touches none of them. -/
theorem UnitsUp.reachFull {s t : State} (h : UnitsUp s t) (run : RunState) : UnitsUp s (reachFull { t with run := run }) := by
  obtain ⟨hhbm, hstacks, hcores, hresults, htables, hhost, hcmds, hsec, hrng⟩ := h
  unfold Machine.reachFull
  split
  · exact ⟨hhbm, hstacks, hcores, hresults, htables, hhost, hcmds, hsec, hrng⟩
  · exact ⟨hhbm, hstacks, hcores, hresults, htables, hhost, hcmds, hsec, hrng⟩

theorem reachFull_run (s : State) : (reachFull s).run = s.run := by
  unfold reachFull
  split <;> rfl

/-- Stacks trained and wiped: stacked memory is empty, and nothing but it and the stacks has changed. -/
theorem wiped_frame (s : State) (ks : List Nat) : wipeAll (allTrained s ks) =
    { s with hbm := [], hbmStacks := (wipeAll (allTrained s ks)).hbmStacks } := by
  rw [wipeAll_frame, allTrained_frame]

theorem quickRecorded_frame (s : State) (kind : Nat) :
    quickRecorded s kind = { s with bist := (quickRecorded s kind).bist } := by
  unfold quickRecorded
  generalize kindUnits kind = us
  rfl

theorem State.frame_of_sansCores {s t : State} (h : t.sansCores = s.sansCores) : t = { s with cores := t.cores } :=
  congrArg (fun u : State => { u with cores := t.cores }) h

theorem allMapped_frame (s : State) : allMapped s = { s with cores := (allMapped s).cores } :=
  State.frame_of_sansCores (allMapped_sansCores s)

/-- The machine without what stage 2 brings up. -/
def State.sansUnits (s : State) : State := { s with hbm := [], hbmStacks := [], bist := {}, cores := [], basins := [] }

/-- Units come up where stacks, results, cores and tables do so one after another. -/
theorem UnitsUp.of_frames {s w r m t : State} (hwiped : w = { s with hbm := [], hbmStacks := w.hbmStacks })
    (hrecorded : r = { w with bist := r.bist }) (hmapped : m = { r with cores := m.cores })
    (hloaded : t = { m with basins := t.basins }) (hserves : ∀ k < 20, (w.stack k).serves)
    (hresults : ∀ u, u < 1500 ∨ 0x600 ≤ u ∧ u < 0x60A ∨ 0x900 ≤ u ∧ u < 0x904 → (Tab.find r.bist.results u).isSome = true)
    (hmaps : ∀ die < 30, ∀ i < 50, Mapped die i m) (htables : ∀ b < 10, (t.basin b).loaded) :
    UnitsUp s t ∧ t.run = s.run := by
  have hrest : t.sansUnits = s.sansUnits := by
    rw [hloaded, hmapped, hrecorded, hwiped]
    rfl
  have hstacks : t.hbmStacks = w.hbmStacks := by rw [hloaded, hmapped, hrecorded]
  have hbist : t.bist = r.bist := by rw [hloaded, hmapped]
  have hcores : t.cores = m.cores := by rw [hloaded]
  refine ⟨⟨by rw [hloaded, hmapped, hrecorded, hwiped], fun k hk => ?_, fun die hdie i hi => ?_, fun u hu => ?_, htables,
    ?_, ?_, ?_, ?_⟩, ?_⟩
  · rw [State.stack, hstacks]
    exact hserves k hk
  · rw [Mapped, State.core, hcores]
    exact hmaps die hdie i hi
  · rw [hbist]
    exact hresults u hu
  · have h := congrArg State.host hrest; exact h
  · have h := congrArg State.cmds hrest; exact h
  · have h := congrArg State.sec hrest; exact h
  · have h := congrArg State.rng hrest; exact h
  · have h := congrArg State.run hrest; exact h

theorem quickRecorded_twice_frame (s : State) : quickRecorded (quickRecorded s 0) 1 =
    { s with bist := (quickRecorded (quickRecorded s 0) 1).bist } := by
  rw [quickRecorded_frame, quickRecorded_frame s]

/-- Units that are tried with no result told come up. -/
theorem unitsTried_up (s : State) : UnitsUp s (unitsTried (allTrained s (List.range 20)) [] [])
    ∧ (unitsTried (allTrained s (List.range 20)) [] []).run = s.run := by
  rw [unitsTried, stage2Tests_nil]
  exact UnitsUp.of_frames (wiped_frame s _) (quickRecorded_twice_frame _) (allMapped_frame _) (loadDefaults_frame _)
    (fun k hk => wipeAll_serves (allTrained_serves (List.mem_range.mpr hk) s))
    (fun u hu => quickRecorded_results (quickTested hu) _) (fun die hdie i hi => allMapped_mapped hdie hi _)
    (fun b hb => loadDefaults_loaded hb _)

/-- Settles O23. That a unit of which no result is told passes is the model's reading (log 187). -/
theorem stageTwoBringsUnitsUp : Obligations.StageTwoBringsUnitsUp := by
  intro s hphase hopen hlive
  refine ⟨?_, fun logic memory => ?_⟩
  · obtain ⟨hup, hrun⟩ := unitsTried_up s
    have htrained : (allTrained s (List.range 20)).run = s.run := by rw [allTrained_frame]
    have hexec := exec_stage2Complete_of_open hphase hopen hlive [] [] []
    rw [stacksTrained_nil hlive, htrained, hrun, hlive, if_neg (by decide), if_neg (by decide)] at hexec
    have hfull := hup.reachFull { s.run with stage2 := true }
    refine ⟨_, hexec, ?_, hfull.hbm, hfull.stackUp, hfull.cores, hfull.results, hfull.tables, hfull.host, hfull.cmds, hfull.sec,
      hfull.rng⟩
    rw [reachFull_run]
  · have hfailed : (loseStack s 0 .training 0).run.failed = true := by rw [loseStack_run hlive]
    have hstack := (loseStack_effect hlive 0 .training 0).2.1
    have hexec := exec_stage2Complete_of_open hphase hopen hlive [false] logic memory
    rw [stacksTrained_of_first_lost hlive, if_pos hfailed] at hexec
    refine ⟨_, hexec, hfailed, ?_, ?_, ?_, ?_, loseStack_fuses hlive 0 .training 0⟩
    · rw [loseStack_run hlive]
      exact hopen
    · rw [hstack]; rfl
    · rw [hstack]; rfl
    · rw [hstack]; rfl

end Sys2Proof.Machine
end

section
/-! The flash store's writes and deletes (16 R352 to R354): they wait for the journal. -/

namespace Sys2Proof.Machine

/-! Wear shows in the store's registers and in events. -/

/-- What wear leaves alone: what waits for the journal, the open commands, and the host's and the stacked memory. -/
def State.held (s : State) : List StoreOp × List Cmd × Tab Byte × Tab Byte := (s.fls.pending, s.cmds, s.host, s.hbm)

theorem raiseEvent_held (s : State) (code source part : Nat) (detail : List Byte) :
    (raiseEvent s code source part detail).held = s.held := by
  simp only [State.held, raiseEvent_fls, raiseEvent_cmds, raiseEvent_host, raiseEvent_hbm]

theorem wearOut_held (s : State) (w : FlashWear) : (wearOut s w).held = s.held := by
  have hblocks : ∀ t : State, (w.bad.foldl (fun s b => raiseEvent s evBadBlock srcFlash 0xF
      (toLe 1 b.channel ++ toLe 1 b.ce ++ toLe 1 b.lun ++ [0] ++ toLe 4 b.block)) t).held = t.held :=
    foldl_keeps (fun t b => raiseEvent_held t _ _ _ _) w.bad
  unfold wearOut
  extract_lets s1 n sMedium sFls s2
  have hs1 : s1.held = s.held := hblocks s
  have hs2 : s2.held = s.held := by
    unfold s2
    split
    · exact hs1
    · exact hs1
  clear_value s2
  split
  · exact (raiseEvent_held _ _ _ _ _).trans hs2
  · exact hs2

/-! STORE_WRITE. -/

/-- The bytes a STORE_WRITE appends, and the machine that has read them. -/
def writeSource (s : State) (d : List Byte) : List Byte × State :=
  if bitOf (leAt d 32 1) 2 then hbmGet s (dPart d) (leAt d 48 8) (leAt d 56 8) else hostRead s (leAt d 48 8) (leAt d 56 8)

section Source
variable (s : State) (d : List Byte)

theorem writeSource_bytes : (writeSource s d).1 = if bitOf (leAt d 32 1) 2 then partRead s (dPart d) (leAt d 48 8) (leAt d 56 8)
    else Mem.readN s.host (leAt d 48 8) (leAt d 56 8) := by
  unfold writeSource
  split <;> rfl

theorem writeSource_length : (writeSource s d).1.length = leAt d 56 8 := by
  rw [writeSource_bytes]
  split
  · exact partRead_length _ _ _ _
  · simp [Mem.readN]

/-- Reading the source changes neither the store nor what wear leaves alone. -/
theorem writeSource_held : (writeSource s d).2.held = s.held ∧ (writeSource s d).2.fls = s.fls
    ∧ (writeSource s d).2.medium = s.medium := by
  unfold writeSource
  split
  · have hcounts := addRead_stores s (tilesOnStack (tilesOf s (dPart d) (leAt d 48 8) (leAt d 56 8)))
    unfold hbmGet addRead countStacks
    generalize List.range 20 = ks
    exact ⟨rfl, rfl, rfl⟩
  · exact ⟨rfl, rfl, rfl⟩

end Source

/-- The write that command c asks for, as it waits for the journal. -/
def waitingWrite (s : State) (c : Cmd) (bs : List Byte) : StoreOp :=
  { object := stObject c.desc, create := bitOf (leAt c.desc 32 1) 0, bytes := bs, seals := bitOf (leAt c.desc 32 1) 1
    deletes := false, cmd := c.id
    owner := match writesObject s (stObject c.desc) with | some b => b.owner | none => c.fn }

theorem writesObject_congr {s t : State} (hfls : t.fls = s.fls) (hmedium : t.medium = s.medium) (o : Nat) :
    writesObject t o = writesObject s o := by
  rw [writesObject, writesObject, hfls, hmedium]

theorem waitingWrite_congr {s t : State} (hfls : t.fls = s.fls) (hmedium : t.medium = s.medium) (c : Cmd) (bs : List Byte) :
    waitingWrite t c bs = waitingWrite s c bs := by
  rw [waitingWrite, waitingWrite, writesObject_congr hfls hmedium]

/-- A write that does something waits for the journal behind what waits already. -/
theorem pendWrite_held {s : State} {c : Cmd} {bs : List Byte}
    (h : (!bitOf (leAt c.desc 32 1) 0 && !bitOf (leAt c.desc 32 1) 1 && bs.isEmpty) = false) (env : Env) :
    (runStoreWrite.pendWrite s c (stObject c.desc) (bitOf (leAt c.desc 32 1) 0) bs (bitOf (leAt c.desc 32 1) 1) env).held
      = (s.fls.pending ++ [waitingWrite s c bs], s.cmds, s.host, s.hbm) := by
  have hwear := wearOut_held s env.wear
  simp only [State.held, Prod.mk.injEq] at hwear
  obtain ⟨hpending, hcmds, hhost, hhbm⟩ := hwear
  unfold runStoreWrite.pendWrite
  rw [if_neg (Bool.eq_false_iff.mp h)]
  simp only [State.held, hpending, hcmds, hhost, hhbm]
  rfl

/-- A write whose checks pass, when nothing outside fails. -/
theorem runStoreWrite_of_clean {s : State} {c : Cmd} {env : Env} (h : storeWriteStatus s c = none) (henv : CleanEnv env) :
    runStoreWrite s c env = runStoreWrite.pendWrite (writeSource (chargeCmd s c env.charge).1 c.desc).2
      (chargeCmd s c env.charge).2 (stObject c.desc) (bitOf (leAt c.desc 32 1) 0)
      (writeSource (chargeCmd s c env.charge).1 c.desc).1 (bitOf (leAt c.desc 32 1) 1) env := by
  unfold runStoreWrite
  rw [h]
  dsimp only
  unfold writeSource
  split
  · rw [henv.tier]
    rfl
  · rw [if_neg (by simp [henv.host])]

section Started
variable {s : State} {f q : Nat} {d : List Byte}

theorem exec_storeWrite_of_runs (h : Runs 0x0081 s f q d) (env : Env) :
    exec (.storeWrite f q env) s = .next (runStoreWrite (startedState s f q d) (runningCmd s f q d) env) :=
  congrArg Host.Outcome.next (takeRow_of_startsNow h.toStartsNow (by simp [twoPart, h.opcode_eq]) env noEarly runStoreWrite)

theorem exec_storeDelete_of_runs (h : Runs 0x0082 s f q d) (env : Env) :
    exec (.storeDelete f q env) s = .next (runStoreDelete (startedState s f q d) (runningCmd s f q d) env) :=
  congrArg Host.Outcome.next (takeRow_of_startsNow h.toStartsNow (by simp [twoPart, h.opcode_eq]) env noEarly runStoreDelete)

/-- The machine in which the command has been charged. -/
def chargedState (s : State) (f q : Nat) (d : List Byte) (env : Env) : State :=
  (chargeCmd (startedState s f q d) (runningCmd s f q d) env.charge).1

theorem untouched_charged (s : State) (f q : Nat) (d : List Byte) (env : Env) : Untouched s (chargedState s f q d env) :=
  (untouched_started s f q d).trans (untouched_charge _ _ _)

/-- The clause of a STORE_WRITE. -/
theorem storeWrite_waits (h : Runs 0x0081 s f q d) {env : Env} (henv : CleanEnv env)
    (hst : storeWriteStatus (startedState s f q d) (runningCmd s f q d) = none)
    (hdoes : bitOf (leAt d 32 1) 0 = true ∨ bitOf (leAt d 32 1) 1 = true ∨ leAt d 56 8 ≠ 0) :
    ∃ t, exec (.storeWrite f q env) s = .next t
      ∧ t.fls.pending = s.fls.pending ++ [waitingWrite s (chargedCmd s f q d env) (writeSource s d).1]
      ∧ (t.cmd s.nextId).isSome = true ∧ t.host = s.host ∧ t.hbm = s.hbm := by
  have hu := h.underway.charge env.charge
  have huntouched := untouched_charged s f q d env
  obtain ⟨hheld, hfls, hmedium⟩ := writeSource_held (chargedState s f q d env) d
  have hbytes : (writeSource (chargedState s f q d env) d).1 = (writeSource s d).1 := by
    rw [writeSource_bytes, writeSource_bytes, show (chargedState s f q d env).host = s.host from hu.same.host,
      partRead_congr huntouched.parts huntouched.hbm]
  have hlen : ((writeSource (chargedState s f q d env) d).1.isEmpty = true) ↔ leAt d 56 8 = 0 := by
    rw [List.isEmpty_iff_length_eq_zero, writeSource_length]
  have hact : (!bitOf (leAt d 32 1) 0 && !bitOf (leAt d 32 1) 1 && (writeSource (chargedState s f q d env) d).1.isEmpty) = false := by
    refine Bool.eq_false_iff.mpr fun hnothing => ?_
    rw [Bool.and_eq_true_iff, Bool.and_eq_true_iff, Bool.not_eq_true', Bool.not_eq_true', hlen] at hnothing
    obtain ⟨⟨hcreate, hseal⟩, hnone⟩ := hnothing
    rcases hdoes with h0 | h1 | hsome
    · rw [hcreate] at h0; exact Bool.noConfusion h0
    · rw [hseal] at h1; exact Bool.noConfusion h1
    · exact hsome hnone
  have hwaits := pendWrite_held (s := (writeSource (chargedState s f q d env) d).2) (c := chargedCmd s f q d env)
    (bs := (writeSource (chargedState s f q d env) d).1) hact env
  have hexec : exec (.storeWrite f q env) s = .next (runStoreWrite.pendWrite (writeSource (chargedState s f q d env) d).2
      (chargedCmd s f q d env) (stObject d) (bitOf (leAt d 32 1) 0) (writeSource (chargedState s f q d env) d).1
      (bitOf (leAt d 32 1) 1) env) :=
    (exec_storeWrite_of_runs h env).trans (congrArg Host.Outcome.next (runStoreWrite_of_clean hst henv))
  rw [hbytes] at hexec
  rw [waitingWrite_congr (hfls.trans huntouched.fls) (hmedium.trans huntouched.medium), hbytes, hfls, huntouched.fls] at hwaits
  simp only [State.held, Prod.mk.injEq] at hwaits hheld
  obtain ⟨hpending, hcmds, hhost, hhbm⟩ := hwaits
  obtain ⟨-, hcmds', hhost', hhbm'⟩ := hheld
  refine ⟨_, hexec, hpending, ?_, hhost.trans (hhost'.trans hu.same.host), hhbm.trans (hhbm'.trans huntouched.hbm)⟩
  have hfound : (chargedState s f q d env).cmd s.nextId = some (chargedCmd s f q d env) := hu.found
  exact Option.isSome_iff_exists.mpr ⟨_, (State.cmd_congr (hcmds.trans hcmds') s.nextId).trans hfound⟩

/-! STORE_DELETE. -/

/-- The delete that command c asks for, as it waits for the journal. -/
def waitingDelete (c : Cmd) : StoreOp :=
  { object := stObject c.desc, create := false, bytes := [], seals := false, deletes := true, owner := c.fn, cmd := c.id }

theorem runStoreDelete_of_seen {s : State} {c : Cmd} (hon : s.fls.online = true) (hnamed : stObject c.desc ≠ 0)
    (hplain : systemObject (stObject c.desc) = false) {b : Obj} (hb : writesObject s (stObject c.desc) = some b)
    (hsees : seesObject c.fn (stObject c.desc) b = true) (env : Env) : runStoreDelete s c env =
      { (chargeCmd s c env.charge).1 with fls := { (chargeCmd s c env.charge).1.fls with
        pending := (chargeCmd s c env.charge).1.fls.pending ++ [waitingDelete c] } } := by
  simp only [runStoreDelete, hon, hnamed, hplain, hb, hsees, Bool.not_true, Bool.false_eq_true, if_false, waitingDelete]

/-- The clause of a STORE_DELETE. -/
theorem storeDelete_waits (h : Runs 0x0082 s f q d) (hon : s.fls.online = true) (hnamed : stObject d ≠ 0)
    (hplain : systemObject (stObject d) = false) {b : Obj} (hb : writesObject s (stObject d) = some b)
    (hsees : seesObject f (stObject d) b = true) (env : Env) :
    ∃ t, exec (.storeDelete f q env) s = .next t ∧ t.fls.pending = s.fls.pending ++ [waitingDelete (runningCmd s f q d)]
      ∧ (t.cmd s.nextId).isSome = true ∧ t.medium = s.medium ∧ t.host = s.host ∧ t.hbm = s.hbm := by
  have hu := h.underway.charge env.charge
  have hstart := untouched_started s f q d
  have huntouched := untouched_charged s f q d env
  have hrun := runStoreDelete_of_seen (s := startedState s f q d) (c := runningCmd s f q d) (by rw [hstart.fls]; exact hon)
    hnamed hplain ((writesObject_congr hstart.fls hstart.medium _).trans hb) hsees env
  refine ⟨_, (exec_storeDelete_of_runs h env).trans (congrArg Host.Outcome.next hrun), ?_,
    Option.isSome_iff_exists.mpr ⟨_, hu.found⟩, huntouched.medium, hu.same.host, huntouched.hbm⟩
  exact congrArg (·.pending ++ [waitingDelete (runningCmd s f q d)]) huntouched.fls

end Started

end Sys2Proof.Machine
end

section
/-! The journal and the patrol of the flash store (16 R352, R359, R360). -/

namespace Sys2Proof.Machine

/-! A command that completes with ST_OK writes its entry; of the store it settles the object it wrote (16 R358). -/

/-- An event that the store does not log leaves the medium. -/
theorem raiseAs_unlogged {s : State} {e : Event} (h : loggedToStore e.code = false) : (raiseAs s e).medium = s.medium := by
  rw [raiseAs, if_neg (by rw [h, Bool.false_and]; exact Bool.false_ne_true)]

theorem writeEntry_keeps_medium (s : State) (c : Cmd) (status retry : Nat) : (writeEntry s c status retry).medium = s.medium := by
  unfold writeEntry
  extract_lets r a tail' due ask r' s1
  have hs1 : s1.medium = s.medium := by rw [State.setCq_medium, hostWrite_medium]
  clear_value s1
  split
  · split
    · rw [raiseVector_medium, hs1]
    · exact hs1
  · rw [raiseRingError, raiseAs_unlogged (show loggedToStore evRingError = false by decide), State.setCq_medium]

theorem closeCmd_settles (s : State) (c : Cmd) (status retry : Nat) :
    (closeCmd s c status retry).medium = (settleObject s c status).medium := by
  unfold closeCmd
  dsimp only
  split
  · rw [State.setFn_medium, writeEntry_keeps_medium]
  · rw [writeEntry_keeps_medium]

theorem finish_ok_medium (s : State) (c : Cmd) : (finish s c stOk).medium = (settleObject s c stOk).medium := by
  rw [finish, finishWith, finishN_succ]
  split
  · rw [settleChain_frame, closeCmd_settles]
  · rw [if_pos rfl]
    exact (congrArg State.medium (settleChain_frame _ _ _)).trans (closeCmd_settles s c stOk 0)

/-- The settling of a command's object leaves every visible object, and gives out no serial. -/
theorem settleObject_visible {s : State} {k : Nat} {b : Obj} (hb : Tab.find s.medium.objects k = some b)
    (hvisible : b.visible = true) (c : Cmd) (status : Nat) :
    Tab.find (settleObject s c status).medium.objects k = some b
      ∧ (settleObject s c status).medium.nextSerial = s.medium.nextSerial := by
  unfold settleObject
  split
  case h_1 => exact ⟨hb, rfl⟩
  case h_2 o _ =>
    split
    case h_2 => exact ⟨hb, rfl⟩
    case h_1 w hw =>
      split
      · exact ⟨hb, rfl⟩
      · rename_i hhidden
        have hne : k ≠ o := by
          rintro rfl
          rw [hb, Option.some.injEq] at hw
          rw [← hw, hvisible, Bool.true_or] at hhidden
          exact hhidden rfl
        split
        · exact ⟨(Tab.find_put_ne _ _ hne).trans hb, rfl⟩
        · exact ⟨(Tab.find_del_ne _ hne).trans hb, rfl⟩

theorem finishId_ok_visible {s : State} {k : Nat} {b : Obj} (hb : Tab.find s.medium.objects k = some b)
    (hvisible : b.visible = true) (i : Nat) :
    Tab.find (finishId s i stOk).medium.objects k = some b
      ∧ (finishId s i stOk).medium.nextSerial = s.medium.nextSerial := by
  unfold finishId
  split
  · rw [finish_ok_medium]
    exact settleObject_visible hb hvisible _ stOk
  · exact ⟨hb, rfl⟩

/-! JOURNAL_PROGRAM (16 R352). -/

/-- The machine in which what waited is durable, its commands still open. -/
def programmed (s : State) : State :=
  { s with
    medium := s.fls.pending.foldl programOp s.medium
    fls := { s.fls with
      pending := [], writeBytes := satAdd s.fls.writeBytes (s.fls.pending.map fun p => p.bytes.length).sum } }

/-- The machine in which its commands have completed too. -/
def journaled (s : State) : State := s.fls.pending.foldl (fun s p => finishId s p.cmd stOk) (programmed s)

theorem exec_journalProgram_eq (s : State) : exec .journalProgram s = .next (journaled s) := rfl

theorem journaled_fls (s : State) : (journaled s).fls = (programmed s).fls :=
  foldl_keeps (g := State.fls) (fun t (p : StoreOp) => finishId_fls (s := t) p.cmd stOk) _ _

theorem journaled_hbm (s : State) : (journaled s).hbm = s.hbm :=
  foldl_keeps (g := State.hbm) (fun t (p : StoreOp) => finishId_hbm (s := t) p.cmd stOk) _ _

/-- Every command that waited has completed. -/
theorem journaled_cmd {s : State} {p : StoreOp} (hp : p ∈ s.fls.pending) : (journaled s).cmd p.cmd = none :=
  foldl_establishes (f := fun (s : State) (p : StoreOp) => finishId s p.cmd stOk) (I := fun _ => True)
    (P := fun t p => t.cmd p.cmd = none) (fun _ _ _ => trivial) (fun t p _ => finishId_cmd_self t p.cmd stOk)
    (fun _ r _ h => finishId_cmd_of_none h r.cmd stOk) hp trivial

/-- A write to a new object makes it as the write gave it, under the next serial. -/
theorem journaled_new_object {s : State} {p : StoreOp} (hone : s.fls.pending = [p]) (hwrites : p.deletes = false)
    (hnew : Tab.find s.medium.objects p.object = none) :
    Tab.find (journaled s).medium.objects p.object
        = some { bytes := p.bytes, owner := p.owner, serial := s.medium.nextSerial, isSealed := p.seals }
      ∧ (journaled s).medium.nextSerial = s.medium.nextSerial + 1 := by
  have hmedium : (programmed s).medium = programOp s.medium p := by rw [programmed, hone]; rfl
  have hop : programOp s.medium p = { s.medium with
      nextSerial := s.medium.nextSerial + 1
      objects := Tab.put s.medium.objects p.object
        { bytes := p.bytes, owner := p.owner, serial := s.medium.nextSerial, isSealed := p.seals } } := by
    rw [programOp, if_neg (by rw [hwrites]; decide), hnew]
  have hfind : Tab.find (programmed s).medium.objects p.object
      = some { bytes := p.bytes, owner := p.owner, serial := s.medium.nextSerial, isSealed := p.seals } := by
    rw [hmedium, hop, Tab.find_put_self]
  have hends := finishId_ok_visible hfind rfl p.cmd
  rw [show journaled s = finishId (programmed s) p.cmd stOk by rw [journaled, hone]; rfl]
  exact ⟨hends.1, hends.2.trans (by rw [hmedium, hop])⟩

/-! FLASH_PATROL (16 R359, R360). -/

/-- What a patrol step makes of the machine that has read its codewords. -/
def patrolled (s : State) (n : Nat) (done : Bool) : State :=
  let m := min n s.medium.refreshDue.length
  { s with
    medium := { s.medium with refreshDue := if m = 0 then s.medium.refreshDue else [] }
    fls := { s.fls with refreshed := satAdd s.fls.refreshed m, patrol := satAdd s.fls.patrol (b2n done) } }

theorem exec_flashPatrol_one {s : State} (halive : alive s = true) (hon : s.fls.online = true) (hpatrol : s.fls.patrolEn = true)
    (o : Nat) (r : CodewordRead) (n good : Nat) (done : Bool) :
    exec (.flashPatrol [(o, r)] n ⟨[], good, false⟩ done) s = .next (patrolled (readCodeword s o r) n done) := by
  have hguard : (alive s && s.fls.online && s.fls.patrolEn) = true := by rw [halive, hon, hpatrol]; rfl
  exact congrArg Host.Outcome.next (if_pos hguard)

/-- The machine in which the decoding of a codeword has been counted. -/
def codewordCounted (s : State) (o : Nat) (r : CodewordRead) : State :=
  { s with
    medium := { s.medium with refreshDue := if refreshWanted r then s.medium.refreshDue ++ [(o, r.unit)] else s.medium.refreshDue }
    fls := { s.fls with cwCorrected := satAdd s.fls.cwCorrected (if decodeCodeword r = .hard then 1 else 0)
                        retryReads := satAdd s.fls.retryReads (if decodeCodeword r = .reread then 1 else 0)
                        softDecodes := satAdd s.fls.softDecodes (if decodeCodeword r = .soft then 1 else 0) } }

theorem readCodeword_eq (s : State) (o : Nat) (r : CodewordRead) : readCodeword s o r =
    if decodeCodeword r = .lost then flashUe (codewordCounted s o r) o (4096 * r.unit) else codewordCounted s o r := by
  simp only [readCodeword, codewordCounted, b2n, beq_iff_eq]

/-- The clause of a codeword that decodes. -/
theorem patrol_decodes {s : State} {r : CodewordRead} (halive : alive s = true) (hon : s.fls.online = true)
    (hpatrol : s.fls.patrolEn = true) (hdecodes : decodeCodeword r ≠ .lost) (o n good : Nat) (done : Bool) :
    exec (.flashPatrol [(o, r)] n ⟨[], good, false⟩ done) s = .next (patrolled (codewordCounted s o r) n done) := by
  rw [exec_flashPatrol_one halive hon hpatrol, readCodeword_eq, if_neg hdecodes]

/-- An event that enters the store's log leaves no object less damaged. -/
theorem raiseEvent_damaged {s : State} {k : Nat} {b : Obj} (hb : Tab.find s.medium.objects k = some b)
    (hdamaged : b.damaged = true) (code source part : Nat) (detail : List Byte) :
    ∃ b', Tab.find (raiseEvent s code source part detail).medium.objects k = some b' ∧ b'.damaged = true := by
  unfold raiseEvent raiseAs
  extract_lets e s1 log fresh
  split
  · by_cases hk : k = eventLogObject
    · subst hk
      refine ⟨_, Tab.find_put_self _ _ _, ?_⟩
      simp only [log, Tab.get, hb, Option.getD_some, hdamaged]
    · exact ⟨b, (Tab.find_put_ne _ _ hk).trans hb, hdamaged⟩
  · exact ⟨b, hb, hdamaged⟩

/-- What a lost codeword leaves: it is counted and reported, and its object is damaged. -/
theorem flashUe_effect (s : State) (o off : Nat) :
    (flashUe s o off).fls.ue = satAdd s.fls.ue 1
      ∧ (∀ b, Tab.find s.medium.objects o = some b →
          ∃ b', Tab.find (flashUe s o off).medium.objects o = some b' ∧ b'.damaged = true)
      ∧ (∃ v, (flashUe s o off).evt.raised = s.evt.raised ++ [v] ∧ v.code = evStoreUe)
      ∧ (flashUe s o off).hbm = s.hbm ∧ (flashUe s o off).cmds = s.cmds := by
  unfold flashUe
  extract_lets objects
  refine ⟨by rw [raiseEvent_fls], fun b hb => ?_, ⟨_, raiseEvent_raised _ _ _ _ _, rfl⟩, by rw [raiseEvent_hbm],
    by rw [raiseEvent_cmds]⟩
  have hdamaged : Tab.find objects o = some { b with damaged := true } := by
    simp only [objects, hb, Tab.find_put_self]
  exact raiseEvent_damaged hdamaged rfl _ _ _ _

/-- The clause of a codeword that is lost. -/
theorem patrol_loses {s : State} {r : CodewordRead} (halive : alive s = true) (hon : s.fls.online = true)
    (hpatrol : s.fls.patrolEn = true) (hlost : decodeCodeword r = .lost) (o n good : Nat) (done : Bool) :
    ∃ t, exec (.flashPatrol [(o, r)] n ⟨[], good, false⟩ done) s = .next t
      ∧ t.fls.ue = satAdd s.fls.ue 1 ∧ (∀ b, Tab.find s.medium.objects o = some b →
          ∃ b', Tab.find t.medium.objects o = some b' ∧ b'.damaged = true)
      ∧ (∃ v, t.evt.raised = s.evt.raised ++ [v] ∧ v.code = evStoreUe) ∧ t.hbm = s.hbm ∧ t.cmds = s.cmds := by
  have hue := flashUe_effect (codewordCounted s o r) o (4096 * r.unit)
  refine ⟨_, exec_flashPatrol_one halive hon hpatrol o r n good done, ?_⟩
  rw [readCodeword_eq, if_pos hlost]
  generalize flashUe (codewordCounted s o r) o (4096 * r.unit) = t at hue
  exact hue

end Sys2Proof.Machine
end

section
/-! Reads and lists of the flash store (16 R355, R356), and the clauses about the store together. -/

namespace Sys2Proof.Machine

/-! Bytes that go to host or to stacked memory. -/

theorem hbmPut_medium (s : State) (p x : Nat) (bs : List Byte) : (hbmPut s p x bs).medium = s.medium := by
  have hcount : (countWritten s p x bs.length).medium = s.medium := by
    unfold countWritten
    dsimp only
    rw [foldl_keeps (g := State.medium) fun s t => by rw [writeCopy_frame], addWritten_frame]
  unfold hbmPut partWrite
  split <;> exact hcount

/-- The bytes bs delivered where STORE_READ d asks. -/
def putRead (s : State) (d bs : List Byte) : State :=
  if bitOf (leAt d 32 1) 0 then hbmPut s (dPart d) (leAt d 64 8) bs else hostWrite s (leAt d 64 8) bs

section PutRead
variable (s : State) (d bs : List Byte)

theorem putRead_unmoved : (putRead s d bs).unmoved = s.unmoved := by
  unfold putRead
  split
  · exact hbmPut_unmoved s bs _ _
  · rfl

theorem putRead_medium : (putRead s d bs).medium = s.medium := by
  unfold putRead
  split
  · exact hbmPut_medium s _ _ bs
  · rfl

theorem putRead_host_of_hbm (h : bitOf (leAt d 32 1) 0 = true) : (putRead s d bs).host = s.host := by
  rw [putRead, if_pos h]
  exact congrArg Prod.snd (hbmPut_outside s (dPart d) (leAt d 64 8) bs)

theorem putRead_hbm_of_hbm (h : bitOf (leAt d 32 1) 0 = true) {r : Partition} (hr : Tab.find s.parts (dPart d) = some r) :
    (putRead s d bs).hbm = writeExt s.hbm r.extents (leAt d 64 8) bs := by
  rw [putRead, if_pos h]
  exact hbmPut_hbm s bs hr

theorem putRead_of_host (h : bitOf (leAt d 32 1) 0 = false) : putRead s d bs = hostWrite s (leAt d 64 8) bs :=
  if_neg (Bool.eq_false_iff.mp h)

end PutRead

/-! STORE_READ. -/

theorem readsObject_congr {s t : State} (hfls : t.fls = s.fls) (hmedium : t.medium = s.medium) (o : Nat) :
    readsObject t o = readsObject s o := by
  rw [readsObject, readsObject, hfls, hmedium]

/-- The bytes of object b that STORE_READ d asks for. -/
def readBytes (d : List Byte) (b : Obj) : List Byte := slice b.bytes (leAt d 48 8) (leAt d 56 8)

theorem readBytes_length (d : List Byte) (b : Obj) : (readBytes d b).length = leAt d 56 8 := length_slice _ _ _

/-- The machine in which the bytes read have been counted. -/
def readCounted (s : State) (d : List Byte) : State :=
  { s with fls := { s.fls with readBytes := satAdd s.fls.readBytes (leAt d 56 8) } }

/-- A read whose checks pass, when nothing outside fails. -/
theorem runStoreRead_of_clean {s : State} {c : Cmd} {env : Env} (h : storeReadStatus s c = none) {b : Obj}
    (hb : readsObject s (stObject c.desc) = some b) (henv : CleanEnv env) : runStoreRead s c env =
      finish (putRead (readCounted (chargeCmd s c env.charge).1 c.desc) c.desc (readBytes c.desc b)) (chargeCmd s c env.charge).2
        stOk := by
  have hdelivers : ∀ t : State, readDelivers t c.desc b env = (readCounted t c.desc, readBytes c.desc b, stOk) := fun t => by
    unfold readDelivers
    rw [henv.flash]
    rfl
  unfold runStoreRead
  rw [h, hb]
  dsimp only
  rw [hdelivers]
  rfl

section Read
variable {s : State} {f q : Nat} {d : List Byte} {env : Env}

/-- The machine that has delivered the bytes of object b. -/
def readState (s : State) (f q : Nat) (d : List Byte) (env : Env) (b : Obj) : State :=
  putRead (readCounted (chargedState s f q d env) d) d (readBytes d b)

theorem readCounted_parts (s : State) (f q : Nat) (d : List Byte) (env : Env) : (readCounted (chargedState s f q d env) d).parts = s.parts :=
  (untouched_charged s f q d env).parts

theorem readCounted_hbm (s : State) (f q : Nat) (d : List Byte) (env : Env) : (readCounted (chargedState s f q d env) d).hbm = s.hbm :=
  (untouched_charged s f q d env).hbm

variable (h : Runs 0x0080 s f q d)
include h

theorem exec_storeRead_of_clean (henv : CleanEnv env) (hst : storeReadStatus (startedState s f q d) (runningCmd s f q d) = none)
    {b : Obj} (hb : readsObject s (stObject d) = some b) :
    exec (.storeRead f q env) s = .next (finish (readState s f q d env b) (chargedCmd s f q d env) stOk) := by
  have hstart := untouched_started s f q d
  have hrun := runStoreRead_of_clean (s := startedState s f q d) (c := runningCmd s f q d) hst
    ((readsObject_congr hstart.fls hstart.medium _).trans hb) henv
  have htaken : exec (.storeRead f q env) s = .next (runStoreRead (startedState s f q d) (runningCmd s f q d) env) :=
    congrArg Host.Outcome.next (takeRow_of_startsNow h.toStartsNow (by simp [twoPart, h.opcode_eq]) env noEarly runStoreRead)
  exact htaken.trans (congrArg Host.Outcome.next hrun)

theorem underway_readState (env : Env) (b : Obj) :
    Underway { s with host := (readState s f q d env b).host, hbm := (readState s f q d env b).hbm } f q d
      (readState s f q d env b) (chargedCmd s f q d env) :=
  (h.underway.charge env.charge).moved ((putRead_unmoved _ _ _).trans rfl)

theorem readCounted_host (env : Env) : (readCounted (chargedState s f q d env) d).host = s.host :=
  (h.underway.charge env.charge).same.host

/-- What a read leaves whatever its destination. -/
theorem readState_completes (env : Env) (b : Obj) :
    CompletesWith s (finish (readState s f q d env b) (chargedCmd s f q d env) stOk) f q d stOk
      ∧ (finish (readState s f q d env b) (chargedCmd s f q d env) stOk).medium = s.medium := by
  have hu := underway_readState h env b
  have hfits : EntryFits { s with host := (readState s f q d env b).host, hbm := (readState s f q d env b).hbm } f q := h.fits
  have hobj : objectWritten d = none := by simp [objectWritten, h.opcode_eq]
  refine ⟨hu.completesWith hfits (by decide), ?_⟩
  rw [(hu.finish_quiet hfits hobj stOk).2, readState, putRead_medium]
  exact (untouched_charged s f q d env).medium

/-- A read into the host's memory writes its destination and its entry. -/
theorem readState_to_host (env : Env) (b : Obj) (hflag : bitOf (leAt d 32 1) 0 = false) :
    let t := finish (readState s f q d env b) (chargedCmd s f q d env) stOk
    t.hbm = s.hbm
      ∧ (ApartFromEntry s f q (leAt d 64 8) (leAt d 56 8) → Mem.readN t.host (leAt d 64 8) (leAt d 56 8) = readBytes d b)
      ∧ ∀ x, NotInEntry s f q x → (x < leAt d 64 8 ∨ leAt d 64 8 + leAt d 56 8 ≤ x) → Mem.read t.host x = Mem.read s.host x := by
  have hu := underway_readState h env b
  have hfits : EntryFits { s with host := (readState s f q d env b).host, hbm := (readState s f q d env b).hbm } f q := h.fits
  have hhost : (readState s f q d env b).host = Mem.writeN s.host (leAt d 64 8) (readBytes d b) := by
    rw [readState, putRead_of_host _ _ _ hflag, hostWrite_host, readCounted_host h]
  obtain ⟨hbytes, hothers⟩ := Mem.written_of_length s.host (leAt d 64 8) (readBytes_length d b)
  refine ⟨?_, fun hapart => ?_, fun x hx hout => ?_⟩
  · rw [finish_hbm, readState, putRead_of_host _ _ _ hflag, hostWrite_hbm, readCounted_hbm]
  · rw [hu.finish_readN hfits stOk hapart, hhost, hbytes]
  · rw [hu.finish_read hfits stOk hx, hhost, hothers x hout]

/-- A read into stacked memory writes its destination, by the partition's own map. -/
theorem readState_to_hbm (env : Env) (b : Obj) (hflag : bitOf (leAt d 32 1) 0 = true) :
    let t := finish (readState s f q d env b) (chargedCmd s f q d env) stOk
    (∀ x, NotInEntry s f q x → Mem.read t.host x = Mem.read s.host x)
      ∧ ∀ p, Tab.find s.parts (dPart d) = some p →
        (Backed p.extents (leAt d 64 8) (leAt d 56 8) → partRead t (dPart d) (leAt d 64 8) (leAt d 56 8) = readBytes d b)
        ∧ ∀ y, (∀ i < leAt d 56 8, mapAddr p.extents (leAt d 64 8 + i) ≠ some y) → Mem.read t.hbm y = Mem.read s.hbm y := by
  have hu := underway_readState h env b
  have hfits : EntryFits { s with host := (readState s f q d env b).host, hbm := (readState s f q d env b).hbm } f q := h.fits
  have hlen := readBytes_length d b
  refine ⟨fun x hx => ?_, fun p hp => ?_⟩
  · rw [hu.finish_read hfits stOk hx, readState, putRead_host_of_hbm _ _ _ hflag, readCounted_host h]
  · have hhbm : (readState s f q d env b).hbm = writeExt s.hbm p.extents (leAt d 64 8) (readBytes d b) := by
      rw [readState, putRead_hbm_of_hbm _ _ _ hflag ((congrArg (Tab.find · (dPart d)) (readCounted_parts s f q d env)).trans hp),
        readCounted_hbm]
    have hparts : (readState s f q d env b).parts = s.parts :=
      (State.parts_of_unmoved (putRead_unmoved _ _ _)).trans (readCounted_parts s f q d env)
    refine ⟨fun hback => ?_, fun y hy => ?_⟩
    · have hwritten := partRead_of_written (t := finish (readState s f q d env b) (chargedCmd s f q d env) stOk) (p := dPart d)
        (by rw [finish_parts, hparts]; exact hp) ((finish_hbm _ _ _).trans hhbm) (by rw [hlen]; exact hback)
      rwa [hlen] at hwritten
    · rw [finish_hbm, hhbm]
      exact read_writeExt_outside _ (by rw [hlen]; exact hy)

end Read

/-! STORE_LIST. -/

/-- The bytes of a list of the objects all, from object first on, at most n of them: a header and a record for each. -/
def listHead (all : List (Nat × Obj)) (first n : Nat) : List Byte :=
  toLe 4 ((all.filter fun e => first ≤ e.1).take n).length ++ ([0, 0, 0, 0] : List Byte)
    ++ toLe 8 (match ((all.filter fun e => first ≤ e.1).drop n).head? with | some e => e.1 | none => 0)

@[inherit_doc listHead]
def storeListBytes (all : List (Nat × Obj)) (first n : Nat) : List Byte :=
  listHead all first n ++ toLe 4 all.length ++ List.replicate 12 0
    ++ ((all.filter fun e => first ≤ e.1).take n).flatMap fun e => objectRecord e.1 e.2

theorem listHead_length (all : List (Nat × Obj)) (first n : Nat) : (listHead all first n).length = 16 := by
  simp [listHead, length_toLe]

/-- Bytes 16 to 19 of a list hold the number of objects. -/
theorem storeListBytes_count (all : List (Nat × Obj)) (first n : Nat) : ((storeListBytes all first n).drop 16).take 4 = toLe 4 all.length := by
  have hhead := listHead_length all first n
  rw [storeListBytes, List.append_assoc, List.append_assoc, ← hhead, List.drop_left, List.take_left' (length_toLe 4 _)]

theorem length_storeListBytes_ge (all : List (Nat × Obj)) (first n : Nat) : 16 + 4 ≤ (storeListBytes all first n).length := by
  have hhead := listHead_length all first n
  have hcount := length_toLe 4 all.length
  simp only [storeListBytes, List.length_append, hhead, hcount]
  omega

/-- A list whose checks pass. -/
theorem runStoreList_of_passed {s : State} {c : Cmd} (hon : s.fls.online = true) (hsome : leAt c.desc 48 4 ≠ 0)
    (halign : leAt c.desc 56 8 % 64 = 0)
    (hwindow : inWindows s c.fn (leAt c.desc 56 8) (32 + 32 * leAt c.desc 48 4) = true) (env : Env) : runStoreList s c env =
      finish (hostWrite (chargeCmd s c env.charge).1 (leAt c.desc 56 8)
        (storeListBytes (visibleObjects s c.fn) (leAt c.desc 40 8) (leAt c.desc 48 4))) (chargeCmd s c env.charge).2 stOk := by
  have haligned : ¬ (leAt c.desc 56 8 % 64 != 0) = true := by simp [halign]
  unfold runStoreList
  dsimp only
  rw [if_neg (by rw [hon]; decide), if_neg hsome, if_neg haligned, if_neg (by rw [hwindow]; decide)]
  rfl

/-- The machine that has written the list. -/
def listState (s : State) (f q : Nat) (d : List Byte) (env : Env) : State :=
  hostWrite (chargedState s f q d env) (leAt d 56 8) (storeListBytes (visibleObjects s f) (leAt d 40 8) (leAt d 48 4))

section List
variable {s : State} {f q : Nat} {d : List Byte} {env : Env} (h : Runs 0x0083 s f q d) (hon : s.fls.online = true)
  (hsome : leAt d 48 4 ≠ 0) (halign : leAt d 56 8 % 64 = 0) (hwindow : inWindows s f (leAt d 56 8) (32 + 32 * leAt d 48 4) = true)
include h

include hon hsome halign hwindow in
theorem exec_storeList_of_passed (env : Env) :
    exec (.storeList f q env) s = .next (finish (listState s f q d env) (chargedCmd s f q d env) stOk) := by
  have hstart := untouched_started s f q d
  have hrun := runStoreList_of_passed (s := startedState s f q d) (c := runningCmd s f q d) (by rw [hstart.fls]; exact hon) hsome
    halign ((h.underway.same.windows _ _).trans hwindow) env
  have hobjects : visibleObjects (startedState s f q d) (runningCmd s f q d).fn = visibleObjects s f := by
    rw [visibleObjects, hstart.medium]
    rfl
  have htaken : exec (.storeList f q env) s = .next (runStoreList (startedState s f q d) (runningCmd s f q d) env) :=
    congrArg Host.Outcome.next (takeRow_of_startsNow h.toStartsNow (by simp [twoPart, h.opcode_eq]) env noEarly runStoreList)
  rw [hobjects] at hrun
  exact htaken.trans (congrArg Host.Outcome.next hrun)

/-- The clause of a STORE_LIST, of the machine that its completion leaves. -/
theorem listState_counts (hapart : ApartFromEntry s f q (leAt d 56 8) (32 + 32 * leAt d 48 4))
    (hmany : (visibleObjects s f).length < 2 ^ 32) (env : Env) :
    let t := finish (listState s f q d env) (chargedCmd s f q d env) stOk
    CompletesWith s t f q d stOk ∧ leNat (Mem.readN t.host (leAt d 56 8 + 16) 4) = (visibleObjects s f).length
      ∧ t.hbm = s.hbm ∧ t.medium = s.medium := by
  have huntouched := untouched_charged s f q d env
  have hu : Underway { s with host := (listState s f q d env).host, hbm := (listState s f q d env).hbm } f q d
      (listState s f q d env) (chargedCmd s f q d env) := (h.underway.charge env.charge).moved rfl
  have hfits : EntryFits { s with host := (listState s f q d env).host, hbm := (listState s f q d env).hbm } f q := h.fits
  have hobj : objectWritten d = none := by simp [objectWritten, h.opcode_eq]
  have hinside : ApartFromEntry s f q (leAt d 56 8 + 16) 4 := by
    unfold ApartFromEntry at hapart ⊢
    omega
  refine ⟨hu.completesWith hfits (by decide), ?_, ?_, ?_⟩
  · rw [hu.finish_readN hfits stOk hinside, listState, hostWrite_host,
      Mem.readN_writeN_part _ _ _ _ _ (length_storeListBytes_ge _ _ _), storeListBytes_count]
    exact leNat_toLe (n := 4) hmany
  · rw [finish_hbm, listState, hostWrite_hbm, huntouched.hbm]
  · rw [(hu.finish_quiet hfits hobj stOk).2, listState, hostWrite_medium, huntouched.medium]

end List

/-- Settles O58. That a refresh of m blocks empties the whole list of what is due is the model's reading (log 184). -/
theorem storeJournalsAndReads : Obligations.StoreJournalsAndReads := by
  intro s f q d env n good o r done u c len flag
  refine ⟨fun hrun henv hst hdoes => ?write, fun hrun hon hnamed hplain b hb hsees => ?delete, ?journal,
    fun hrun henv hst b hb => ?read, fun hrun hon hsome halign hwindow hapart hmany => ?list,
    fun halive hon hpatrol => ⟨fun hdecodes => ?decodes, fun hlost => ?loses⟩⟩
  case write =>
    obtain ⟨t, hexec, hpending, hcmd, hhost, hhbm⟩ := storeWrite_waits hrun henv hst hdoes
    refine ⟨t, hexec, hpending.trans ?_, hcmd, hhost, hhbm⟩
    rw [writeSource_bytes]
    rfl
  case delete => exact storeDelete_waits hrun hon hnamed hplain hb hsees env
  case journal =>
    refine ⟨journaled s, exec_journalProgram_eq s, congrArg Fls.pending (journaled_fls s), fun p hp => journaled_cmd hp,
      journaled_hbm s, fun p hone hwrites hnew => journaled_new_object hone hwrites hnew⟩
  case read =>
    obtain ⟨hcompletes, hmedium⟩ := readState_completes hrun env b
    exact ⟨_, exec_storeRead_of_clean hrun henv hst hb, hcompletes, hmedium, readState_to_host hrun env b,
      readState_to_hbm hrun env b⟩
  case list => exact ⟨_, exec_storeList_of_passed hrun hon hsome halign hwindow env, listState_counts hrun hapart hmany env⟩
  case decodes =>
    rw [patrol_decodes halive hon hpatrol hdecodes]
    rfl
  case loses => exact patrol_loses halive hon hpatrol hlost o n good done

end Sys2Proof.Machine
end
